-- ==== Sys2Proof/Word.lean ====
section
/-! DEFINITION. The word types of the OUV1024 (spec/00 R8, spec/03 R67) and their plainest arithmetic. -/

namespace Sys2Proof

/-- A byte of memory. -/
abbrev Byte := BitVec 8
/-- A word of the host port and of a register (R8). -/
abbrev W32 := BitVec 32
/-- A data word, Q8.31 (R69). -/
abbrev W40 := BitVec 40
/-- A pointer, modifier or base register (R67). -/
abbrev W36 := BitVec 36
/-- A circular length (R67). -/
abbrev W24 := BitVec 24
/-- A 64-bit count: a tick number, nanoseconds, an instruction. -/
abbrev W64 := BitVec 64
/-- An accumulator, Q33.62 (R70). -/
abbrev W96 := BitVec 96
/-- A program-memory address (R67). -/
abbrev PAddr := BitVec 13

/-- `n` limited to `m`: what a saturating count holds. -/
def satTo (m n : Nat) : Nat := if n ≤ m then n else m

/-- Quotient rounded up. -/
def ceilDiv (a b : Nat) : Nat := (a + b - 1) / b

/-- The magnitude of an integer. -/
def mag (i : Int) : Nat := i.natAbs

/-- A signed difference of two 32-bit counts (R304). -/
def sdiff32 (a b : W32) : Int := (a - b).toInt

/-- Extension of a 32-bit timestamp against a present 64-bit count (R304). -/
def ext64 (ts : W32) (now : W64) : Int := (now.toNat : Int) + sdiff32 ts (now.setWidth 32)

end Sys2Proof
end

