-- ==== Sys2Proof/Config.lean ====
section
/-! DEFINITION. What the spec leaves open: constants with no body, so that nothing proved can rest on their values. A value
that may differ each time it is drawn is applied to a count of draws (`freeCtr` of a quadrant or of the host domain); one
that depends on operands only is applied to them. Each is named in notes/assumptions. -/

namespace Sys2Proof.Config

/-- What an image's bytes say (R464), whose layout inside header and sections the spec does not give: target, version, key slot,
payload length, start mode (0 STANDBY, 1 RUN, 2 HARDPAN), and its DATA sections: address and bytes. -/
structure ImageView where
  target : Nat
  version : BitVec 16
  key : Fin 4
  length : Nat
  mode : Nat
  sections : List (Nat × List Byte)
  deriving DecidableEq, Repr, Inhabited

/-- What RECORD_WRITE takes from the staging buffer (R458), whose layout the spec does not give: ISZ in MB, and the board record. -/
structure RecordView where
  isz : Nat
  board : List Host.Cell
  deriving DecidableEq, Repr, Inhabited

/-- The bytes of the boot ROM (R402 gives its place and not its contents; log 3). -/
opaque bootRom : Nat → Byte
/-- Where inside its error bound (R132) the result of `ex2` falls, by operand (log 6). -/
opaque ex2Err : W40 → Nat
/-- Where inside its error bound (R137) the result of `lg2` falls, by operand (log 6). -/
opaque lg2Err : W96 → Nat
/-- A free 32-bit value, by number of draw (log 2). -/
opaque free32 : Nat → W32
/-- The progress of SCOUR (R52), by the time counter's reading since SCOUR began (log 68). -/
opaque scourProg : Nat → Nat
/-- A sample that a converter gives whose impulse response the spec does not state: a port below Fi (R364) or a stream's rate
matching (R324, R326), by its number, its inputs so far and the draw (log 7). -/
opaque filtered : Nat → List W40 → Nat → W40
/-- A sample of a rate converter (R381) before any fade: the input samples within its reach placed at their times after the input instant, in
ns, newest first (log 7). -/
opaque asrcValue : List (W40 × Int) → W40
/-- How far from the input instant an input sample still enters a rate converter's output, in ns (R380, R381; log 7). -/
opaque asrcReach : Nat
/-- A sample of a decimation chain in ROM mode, whose responses the spec does not state (R388): by its set-up and the bits that its response
spans, newest first (log 7). -/
opaque decValue : List Nat → List Bool → W40
/-- The taps of the fixed half-band stages (R389), by stage and tap, in units of 2 to the power of -`halfFrac` (log 7). -/
opaque halfTap : Nat → Nat → Int
/-- The fraction bits of these taps (log 7). -/
opaque halfFrac : Nat
/-- The two coordinates that the bytes of a key slot hold, whose order the spec does not give (R464; log 10). -/
opaque keyView : List Host.Cell → Nat × Nat
/-- The two numbers that the 64 bytes of a signature hold, whose order the spec does not give (R464; log 10). -/
opaque sigView : List Byte → Nat × Nat
/-- Yeman's public key, in Mladcel's boot ROM (R464; log 10). -/
opaque yemanKey : Nat × Nat
/-- Whether the staging buffer holds a Yeman token for RETURNED, signed for this device's ID, whose form the spec does not give (R468,
R469; log 10). -/
opaque tokenValid : List Host.Cell → Bool
/-- The DPLL's frequency after an accepted reference edge, from the bandwidth in use in millihertz, the last frequency and the
edge's deviation (R287, R289; log 8). -/
opaque loopFreq : Nat → W32 → Int → W32
/-- The starting value of the CRC of a log record (R459 names CRC-16/CCITT and not its starting value; log 11). -/
opaque crc16Start : BitVec 16
/-- What an image's bytes say (log 13). -/
opaque imageView : List Host.Cell → ImageView
/-- What the staging buffer says for RECORD_WRITE (log 13). -/
opaque recordView : List Host.Cell → RecordView
/-- The DRAM data rate that a board record gives (R420, R458; log 13). -/
opaque boardRate : List Host.Cell → BitVec 2
/-- The erase blocks of the fitted flash above those of the smallest, 32 MB (log 14). -/
opaque flashOver : Fin 3585
/-- The erase blocks of the fitted flash: 32 MB to 256 MB in blocks of 64 KB (R458). -/
def flashBlocks : Nat := 512 + flashOver.val
/-- Whether the part is an OUV1024-T: the fuse behind HST_ID.GRADE (R453; log 14). -/
opaque gradeT : Bool
/-- The fuse behind HST_ID.REV (R453; log 14). -/
opaque revision : BitVec 8

end Sys2Proof.Config
end

