-- ==== Sys2Proof/Machine/Regs.lean ====
section
/-! DEFINITION. The registers of the quadrant's register region and of the host domain: their places, their fields, and
for each word its access masks (R11) and reset value (R10), from the field tables of spec/01 to spec/19. An offset of a
quadrant register counts from 0x0_F000_0000; an HST_ or MGT_ register is named by its host byte address (R432). -/

namespace Sys2Proof.Machine

/-- A field of a register: the offset of its word, and its highest and lowest bits (R9). -/
structure Field where
  off : Nat
  hi : Nat
  lo : Nat
  deriving DecidableEq, Repr

/-- The value of a field in a word. -/
def Field.get (f : Field) (w : W32) : Nat := (w.toNat >>> f.lo) % 2 ^ (f.hi - f.lo + 1)

/-- The word with a field replaced (the value cut to the field's width). -/
def Field.put (f : Field) (w : W32) (v : Nat) : W32 :=
  BitVec.ofNat 32 (w.toNat - (f.get w <<< f.lo) + ((v % 2 ^ (f.hi - f.lo + 1)) <<< f.lo))

/-- The largest value a field holds. -/
def Field.max (f : Field) : Nat := 2 ^ (f.hi - f.lo + 1) - 1

/-- The registers at `base + stride * k` for `k` below `count`: which of their bits each access code of R11 covers, and
their reset value. -/
structure RegRow where
  base : Nat
  stride : Nat
  count : Nat
  rw : W32
  w1c : W32
  wo : W32
  rc : W32
  rs : W32
  reset : W32
  deriving DecidableEq, Repr

/-- Whether the row holds the register at an offset. -/
def RegRow.has (r : RegRow) (off : Nat) : Bool :=
  decide (r.base ≤ off) &&
    (if r.stride = 0 then decide (off = r.base)
     else decide ((off - r.base) % r.stride = 0 ∧ (off - r.base) / r.stride < r.count))

namespace Reg

def QCTL_RATE : Nat := 0x100
def QCTL_TICK_LO : Nat := 0x104
def QCTL_TICK_HI : Nat := 0x108
def QCTL_GRID : Nat := 0x10C
def QCTL_GRID_OFS : Nat := 0x110
def QCTL_MODE : Nat := 0x0
def QCTL_CTL : Nat := 0x4
def QCTL_RST_CAUSE : Nat := 0x8
def QCTL_SCOUR : Nat := 0xC
def QCTL_CORE_STAT : Nat := 0xF0000
def QCTL_CORE_COLL : Nat := 0xF0004
def SCH_CTL : Nat := 0x2000
def SCH_STAT : Nat := 0x2004
def SCH_BP : Nat := 0x2008
def SCH_HELDCNT : Nat := 0x200C
def SCH_LVL_LIM (n : Nat) : Nat := 0x2020 + 4 * n
def SCH_LVL_DEP (n : Nat) : Nat := 0x2040 + 4 * n
def SCH_BUSY (n : Nat) : Nat := 0x2100 + 4 * n
def SCH_BUSYPK (n : Nat) : Nat := 0x2140 + 4 * n
def SCH_HIST (n : Nat) : Nat := 0x2200 + 4 * n
def SCH_KEY_LO : Nat := 0x2300
def SCH_KEY_HI : Nat := 0x2304
def SCH_ARM : Nat := 0x2308
def SCH_ARM_STAT : Nat := 0x230C
def SCH_MBOX : Nat := 0x2310
def SCH_MBOX_STAT : Nat := 0x2314
def SCH_CR_BASE : Nat := 0x2320
def SCH_CR_LEN : Nat := 0x2324
def SCH_CR_WP : Nat := 0x2328
def SCH_CR_RP : Nat := 0x232C
def SCH_CR_OVWR : Nat := 0x2330
def SCH_FLOW_CFG (n : Nat) : Nat := 0x2400 + 4 * n
def SCH_FLOW_STAT (n : Nat) : Nat := 0x2500 + 4 * n
def XCH_CTL : Nat := 0x3000
def XCH_INCMPL : Nat := 0x3004
def XCH_FOREIGN : Nat := 0x3008
def XCH_LATEWR : Nat := 0x300C
def XCH_BADWR : Nat := 0x3010
def XCH_ECC : Nat := 0x3014
def XCH_OWN (n : Nat) : Nat := 0x8000 + 4 * n
def RTE_LIM : Nat := 0x3400
def RTE_LOAD : Nat := 0x3404
def RTE_LOADPK : Nat := 0x3408
def RTE_STAT : Nat := 0x340C
def RTE_CMP : Nat := 0x3410
def RTE_VOTE : Nat := 0x3414
def RTE_FAIL : Nat := 0x3418
def RTE_FLT_DST : Nat := 0x341C
def RTE_FLT_TICK : Nat := 0x3420
def RTE_SAT : Nat := 0x3424
def RTE_ERR : Nat := 0x3428
def RTE_DWQ : Nat := 0x342C
def RTE_ECC : Nat := 0x3430
def KLN_CTL : Nat := 0x3800
def KLN_STAT : Nat := 0x3804
def KLN_HOLD : Nat := 0x3808
def KLN_SEAL : Nat := 0x380C
def KLN_CNT : Nat := 0x3810
def KLN_RG_BASE : Nat := 0x3820
def KLN_RG_LEN : Nat := 0x3824
def KLN_RG_WP : Nat := 0x3828
def KLN_RG_RP : Nat := 0x382C
def KLN_RG_OVWR : Nat := 0x3830
def KLN_GEN (n : Nat) : Nat := 0x3900 + 8 * n
def HPN_CTL : Nat := 0x4000
def HPN_BUDGET : Nat := 0x4004
def HPN_VERR : Nat := 0x4008
def HPN_MISM : Nat := 0x400C
def HPN_WDOG : Nat := 0x4010
def HPN_BADWR : Nat := 0x4014
def HPN_INCMPL : Nat := 0x4018
def HPN_EMG : Nat := 0x401C
def HPN_CLIPB : Nat := 0x4020
def HPN_CLIPL : Nat := 0x4024
def HPN_SCH (n : Nat) : Nat := 0x4040 + 4 * n
def HPN_WCET (n : Nat) : Nat := 0x4080 + 4 * n
def HPN_WST (n : Nat) : Nat := 0x40C0 + 4 * n
def HPN_CW (n : Nat) : Nat := 0x4100 + 4 * n
def HPN_CWS (n : Nat) : Nat := 0x4140 + 4 * n
def HPN_DIGEST (n : Nat) : Nat := 0x4180 + 4 * n
def CLK_CTL : Nat := 0x5000
def CLK_SEL : Nat := 0x5004
def CLK_DPLL : Nat := 0x5008
def CLK_QUAL : Nat := 0x500C
def CLK_TIMES : Nat := 0x5010
def CLK_STAT : Nat := 0x5014
def CLK_FREQ : Nat := 0x5018
def CLK_HOFREQ : Nat := 0x501C
def CLK_PHASE : Nat := 0x5020
def CLK_BIAS : Nat := 0x5024
def CLK_REFCFG (n : Nat) : Nat := 0x5040 + 4 * n
def CLK_REFSTAT (n : Nat) : Nat := 0x5080 + 4 * n
def CLK_REFFREQ (n : Nat) : Nat := 0x50C0 + 4 * n
def NET_RXDESC (n : Nat) : Nat := 0x7000 + 32 * n
def NET_TXDESC (n : Nat) : Nat := 0x7400 + 32 * n
def TIM_CTL : Nat := 0x6000
def TIM_STAT : Nat := 0x6004
def TIM_NOW_LO : Nat := 0x6008
def TIM_NOW_HI : Nat := 0x600C
def TIM_NOW_FR : Nat := 0x6010
def TIM_INCR_FR : Nat := 0x6014
def TIM_INCR_NS : Nat := 0x6018
def TIM_SLEW : Nat := 0x601C
def TIM_SLEWN : Nat := 0x6020
def TIM_ADJ_LO : Nat := 0x6024
def TIM_ADJ_HI : Nat := 0x6028
def TIM_ADJ_CTL : Nat := 0x602C
def TIM_STEPLAST : Nat := 0x6030
def TIM_GPCFG (n : Nat) : Nat := 0x6100 + 4 * n
def TIM_GPCAP0 : Nat := 0x6180
def TIM_GPCAP1 : Nat := 0x6184
def TIM_GPL (n : Nat) : Nat := 0x6200 + 8 * n
def TIM_GPPER (n : Nat) : Nat := 0x6240 + 8 * n
def TIM_GPSTAT : Nat := 0x6280
def NET_CTL : Nat := 0x6800
def NET_PCFG (n : Nat) : Nat := 0x6810 + 4 * n
def NET_LAT (n : Nat) : Nat := 0x6818 + 4 * n
def NET_PSTAT (n : Nat) : Nat := 0x6820 + 8 * n
def NET_TRB (n : Nat) : Nat := 0x6840 + 16 * n
def NET_RRB (n : Nat) : Nat := 0x6860 + 16 * n
def NET_MACF (n : Nat) : Nat := 0x6900 + 8 * n
def NET_RXSTAT (n : Nat) : Nat := 0x7800 + 8 * n
def NET_TXSTAT (n : Nat) : Nat := 0x7900 + 8 * n
def SNX_CFG : Nat := 0xC000
def SNX_CTL : Nat := 0xC004
def SNX_STAT : Nat := 0xC008
def SNX_FWL : Nat := 0xC010
def SNX_DLVL : Nat := 0xC014
def SNX_TRANSIT : Nat := 0xC018
def SNX_ACC : Nat := 0xC01C
def SNX_TERR : Nat := 0xC020
def SNX_LINK (n : Nat) : Nat := 0xC028 + 4 * n
def SNX_ASYM (n : Nat) : Nat := 0xC030 + 4 * n
def SNX_TXMAP (n : Nat) : Nat := 0xC040 + 8 * n
def SNX_RXMAP (n : Nat) : Nat := 0xC060 + 8 * n
def SNX_FRCNT : Nat := 0xC0A0
def SNX_CHCNT : Nat := 0xC0A4
def SNX_COLL : Nat := 0xC0A8
def PRT_CTL : Nat := 0xD000
def ASR_CTL : Nat := 0xE180
def PRT_TDMCFG (n : Nat) : Nat := 0xD100 + 32 * n
def PRT_TDMSTAT (n : Nat) : Nat := 0xD200 + 16 * n
def PRT_AESRXCFG (n : Nat) : Nat := 0xD300 + 32 * n
def PRT_AESRXSTAT (n : Nat) : Nat := 0xD380 + 4 * n
def PRT_CS (n : Nat) : Nat := 0xD400 + 64 * n
def PRT_AESTXCFG (n : Nat) : Nat := 0xD500 + 32 * n
def PRT_TXCS (n : Nat) : Nat := 0xD600 + 64 * n
def ASR_GRP (n : Nat) : Nat := 0xE000 + 32 * n
def DEC_CTL : Nat := 0xF000
def DEC_SYNCT : Nat := 0xF004
def DEC_SYNCM0 : Nat := 0xF008
def DEC_SYNCM1 : Nat := 0xF00C
def DEC_CLK (n : Nat) : Nat := 0xF010 + 4 * n
def DEC_CH (n : Nat) : Nat := 0xF100 + 16 * n
def DEC_STAT (n : Nat) : Nat := 0xF500 + 4 * n
def DEC_GDNS (n : Nat) : Nat := 0xFA00 + 4 * n
def DEC_DET (n : Nat) : Nat := 0xF600 + 16 * n
def BUS_CTL : Nat := 0x20000
def BUS_AGE : Nat := 0x20004
def BUS_QOS (n : Nat) : Nat := 0x20100 + 4 * n
def BUS_CONF (n : Nat) : Nat := 0x20200 + 4 * n
def BUS_COLL (n : Nat) : Nat := 0x20300 + 4 * n
def BUS_ECC (n : Nat) : Nat := 0x20400 + 8 * n
def BUS_DDRSTAT : Nat := 0x20500
def BUS_SCRUB : Nat := 0x20504
def DMA_CTL : Nat := 0x21000
def DMA_STAT : Nat := 0x21004
def DMA_SUBMIT : Nat := 0x21008
def DMA_SUBMIT_STAT : Nat := 0x2100C
def DMA_CR_BASE : Nat := 0x21020
def DMA_CR_LEN : Nat := 0x21024
def DMA_CR_WP : Nat := 0x21028
def DMA_CR_RP : Nat := 0x2102C
def DMA_CR_OVWR : Nat := 0x21030
def HST_ID : Nat := 0x2000000
def HST_STAT : Nat := 0x2000004
def HST_BADW : Nat := 0x2000008
def HST_QSTAT (n : Nat) : Nat := 0x2000100 + 64 * n
def HST_FIFO (n : Nat) : Nat := 0x2000104 + 64 * n
def HST_CMDWP (n : Nat) : Nat := 0x2000108 + 64 * n
def HST_CMDRP (n : Nat) : Nat := 0x200010C + 64 * n
def HST_CPLWP (n : Nat) : Nat := 0x2000110 + 64 * n
def HST_CPLRP (n : Nat) : Nat := 0x2000114 + 64 * n
def HST_REF (n : Nat) : Nat := 0x2000118 + 64 * n
def HST_IRQEN (n : Nat) : Nat := 0x200011C + 64 * n
def HST_IRQST (n : Nat) : Nat := 0x2000120 + 64 * n
def HST_MGEN (n : Nat) : Nat := 0x2000124 + 64 * n
def MGT_ID : Nat := 0x2800000
def MGT_STAT : Nat := 0x2800004
def MGT_IRQEN : Nat := 0x2800008
def MGT_IRQST : Nat := 0x280000C
def MGT_CMD : Nat := 0x2800010
def MGT_ARG (n : Nat) : Nat := 0x2800014 + 4 * n
def MGT_CMDSTAT : Nat := 0x2800020
def MGT_TEMP (n : Nat) : Nat := 0x2800100 + 4 * n
def MGT_TLIM : Nat := 0x2800140
def MGT_RAIL (n : Nat) : Nat := 0x2800200 + 4 * n
def MGT_CLK (n : Nat) : Nat := 0x2800300 + 4 * n
def MGT_LIFE : Nat := 0x2800400
def MGT_LOGSEQ : Nat := 0x2800404
def MGT_UPD : Nat := 0x2800408
def FLT_CTL : Nat := 0x30000
def FLT_SPARE : Nat := 0x30004
def FLT_RETIRED : Nat := 0x30008
def FLT_LOST : Nat := 0x3000C
def FLT_REDIST : Nat := 0x30010
def FLT_STAT : Nat := 0x30014
def FLT_ROT : Nat := 0x30018
def FLT_TRES : Nat := 0x3001C
def FLT_POL (n : Nat) : Nat := 0x30040 + 4 * n
def FLT_CNT (n : Nat) : Nat := 0x30080 + 4 * n
def FLT_RG_BASE : Nat := 0x30100
def FLT_RG_LEN : Nat := 0x30104
def FLT_RG_WP : Nat := 0x30108
def FLT_RG_RP : Nat := 0x3010C
def FLT_RG_OVWR : Nat := 0x30110

def QCTL_RATE_FI : Field := ⟨0x100, 1, 0⟩
def QCTL_RATE_WERR : Field := ⟨0x100, 8, 8⟩
def QCTL_TICK_LO_TICK : Field := ⟨0x104, 31, 0⟩
def QCTL_TICK_HI_TICK : Field := ⟨0x108, 31, 0⟩
def QCTL_GRID_RUNNING : Field := ⟨0x10C, 0, 0⟩
def QCTL_GRID_ALIGNED : Field := ⟨0x10C, 1, 1⟩
def QCTL_GRID_UNALIGN : Field := ⟨0x10C, 8, 8⟩
def QCTL_GRID_OFS_OFS : Field := ⟨0x110, 31, 0⟩
def QCTL_MODE_MODE : Field := ⟨0x0, 2, 0⟩
def QCTL_MODE_PEND : Field := ⟨0x0, 6, 4⟩
def QCTL_MODE_PVLD : Field := ⟨0x0, 7, 7⟩
def QCTL_MODE_EMG_PEND : Field := ⟨0x0, 8, 8⟩
def QCTL_MODE_AUTO : Field := ⟨0x0, 9, 9⟩
def QCTL_CTL_REMAP : Field := ⟨0x4, 0, 0⟩
def QCTL_CTL_SRST : Field := ⟨0x4, 1, 1⟩
def QCTL_CTL_WERR : Field := ⟨0x4, 8, 8⟩
def QCTL_RST_CAUSE_POR : Field := ⟨0x8, 0, 0⟩
def QCTL_RST_CAUSE_PIN : Field := ⟨0x8, 1, 1⟩
def QCTL_RST_CAUSE_SOFT : Field := ⟨0x8, 2, 2⟩
def QCTL_RST_CAUSE_CLKLOSS : Field := ⟨0x8, 3, 3⟩
def QCTL_SCOUR_PROG : Field := ⟨0xC, 7, 0⟩
def QCTL_SCOUR_DONE : Field := ⟨0xC, 8, 8⟩
def QCTL_CORE_STAT_POS : Field := ⟨0xF0000, 4, 0⟩
def QCTL_CORE_STAT_ROLE : Field := ⟨0xF0000, 6, 5⟩
def QCTL_CORE_STAT_SET : Field := ⟨0xF0000, 7, 7⟩
def QCTL_CORE_STAT_RUN : Field := ⟨0xF0000, 8, 8⟩
def QCTL_CORE_STAT_BLOCKED : Field := ⟨0xF0000, 9, 9⟩
def QCTL_CORE_STAT_PARKED : Field := ⟨0xF0000, 10, 10⟩
def QCTL_CORE_STAT_LOCK : Field := ⟨0xF0000, 11, 11⟩
def QCTL_CORE_STAT_EVPEND : Field := ⟨0xF0000, 12, 12⟩
def QCTL_CORE_STAT_BOOTF : Field := ⟨0xF0000, 13, 13⟩
def QCTL_CORE_STAT_TASK : Field := ⟨0xF0000, 27, 16⟩
def QCTL_CORE_STAT_TVLD : Field := ⟨0xF0000, 28, 28⟩
def QCTL_CORE_COLL_COUNT : Field := ⟨0xF0004, 15, 0⟩
def SCH_CTL_HSHIFT : Field := ⟨0x2000, 3, 0⟩
def SCH_CTL_HLVL : Field := ⟨0x2000, 6, 4⟩
def SCH_CTL_HALL : Field := ⟨0x2000, 7, 7⟩
def SCH_CTL_HEN : Field := ⟨0x2000, 8, 8⟩
def SCH_CTL_WERR : Field := ⟨0x2000, 16, 16⟩
def SCH_STAT_READY : Field := ⟨0x2004, 12, 0⟩
def SCH_STAT_BOUND : Field := ⟨0x2004, 26, 16⟩
def SCH_BP_DLY : Field := ⟨0x2008, 0, 0⟩
def SCH_BP_FLOWR : Field := ⟨0x2008, 1, 1⟩
def SCH_BP_CORE : Field := ⟨0x2008, 2, 2⟩
def SCH_BP_DMA : Field := ⟨0x2008, 3, 3⟩
def SCH_BP_MBOX : Field := ⟨0x2008, 4, 4⟩
def SCH_BP_NSTALL : Field := ⟨0x2008, 12, 8⟩
def SCH_HELDCNT_COUNT : Field := ⟨0x200C, 15, 0⟩
def SCH_LVL_LIM_LIM (n : Nat) : Field := ⟨0x2020 + 4 * n, 12, 0⟩
def SCH_LVL_DEP_DEPTH (n : Nat) : Field := ⟨0x2040 + 4 * n, 12, 0⟩
def SCH_LVL_DEP_HWM (n : Nat) : Field := ⟨0x2040 + 4 * n, 28, 16⟩
def SCH_BUSY_LAST (n : Nat) : Field := ⟨0x2100 + 4 * n, 16, 0⟩
def SCH_BUSYPK_PEAK (n : Nat) : Field := ⟨0x2140 + 4 * n, 16, 0⟩
def SCH_HIST_COUNT (n : Nat) : Field := ⟨0x2200 + 4 * n, 31, 0⟩
def SCH_KEY_LO_KEY : Field := ⟨0x2300, 31, 0⟩
def SCH_KEY_HI_KEY : Field := ⟨0x2304, 31, 0⟩
def SCH_ARM_TASK : Field := ⟨0x2308, 11, 0⟩
def SCH_ARM_OP : Field := ⟨0x2308, 14, 12⟩
def SCH_ARM_STAT_STATUS : Field := ⟨0x230C, 7, 0⟩
def SCH_ARM_STAT_BUSY : Field := ⟨0x230C, 8, 8⟩
def SCH_MBOX_TASK : Field := ⟨0x2310, 11, 0⟩
def SCH_MBOX_STAT_FREE : Field := ⟨0x2314, 6, 0⟩
def SCH_MBOX_STAT_REF : Field := ⟨0x2314, 23, 8⟩
def SCH_CR_BASE_BASE : Field := ⟨0x2320, 31, 0⟩
def SCH_CR_LEN_LOG2 : Field := ⟨0x2324, 4, 0⟩
def SCH_CR_WP_WP : Field := ⟨0x2328, 31, 0⟩
def SCH_CR_RP_RP : Field := ⟨0x232C, 31, 0⟩
def SCH_CR_OVWR_OVWR : Field := ⟨0x2330, 31, 0⟩
def SCH_FLOW_CFG_TGT (n : Nat) : Field := ⟨0x2400 + 4 * n, 1, 0⟩
def SCH_FLOW_CFG_EN (n : Nat) : Field := ⟨0x2400 + 4 * n, 2, 2⟩
def SCH_FLOW_CFG_IDX (n : Nat) : Field := ⟨0x2400 + 4 * n, 15, 4⟩
def SCH_FLOW_STAT_OUT (n : Nat) : Field := ⟨0x2500 + 4 * n, 8, 0⟩
def SCH_FLOW_STAT_HOLD (n : Nat) : Field := ⟨0x2500 + 4 * n, 9, 9⟩
def SCH_FLOW_STAT_REL (n : Nat) : Field := ⟨0x2500 + 4 * n, 31, 16⟩
def XCH_CTL_MPER : Field := ⟨0x3000, 3, 0⟩
def XCH_CTL_WERR : Field := ⟨0x3000, 16, 16⟩
def XCH_INCMPL_COUNT : Field := ⟨0x3004, 15, 0⟩
def XCH_FOREIGN_COUNT : Field := ⟨0x3008, 15, 0⟩
def XCH_LATEWR_COUNT : Field := ⟨0x300C, 15, 0⟩
def XCH_BADWR_COUNT : Field := ⟨0x3010, 15, 0⟩
def XCH_INCMPL_SLOT : Field := ⟨0x3004, 27, 16⟩
def XCH_FOREIGN_SLOT : Field := ⟨0x3008, 27, 16⟩
def XCH_LATEWR_SLOT : Field := ⟨0x300C, 27, 16⟩
def XCH_BADWR_SLOT : Field := ⟨0x3010, 27, 16⟩
def XCH_ECC_CORR : Field := ⟨0x3014, 15, 0⟩
def XCH_ECC_UNCORR : Field := ⟨0x3014, 31, 16⟩
def XCH_OWN_KIND (n : Nat) : Field := ⟨0x8000 + 4 * n, 2, 0⟩
def XCH_OWN_IDX (n : Nat) : Field := ⟨0x8000 + 4 * n, 15, 4⟩
def XCH_OWN_PEND (n : Nat) : Field := ⟨0x8000 + 4 * n, 16, 16⟩
def RTE_LIM_LIM : Field := ⟨0x3400, 16, 0⟩
def RTE_LOAD_LOAD : Field := ⟨0x3404, 16, 0⟩
def RTE_LOADPK_LOAD : Field := ⟨0x3408, 16, 0⟩
def RTE_STAT_PASS : Field := ⟨0x340C, 0, 0⟩
def RTE_STAT_OVLD : Field := ⟨0x340C, 1, 1⟩
def RTE_STAT_OVLDS : Field := ⟨0x340C, 8, 8⟩
def RTE_STAT_RQ : Field := ⟨0x340C, 22, 16⟩
def RTE_CMP_MISM : Field := ⟨0x3410, 15, 0⟩
def RTE_VOTE_ALOSS : Field := ⟨0x3414, 15, 0⟩
def RTE_VOTE_BLOSS : Field := ⟨0x3414, 31, 16⟩
def RTE_FAIL_NOVOTE : Field := ⟨0x3418, 15, 0⟩
def RTE_FAIL_UNFIN : Field := ⟨0x3418, 31, 16⟩
def RTE_FLT_DST_SLOT : Field := ⟨0x341C, 11, 0⟩
def RTE_FLT_DST_CAUSE : Field := ⟨0x341C, 13, 12⟩
def RTE_FLT_TICK_TICK : Field := ⟨0x3420, 31, 0⟩
def RTE_SAT_COUNT : Field := ⟨0x3424, 15, 0⟩
def RTE_SAT_SLOT : Field := ⟨0x3424, 27, 16⟩
def RTE_ERR_SPLIT : Field := ⟨0x3428, 7, 0⟩
def RTE_ERR_DSTOWN : Field := ⟨0x3428, 15, 8⟩
def RTE_ERR_SRCRNG : Field := ⟨0x3428, 23, 16⟩
def RTE_DWQ_FREE : Field := ⟨0x342C, 10, 0⟩
def RTE_DWQ_STALL : Field := ⟨0x342C, 31, 16⟩
def RTE_ECC_CORR : Field := ⟨0x3430, 15, 0⟩
def RTE_ECC_UNCORR : Field := ⟨0x3430, 31, 16⟩
def KLN_CTL_ARM : Field := ⟨0x3800, 0, 0⟩
def KLN_CTL_WERR : Field := ⟨0x3800, 16, 16⟩
def KLN_STAT_PREP : Field := ⟨0x3804, 3, 0⟩
def KLN_STAT_GBUSY : Field := ⟨0x3804, 8, 4⟩
def KLN_STAT_GRES : Field := ⟨0x3804, 13, 9⟩
def KLN_STAT_PEND : Field := ⟨0x3804, 31, 16⟩
def KLN_HOLD_FREE : Field := ⟨0x3808, 12, 0⟩
def KLN_HOLD_FULL : Field := ⟨0x3808, 31, 16⟩
def KLN_SEAL_COUNT : Field := ⟨0x380C, 15, 0⟩
def KLN_SEAL_INDEX : Field := ⟨0x380C, 30, 16⟩
def KLN_SEAL_KIND : Field := ⟨0x380C, 31, 31⟩
def KLN_CNT_REPL : Field := ⟨0x3810, 15, 0⟩
def KLN_CNT_GWAIT : Field := ⟨0x3810, 31, 16⟩
def KLN_RG_BASE_BASE : Field := ⟨0x3820, 31, 0⟩
def KLN_RG_LEN_LOG2 : Field := ⟨0x3824, 4, 0⟩
def KLN_RG_WP_WP : Field := ⟨0x3828, 31, 0⟩
def KLN_RG_RP_RP : Field := ⟨0x382C, 31, 0⟩
def KLN_RG_OVWR_OVWR : Field := ⟨0x3830, 31, 0⟩
def KLN_GEN_START (n : Nat) : Field := ⟨0x3900 + 8 * n, 31, 0⟩
def KLN_GEN_LEN (n : Nat) : Field := ⟨0x3904 + 8 * n, 11, 0⟩
def KLN_GEN_BUSY (n : Nat) : Field := ⟨0x3904 + 8 * n, 12, 12⟩
def KLN_GEN_RES (n : Nat) : Field := ⟨0x3904 + 8 * n, 13, 13⟩
def KLN_GEN_ID (n : Nat) : Field := ⟨0x3904 + 8 * n, 29, 14⟩
def HPN_CTL_EN : Field := ⟨0x4000, 0, 0⟩
def HPN_CTL_STATE : Field := ⟨0x4000, 2, 1⟩
def HPN_CTL_WERR : Field := ⟨0x4000, 16, 16⟩
def HPN_BUDGET_CYC : Field := ⟨0x4004, 16, 0⟩
def HPN_VERR_CODE : Field := ⟨0x4008, 7, 0⟩
def HPN_VERR_ENTRYN : Field := ⟨0x4008, 11, 8⟩
def HPN_VERR_ADDR : Field := ⟨0x4008, 25, 13⟩
def HPN_MISM_COUNT : Field := ⟨0x400C, 15, 0⟩
def HPN_MISM_RUN : Field := ⟨0x400C, 17, 16⟩
def HPN_WDOG_COUNT : Field := ⟨0x4010, 15, 0⟩
def HPN_BADWR_COUNT : Field := ⟨0x4014, 15, 0⟩
def HPN_INCMPL_COUNT : Field := ⟨0x4018, 15, 0⟩
def HPN_WDOG_IDX : Field := ⟨0x4010, 27, 16⟩
def HPN_BADWR_IDX : Field := ⟨0x4014, 27, 16⟩
def HPN_INCMPL_IDX : Field := ⟨0x4018, 27, 16⟩
def HPN_EMG_POL : Field := ⟨0x401C, 3, 0⟩
def HPN_EMG_ENTER : Field := ⟨0x401C, 7, 4⟩
def HPN_EMG_DEB : Field := ⟨0x401C, 11, 8⟩
def HPN_EMG_LVL : Field := ⟨0x401C, 15, 12⟩
def HPN_EMG_RISE : Field := ⟨0x401C, 19, 16⟩
def HPN_CLIPB_BASE : Field := ⟨0x4020, 31, 0⟩
def HPN_CLIPL_LEN : Field := ⟨0x4024, 31, 0⟩
def HPN_SCH_TASK (n : Nat) : Field := ⟨0x4040 + 4 * n, 11, 0⟩
def HPN_SCH_EN (n : Nat) : Field := ⟨0x4040 + 4 * n, 12, 12⟩
def HPN_SCH_ALLOT (n : Nat) : Field := ⟨0x4040 + 4 * n, 31, 16⟩
def HPN_WCET_CYC (n : Nat) : Field := ⟨0x4080 + 4 * n, 16, 0⟩
def HPN_WST_XST (n : Nat) : Field := ⟨0x40C0 + 4 * n, 11, 0⟩
def HPN_WST_YST (n : Nat) : Field := ⟨0x40C0 + 4 * n, 27, 16⟩
def HPN_CW_WORD (n : Nat) : Field := ⟨0x4100 + 4 * n, 31, 0⟩
def HPN_CWS_WORD (n : Nat) : Field := ⟨0x4140 + 4 * n, 31, 0⟩
def HPN_DIGEST_WORD (n : Nat) : Field := ⟨0x4180 + 4 * n, 31, 0⟩
def CLK_CTL_REVERT : Field := ⟨0x5000, 0, 0⟩
def CLK_CTL_WERR : Field := ⟨0x5000, 16, 16⟩
def CLK_SEL_MODE : Field := ⟨0x5004, 0, 0⟩
def CLK_SEL_FORCE : Field := ⟨0x5004, 7, 4⟩
def CLK_DPLL_BW : Field := ⟨0x5008, 4, 0⟩
def CLK_DPLL_ABW : Field := ⟨0x5008, 12, 8⟩
def CLK_DPLL_HAVG : Field := ⟨0x5008, 19, 16⟩
def CLK_QUAL_ACCEPT : Field := ⟨0x500C, 9, 0⟩
def CLK_QUAL_REJECT : Field := ⟨0x500C, 19, 10⟩
def CLK_QUAL_AGREE : Field := ⟨0x500C, 29, 20⟩
def CLK_TIMES_ACCT : Field := ⟨0x5010, 7, 0⟩
def CLK_TIMES_WTR : Field := ⟨0x5010, 27, 16⟩
def CLK_STAT_STATE : Field := ⟨0x5014, 1, 0⟩
def CLK_STAT_SEL : Field := ⟨0x5014, 5, 2⟩
def CLK_STAT_SWITCHING : Field := ⟨0x5014, 6, 6⟩
def CLK_STAT_DISAGREE : Field := ⟨0x5014, 7, 7⟩
def CLK_STAT_HSHORT : Field := ⟨0x5014, 8, 8⟩
def CLK_STAT_REALIGNING : Field := ⟨0x5014, 9, 9⟩
def CLK_STAT_SWEV : Field := ⟨0x5014, 16, 16⟩
def CLK_STAT_DISAGS : Field := ⟨0x5014, 17, 17⟩
def CLK_STAT_PHIT : Field := ⟨0x5014, 18, 18⟩
def CLK_STAT_UNLOCK : Field := ⟨0x5014, 19, 19⟩
def CLK_STAT_CLAMP : Field := ⟨0x5014, 20, 20⟩
def CLK_STAT_BWCLAMP : Field := ⟨0x5014, 21, 21⟩
def CLK_STAT_HOLD : Field := ⟨0x5014, 22, 22⟩
def CLK_FREQ_PPM : Field := ⟨0x5018, 31, 0⟩
def CLK_HOFREQ_PPM : Field := ⟨0x501C, 31, 0⟩
def CLK_PHASE_ROOT : Field := ⟨0x5020, 31, 0⟩
def CLK_BIAS_ROOT : Field := ⟨0x5024, 31, 0⟩
def CLK_REFCFG_RANK (n : Nat) : Field := ⟨0x5040 + 4 * n, 3, 0⟩
def CLK_REFCFG_REALIGN (n : Nat) : Field := ⟨0x5040 + 4 * n, 4, 4⟩
def CLK_REFCFG_POL (n : Nat) : Field := ⟨0x5040 + 4 * n, 5, 5⟩
def CLK_REFCFG_PDIV (n : Nat) : Field := ⟨0x5040 + 4 * n, 30, 6⟩
def CLK_REFSTAT_QSTATE (n : Nat) : Field := ⟨0x5080 + 4 * n, 2, 0⟩
def CLK_REFSTAT_CAUSE (n : Nat) : Field := ⟨0x5080 + 4 * n, 4, 3⟩
def CLK_REFSTAT_GLITCH (n : Nat) : Field := ⟨0x5080 + 4 * n, 31, 16⟩
def CLK_REFFREQ_PPM (n : Nat) : Field := ⟨0x50C0 + 4 * n, 31, 0⟩
def NET_RXDESC_EN (n : Nat) : Field := ⟨0x7000 + 32 * n, 0, 0⟩
def NET_TXDESC_EN (n : Nat) : Field := ⟨0x7400 + 32 * n, 0, 0⟩
def NET_RXDESC_PORTS (n : Nat) : Field := ⟨0x7000 + 32 * n, 2, 1⟩
def NET_TXDESC_PORTS (n : Nat) : Field := ⟨0x7400 + 32 * n, 2, 1⟩
def NET_RXDESC_FS (n : Nat) : Field := ⟨0x7000 + 32 * n, 3, 3⟩
def NET_TXDESC_FS (n : Nat) : Field := ⟨0x7400 + 32 * n, 3, 3⟩
def NET_RXDESC_L24 (n : Nat) : Field := ⟨0x7000 + 32 * n, 4, 4⟩
def NET_TXDESC_L24 (n : Nat) : Field := ⟨0x7400 + 32 * n, 4, 4⟩
def NET_RXDESC_IP6 (n : Nat) : Field := ⟨0x7000 + 32 * n, 5, 5⟩
def NET_TXDESC_IP6 (n : Nat) : Field := ⟨0x7400 + 32 * n, 5, 5⟩
def NET_RXDESC_SRC (n : Nat) : Field := ⟨0x7000 + 32 * n, 6, 6⟩
def NET_TXDESC_SRC (n : Nat) : Field := ⟨0x7400 + 32 * n, 6, 6⟩
def NET_RXDESC_CH (n : Nat) : Field := ⟨0x7000 + 32 * n, 15, 8⟩
def NET_TXDESC_CH (n : Nat) : Field := ⟨0x7400 + 32 * n, 15, 8⟩
def NET_RXDESC_SPP (n : Nat) : Field := ⟨0x7000 + 32 * n, 24, 16⟩
def NET_TXDESC_SPP (n : Nat) : Field := ⟨0x7400 + 32 * n, 24, 16⟩
def NET_RXDESC_PT (n : Nat) : Field := ⟨0x7000 + 32 * n, 31, 25⟩
def NET_TXDESC_PT (n : Nat) : Field := ⟨0x7400 + 32 * n, 31, 25⟩
def NET_RXDESC_SLOT (n : Nat) : Field := ⟨0x7004 + 32 * n, 11, 0⟩
def NET_TXDESC_SLOT (n : Nat) : Field := ⟨0x7404 + 32 * n, 11, 0⟩
def NET_RXDESC_MACF (n : Nat) : Field := ⟨0x7004 + 32 * n, 17, 12⟩
def NET_TXDESC_MACF (n : Nat) : Field := ⟨0x7404 + 32 * n, 17, 12⟩
def NET_RXDESC_RTPOFS (n : Nat) : Field := ⟨0x7008 + 32 * n, 31, 0⟩
def NET_TXDESC_RTPOFS (n : Nat) : Field := ⟨0x7408 + 32 * n, 31, 0⟩
def NET_RXDESC_OFS (n : Nat) : Field := ⟨0x700C + 32 * n, 9, 0⟩
def NET_TXDESC_OFS (n : Nat) : Field := ⟨0x740C + 32 * n, 9, 0⟩
def NET_RXDESC_UDP (n : Nat) : Field := ⟨0x700C + 32 * n, 31, 16⟩
def NET_TXDESC_UDP (n : Nat) : Field := ⟨0x740C + 32 * n, 31, 16⟩
def NET_RXDESC_SSRC (n : Nat) : Field := ⟨0x7010 + 32 * n, 31, 0⟩
def NET_TXDESC_SSRC (n : Nat) : Field := ⟨0x7410 + 32 * n, 31, 0⟩
def NET_RXDESC_HDR (n : Nat) : Field := ⟨0x7014 + 32 * n, 31, 0⟩
def NET_TXDESC_HDR (n : Nat) : Field := ⟨0x7414 + 32 * n, 31, 0⟩
def NET_RXDESC_HLEN (n : Nat) : Field := ⟨0x7018 + 32 * n, 6, 0⟩
def NET_TXDESC_HLEN (n : Nat) : Field := ⟨0x7418 + 32 * n, 6, 0⟩
def NET_RXDESC_SEQ (n : Nat) : Field := ⟨0x701C + 32 * n, 31, 0⟩
def NET_TXDESC_SEQ (n : Nat) : Field := ⟨0x741C + 32 * n, 31, 0⟩
def TIM_CTL_STEPTH : Field := ⟨0x6000, 15, 0⟩
def TIM_CTL_SUSHOLD : Field := ⟨0x6000, 16, 16⟩
def TIM_CTL_WERR : Field := ⟨0x6000, 31, 31⟩
def TIM_STAT_LOCK : Field := ⟨0x6004, 0, 0⟩
def TIM_STAT_SLEWING : Field := ⟨0x6004, 1, 1⟩
def TIM_STAT_SUSPECT : Field := ⟨0x6004, 2, 2⟩
def TIM_STAT_STEPOK : Field := ⟨0x6004, 3, 3⟩
def TIM_STAT_STEPREF : Field := ⟨0x6004, 4, 4⟩
def TIM_STAT_INCRREF : Field := ⟨0x6004, 5, 5⟩
def TIM_STAT_RANK8 : Field := ⟨0x6004, 11, 8⟩
def TIM_NOW_LO_NS : Field := ⟨0x6008, 31, 0⟩
def TIM_NOW_HI_NS : Field := ⟨0x600C, 31, 0⟩
def TIM_NOW_FR_FR : Field := ⟨0x6010, 31, 0⟩
def TIM_INCR_FR_FR : Field := ⟨0x6014, 31, 0⟩
def TIM_INCR_NS_NS : Field := ⟨0x6018, 3, 0⟩
def TIM_SLEW_DELTA : Field := ⟨0x601C, 23, 0⟩
def TIM_SLEWN_CYC : Field := ⟨0x6020, 31, 0⟩
def TIM_ADJ_LO_VAL : Field := ⟨0x6024, 31, 0⟩
def TIM_ADJ_HI_VAL : Field := ⟨0x6028, 31, 0⟩
def TIM_ADJ_CTL_OP : Field := ⟨0x602C, 1, 0⟩
def TIM_ADJ_CTL_PERMIT : Field := ⟨0x602C, 2, 2⟩
def TIM_STEPLAST_MAG : Field := ⟨0x6030, 30, 0⟩
def TIM_STEPLAST_REF : Field := ⟨0x6030, 31, 31⟩
def TIM_GPCFG_CAP (n : Nat) : Field := ⟨0x6100 + 4 * n, 1, 0⟩
def TIM_GPCFG_OUT (n : Nat) : Field := ⟨0x6100 + 4 * n, 2, 2⟩
def TIM_GPCFG_LVL (n : Nat) : Field := ⟨0x6100 + 4 * n, 3, 3⟩
def TIM_GPCFG_PER (n : Nat) : Field := ⟨0x6100 + 4 * n, 4, 4⟩
def TIM_GPCAP0_PIN : Field := ⟨0x6180, 3, 0⟩
def TIM_GPCAP0_RISE : Field := ⟨0x6180, 4, 4⟩
def TIM_GPCAP0_VLD : Field := ⟨0x6180, 31, 31⟩
def TIM_GPCAP1_TS : Field := ⟨0x6184, 31, 0⟩
def TIM_GPL_TIME (n : Nat) : Field := ⟨0x6200 + 8 * n, 31, 0⟩
def TIM_GPL_LVL (n : Nat) : Field := ⟨0x6204 + 8 * n, 0, 0⟩
def TIM_GPL_FREE (n : Nat) : Field := ⟨0x6204 + 8 * n, 12, 8⟩
def TIM_GPPER_PERIOD (n : Nat) : Field := ⟨0x6240 + 8 * n, 31, 0⟩
def TIM_GPPER_WIDTH (n : Nat) : Field := ⟨0x6244 + 8 * n, 31, 0⟩
def TIM_GPSTAT_LATE : Field := ⟨0x6280, 7, 0⟩
def TIM_GPSTAT_ORDER : Field := ⟨0x6280, 15, 8⟩
def TIM_GPSTAT_OVF : Field := ⟨0x6280, 31, 16⟩
def NET_CTL_BRIDGE : Field := ⟨0x6800, 0, 0⟩
def NET_CTL_TC : Field := ⟨0x6800, 1, 1⟩
def NET_CTL_BCAST : Field := ⟨0x6800, 3, 2⟩
def NET_CTL_WERR : Field := ⟨0x6800, 31, 31⟩
def NET_PCFG_MODE (n : Nat) : Field := ⟨0x6810 + 4 * n, 1, 0⟩
def NET_PCFG_LINK (n : Nat) : Field := ⟨0x6810 + 4 * n, 2, 2⟩
def NET_LAT_RX (n : Nat) : Field := ⟨0x6818 + 4 * n, 15, 0⟩
def NET_LAT_TX (n : Nat) : Field := ⟨0x6818 + 4 * n, 31, 16⟩
def NET_PSTAT_BAD (n : Nat) : Field := ⟨0x6820 + 8 * n, 15, 0⟩
def NET_PSTAT_PAUSE (n : Nat) : Field := ⟨0x6820 + 8 * n, 31, 16⟩
def NET_PSTAT_RXFULL (n : Nat) : Field := ⟨0x6824 + 8 * n, 15, 0⟩
def NET_PSTAT_FILT (n : Nat) : Field := ⟨0x6824 + 8 * n, 31, 16⟩
def NET_TRB_BASE (n : Nat) : Field := ⟨0x6840 + 16 * n, 31, 0⟩
def NET_RRB_BASE (n : Nat) : Field := ⟨0x6860 + 16 * n, 31, 0⟩
def NET_TRB_LOG2 (n : Nat) : Field := ⟨0x6844 + 16 * n, 3, 0⟩
def NET_RRB_LOG2 (n : Nat) : Field := ⟨0x6864 + 16 * n, 3, 0⟩
def NET_TRB_WP (n : Nat) : Field := ⟨0x6848 + 16 * n, 31, 0⟩
def NET_RRB_WP (n : Nat) : Field := ⟨0x6868 + 16 * n, 31, 0⟩
def NET_TRB_RP (n : Nat) : Field := ⟨0x684C + 16 * n, 31, 0⟩
def NET_RRB_RP (n : Nat) : Field := ⟨0x686C + 16 * n, 31, 0⟩
def NET_MACF_ADDR (n : Nat) : Field := ⟨0x6900 + 8 * n, 31, 0⟩
def NET_MACF_PORTS (n : Nat) : Field := ⟨0x6904 + 8 * n, 17, 16⟩
def NET_RXSTAT_LATE (n : Nat) : Field := ⟨0x7800 + 8 * n, 15, 0⟩
def NET_RXSTAT_EARLY (n : Nat) : Field := ⟨0x7800 + 8 * n, 31, 16⟩
def NET_RXSTAT_MISS (n : Nat) : Field := ⟨0x7804 + 8 * n, 15, 0⟩
def NET_RXSTAT_LOST (n : Nat) : Field := ⟨0x7804 + 8 * n, 16, 16⟩
def NET_TXSTAT_SENT (n : Nat) : Field := ⟨0x7900 + 8 * n, 15, 0⟩
def NET_TXSTAT_NOLINK (n : Nat) : Field := ⟨0x7900 + 8 * n, 31, 16⟩
def SNX_CFG_DOMID : Field := ⟨0xC000, 15, 0⟩
def SNX_CFG_MID : Field := ⟨0xC000, 21, 16⟩
def SNX_CFG_ROLE : Field := ⟨0xC000, 23, 22⟩
def SNX_CFG_SPRI : Field := ⟨0xC000, 26, 24⟩
def SNX_CFG_EN : Field := ⟨0xC000, 31, 31⟩
def SNX_CTL_JOIN : Field := ⟨0xC004, 0, 0⟩
def SNX_CTL_LEAVE : Field := ⟨0xC004, 1, 1⟩
def SNX_CTL_YIELD : Field := ⟨0xC004, 2, 2⟩
def SNX_CTL_YMID : Field := ⟨0xC004, 13, 8⟩
def SNX_CTL_WERR : Field := ⟨0xC004, 16, 16⟩
def SNX_STAT_STATE : Field := ⟨0xC008, 2, 0⟩
def SNX_STAT_WRAP : Field := ⟨0xC008, 3, 3⟩
def SNX_STAT_ORIGIN : Field := ⟨0xC008, 4, 4⟩
def SNX_STAT_LINKA : Field := ⟨0xC008, 5, 5⟩
def SNX_STAT_LINKB : Field := ⟨0xC008, 6, 6⟩
def SNX_STAT_MEMBERS : Field := ⟨0xC008, 14, 8⟩
def SNX_STAT_TAKEN : Field := ⟨0xC008, 16, 16⟩
def SNX_STAT_MCONF : Field := ⟨0xC008, 17, 17⟩
def SNX_STAT_TICKMIS : Field := ⟨0xC008, 18, 18⟩
def SNX_STAT_LVLMIS : Field := ⟨0xC008, 19, 19⟩
def SNX_STAT_OVB : Field := ⟨0xC008, 20, 20⟩
def SNX_STAT_JREF : Field := ⟨0xC008, 21, 21⟩
def SNX_FWL_FL : Field := ⟨0xC010, 15, 0⟩
def SNX_FWL_FFL : Field := ⟨0xC010, 31, 16⟩
def SNX_DLVL_DSL : Field := ⟨0xC014, 7, 0⟩
def SNX_DLVL_DFL : Field := ⟨0xC014, 31, 16⟩
def SNX_TRANSIT_T : Field := ⟨0xC018, 31, 0⟩
def SNX_ACC_T : Field := ⟨0xC01C, 31, 0⟩
def SNX_TERR_ERR : Field := ⟨0xC020, 31, 0⟩
def SNX_LINK_STATE (n : Nat) : Field := ⟨0xC028 + 4 * n, 1, 0⟩
def SNX_LINK_DLY (n : Nat) : Field := ⟨0xC028 + 4 * n, 31, 8⟩
def SNX_ASYM_ASYM (n : Nat) : Field := ⟨0xC030 + 4 * n, 15, 0⟩
def SNX_TXMAP_FIRST (n : Nat) : Field := ⟨0xC040 + 8 * n, 10, 0⟩
def SNX_RXMAP_FIRST (n : Nat) : Field := ⟨0xC060 + 8 * n, 10, 0⟩
def SNX_TXMAP_COUNT (n : Nat) : Field := ⟨0xC040 + 8 * n, 23, 12⟩
def SNX_RXMAP_COUNT (n : Nat) : Field := ⟨0xC060 + 8 * n, 23, 12⟩
def SNX_TXMAP_SLOT (n : Nat) : Field := ⟨0xC044 + 8 * n, 11, 0⟩
def SNX_RXMAP_SLOT (n : Nat) : Field := ⟨0xC064 + 8 * n, 11, 0⟩
def SNX_FRCNT_CRC : Field := ⟨0xC0A0, 15, 0⟩
def SNX_FRCNT_MISS : Field := ⟨0xC0A0, 31, 16⟩
def SNX_CHCNT_ZERO : Field := ⟨0xC0A4, 15, 0⟩
def SNX_CHCNT_LATE : Field := ⟨0xC0A4, 31, 16⟩
def SNX_COLL_COUNT : Field := ⟨0xC0A8, 15, 0⟩
def SNX_COLL_CHAN : Field := ⟨0xC0A8, 26, 16⟩
def PRT_CTL_WERR : Field := ⟨0xD000, 16, 16⟩
def ASR_CTL_WERR : Field := ⟨0xE180, 16, 16⟩
def PRT_TDMCFG_EN (n : Nat) : Field := ⟨0xD100 + 32 * n, 0, 0⟩
def PRT_TDMCFG_MS (n : Nat) : Field := ⟨0xD100 + 32 * n, 1, 1⟩
def PRT_TDMCFG_FMT (n : Nat) : Field := ⟨0xD100 + 32 * n, 3, 2⟩
def PRT_TDMCFG_IMODE (n : Nat) : Field := ⟨0xD100 + 32 * n, 4, 4⟩
def PRT_TDMCFG_RDIV (n : Nat) : Field := ⟨0xD100 + 32 * n, 6, 5⟩
def PRT_TDMCFG_BCLKPOL (n : Nat) : Field := ⟨0xD100 + 32 * n, 7, 7⟩
def PRT_TDMCFG_FSPOL (n : Nat) : Field := ⟨0xD100 + 32 * n, 8, 8⟩
def PRT_TDMCFG_DLY (n : Nat) : Field := ⟨0xD100 + 32 * n, 9, 9⟩
def PRT_TDMCFG_TRI (n : Nat) : Field := ⟨0xD100 + 32 * n, 10, 10⟩
def PRT_TDMCFG_IEN (n : Nat) : Field := ⟨0xD100 + 32 * n, 11, 11⟩
def PRT_TDMCFG_OEN (n : Nat) : Field := ⟨0xD100 + 32 * n, 12, 12⟩
def PRT_TDMCFG_SLOTS (n : Nat) : Field := ⟨0xD100 + 32 * n, 17, 13⟩
def PRT_TDMCFG_WIDTH (n : Nat) : Field := ⟨0xD100 + 32 * n, 22, 18⟩
def PRT_TDMCFG_FLEN (n : Nat) : Field := ⟨0xD104 + 32 * n, 9, 0⟩
def PRT_TDMCFG_INBASE (n : Nat) : Field := ⟨0xD108 + 32 * n, 11, 0⟩
def PRT_TDMCFG_INLEN (n : Nat) : Field := ⟨0xD108 + 32 * n, 21, 16⟩
def PRT_TDMCFG_OUTBASE (n : Nat) : Field := ⟨0xD10C + 32 * n, 11, 0⟩
def PRT_TDMCFG_OUTLEN (n : Nat) : Field := ⟨0xD10C + 32 * n, 21, 16⟩
def PRT_TDMCFG_IMASK (n : Nat) : Field := ⟨0xD110 + 32 * n, 31, 0⟩
def PRT_TDMCFG_OMASK (n : Nat) : Field := ⟨0xD114 + 32 * n, 31, 0⟩
def PRT_TDMSTAT_IEPOCH (n : Nat) : Field := ⟨0xD200 + 16 * n, 15, 0⟩
def PRT_TDMSTAT_OEPOCH (n : Nat) : Field := ⟨0xD200 + 16 * n, 31, 16⟩
def PRT_TDMSTAT_LOST (n : Nat) : Field := ⟨0xD204 + 16 * n, 0, 0⟩
def PRT_TDMSTAT_LOSTS (n : Nat) : Field := ⟨0xD204 + 16 * n, 1, 1⟩
def PRT_TDMSTAT_MPEND (n : Nat) : Field := ⟨0xD204 + 16 * n, 2, 2⟩
def PRT_TDMSTAT_SLIP (n : Nat) : Field := ⟨0xD204 + 16 * n, 31, 16⟩
def PRT_TDMSTAT_PHASE (n : Nat) : Field := ⟨0xD208 + 16 * n, 31, 0⟩
def PRT_TDMSTAT_MISSING (n : Nat) : Field := ⟨0xD20C + 16 * n, 15, 0⟩
def PRT_TDMSTAT_BADLEN (n : Nat) : Field := ⟨0xD20C + 16 * n, 31, 16⟩
def PRT_AESRXCFG_EN (n : Nat) : Field := ⟨0xD300 + 32 * n, 0, 0⟩
def PRT_AESRXCFG_VMUTE (n : Nat) : Field := ⟨0xD300 + 32 * n, 1, 1⟩
def PRT_AESRXCFG_CRCCHK (n : Nat) : Field := ⟨0xD300 + 32 * n, 2, 2⟩
def PRT_AESRXCFG_BASE (n : Nat) : Field := ⟨0xD304 + 32 * n, 31, 0⟩
def PRT_AESRXCFG_LOG2 (n : Nat) : Field := ⟨0xD308 + 32 * n, 4, 0⟩
def PRT_AESRXCFG_WP (n : Nat) : Field := ⟨0xD30C + 32 * n, 31, 0⟩
def PRT_AESRXCFG_RP (n : Nat) : Field := ⟨0xD310 + 32 * n, 31, 0⟩
def PRT_AESRXSTAT_LOCK (n : Nat) : Field := ⟨0xD380 + 4 * n, 0, 0⟩
def PRT_AESRXSTAT_CRCERR (n : Nat) : Field := ⟨0xD380 + 4 * n, 1, 1⟩
def PRT_AESRXSTAT_RINGOVF (n : Nat) : Field := ⟨0xD380 + 4 * n, 2, 2⟩
def PRT_AESRXSTAT_SHORT (n : Nat) : Field := ⟨0xD380 + 4 * n, 3, 3⟩
def PRT_AESRXSTAT_PERR (n : Nat) : Field := ⟨0xD380 + 4 * n, 31, 16⟩
def PRT_CS_CSA (n : Nat) : Field := ⟨0xD400 + 64 * n, 31, 0⟩
def PRT_CS_CSB (n : Nat) : Field := ⟨0xD418 + 64 * n, 31, 0⟩
def PRT_CS_SEQ (n : Nat) : Field := ⟨0xD430 + 64 * n, 15, 0⟩
def PRT_CS_CRCBAD (n : Nat) : Field := ⟨0xD430 + 64 * n, 16, 16⟩
def PRT_CS_TS (n : Nat) : Field := ⟨0xD434 + 64 * n, 31, 0⟩
def PRT_CS_ZIDX (n : Nat) : Field := ⟨0xD438 + 64 * n, 31, 0⟩
def PRT_AESTXCFG_EN (n : Nat) : Field := ⟨0xD500 + 32 * n, 0, 0⟩
def PRT_AESTXCFG_RDIV (n : Nat) : Field := ⟨0xD500 + 32 * n, 2, 1⟩
def PRT_AESTXCFG_AUTOCRC (n : Nat) : Field := ⟨0xD500 + 32 * n, 3, 3⟩
def PRT_AESTXCFG_VFORCE (n : Nat) : Field := ⟨0xD500 + 32 * n, 4, 4⟩
def PRT_AESTXCFG_SLOT (n : Nat) : Field := ⟨0xD500 + 32 * n, 27, 16⟩
def PRT_AESTXCFG_UBASE (n : Nat) : Field := ⟨0xD504 + 32 * n, 31, 0⟩
def PRT_AESTXCFG_LOG2 (n : Nat) : Field := ⟨0xD508 + 32 * n, 4, 0⟩
def PRT_AESTXCFG_WP (n : Nat) : Field := ⟨0xD50C + 32 * n, 31, 0⟩
def PRT_AESTXCFG_RP (n : Nat) : Field := ⟨0xD510 + 32 * n, 31, 0⟩
def PRT_TXCS_CSA (n : Nat) : Field := ⟨0xD600 + 64 * n, 31, 0⟩
def PRT_TXCS_CSB (n : Nat) : Field := ⟨0xD618 + 64 * n, 31, 0⟩
def PRT_TXCS_PEND (n : Nat) : Field := ⟨0xD630 + 64 * n, 0, 0⟩
def PRT_TXCS_SEQ (n : Nat) : Field := ⟨0xD630 + 64 * n, 31, 16⟩
def PRT_TXCS_UUNDER (n : Nat) : Field := ⟨0xD634 + 64 * n, 15, 0⟩
def ASR_GRP_EN (n : Nat) : Field := ⟨0xE000 + 32 * n, 0, 0⟩
def ASR_GRP_ALIGN (n : Nat) : Field := ⟨0xE000 + 32 * n, 1, 1⟩
def ASR_GRP_BASE (n : Nat) : Field := ⟨0xE000 + 32 * n, 14, 8⟩
def ASR_GRP_COUNT (n : Nat) : Field := ⟨0xE000 + 32 * n, 21, 16⟩
def ASR_GRP_SLOT (n : Nat) : Field := ⟨0xE004 + 32 * n, 11, 0⟩
def ASR_GRP_TARGET (n : Nat) : Field := ⟨0xE008 + 32 * n, 19, 0⟩
def ASR_GRP_RATIO (n : Nat) : Field := ⟨0xE00C + 32 * n, 31, 0⟩
def ASR_GRP_STATE (n : Nat) : Field := ⟨0xE010 + 32 * n, 1, 0⟩
def ASR_GRP_FADING (n : Nat) : Field := ⟨0xE010 + 32 * n, 2, 2⟩
def ASR_GRP_AOFSLOW (n : Nat) : Field := ⟨0xE010 + 32 * n, 3, 3⟩
def ASR_GRP_LOSTS (n : Nat) : Field := ⟨0xE010 + 32 * n, 4, 4⟩
def ASR_GRP_GLITCH (n : Nat) : Field := ⟨0xE010 + 32 * n, 31, 16⟩
def ASR_GRP_AOFS (n : Nat) : Field := ⟨0xE014 + 32 * n, 19, 0⟩
def DEC_CTL_SPEND : Field := ⟨0xF000, 0, 0⟩
def DEC_CTL_SLATE : Field := ⟨0xF000, 1, 1⟩
def DEC_CTL_WERR : Field := ⟨0xF000, 16, 16⟩
def DEC_SYNCT_TICK : Field := ⟨0xF004, 31, 0⟩
def DEC_SYNCM0_MASK : Field := ⟨0xF008, 31, 0⟩
def DEC_SYNCM1_MASK : Field := ⟨0xF00C, 31, 0⟩
def DEC_CLK_EN (n : Nat) : Field := ⟨0xF010 + 4 * n, 0, 0⟩
def DEC_CLK_OSR (n : Nat) : Field := ⟨0xF010 + 4 * n, 2, 1⟩
def DEC_CH_EN (n : Nat) : Field := ⟨0xF100 + 16 * n, 0, 0⟩
def DEC_CH_EDGE (n : Nat) : Field := ⟨0xF100 + 16 * n, 1, 1⟩
def DEC_CH_FIRM (n : Nat) : Field := ⟨0xF100 + 16 * n, 2, 2⟩
def DEC_CH_ORD (n : Nat) : Field := ⟨0xF100 + 16 * n, 4, 3⟩
def DEC_CH_RESP (n : Nat) : Field := ⟨0xF100 + 16 * n, 8, 5⟩
def DEC_CH_RCIC (n : Nat) : Field := ⟨0xF100 + 16 * n, 10, 9⟩
def DEC_CH_D (n : Nat) : Field := ⟨0xF100 + 16 * n, 12, 11⟩
def DEC_CH_CSET (n : Nat) : Field := ⟨0xF100 + 16 * n, 14, 13⟩
def DEC_CH_SLOT (n : Nat) : Field := ⟨0xF100 + 16 * n, 27, 16⟩
def DEC_CH_TAPS (n : Nat) : Field := ⟨0xF104 + 16 * n, 8, 0⟩
def DEC_CH_FGD (n : Nat) : Field := ⟨0xF104 + 16 * n, 31, 16⟩
def DEC_CH_DCEN (n : Nat) : Field := ⟨0xF108 + 16 * n, 0, 0⟩
def DEC_CH_DCF (n : Nat) : Field := ⟨0xF108 + 16 * n, 2, 1⟩
def DEC_CH_FRZ (n : Nat) : Field := ⟨0xF108 + 16 * n, 3, 3⟩
def DEC_CH_RMST (n : Nat) : Field := ⟨0xF108 + 16 * n, 7, 4⟩
def DEC_CH_ATK (n : Nat) : Field := ⟨0xF108 + 16 * n, 11, 8⟩
def DEC_CH_REL (n : Nat) : Field := ⟨0xF108 + 16 * n, 15, 12⟩
def DEC_STAT_INVALID (n : Nat) : Field := ⟨0xF500 + 4 * n, 0, 0⟩
def DEC_STAT_STUCK (n : Nat) : Field := ⟨0xF500 + 4 * n, 1, 1⟩
def DEC_STAT_STUCKS (n : Nat) : Field := ⟨0xF500 + 4 * n, 2, 2⟩
def DEC_STAT_LEFT (n : Nat) : Field := ⟨0xF500 + 4 * n, 21, 12⟩
def DEC_GDNS_GDNS (n : Nat) : Field := ⟨0xFA00 + 4 * n, 22, 0⟩
def DEC_DET_PKI (n : Nat) : Field := ⟨0xF600 + 16 * n, 31, 0⟩
def DEC_DET_PKH (n : Nat) : Field := ⟨0xF604 + 16 * n, 31, 0⟩
def DEC_DET_MS (n : Nat) : Field := ⟨0xF608 + 16 * n, 31, 0⟩
def DEC_DET_ENV (n : Nat) : Field := ⟨0xF60C + 16 * n, 31, 0⟩
def BUS_CTL_WERR : Field := ⟨0x20000, 16, 16⟩
def BUS_AGE_LIM : Field := ⟨0x20004, 15, 0⟩
def BUS_QOS_QOS (n : Nat) : Field := ⟨0x20100 + 4 * n, 3, 0⟩
def BUS_CONF_COUNT (n : Nat) : Field := ⟨0x20200 + 4 * n, 31, 0⟩
def BUS_COLL_COUNT (n : Nat) : Field := ⟨0x20300 + 4 * n, 31, 0⟩
def BUS_ECC_CORR (n : Nat) : Field := ⟨0x20400 + 8 * n, 15, 0⟩
def BUS_ECC_UNCORR (n : Nat) : Field := ⟨0x20400 + 8 * n, 31, 16⟩
def BUS_ECC_ADDR (n : Nat) : Field := ⟨0x20404 + 8 * n, 31, 0⟩
def BUS_DDRSTAT_PRESENT : Field := ⟨0x20500, 0, 0⟩
def BUS_DDRSTAT_TRAINED : Field := ⟨0x20500, 1, 1⟩
def BUS_DDRSTAT_SIZE : Field := ⟨0x20500, 4, 2⟩
def BUS_DDRSTAT_RATE : Field := ⟨0x20500, 6, 5⟩
def BUS_DDRSTAT_REFR : Field := ⟨0x20500, 10, 8⟩
def BUS_DDRSTAT_HOT : Field := ⟨0x20500, 11, 11⟩
def BUS_SCRUB_HOURS : Field := ⟨0x20504, 7, 0⟩
def BUS_SCRUB_PASSES : Field := ⟨0x20504, 31, 16⟩
def DMA_CTL_RST : Field := ⟨0x21000, 0, 0⟩
def DMA_CTL_WERR : Field := ⟨0x21000, 16, 16⟩
def DMA_STAT_ACC : Field := ⟨0x21004, 8, 0⟩
def DMA_STAT_ISS : Field := ⟨0x21004, 13, 9⟩
def DMA_STAT_HOLD : Field := ⟨0x21004, 14, 14⟩
def DMA_SUBMIT_DESC : Field := ⟨0x21008, 31, 0⟩
def DMA_SUBMIT_STAT_STATUS : Field := ⟨0x2100C, 7, 0⟩
def DMA_SUBMIT_STAT_BUSY : Field := ⟨0x2100C, 8, 8⟩
def DMA_CR_BASE_BASE : Field := ⟨0x21020, 31, 0⟩
def DMA_CR_LEN_LOG2 : Field := ⟨0x21024, 4, 0⟩
def DMA_CR_WP_WP : Field := ⟨0x21028, 31, 0⟩
def DMA_CR_RP_RP : Field := ⟨0x2102C, 31, 0⟩
def DMA_CR_OVWR_OVWR : Field := ⟨0x21030, 31, 0⟩
def HST_ID_PART : Field := ⟨0x2000000, 15, 0⟩
def HST_ID_GRADE : Field := ⟨0x2000000, 19, 16⟩
def HST_ID_REV : Field := ⟨0x2000000, 27, 20⟩
def HST_STAT_POR : Field := ⟨0x2000004, 0, 0⟩
def HST_STAT_HRST : Field := ⟨0x2000004, 1, 1⟩
def HST_STAT_WREF : Field := ⟨0x2000004, 31, 16⟩
def HST_BADW_COUNT : Field := ⟨0x2000008, 15, 0⟩
def HST_QSTAT_CMDFREE (n : Nat) : Field := ⟨0x2000100 + 64 * n, 8, 0⟩
def HST_QSTAT_CREF (n : Nat) : Field := ⟨0x2000100 + 64 * n, 9, 9⟩
def HST_QSTAT_BREF (n : Nat) : Field := ⟨0x2000100 + 64 * n, 10, 10⟩
def HST_QSTAT_RUNDER (n : Nat) : Field := ⟨0x2000100 + 64 * n, 11, 11⟩
def HST_FIFO_WFREE (n : Nat) : Field := ⟨0x2000104 + 64 * n, 6, 0⟩
def HST_FIFO_BWFREE (n : Nat) : Field := ⟨0x2000104 + 64 * n, 18, 8⟩
def HST_FIFO_BRAVAIL (n : Nat) : Field := ⟨0x2000104 + 64 * n, 30, 20⟩
def HST_CMDWP_COUNT (n : Nat) : Field := ⟨0x2000108 + 64 * n, 31, 0⟩
def HST_CMDRP_COUNT (n : Nat) : Field := ⟨0x200010C + 64 * n, 31, 0⟩
def HST_CPLWP_COUNT (n : Nat) : Field := ⟨0x2000110 + 64 * n, 31, 0⟩
def HST_CPLRP_COUNT (n : Nat) : Field := ⟨0x2000114 + 64 * n, 31, 0⟩
def HST_REF_WREF (n : Nat) : Field := ⟨0x2000118 + 64 * n, 15, 0⟩
def HST_REF_SEQREF (n : Nat) : Field := ⟨0x2000118 + 64 * n, 31, 16⟩
def HST_IRQEN_CPL (n : Nat) : Field := ⟨0x200011C + 64 * n, 0, 0⟩
def HST_IRQST_CPL (n : Nat) : Field := ⟨0x2000120 + 64 * n, 0, 0⟩
def HST_IRQEN_MODE (n : Nat) : Field := ⟨0x200011C + 64 * n, 1, 1⟩
def HST_IRQST_MODE (n : Nat) : Field := ⟨0x2000120 + 64 * n, 1, 1⟩
def HST_IRQEN_HALT (n : Nat) : Field := ⟨0x200011C + 64 * n, 2, 2⟩
def HST_IRQST_HALT (n : Nat) : Field := ⟨0x2000120 + 64 * n, 2, 2⟩
def HST_IRQEN_REF (n : Nat) : Field := ⟨0x200011C + 64 * n, 3, 3⟩
def HST_IRQST_REF (n : Nat) : Field := ⟨0x2000120 + 64 * n, 3, 3⟩
def HST_IRQEN_FLT (n : Nat) : Field := ⟨0x200011C + 64 * n, 4, 4⟩
def HST_IRQST_FLT (n : Nat) : Field := ⟨0x2000120 + 64 * n, 4, 4⟩
def HST_MGEN_GEN (n : Nat) : Field := ⟨0x2000124 + 64 * n, 31, 0⟩
def MGT_ID_FWVER : Field := ⟨0x2800000, 15, 0⟩
def MGT_ID_SLOT : Field := ⟨0x2800000, 16, 16⟩
def MGT_ID_FALLBACK : Field := ⟨0x2800000, 17, 17⟩
def MGT_STAT_BUSY : Field := ⟨0x2800004, 0, 0⟩
def MGT_STAT_NVSTOP : Field := ⟨0x2800004, 1, 1⟩
def MGT_STAT_LOGDEG : Field := ⟨0x2800004, 2, 2⟩
def MGT_STAT_STAGED : Field := ⟨0x2800004, 3, 3⟩
def MGT_STAT_SPARES : Field := ⟨0x2800004, 23, 16⟩
def MGT_IRQEN_TEMP : Field := ⟨0x2800008, 0, 0⟩
def MGT_IRQST_TEMP : Field := ⟨0x280000C, 0, 0⟩
def MGT_IRQEN_RAIL : Field := ⟨0x2800008, 1, 1⟩
def MGT_IRQST_RAIL : Field := ⟨0x280000C, 1, 1⟩
def MGT_IRQEN_CLK : Field := ⟨0x2800008, 2, 2⟩
def MGT_IRQST_CLK : Field := ⟨0x280000C, 2, 2⟩
def MGT_IRQEN_LOG : Field := ⟨0x2800008, 3, 3⟩
def MGT_IRQST_LOG : Field := ⟨0x280000C, 3, 3⟩
def MGT_IRQEN_CMD : Field := ⟨0x2800008, 4, 4⟩
def MGT_IRQST_CMD : Field := ⟨0x280000C, 4, 4⟩
def MGT_IRQEN_SAG : Field := ⟨0x2800008, 5, 5⟩
def MGT_IRQST_SAG : Field := ⟨0x280000C, 5, 5⟩
def MGT_CMD_OP : Field := ⟨0x2800010, 7, 0⟩
def MGT_ARG_ARG (n : Nat) : Field := ⟨0x2800014 + 4 * n, 31, 0⟩
def MGT_CMDSTAT_STATUS : Field := ⟨0x2800020, 7, 0⟩
def MGT_CMDSTAT_OP : Field := ⟨0x2800020, 15, 8⟩
def MGT_TEMP_T (n : Nat) : Field := ⟨0x2800100 + 4 * n, 11, 0⟩
def MGT_TEMP_WARN (n : Nat) : Field := ⟨0x2800100 + 4 * n, 12, 12⟩
def MGT_TEMP_CRIT (n : Nat) : Field := ⟨0x2800100 + 4 * n, 13, 13⟩
def MGT_TEMP_WARNS (n : Nat) : Field := ⟨0x2800100 + 4 * n, 14, 14⟩
def MGT_TEMP_CRITS (n : Nat) : Field := ⟨0x2800100 + 4 * n, 15, 15⟩
def MGT_TLIM_WARN : Field := ⟨0x2800140, 11, 0⟩
def MGT_TLIM_CRIT : Field := ⟨0x2800140, 27, 16⟩
def MGT_RAIL_MV (n : Nat) : Field := ⟨0x2800200 + 4 * n, 11, 0⟩
def MGT_RAIL_UV (n : Nat) : Field := ⟨0x2800200 + 4 * n, 12, 12⟩
def MGT_RAIL_OV (n : Nat) : Field := ⟨0x2800200 + 4 * n, 13, 13⟩
def MGT_RAIL_UVS (n : Nat) : Field := ⟨0x2800200 + 4 * n, 14, 14⟩
def MGT_RAIL_OVS (n : Nat) : Field := ⟨0x2800200 + 4 * n, 15, 15⟩
def MGT_CLK_PPM (n : Nat) : Field := ⟨0x2800300 + 4 * n, 19, 0⟩
def MGT_CLK_ABSENT (n : Nat) : Field := ⟨0x2800300 + 4 * n, 20, 20⟩
def MGT_CLK_OFF (n : Nat) : Field := ⟨0x2800300 + 4 * n, 21, 21⟩
def MGT_CLK_ROOT (n : Nat) : Field := ⟨0x2800300 + 4 * n, 22, 22⟩
def MGT_CLK_TIME (n : Nat) : Field := ⟨0x2800300 + 4 * n, 23, 23⟩
def MGT_CLK_FAULTS (n : Nat) : Field := ⟨0x2800300 + 4 * n, 24, 24⟩
def MGT_LIFE_STATE : Field := ⟨0x2800400, 2, 0⟩
def MGT_LIFE_KEYS : Field := ⟨0x2800400, 7, 4⟩
def MGT_LIFE_REVOKED : Field := ⟨0x2800400, 11, 8⟩
def MGT_LOGSEQ_SEQ : Field := ⟨0x2800404, 31, 0⟩
def MGT_UPD_SEL : Field := ⟨0x2800408, 4, 0⟩
def MGT_UPD_AUTO : Field := ⟨0x2800408, 11, 8⟩
def MGT_UPD_BSEQ : Field := ⟨0x2800408, 31, 16⟩
def FLT_CTL_AUTO : Field := ⟨0x30000, 0, 0⟩
def FLT_CTL_REDIST : Field := ⟨0x30000, 1, 1⟩
def FLT_CTL_AUTOINT : Field := ⟨0x30000, 15, 8⟩
def FLT_CTL_WERR : Field := ⟨0x30000, 16, 16⟩
def FLT_SPARE_PHYS : Field := ⟨0x30004, 4, 0⟩
def FLT_SPARE_USED : Field := ⟨0x30004, 8, 8⟩
def FLT_SPARE_CAPLOST : Field := ⟨0x30004, 9, 9⟩
def FLT_SPARE_ROTREF : Field := ⟨0x30004, 10, 10⟩
def FLT_SPARE_ROTBUSY : Field := ⟨0x30004, 11, 11⟩
def FLT_RETIRED_CORES : Field := ⟨0x30008, 16, 0⟩
def FLT_LOST_POS : Field := ⟨0x3000C, 15, 0⟩
def FLT_REDIST_MASK : Field := ⟨0x30010, 15, 0⟩
def FLT_STAT_POLSKIP : Field := ⟨0x30014, 0, 0⟩
def FLT_ROT_POS : Field := ⟨0x30018, 4, 0⟩
def FLT_ROT_PHASE : Field := ⟨0x30018, 6, 5⟩
def FLT_ROT_DONE : Field := ⟨0x30018, 31, 16⟩
def FLT_TRES_TEST : Field := ⟨0x3001C, 7, 0⟩
def FLT_TRES_STATUS : Field := ⟨0x3001C, 15, 8⟩
def FLT_TRES_DETAIL : Field := ⟨0x3001C, 31, 16⟩
def FLT_POL_LIMIT (n : Nat) : Field := ⟨0x30040 + 4 * n, 7, 0⟩
def FLT_POL_WIN (n : Nat) : Field := ⟨0x30040 + 4 * n, 11, 8⟩
def FLT_POL_ACT (n : Nat) : Field := ⟨0x30040 + 4 * n, 13, 12⟩
def FLT_CNT_COUNT (n : Nat) : Field := ⟨0x30080 + 4 * n, 31, 0⟩
def FLT_RG_BASE_BASE : Field := ⟨0x30100, 31, 0⟩
def FLT_RG_LEN_LOG2 : Field := ⟨0x30104, 4, 0⟩
def FLT_RG_WP_WP : Field := ⟨0x30108, 31, 0⟩
def FLT_RG_RP_RP : Field := ⟨0x3010C, 31, 0⟩
def FLT_RG_OVWR_OVWR : Field := ⟨0x30110, 31, 0⟩

end Reg

/-- The rows of the register region of a quadrant, part 0. -/
def quadRows0 : List RegRow := [
  ⟨0x100, 0, 1, 0x3, 0x100, 0x0, 0x0, 0x0, 0x1⟩,
  ⟨0x104, 0, 1, 0x0, 0x0, 0x0, 0x0, 0x0, 0x0⟩,
  ⟨0x108, 0, 1, 0x0, 0x0, 0x0, 0x0, 0x0, 0x0⟩,
  ⟨0x10C, 0, 1, 0x0, 0x100, 0x0, 0x0, 0x0, 0x0⟩,
  ⟨0x110, 0, 1, 0x0, 0x0, 0x0, 0x0, 0x0, 0x0⟩,
  ⟨0x0, 0, 1, 0x0, 0x100, 0x0, 0x0, 0x0, 0x0⟩,
  ⟨0x4, 0, 1, 0x1, 0x100, 0x2, 0x0, 0x0, 0x0⟩,
  ⟨0x8, 0, 1, 0x0, 0x0, 0x0, 0x0, 0x0, 0x0⟩,
  ⟨0xC, 0, 1, 0x0, 0x0, 0x0, 0x0, 0x0, 0x0⟩,
  ⟨0x2000, 0, 1, 0x1FF, 0x10000, 0x0, 0x0, 0x0, 0x186⟩,
  ⟨0x2004, 0, 1, 0x0, 0x0, 0x0, 0x0, 0x0, 0x0⟩,
  ⟨0x2008, 0, 1, 0x0, 0x0, 0x0, 0x0, 0x0, 0x0⟩,
  ⟨0x200C, 0, 1, 0x0, 0x0, 0x0, 0xFFFF, 0x0, 0x0⟩,
  ⟨0x2020, 4, 8, 0x1FFF, 0x0, 0x0, 0x0, 0x0, 0x200⟩,
  ⟨0x2040, 4, 8, 0x0, 0x0, 0x0, 0x1FFF0000, 0x0, 0x0⟩,
  ⟨0x2100, 4, 16, 0x0, 0x0, 0x0, 0x0, 0x0, 0x0⟩,
  ⟨0x2140, 4, 16, 0x0, 0x0, 0x0, 0x1FFFF, 0x0, 0x0⟩,
  ⟨0x2200, 4, 32, 0x0, 0x0, 0x0, 0xFFFFFFFF, 0x0, 0x0⟩,
  ⟨0x2300, 0, 1, 0xFFFFFFFF, 0x0, 0x0, 0x0, 0x0, 0x0⟩,
  ⟨0x2304, 0, 1, 0xFFFFFFFF, 0x0, 0x0, 0x0, 0x0, 0x0⟩,
  ⟨0x2308, 0, 1, 0x0, 0x0, 0x7FFF, 0x0, 0x0, 0x0⟩,
  ⟨0x230C, 0, 1, 0x0, 0x0, 0x0, 0x0, 0x0, 0x0⟩,
  ⟨0x2310, 0, 1, 0x0, 0x0, 0xFFF, 0x0, 0x0, 0x0⟩,
  ⟨0x2314, 0, 1, 0x0, 0x0, 0x0, 0xFFFF00, 0x0, 0x40⟩,
  ⟨0x2320, 0, 1, 0xFFFFFFFF, 0x0, 0x0, 0x0, 0x0, 0x1074000⟩,
  ⟨0x2324, 0, 1, 0x1F, 0x0, 0x0, 0x0, 0x0, 0xC⟩,
  ⟨0x2328, 0, 1, 0x0, 0x0, 0x0, 0x0, 0x0, 0x0⟩,
  ⟨0x232C, 0, 1, 0xFFFFFFFF, 0x0, 0x0, 0x0, 0x0, 0x0⟩,
  ⟨0x2330, 0, 1, 0x0, 0x0, 0x0, 0xFFFFFFFF, 0x0, 0x0⟩,
  ⟨0x2400, 4, 64, 0xFFF7, 0x0, 0x0, 0x0, 0x0, 0x0⟩]

/-- The rows of the register region of a quadrant, part 1. -/
def quadRows1 : List RegRow := [
  ⟨0x2500, 4, 64, 0x0, 0x0, 0x0, 0x0, 0x0, 0x0⟩,
  ⟨0x3000, 0, 1, 0xF, 0x10000, 0x0, 0x0, 0x0, 0x8⟩,
  ⟨0x3004, 0, 1, 0x0, 0x0, 0x0, 0xFFFF, 0x0, 0x0⟩,
  ⟨0x3008, 0, 1, 0x0, 0x0, 0x0, 0xFFFF, 0x0, 0x0⟩,
  ⟨0x300C, 0, 1, 0x0, 0x0, 0x0, 0xFFFF, 0x0, 0x0⟩,
  ⟨0x3010, 0, 1, 0x0, 0x0, 0x0, 0xFFFF, 0x0, 0x0⟩,
  ⟨0x3014, 0, 1, 0x0, 0x0, 0x0, 0xFFFFFFFF, 0x0, 0x0⟩,
  ⟨0x8000, 4, 4096, 0xFFF7, 0x0, 0x0, 0x0, 0x0, 0x0⟩,
  ⟨0x3400, 0, 1, 0x1FFFF, 0x0, 0x0, 0x0, 0x0, 0x8000⟩,
  ⟨0x3404, 0, 1, 0x0, 0x0, 0x0, 0x0, 0x0, 0x0⟩,
  ⟨0x3408, 0, 1, 0x0, 0x0, 0x0, 0x1FFFF, 0x0, 0x0⟩,
  ⟨0x340C, 0, 1, 0x0, 0x100, 0x0, 0x0, 0x0, 0x0⟩,
  ⟨0x3410, 0, 1, 0x0, 0x0, 0x0, 0xFFFF, 0x0, 0x0⟩,
  ⟨0x3414, 0, 1, 0x0, 0x0, 0x0, 0xFFFFFFFF, 0x0, 0x0⟩,
  ⟨0x3418, 0, 1, 0x0, 0x0, 0x0, 0xFFFFFFFF, 0x0, 0x0⟩,
  ⟨0x341C, 0, 1, 0x0, 0x0, 0x0, 0x0, 0x0, 0x0⟩,
  ⟨0x3420, 0, 1, 0x0, 0x0, 0x0, 0x0, 0x0, 0x0⟩,
  ⟨0x3424, 0, 1, 0x0, 0x0, 0x0, 0xFFFF, 0x0, 0x0⟩,
  ⟨0x3428, 0, 1, 0x0, 0x0, 0x0, 0xFFFFFF, 0x0, 0x0⟩,
  ⟨0x342C, 0, 1, 0x0, 0x0, 0x0, 0xFFFF0000, 0x0, 0x400⟩,
  ⟨0x3430, 0, 1, 0x0, 0x0, 0x0, 0xFFFFFFFF, 0x0, 0x0⟩,
  ⟨0x3800, 0, 1, 0x1, 0x10000, 0x0, 0x0, 0x0, 0x0⟩,
  ⟨0x3804, 0, 1, 0x0, 0x0, 0x0, 0x0, 0x0, 0x0⟩,
  ⟨0x3808, 0, 1, 0x0, 0x0, 0x0, 0xFFFF0000, 0x0, 0x1000⟩,
  ⟨0x380C, 0, 1, 0x0, 0x0, 0x0, 0xFFFF, 0x0, 0x0⟩,
  ⟨0x3810, 0, 1, 0x0, 0x0, 0x0, 0xFFFFFFFF, 0x0, 0x0⟩,
  ⟨0x3820, 0, 1, 0xFFFFFFFF, 0x0, 0x0, 0x0, 0x0, 0x1075000⟩,
  ⟨0x3824, 0, 1, 0x1F, 0x0, 0x0, 0x0, 0x0, 0xA⟩,
  ⟨0x3828, 0, 1, 0x0, 0x0, 0x0, 0x0, 0x0, 0x0⟩,
  ⟨0x382C, 0, 1, 0xFFFFFFFF, 0x0, 0x0, 0x0, 0x0, 0x0⟩]

/-- The rows of the register region of a quadrant, part 2. -/
def quadRows2 : List RegRow := [
  ⟨0x3830, 0, 1, 0x0, 0x0, 0x0, 0xFFFFFFFF, 0x0, 0x0⟩,
  ⟨0x3900, 8, 16, 0x0, 0x0, 0x0, 0x0, 0x0, 0x0⟩,
  ⟨0x3904, 8, 16, 0x0, 0x0, 0x0, 0x0, 0x0, 0x0⟩,
  ⟨0x4000, 0, 1, 0x1, 0x10000, 0x0, 0x0, 0x0, 0x0⟩,
  ⟨0x4004, 0, 1, 0x1FFFF, 0x0, 0x0, 0x0, 0x0, 0x0⟩,
  ⟨0x4008, 0, 1, 0x0, 0x0, 0x0, 0x0, 0x0, 0x0⟩,
  ⟨0x400C, 0, 1, 0x0, 0x0, 0x0, 0xFFFF, 0x0, 0x0⟩,
  ⟨0x4010, 0, 1, 0x0, 0x0, 0x0, 0xFFFF, 0x0, 0x0⟩,
  ⟨0x4014, 0, 1, 0x0, 0x0, 0x0, 0xFFFF, 0x0, 0x0⟩,
  ⟨0x4018, 0, 1, 0x0, 0x0, 0x0, 0xFFFF, 0x0, 0x0⟩,
  ⟨0x401C, 0, 1, 0xFFF, 0xF0000, 0x0, 0x0, 0x0, 0x200⟩,
  ⟨0x4020, 0, 1, 0xFFFFFFFF, 0x0, 0x0, 0x0, 0x0, 0x0⟩,
  ⟨0x4024, 0, 1, 0xFFFFFFFF, 0x0, 0x0, 0x0, 0x0, 0x0⟩,
  ⟨0x4040, 4, 16, 0xFFFF1FFF, 0x0, 0x0, 0x0, 0x0, 0x0⟩,
  ⟨0x4080, 4, 16, 0x0, 0x0, 0x0, 0x0, 0x0, 0x0⟩,
  ⟨0x40C0, 4, 16, 0x0, 0x0, 0x0, 0x0, 0x0, 0x0⟩,
  ⟨0x4100, 4, 16, 0xFFFFFFFF, 0x0, 0x0, 0x0, 0x0, 0x0⟩,
  ⟨0x4140, 4, 16, 0x0, 0x0, 0x0, 0x0, 0x0, 0x0⟩,
  ⟨0x4180, 4, 8, 0x0, 0x0, 0x0, 0x0, 0x0, 0x0⟩,
  ⟨0x5000, 0, 1, 0x1, 0x10000, 0x0, 0x0, 0x0, 0x1⟩,
  ⟨0x5004, 0, 1, 0xF1, 0x0, 0x0, 0x0, 0x0, 0x90⟩,
  ⟨0x5008, 0, 1, 0xF1F1F, 0x0, 0x0, 0x0, 0x0, 0x30F09⟩,
  ⟨0x500C, 0, 1, 0x3FFFFFFF, 0x0, 0x0, 0x0, 0x0, 0x147D0C8⟩,
  ⟨0x5010, 0, 1, 0xFFF00FF, 0x0, 0x0, 0x0, 0x0, 0xA0014⟩,
  ⟨0x5014, 0, 1, 0x0, 0x7F0000, 0x0, 0x0, 0x0, 0x24⟩,
  ⟨0x5018, 0, 1, 0x0, 0x0, 0x0, 0x0, 0x0, 0x0⟩,
  ⟨0x501C, 0, 1, 0x0, 0x0, 0x0, 0x0, 0x0, 0x0⟩,
  ⟨0x5020, 0, 1, 0x0, 0x0, 0x0, 0x0, 0x0, 0x0⟩,
  ⟨0x5024, 0, 1, 0x0, 0x0, 0x0, 0x0, 0x0, 0x0⟩,
  ⟨0x5040, 4, 10, 0x7FFFFFFF, 0x0, 0x0, 0x0, 0x0, 0x8000⟩]

/-- The rows of the register region of a quadrant, part 3. -/
def quadRows3 : List RegRow := [
  ⟨0x5080, 4, 10, 0x0, 0x0, 0x0, 0xFFFF0000, 0x0, 0x0⟩,
  ⟨0x50C0, 4, 10, 0x0, 0x0, 0x0, 0x0, 0x0, 0x0⟩,
  ⟨0x7000, 32, 32, 0xFFFFFF7F, 0x0, 0x0, 0x0, 0x0, 0x0⟩,
  ⟨0x7400, 32, 32, 0xFFFFFF7F, 0x0, 0x0, 0x0, 0x0, 0x0⟩,
  ⟨0x7004, 32, 32, 0x3FFFF, 0x0, 0x0, 0x0, 0x0, 0x0⟩,
  ⟨0x7404, 32, 32, 0x3FFFF, 0x0, 0x0, 0x0, 0x0, 0x0⟩,
  ⟨0x7008, 32, 32, 0xFFFFFFFF, 0x0, 0x0, 0x0, 0x0, 0x0⟩,
  ⟨0x7408, 32, 32, 0xFFFFFFFF, 0x0, 0x0, 0x0, 0x0, 0x0⟩,
  ⟨0x700C, 32, 32, 0xFFFF03FF, 0x0, 0x0, 0x0, 0x0, 0x0⟩,
  ⟨0x740C, 32, 32, 0xFFFF03FF, 0x0, 0x0, 0x0, 0x0, 0x0⟩,
  ⟨0x7010, 32, 32, 0xFFFFFFFF, 0x0, 0x0, 0x0, 0x0, 0x0⟩,
  ⟨0x7410, 32, 32, 0xFFFFFFFF, 0x0, 0x0, 0x0, 0x0, 0x0⟩,
  ⟨0x7014, 32, 32, 0xFFFFFFFF, 0x0, 0x0, 0x0, 0x0, 0x0⟩,
  ⟨0x7414, 32, 32, 0xFFFFFFFF, 0x0, 0x0, 0x0, 0x0, 0x0⟩,
  ⟨0x7018, 32, 32, 0x7F, 0x0, 0x0, 0x0, 0x0, 0x0⟩,
  ⟨0x7418, 32, 32, 0x7F, 0x0, 0x0, 0x0, 0x0, 0x0⟩,
  ⟨0x701C, 32, 32, 0x0, 0x0, 0x0, 0x0, 0x0, 0x0⟩,
  ⟨0x741C, 32, 32, 0x0, 0x0, 0x0, 0x0, 0x0, 0x0⟩,
  ⟨0x6000, 0, 1, 0x1FFFF, 0x80000000, 0x0, 0x0, 0x0, 0x103E8⟩,
  ⟨0x6004, 0, 1, 0x0, 0x3C, 0x0, 0x0, 0x0, 0x0⟩,
  ⟨0x6008, 0, 1, 0x0, 0x0, 0x0, 0x0, 0x0, 0x0⟩,
  ⟨0x600C, 0, 1, 0x0, 0x0, 0x0, 0x0, 0x0, 0x0⟩,
  ⟨0x6010, 0, 1, 0x0, 0x0, 0x0, 0x0, 0x0, 0x0⟩,
  ⟨0x6014, 0, 1, 0xFFFFFFFF, 0x0, 0x0, 0x0, 0x0, 0x33333333⟩,
  ⟨0x6018, 0, 1, 0xF, 0x0, 0x0, 0x0, 0x0, 0x3⟩,
  ⟨0x601C, 0, 1, 0xFFFFFF, 0x0, 0x0, 0x0, 0x0, 0x0⟩,
  ⟨0x6020, 0, 1, 0xFFFFFFFF, 0x0, 0x0, 0x0, 0x0, 0x0⟩,
  ⟨0x6024, 0, 1, 0xFFFFFFFF, 0x0, 0x0, 0x0, 0x0, 0x0⟩,
  ⟨0x6028, 0, 1, 0xFFFFFFFF, 0x0, 0x0, 0x0, 0x0, 0x0⟩,
  ⟨0x602C, 0, 1, 0x0, 0x0, 0x7, 0x0, 0x0, 0x0⟩]

/-- The rows of the register region of a quadrant, part 4. -/
def quadRows4 : List RegRow := [
  ⟨0x6030, 0, 1, 0x0, 0x0, 0x0, 0x0, 0x0, 0x0⟩,
  ⟨0x6100, 4, 16, 0x1F, 0x0, 0x0, 0x0, 0x0, 0x0⟩,
  ⟨0x6180, 0, 1, 0x0, 0x0, 0x0, 0x0, 0x0, 0x0⟩,
  ⟨0x6184, 0, 1, 0x0, 0x0, 0x0, 0x0, 0x0, 0x0⟩,
  ⟨0x6200, 8, 8, 0x0, 0x0, 0xFFFFFFFF, 0x0, 0x0, 0x0⟩,
  ⟨0x6204, 8, 8, 0x0, 0x0, 0x1, 0x0, 0x0, 0x1000⟩,
  ⟨0x6240, 8, 8, 0xFFFFFFFF, 0x0, 0x0, 0x0, 0x0, 0x0⟩,
  ⟨0x6244, 8, 8, 0xFFFFFFFF, 0x0, 0x0, 0x0, 0x0, 0x0⟩,
  ⟨0x6280, 0, 1, 0x0, 0xFFFF, 0x0, 0xFFFF0000, 0x0, 0x0⟩,
  ⟨0x6800, 0, 1, 0xF, 0x80000000, 0x0, 0x0, 0x0, 0x0⟩,
  ⟨0x6810, 4, 2, 0x3, 0x0, 0x0, 0x0, 0x0, 0x0⟩,
  ⟨0x6818, 4, 2, 0xFFFFFFFF, 0x0, 0x0, 0x0, 0x0, 0x0⟩,
  ⟨0x6820, 8, 2, 0x0, 0x0, 0x0, 0xFFFFFFFF, 0x0, 0x0⟩,
  ⟨0x6824, 8, 2, 0x0, 0x0, 0x0, 0xFFFFFFFF, 0x0, 0x0⟩,
  ⟨0x6840, 16, 2, 0xFFFFFFFF, 0x0, 0x0, 0x0, 0x0, 0x0⟩,
  ⟨0x6860, 16, 2, 0xFFFFFFFF, 0x0, 0x0, 0x0, 0x0, 0x0⟩,
  ⟨0x6844, 16, 2, 0xF, 0x0, 0x0, 0x0, 0x0, 0x8⟩,
  ⟨0x6864, 16, 2, 0xF, 0x0, 0x0, 0x0, 0x0, 0x8⟩,
  ⟨0x6848, 16, 2, 0xFFFFFFFF, 0x0, 0x0, 0x0, 0x0, 0x0⟩,
  ⟨0x6868, 16, 2, 0x0, 0x0, 0x0, 0x0, 0x0, 0x0⟩,
  ⟨0x684C, 16, 2, 0x0, 0x0, 0x0, 0x0, 0x0, 0x0⟩,
  ⟨0x686C, 16, 2, 0xFFFFFFFF, 0x0, 0x0, 0x0, 0x0, 0x0⟩,
  ⟨0x6900, 8, 64, 0xFFFFFFFF, 0x0, 0x0, 0x0, 0x0, 0x0⟩,
  ⟨0x6904, 8, 64, 0x3FFFF, 0x0, 0x0, 0x0, 0x0, 0x0⟩,
  ⟨0x7800, 8, 32, 0x0, 0x0, 0x0, 0xFFFFFFFF, 0x0, 0x0⟩,
  ⟨0x7804, 8, 32, 0x0, 0x0, 0x0, 0xFFFF, 0x0, 0x0⟩,
  ⟨0x7900, 8, 32, 0x0, 0x0, 0x0, 0xFFFFFFFF, 0x0, 0x0⟩,
  ⟨0xC000, 0, 1, 0x87FFFFFF, 0x0, 0x0, 0x0, 0x0, 0x0⟩,
  ⟨0xC004, 0, 1, 0x0, 0x10000, 0x3F07, 0x0, 0x0, 0x0⟩,
  ⟨0xC008, 0, 1, 0x0, 0x3F0000, 0x0, 0x0, 0x0, 0x0⟩]

/-- The rows of the register region of a quadrant, part 5. -/
def quadRows5 : List RegRow := [
  ⟨0xC010, 0, 1, 0xFFFFFFFF, 0x0, 0x0, 0x0, 0x0, 0x0⟩,
  ⟨0xC014, 0, 1, 0x0, 0x0, 0x0, 0x0, 0x0, 0x0⟩,
  ⟨0xC018, 0, 1, 0x0, 0x0, 0x0, 0x0, 0x0, 0x0⟩,
  ⟨0xC01C, 0, 1, 0x0, 0x0, 0x0, 0x0, 0x0, 0x0⟩,
  ⟨0xC020, 0, 1, 0x0, 0x0, 0x0, 0x0, 0x0, 0x0⟩,
  ⟨0xC028, 4, 2, 0x0, 0x0, 0x0, 0x0, 0x0, 0x0⟩,
  ⟨0xC030, 4, 2, 0xFFFF, 0x0, 0x0, 0x0, 0x0, 0x0⟩,
  ⟨0xC040, 8, 4, 0xFFF7FF, 0x0, 0x0, 0x0, 0x0, 0x0⟩,
  ⟨0xC060, 8, 8, 0xFFF7FF, 0x0, 0x0, 0x0, 0x0, 0x0⟩,
  ⟨0xC044, 8, 4, 0xFFF, 0x0, 0x0, 0x0, 0x0, 0x0⟩,
  ⟨0xC064, 8, 8, 0xFFF, 0x0, 0x0, 0x0, 0x0, 0x0⟩,
  ⟨0xC0A0, 0, 1, 0x0, 0x0, 0x0, 0xFFFFFFFF, 0x0, 0x0⟩,
  ⟨0xC0A4, 0, 1, 0x0, 0x0, 0x0, 0xFFFFFFFF, 0x0, 0x0⟩,
  ⟨0xC0A8, 0, 1, 0x0, 0x0, 0x0, 0xFFFF, 0x0, 0x0⟩,
  ⟨0xD000, 0, 1, 0x0, 0x10000, 0x0, 0x0, 0x0, 0x0⟩,
  ⟨0xE180, 0, 1, 0x0, 0x10000, 0x0, 0x0, 0x0, 0x0⟩,
  ⟨0xD100, 32, 8, 0x7FFFFF, 0x0, 0x0, 0x0, 0x0, 0x5C0000⟩,
  ⟨0xD104, 32, 8, 0x3FF, 0x0, 0x0, 0x0, 0x0, 0x40⟩,
  ⟨0xD108, 32, 8, 0x3F0FFF, 0x0, 0x0, 0x0, 0x0, 0x0⟩,
  ⟨0xD10C, 32, 8, 0x3F0FFF, 0x0, 0x0, 0x0, 0x0, 0x0⟩,
  ⟨0xD110, 32, 8, 0xFFFFFFFF, 0x0, 0x0, 0x0, 0x0, 0x0⟩,
  ⟨0xD114, 32, 8, 0xFFFFFFFF, 0x0, 0x0, 0x0, 0x0, 0x0⟩,
  ⟨0xD200, 16, 8, 0x0, 0x0, 0x0, 0x0, 0x0, 0x0⟩,
  ⟨0xD204, 16, 8, 0x0, 0x2, 0x0, 0xFFFF0000, 0x0, 0x0⟩,
  ⟨0xD208, 16, 8, 0x0, 0x0, 0x0, 0x0, 0x0, 0x0⟩,
  ⟨0xD20C, 16, 8, 0x0, 0x0, 0x0, 0xFFFFFFFF, 0x0, 0x0⟩,
  ⟨0xD300, 32, 4, 0x7, 0x0, 0x0, 0x0, 0x0, 0x4⟩,
  ⟨0xD304, 32, 4, 0xFFFFFFFF, 0x0, 0x0, 0x0, 0x0, 0x0⟩,
  ⟨0xD308, 32, 4, 0x1F, 0x0, 0x0, 0x0, 0x0, 0xC⟩,
  ⟨0xD30C, 32, 4, 0x0, 0x0, 0x0, 0x0, 0x0, 0x0⟩]

/-- The rows of the register region of a quadrant, part 6. -/
def quadRows6 : List RegRow := [
  ⟨0xD310, 32, 4, 0xFFFFFFFF, 0x0, 0x0, 0x0, 0x0, 0x0⟩,
  ⟨0xD380, 4, 4, 0x0, 0xE, 0x0, 0xFFFF0000, 0x0, 0x0⟩,
  ⟨0xD400, 64, 4, 0x0, 0x0, 0x0, 0x0, 0x0, 0x0⟩,
  ⟨0xD404, 64, 4, 0x0, 0x0, 0x0, 0x0, 0x0, 0x0⟩,
  ⟨0xD408, 64, 4, 0x0, 0x0, 0x0, 0x0, 0x0, 0x0⟩,
  ⟨0xD40C, 64, 4, 0x0, 0x0, 0x0, 0x0, 0x0, 0x0⟩,
  ⟨0xD410, 64, 4, 0x0, 0x0, 0x0, 0x0, 0x0, 0x0⟩,
  ⟨0xD414, 64, 4, 0x0, 0x0, 0x0, 0x0, 0x0, 0x0⟩,
  ⟨0xD418, 64, 4, 0x0, 0x0, 0x0, 0x0, 0x0, 0x0⟩,
  ⟨0xD41C, 64, 4, 0x0, 0x0, 0x0, 0x0, 0x0, 0x0⟩,
  ⟨0xD420, 64, 4, 0x0, 0x0, 0x0, 0x0, 0x0, 0x0⟩,
  ⟨0xD424, 64, 4, 0x0, 0x0, 0x0, 0x0, 0x0, 0x0⟩,
  ⟨0xD428, 64, 4, 0x0, 0x0, 0x0, 0x0, 0x0, 0x0⟩,
  ⟨0xD42C, 64, 4, 0x0, 0x0, 0x0, 0x0, 0x0, 0x0⟩,
  ⟨0xD430, 64, 4, 0x0, 0x0, 0x0, 0x0, 0x0, 0x0⟩,
  ⟨0xD434, 64, 4, 0x0, 0x0, 0x0, 0x0, 0x0, 0x0⟩,
  ⟨0xD438, 64, 4, 0x0, 0x0, 0x0, 0x0, 0x0, 0x0⟩,
  ⟨0xD500, 32, 4, 0xFFF001F, 0x0, 0x0, 0x0, 0x0, 0x8⟩,
  ⟨0xD504, 32, 4, 0xFFFFFFFF, 0x0, 0x0, 0x0, 0x0, 0x0⟩,
  ⟨0xD508, 32, 4, 0x1F, 0x0, 0x0, 0x0, 0x0, 0xC⟩,
  ⟨0xD50C, 32, 4, 0xFFFFFFFF, 0x0, 0x0, 0x0, 0x0, 0x0⟩,
  ⟨0xD510, 32, 4, 0x0, 0x0, 0x0, 0x0, 0x0, 0x0⟩,
  ⟨0xD600, 64, 4, 0xFFFFFFFF, 0x0, 0x0, 0x0, 0x0, 0x0⟩,
  ⟨0xD604, 64, 4, 0xFFFFFFFF, 0x0, 0x0, 0x0, 0x0, 0x0⟩,
  ⟨0xD608, 64, 4, 0xFFFFFFFF, 0x0, 0x0, 0x0, 0x0, 0x0⟩,
  ⟨0xD60C, 64, 4, 0xFFFFFFFF, 0x0, 0x0, 0x0, 0x0, 0x0⟩,
  ⟨0xD610, 64, 4, 0xFFFFFFFF, 0x0, 0x0, 0x0, 0x0, 0x0⟩,
  ⟨0xD614, 64, 4, 0xFFFFFFFF, 0x0, 0x0, 0x0, 0x0, 0x0⟩,
  ⟨0xD618, 64, 4, 0xFFFFFFFF, 0x0, 0x0, 0x0, 0x0, 0x0⟩,
  ⟨0xD61C, 64, 4, 0xFFFFFFFF, 0x0, 0x0, 0x0, 0x0, 0x0⟩]

/-- The rows of the register region of a quadrant, part 7. -/
def quadRows7 : List RegRow := [
  ⟨0xD620, 64, 4, 0xFFFFFFFF, 0x0, 0x0, 0x0, 0x0, 0x0⟩,
  ⟨0xD624, 64, 4, 0xFFFFFFFF, 0x0, 0x0, 0x0, 0x0, 0x0⟩,
  ⟨0xD628, 64, 4, 0xFFFFFFFF, 0x0, 0x0, 0x0, 0x0, 0x0⟩,
  ⟨0xD62C, 64, 4, 0xFFFFFFFF, 0x0, 0x0, 0x0, 0x0, 0x0⟩,
  ⟨0xD630, 64, 4, 0x0, 0x0, 0x0, 0x0, 0x0, 0x0⟩,
  ⟨0xD634, 64, 4, 0x0, 0x0, 0x0, 0xFFFF, 0x0, 0x0⟩,
  ⟨0xE000, 32, 12, 0x3F7F03, 0x0, 0x0, 0x0, 0x0, 0x0⟩,
  ⟨0xE004, 32, 12, 0xFFF, 0x0, 0x0, 0x0, 0x0, 0x0⟩,
  ⟨0xE008, 32, 12, 0xFFFFF, 0x0, 0x0, 0x0, 0x0, 0x0⟩,
  ⟨0xE00C, 32, 12, 0x0, 0x0, 0x0, 0x0, 0x0, 0x0⟩,
  ⟨0xE010, 32, 12, 0x0, 0x18, 0x0, 0xFFFF0000, 0x0, 0x0⟩,
  ⟨0xE014, 32, 12, 0x0, 0x0, 0x0, 0x0, 0x0, 0x0⟩,
  ⟨0xF000, 0, 1, 0x0, 0x10002, 0x0, 0x0, 0x0, 0x0⟩,
  ⟨0xF004, 0, 1, 0xFFFFFFFF, 0x0, 0x0, 0x0, 0x0, 0x0⟩,
  ⟨0xF008, 0, 1, 0xFFFFFFFF, 0x0, 0x0, 0x0, 0x0, 0x0⟩,
  ⟨0xF00C, 0, 1, 0xFFFFFFFF, 0x0, 0x0, 0x0, 0x0, 0x0⟩,
  ⟨0xF010, 4, 8, 0x7, 0x0, 0x0, 0x0, 0x0, 0x0⟩,
  ⟨0xF100, 16, 64, 0xFFF7FFF, 0x0, 0x0, 0x0, 0x0, 0x8⟩,
  ⟨0xF104, 16, 64, 0xFFFF01FF, 0x0, 0x0, 0x0, 0x0, 0x0⟩,
  ⟨0xF108, 16, 64, 0xFFFF, 0x0, 0x0, 0x0, 0x0, 0x3363⟩,
  ⟨0xF10C, 16, 64, 0x0, 0x0, 0x0, 0x0, 0x0, 0x0⟩,
  ⟨0xF500, 4, 64, 0x0, 0x4, 0x0, 0x0, 0x0, 0x0⟩,
  ⟨0xFA00, 4, 64, 0x0, 0x0, 0x0, 0x0, 0x0, 0x0⟩,
  ⟨0xF600, 16, 64, 0x0, 0x0, 0x0, 0x0, 0x0, 0x0⟩,
  ⟨0xF604, 16, 64, 0x0, 0x0, 0x0, 0xFFFFFFFF, 0x0, 0x0⟩,
  ⟨0xF608, 16, 64, 0x0, 0x0, 0x0, 0x0, 0x0, 0x0⟩,
  ⟨0xF60C, 16, 64, 0x0, 0x0, 0x0, 0x0, 0x0, 0x0⟩,
  ⟨0x20000, 0, 1, 0x0, 0x10000, 0x0, 0x0, 0x0, 0x0⟩,
  ⟨0x20004, 0, 1, 0xFFFF, 0x0, 0x0, 0x0, 0x0, 0x1000⟩,
  ⟨0x20100, 4, 23, 0xF, 0x0, 0x0, 0x0, 0x0, 0x0⟩]

/-- The rows of the register region of a quadrant, part 8. -/
def quadRows8 : List RegRow := [
  ⟨0x20200, 4, 23, 0x0, 0x0, 0x0, 0xFFFFFFFF, 0x0, 0x0⟩,
  ⟨0x20300, 4, 23, 0x0, 0x0, 0x0, 0xFFFFFFFF, 0x0, 0x0⟩,
  ⟨0x20400, 8, 4, 0x0, 0x0, 0x0, 0xFFFFFFFF, 0x0, 0x0⟩,
  ⟨0x20404, 8, 4, 0x0, 0x0, 0x0, 0x0, 0x0, 0x0⟩,
  ⟨0x20500, 0, 1, 0x0, 0x800, 0x0, 0x0, 0x0, 0x0⟩,
  ⟨0x20504, 0, 1, 0xFF, 0x0, 0x0, 0x0, 0x0, 0x18⟩,
  ⟨0x21000, 0, 1, 0x0, 0x10000, 0x1, 0x0, 0x0, 0x0⟩,
  ⟨0x21004, 0, 1, 0x0, 0x0, 0x0, 0x0, 0x0, 0x0⟩,
  ⟨0x21008, 0, 1, 0x0, 0x0, 0xFFFFFFFF, 0x0, 0x0, 0x0⟩,
  ⟨0x2100C, 0, 1, 0x0, 0x0, 0x0, 0x0, 0x0, 0x0⟩,
  ⟨0x21020, 0, 1, 0xFFFFFFFF, 0x0, 0x0, 0x0, 0x0, 0x1076000⟩,
  ⟨0x21024, 0, 1, 0x1F, 0x0, 0x0, 0x0, 0x0, 0xA⟩,
  ⟨0x21028, 0, 1, 0x0, 0x0, 0x0, 0x0, 0x0, 0x0⟩,
  ⟨0x2102C, 0, 1, 0xFFFFFFFF, 0x0, 0x0, 0x0, 0x0, 0x0⟩,
  ⟨0x21030, 0, 1, 0x0, 0x0, 0x0, 0xFFFFFFFF, 0x0, 0x0⟩,
  ⟨0x30000, 0, 1, 0xFF03, 0x10000, 0x0, 0x0, 0x0, 0x3C00⟩,
  ⟨0x30004, 0, 1, 0x0, 0x0, 0x0, 0x0, 0x0, 0x10⟩,
  ⟨0x30008, 0, 1, 0x0, 0x0, 0x0, 0x0, 0x0, 0x0⟩,
  ⟨0x3000C, 0, 1, 0x0, 0x0, 0x0, 0x0, 0x0, 0x0⟩,
  ⟨0x30010, 0, 1, 0xFFFF, 0x0, 0x0, 0x0, 0x0, 0x0⟩,
  ⟨0x30014, 0, 1, 0x0, 0x1, 0x0, 0x0, 0x0, 0x0⟩,
  ⟨0x30018, 0, 1, 0x0, 0x0, 0x0, 0x0, 0x0, 0x0⟩,
  ⟨0x3001C, 0, 1, 0x0, 0x0, 0x0, 0x0, 0x0, 0x0⟩,
  ⟨0x30044, 4, 5, 0x3FFF, 0x0, 0x0, 0x0, 0x0, 0xE00⟩,
  ⟨0x30058, 0, 1, 0x3F00, 0x0, 0x0, 0x0, 0x0, 0xE00⟩,
  ⟨0x30084, 4, 6, 0x0, 0x0, 0x0, 0xFFFFFFFF, 0x0, 0x0⟩,
  ⟨0x30100, 0, 1, 0xFFFFFFFF, 0x0, 0x0, 0x0, 0x0, 0x1077000⟩,
  ⟨0x30104, 0, 1, 0x1F, 0x0, 0x0, 0x0, 0x0, 0x8⟩,
  ⟨0x30108, 0, 1, 0x0, 0x0, 0x0, 0x0, 0x0, 0x0⟩,
  ⟨0x3010C, 0, 1, 0xFFFFFFFF, 0x0, 0x0, 0x0, 0x0, 0x0⟩,
  ⟨0x30110, 0, 1, 0x0, 0x0, 0x0, 0xFFFFFFFF, 0x0, 0x0⟩]

/-- The rows of the register region of a quadrant. -/
def quadRows : List RegRow := quadRows0 ++ quadRows1 ++ quadRows2 ++ quadRows3 ++ quadRows4 ++ quadRows5 ++ quadRows6 ++ quadRows7 ++ quadRows8

/-- The rows of the host domain, part 0. -/
def hostRows0 : List RegRow := [
  ⟨0x2000000, 0, 1, 0x0, 0x0, 0x0, 0x0, 0x0, 0x1024⟩,
  ⟨0x2000004, 0, 1, 0x0, 0x3, 0x0, 0xFFFF0000, 0x0, 0x3⟩,
  ⟨0x2000008, 0, 1, 0x0, 0x0, 0x0, 0xFFFF, 0x0, 0x0⟩,
  ⟨0x2000100, 64, 4, 0x0, 0xE00, 0x0, 0x0, 0x0, 0x100⟩,
  ⟨0x2000104, 64, 4, 0x0, 0x0, 0x0, 0x0, 0x0, 0x40040⟩,
  ⟨0x2000108, 64, 4, 0x0, 0x0, 0x0, 0x0, 0x0, 0x0⟩,
  ⟨0x200010C, 64, 4, 0x0, 0x0, 0x0, 0x0, 0x0, 0x0⟩,
  ⟨0x2000110, 64, 4, 0x0, 0x0, 0x0, 0x0, 0x0, 0x0⟩,
  ⟨0x2000114, 64, 4, 0x0, 0x0, 0x0, 0x0, 0x0, 0x0⟩,
  ⟨0x2000118, 64, 4, 0x0, 0x0, 0x0, 0xFFFFFFFF, 0x0, 0x0⟩,
  ⟨0x200011C, 64, 4, 0x1F, 0x0, 0x0, 0x0, 0x0, 0x0⟩,
  ⟨0x2000120, 64, 4, 0x0, 0x1A, 0x0, 0x0, 0x0, 0x0⟩,
  ⟨0x2000124, 64, 4, 0x0, 0x0, 0x0, 0x0, 0x0, 0x0⟩,
  ⟨0x2800000, 0, 1, 0x0, 0x0, 0x0, 0x0, 0x0, 0x0⟩,
  ⟨0x2800004, 0, 1, 0x0, 0x0, 0x0, 0x0, 0x0, 0x0⟩,
  ⟨0x2800008, 0, 1, 0x3F, 0x0, 0x0, 0x0, 0x0, 0x0⟩,
  ⟨0x280000C, 0, 1, 0x0, 0x3F, 0x0, 0x0, 0x0, 0x0⟩,
  ⟨0x2800010, 0, 1, 0x0, 0x0, 0xFF, 0x0, 0x0, 0x0⟩,
  ⟨0x2800014, 4, 3, 0xFFFFFFFF, 0x0, 0x0, 0x0, 0x0, 0x0⟩,
  ⟨0x2800020, 0, 1, 0x0, 0x0, 0x0, 0x0, 0x0, 0x0⟩,
  ⟨0x2800100, 4, 9, 0x0, 0xC000, 0x0, 0x0, 0x0, 0x0⟩,
  ⟨0x2800140, 0, 1, 0xFFF0FFF, 0x0, 0x0, 0x0, 0x0, 0x0⟩,
  ⟨0x2800200, 4, 9, 0x0, 0xC000, 0x0, 0x0, 0x0, 0x0⟩,
  ⟨0x2800300, 4, 5, 0x0, 0x1000000, 0x0, 0x0, 0x0, 0x0⟩,
  ⟨0x2800400, 0, 1, 0x0, 0x0, 0x0, 0x0, 0x0, 0x0⟩,
  ⟨0x2800404, 0, 1, 0x0, 0x0, 0x0, 0x0, 0x0, 0x0⟩,
  ⟨0x2800408, 0, 1, 0x0, 0x0, 0x0, 0x0, 0x0, 0x0⟩]

/-- The rows of the host domain. -/
def hostRows : List RegRow := hostRows0

/-- The row of an offset in a list of rows. -/
def rowOf (rows : List RegRow) (off : Nat) : Option RegRow := rows.find? (·.has off)

/-- Reset values that a table states by index: the rank of candidate 9, REALIGN of candidates 6 to 8 (R300), the channel count
of the four AES3 groups (R384), the QoS of each master (R409), and the DRAM rate when there is no board record (R420). -/
def resetSpecial (off : Nat) : W32 :=
  if off = Reg.CLK_REFCFG 9 then (Reg.CLK_REFCFG_RANK 9).put 0 15
  else if off = Reg.CLK_REFCFG 6 ∨ off = Reg.CLK_REFCFG 7 ∨ off = Reg.CLK_REFCFG 8 then (Reg.CLK_REFCFG_REALIGN 6).put 0 1
  else if off = Reg.ASR_GRP 8 ∨ off = Reg.ASR_GRP 9 ∨ off = Reg.ASR_GRP 10 ∨ off = Reg.ASR_GRP 11 then
    (Reg.ASR_GRP_COUNT 8).put 0 2
  else if Reg.BUS_QOS 0 ≤ off ∧ off ≤ Reg.BUS_QOS 22 then
    let m := (off - Reg.BUS_QOS 0) / 4
    (Reg.BUS_QOS_QOS 0).put 0
      (if m ≤ 16 then 8 else if m ≤ 18 then 12 else if m = 19 then 0 else if m = 20 then 4 else 10)
  else if off = Reg.BUS_DDRSTAT then Reg.BUS_DDRSTAT_RATE.put 0 3
  else 0

/-- The value a quadrant register holds after a quadrant reset (R10). -/
def quadReset (off : Nat) : W32 :=
  match rowOf quadRows off with
  | some r => r.reset ||| resetSpecial off
  | none => 0

end Sys2Proof.Machine
end

