-- ==== Sys2Proof/Syntax.lean ====
section
/-! DEFINITION. The commands of the OUV1024: one constructor of `Instr` per row of spec/opcode_table.json, with the
operands the row's rule gives it. What comes from outside the chip (a pin, a frame, an edge, a captured bit, a memory upset)
is an operand of the command that brings it. -/

namespace Sys2Proof

/-- A quadrant (R4, R17). -/
inductive QId where
  | q0 | q1 | q2 | q3
  deriving DecidableEq, Repr

/-- The number of a quadrant. -/
def QId.num : QId → Nat
  | .q0 => 0 | .q1 => 1 | .q2 => 2 | .q3 => 3

/-- Who writes or reads a register: positions 0 to 15, or the host, 16 (R303, R425). -/
abbrev Writer := Fin 17
/-- The host as a writer. -/
def Writer.host : Writer := 16

/-- A loss of lock (R49): how long it lasted, in nanoseconds, and whether the time PLL lost its lock as well (R281). -/
structure ClockLoss where
  ns : Nat
  time : Bool
  deriving DecidableEq, Repr

/-- An edge at a candidate's source: its time after the start of the tick, in root cycles (R280), and whether a pin fell (R277). -/
structure EdgeAt where
  at_ : W32
  fall : Bool
  deriving DecidableEq, Repr

/-- An upset that strikes just before a command (R80, R416): the address of the word of memory and whether SECDED can correct it; or a
word of the scheduler's state (`inside` false) or of Kiln's (true), which have no address (R473). -/
structure Upset where
  addr : Nat
  uncorr : Bool
  inside : Option Bool := none
  deriving DecidableEq, Repr

/-- One issue of an instruction by physical core `c` of quadrant `q`: its S bit (R119), its PMOVE field (R146), whether a
must-be-zero field of its word is not zero (R121), an upset that strikes first, and whether the lockstep comparison
of R94 finds a difference in what this issue does. -/
structure Issue where
  q : QId
  c : Fin 17
  sat : Bool
  pm : BitVec 24
  rsv : Bool
  upset : Option Upset
  mism : Bool
  deriving DecidableEq, Repr

/-- The operand y of the data ALU (R139): a register, or an immediate of 11 bits. -/
inductive Src where
  | reg (d : Fin 16)
  | imm (k : BitVec 11)
  deriving DecidableEq, Repr

/-- What a tick boundary takes from outside: the levels at EMG_IN (R270), the bits each modulator input captured in the
tick (R391), and whether the lockstep comparison found a difference (R267). -/
structure BoundaryEnv where
  emg : BitVec 4
  bits : List (Fin 64 × List Bool)
  mism : Bool
  deriving DecidableEq, Repr

/-- The DRAM that answers at a quadrant reset (R420): the SIZE code of BUS_DDRSTAT, and whether training succeeded. -/
structure DramBoard where
  size : BitVec 3
  trained : Bool
  deriving DecidableEq, Repr

/-- A route run on which the two pipelines disagree (R217): its destination and which of the sums is wrong. -/
structure RunUpset where
  dst : BitVec 12
  wrongA : Bool
  wrongB : Bool
  deriving DecidableEq, Repr

/-- A received Ethernet frame without its FCS, and whether the FCS was good (R313). -/
structure EthFrame where
  bytes : List Byte
  fcsOk : Bool
  deriving DecidableEq, Repr

/-- A received RTP packet of a stream (R325): sequence number, timestamp, source, payload type, and for each sample
time one 24-bit sample per channel (an L16 sample left-aligned). -/
structure RtpPacket where
  seq : BitVec 16
  rtp : W32
  ssrc : W32
  pt : BitVec 7
  samples : List (List (BitVec 24))
  deriving DecidableEq, Repr

/-- A domain decision in the message area (R336). -/
structure Decision where
  id : BitVec 16
  go : Bool
  t : W32
  deriving DecidableEq, Repr

/-- A message cell (R337). `typ`: 1 JOIN, 2 JOINACK, 3 LEAVE, 4 YIELD, 5 HEAL. -/
structure MsgCell where
  typ : BitVec 8
  src : BitVec 8
  dst : BitVec 8
  result : BitVec 8
  tk : W64
  sl : BitVec 8
  fsl : BitVec 8
  fl : BitVec 16
  ffl : BitVec 16
  deriving DecidableEq, Repr

/-- The PREPARE record of a frame (R336). -/
structure PrepRec where
  id : BitVec 16
  scene : BitVec 8
  a : W32
  t : W64
  deriving DecidableEq, Repr

/-- The message area of a frame (R336). -/
structure MsgArea where
  prep : Option PrepRec
  report : Option (BitVec 16)
  ready : W64
  nready : W64
  decisions : List Decision
  asl : BitVec 8
  afsl : BitVec 8
  afl : BitVec 16
  affl : BitVec 16
  nsl : BitVec 8
  dfl : BitVec 16
  nfl : BitVec 16
  leff : Option W32
  weff : Option W32
  nwrap : Bool
  members : W64
  cells : List MsgCell
  deriving DecidableEq, Repr

/-- A channel that a frame carries present (R338): its position and its four samples. -/
structure Chan where
  pos : BitVec 11
  smp : List W40
  deriving DecidableEq, Repr

/-- A Stanex frame (R334, R335): header, message area, present channels, and whether its CRC is good. -/
structure SnxFrame where
  tick : W64
  tstart : W64
  acc : W32
  mofs : W32
  domid : BitVec 16
  mgr : BitVec 6
  stamped : Bool
  wrap : Bool
  origin : BitVec 6
  turn : BitVec 2
  fi : BitVec 2
  ring : Bool
  hops : BitVec 8
  dsl : BitVec 8
  msg : MsgArea
  chans : List Chan
  crcOk : Bool
  deriving DecidableEq, Repr

/-- An AES3 frame as received (R370, R371): whether it began with a Z preamble, and for subframes A and B the 24 audio
bits and the validity, user and channel-status bits; `par` is a parity error. -/
structure AesFrame where
  z : Bool
  a : BitVec 24
  b : BitVec 24
  va : Bool
  vb : Bool
  ua : Bool
  ub : Bool
  ca : Bool
  cb : Bool
  par : Bool
  deriving DecidableEq, Repr

/-- What begins at a frame edge (R370): the X or Z preamble of a subframe A, Z the first of a block, or the Y preamble of a subframe B. A
frame of a serial port begins at an `x`. -/
inductive Preamble where
  | x | y | z
  deriving DecidableEq, Repr

/-- A port block that PORT_ENABLE acts on (R384). -/
inductive PortBlock where
  | tdm (p : Fin 8)
  | rx (r : Fin 4)
  | tx (t : Fin 4)
  deriving DecidableEq, Repr

/-- A Mladcel sensor reading (R456). -/
inductive Reading where
  | temp (n : Fin 9) (t : BitVec 12)
  | rail (r : Fin 9) (mv : BitVec 12)
  | osc (c : Fin 5) (ppm : BitVec 20) (absent : Bool)
  | pll (c : Fin 5) (root time : Bool)
  deriving DecidableEq, Repr

/-- Where a host posted-write FIFO drains (R437). -/
inductive HostFifo where
  | quad (q : QId)
  | hostDomain
  deriving DecidableEq, Repr

/-- The commands, in the order of spec/opcode_table.json. -/
inductive Instr where
  -- multiply family (R126 to R129)
  | mpy (i : Issue) (an : Fin 4) (dx dy : Fin 16)
  | mac (i : Issue) (an : Fin 4) (dx dy : Fin 16)
  | msu (i : Issue) (an : Fin 4) (dx dy : Fin 16)
  | mpy2 (i : Issue) (an : Fin 4) (dx dy du dv : Fin 16)
  | mac2 (i : Issue) (an : Fin 4) (dx dy du dv : Fin 16)
  | msu2 (i : Issue) (an : Fin 4) (dx dy du dv : Fin 16)
  | mas2 (i : Issue) (an : Fin 4) (dx dy du dv : Fin 16)
  | dualMultiply (i : Issue) (op1 op2 : BitVec 2) (an : Fin 4) (dx dy : Fin 16) (am : Fin 4) (du dv : Fin 16)
  -- accumulator arithmetic (R130 to R133)
  | clrAcc (i : Issue) (an : Fin 4)
  | amovD (i : Issue) (an : Fin 4) (dx : Fin 16)
  | amovAcc (i : Issue) (an am : Fin 4)
  | aadd (i : Issue) (an am ak : Fin 4)
  | asub (i : Issue) (an am ak : Fin 4)
  | aneg (i : Issue) (an am : Fin 4)
  | aabs (i : Issue) (an am : Fin 4)
  | ashAcc (i : Issue) (an am : Fin 4) (k : BitVec 7)
  | ex2 (i : Issue) (an : Fin 4) (dx : Fin 16)
  | tsta (i : Issue) (am : Fin 4)
  -- extract group (R134 to R138)
  | ext (i : Issue) (dd : Fin 16) (an : Fin 4) (rnd : BitVec 2) (k : BitVec 6)
  | extl (i : Issue) (dd : Fin 16) (an : Fin 4)
  | nrma (i : Issue) (dd : Fin 16) (an : Fin 4)
  | lg2 (i : Issue) (dd : Fin 16) (an : Fin 4)
  | bqs (i : Issue) (dq : Fin 16) (an : Fin 4) (dx : Fin 16) (rnd : BitVec 2) (k : BitVec 6)
  -- data ALU and shifts (R139 to R142)
  | add (i : Issue) (dd dx : Fin 16) (y : Src)
  | sub (i : Issue) (dd dx : Fin 16) (y : Src)
  | adc (i : Issue) (dd dx : Fin 16) (y : Src)
  | sbc (i : Issue) (dd dx : Fin 16) (y : Src)
  | neg (i : Issue) (dd dx : Fin 16)
  | abs (i : Issue) (dd dx : Fin 16)
  | min (i : Issue) (dd dx : Fin 16) (y : Src)
  | max (i : Issue) (dd dx : Fin 16) (y : Src)
  | clip (i : Issue) (dd dx : Fin 16) (y : Src)
  | clrD (i : Issue) (dd : Fin 16)
  | cmp (i : Issue) (dx : Fin 16) (y : Src)
  | tst (i : Issue) (dx : Fin 16)
  | sel (i : Issue) (dd dx dy : Fin 16) (cc : BitVec 4)
  | nrm (i : Issue) (dd dx : Fin 16)
  | asl (i : Issue) (dd dx : Fin 16) (y : Src)
  | asr (i : Issue) (dd dx : Fin 16) (y : Src)
  | lsl (i : Issue) (dd dx : Fin 16) (y : Src)
  | lsr (i : Issue) (dd dx : Fin 16) (y : Src)
  | ashD (i : Issue) (dd dx : Fin 16) (y : Src)
  -- logic (R143)
  | and (i : Issue) (dd dx dy : Fin 16)
  | or (i : Issue) (dd dx dy : Fin 16)
  | xor (i : Issue) (dd dx dy : Fin 16)
  | andn (i : Issue) (dd dx dy : Fin 16)
  | not (i : Issue) (dd dx : Fin 16)
  -- moves (R146 to R153, R88, R104)
  | nop (i : Issue)
  | movesAlone (i : Issue)
  | busAccess (i : Issue) (store : Bool) (reg : BitVec 6) (p : Fin 8) (w : BitVec 2) (mode : BitVec 3) (val : BitVec 8)
  | xyAccess (i : Issue) (store : Bool) (reg : BitVec 6) (p : Fin 8) (mode : BitVec 3) (val : BitVec 8)
  | fence (i : Issue)
  | mov (i : Issue) (rd rs : BitVec 6)
  | ldi (i : Issue) (rd : BitVec 6) (imm : W40)
  | mfs (i : Issue) (dd : Fin 16) (sys : BitVec 4)
  | mts (i : Issue) (sys : BitVec 4) (dx : Fin 16)
  | xmov (i : Issue) (rd rs : BitVec 6) (dir : Bool)
  | clrc (i : Issue) (p : Fin 8)
  -- control flow (R154 to R156, R87, R66, R109 to R115)
  | brTarget (i : Issue) (cc : BitVec 4) (target : PAddr)
  | brReg (i : Issue) (cc : BitVec 4) (dx : Fin 16)
  | callTarget (i : Issue) (target : PAddr)
  | callReg (i : Issue) (dx : Fin 16)
  | ret (i : Issue)
  | rte (i : Issue)
  | jpm (i : Issue) (target : PAddr)
  | dbnz (i : Issue) (dx : Fin 16) (target : PAddr)
  | repImm (i : Issue) (n1 : BitVec 10)
  | repReg (i : Issue) (dx : Fin 16)
  | brk (i : Issue)
  -- scheduler and Kiln instructions (R157 to R161)
  | req (i : Issue)
  | done (i : Issue)
  | spawn (i : Issue) (dx : Fin 16)
  | spawnNb (i : Issue) (dd dx : Fin 16)
  | cancel (i : Issue) (dd dx : Fin 16)
  | frel (i : Issue)
  | pfs (i : Issue) (dd : Fin 16)
  | kld (i : Issue) (dd : Fin 16)
  | kfg (i : Issue) (dd : Fin 16)
  -- core events
  | busLoadLand (q : QId) (c : Fin 17) (k : Nat)
  | busStoreComplete (q : QId) (c : Fin 17)
  | eventEntry (q : QId) (c : Fin 17)
  | evtPost (q : QId) (pos : Fin 16)
  | debugPortEvent (q : QId) (c : Fin 17)
  | eccWriteback (q : QId) (addr : Nat)
  -- tick, modes, resets and start-up
  | tickBoundary (q : QId) (env : BoundaryEnv)
  | qctlRateWrite (q : QId) (v : W32)
  | qctlTickRead (q : QId)
  | gridStart (q : QId)
  | modeRun (q : QId) (seq : W32)
  | modeStandby (q : QId) (seq : W32)
  | modeService (q : QId) (seq : W32)
  | modeHardpan (q : QId) (seq : W32)
  | modeHalt (q : QId) (seq : W32)
  | modeChangeEffect (q : QId)
  | porAssert
  | quadrantResetPin (q : QId) (lowNs : Nat)
  | softReset (q : QId)
  | clockLossReset (q : QId) (lost : ClockLoss)
  | resetRelease (q : QId)
  | porRelease (vddHpMv : Nat)
  | supplyPorHold (coreMv mgtMv : Nat)
  | supplyHoldRelease (coreMv mgtMv : Nat)
  | scourStart (q : QId) (dram : DramBoard)
  | scourComplete (q : QId) (emg : BitVec 4)
  | remapWrite (q : QId) (remap : Bool)
  | autostartDelivery (q : QId) (corrupt : Bool)
  | autostartDigestCheck (q : QId)
  -- scheduler
  | taskAssign (q : QId) (pos : Fin 16)
  | schArmBind (q : QId) (w : Writer) (task : BitVec 12)
  | schArmUnbind (q : QId) (w : Writer) (task : BitVec 12)
  | schArmTickPeriodic (q : QId) (w : Writer) (task : BitVec 12)
  | schArmTimePeriodic (q : QId) (w : Writer) (task : BitVec 12)
  | schArmOneshotTick (q : QId) (w : Writer) (task : BitVec 12)
  | schArmOneshotTime (q : QId) (w : Writer) (task : BitVec 12)
  | schArmDisarm (q : QId) (w : Writer) (task : BitVec 12)
  | tickListExpiry (q : QId)
  | timeListExpiry (q : QId)
  | heldMakeReadyAccept (q : QId)
  | mailboxWrite (q : QId) (fromHost : Bool) (v : W32)
  | mailboxDrain (q : QId)
  | flowCfgWrite (q : QId) (f : Fin 64) (v : W32)
  -- fabric, slots and meters
  | fabricPass (q : QId) (upsets : List RunUpset)
  | fabricVote (q : QId)
  | xchOwnWrite (q : QId) (slot : BitVec 12) (v : W32)
  | routeTableWrite (q : QId) (w : Writer) (offset : BitVec 19) (data : List Byte)
  | directWriteResume (q : QId)
  | meterPeriodEnd (q : QId)
  | meterPeriodWrite (q : QId) (mper : BitVec 4)
  -- Kiln
  | prepare (q : QId) (seq : W32) (id : BitVec 16) (scene : BitVec 8) (t : W64)
  | domainPrepare (q : QId) (seq : W32) (id : BitVec 16) (scene : BitVec 8) (t : W64)
  | commit (q : QId) (seq : W32) (id : BitVec 16)
  | abort (q : QId) (seq : W32) (id : BitVec 16)
  | commitMissed (q : QId) (id : BitVec 16)
  | commitStage (q : QId) (id : BitVec 16)
  | commitTakeEffect (q : QId) (id : BitVec 16)
  | crossfadeEnd (q : QId) (gen : Fin 16)
  | generatorWaitRetry (q : QId)
  -- Hardpan
  | hpnEnable (q : QId)
  | hpnDisable (q : QId)
  | hpnVerify (q : QId)
  | hpnVerifyResult (q : QId)
  | lockstepEnable (q : QId)
  | hpnScheduleStart (q : QId)
  | hpnWatchdog (q : QId)
  -- references and DPLL
  | referenceEdge (q : QId) (n : Fin 10) (dev : Int) (edge : EdgeAt)
  | referenceEdgeMissing (q : QId) (n : Fin 10)
  | freqGateEnd (q : QId) (n : Fin 10) (ppm : W32)
  | waitToRestoreExpiry (q : QId) (n : Fin 10)
  | clkSelWrite (q : QId) (v : W32)
  | refcfgRankWrite (q : QId) (n : Fin 10) (rank : BitVec 4)
  | cmdRefsel (q : QId) (seq : W32) (ranks sel mode : Bool) (force : BitVec 4) (rank07 : W32) (rank89 : BitVec 8)
  -- time counter
  | timIncrFrWrite (q : QId) (v : W32)
  | timIncrNsWrite (q : QId) (v : BitVec 4)
  | timNowRead (q : QId) (w : Writer)
  | slewStart (q : QId) (cyc : W32)
  | slewEnd (q : QId)
  | timeStepAdd (q : QId) (w : Writer) (permit : Bool)
  | timeStepSet (q : QId) (w : Writer) (permit : Bool)
  | suspectClear (q : QId)
  -- Ethernet, GPIO and streams
  | ethFrameReceive (q : QId) (p : Fin 2) (f : EthFrame)
  | txRingPost (q : QId) (p : Fin 2) (wp : W32)
  | txLaunch (q : QId) (p : Fin 2)
  | txFrameDone (q : QId) (p : Fin 2)
  | gpioCapture (q : QId) (pin : Fin 16) (rise : Bool)
  | gpioCapturePop (q : QId)
  | gpioLaunchQueue (q : QId) (pin : Fin 8) (lvl : Bool)
  | gpioLaunch (q : QId) (pin : Fin 8)
  | streamEnable (q : QId) (rx : Bool) (s : Fin 32)
  | streamPacketReceive (q : QId) (p : Fin 2) (s : Fin 32) (pkt : RtpPacket)
  | streamSampleDeadline (q : QId) (s : Fin 32)
  | streamLostTimeout (q : QId) (s : Fin 32)
  | streamPacketSend (q : QId) (s : Fin 32)
  -- Stanex
  | snxEnable (q : QId) (en : Bool)
  | linkBlockLock (q : QId) (p : Fin 2)
  | linkUp (q : QId) (p : Fin 2)
  | linkDown (q : QId) (p : Fin 2)
  | delayProbeReceive (q : QId) (p : Fin 2) (roundTrip turnaround : Nat)
  | frameLaunch (q : QId)
  | stanexFramePass (q : QId) (p : Fin 2) (bytes : List Byte)
  | frameMissing (q : QId)
  | standbyTakeover (q : QId)
  | managerStart (q : QId)
  | snxJoin (q : QId)
  | joinRetry (q : QId)
  | memberEntry (q : QId)
  | snxLeave (q : QId)
  | snxYield (q : QId) (ymid : BitVec 6)
  | yieldHandover (q : QId)
  | wrapChange (q : QId)
  | heal (q : QId)
  | levelChange (q : QId)
  -- serial ports, AES3 and rate converters
  | portEnable (q : QId) (b : PortBlock)
  | serialFrame (q : QId) (p : Fin 8) (bits : List Bool)
  | serialLost (q : QId) (p : Fin 8)
  | maskWrite (q : QId) (p : Fin 8) (input : Bool) (mask : W32)
  | maskChangeEffect (q : QId) (p : Fin 8) (input : Bool)
  | aes3FrameReceive (q : QId) (r : Fin 4) (f : AesFrame)
  | csLatchRead (q : QId) (w : Writer) (r : Fin 4)
  | txcsWrite (q : QId) (t : Fin 4) (word : Fin 12) (v : W32)
  | txcsApply (q : QId) (t : Fin 4)
  | asrcGroupEnable (q : QId) (g : Fin 12)
  | asrcFrameEdge (q : QId) (g : Fin 12) (dev : Int) (ratio : W32) (pre : Preamble)
  | asrcFrameMissing (q : QId) (g : Fin 12)
  -- decimators
  | modClockEnable (q : QId) (c : Fin 8) (en : Bool)
  | decInputEnable (q : QId) (n : Fin 64) (en : Bool)
  | syncArm (q : QId) (key : W32)
  | syncReset (q : QId)
  | stuckDetect (q : QId) (n : Fin 64)
  -- DMA, bus and memory
  | dmaSubmit (q : QId) (w : Writer) (desc : W32)
  | dmaDescriptorCopied (q : QId) (w : Writer)
  | dmaIssue (q : QId)
  | dmaComplete (q : QId) (k : Nat)
  | dmaReset (q : QId)
  | qosAgePromote (q : QId) (m : Fin 23)
  | patrolScrub (q : QId) (found : List Upset)
  -- host port and commands
  | hostWrite (addr : BitVec 26) (be : BitVec 4) (v : W32)
  | hostWriteDrain (f : HostFifo)
  | bulkWrite (q : QId) (v : W32)
  | bulkRead (q : QId)
  | cmdWpWrite (q : QId) (v : W32)
  | cplRpWrite (q : QId) (v : W32)
  | commandAccept (q : QId)
  | cmdLoad (q : QId) (seq : W32) (addr : W36) (len : W32) (dig : Bool) (slot : Fin 8)
  | loadContinue (q : QId)
  | cmdWrite (q : QId) (seq : W32) (addr : W36) (be : BitVec 4) (v : W32)
  | cmdRead (q : QId) (seq : W32) (addr : W36) (words : BitVec 16)
  | readContinue (q : QId)
  | cmdCancel (q : QId) (seq : W32) (task : BitVec 12)
  | cmdRotate (q : QId) (seq : W32) (pos : BitVec 5)
  | cmdAuger (q : QId) (seq : W32)
  | windowRefresh (q : QId)
  | statusModeRead (q : QId)
  | hostDomainReset
  | completionReplay (q : QId)
  -- Mladcel
  | mladcelStart
  | mladcelWatchdog
  | sensorSample (r : Reading)
  | logWrite (wornBlock : Bool)
  | quadrantEventPass (q : QId)
  | stageOpen (target : BitVec 3) (len : W32)
  | stageWrite (off bytes : W32)
  | stageVerify
  | activate (target : BitVec 3) (auto : Bool)
  | logRead (seq : W32)
  | recordWrite
  | lifecycle (st : BitVec 3) (confirm : W32)
  | keyProgram (slot : Fin 4)
  | keyRevoke (slot : Fin 4)
  | mgtCommandComplete
  | supplySag (mgtMv : Nat)
  | nvWriteResume (mgtMv : Nat)
  -- faults, spares and tests
  | faultPolicyAction (q : QId) (cls : Fin 6)
  | rotateMove (q : QId)
  | rotateAbandon (q : QId)
  | coreTestDone (q : QId) (pass : Bool) (phase : BitVec 16)
  | autoRotate (q : QId)
  | coreRepairMove (q : QId)
  | testCore (q : QId) (seq : W32) (b c : W32)
  | testSramBist (q : QId) (seq : W32) (b c : W32)
  | testDramBist (q : QId) (seq : W32) (b c : W32)
  | testSerdesRecal (q : QId) (seq : W32) (b c : W32)
  | testDecimator (q : QId) (seq : W32) (b c : W32)
  | testAsrc (q : QId) (seq : W32) (b c : W32)
  | testEthLoopback (q : QId) (seq : W32) (b c : W32)
  | testFabric (q : QId) (seq : W32) (b c : W32)
  | testCustomer (q : QId) (seq : W32) (b c : W32)
  | testDone (q : QId) (pass : Bool) (detail : BitVec 16)
  -- registers with no row of their own, and late rows
  | registerWrite (q : QId) (w : Writer) (off : BitVec 20) (be : BitVec 4) (v : W32)
  | rcRegisterRead (q : QId) (w : Writer) (off : BitVec 26) (counted : List Nat)
  | ethLinkChange (q : QId) (p : Fin 2) (up : Bool)
  | aes3FrameTransmit (q : QId) (t : Fin 4)
  | schedulerAnswer (q : QId) (c : Fin 17)
  | stuckClear (q : QId) (n : Fin 64)
  | dramRefresh (q : QId) (refr : BitVec 3) (hot : Bool)
  deriving DecidableEq, Repr

end Sys2Proof
end

