-- ==== Sys2Proof/Machine/State.lean ====
section
/-! DEFINITION. The state of the OUV1024 as plain data: four quadrants, the host domain, and the queue of waiting commands.
Registers live sparsely at their addresses (`regs`; an address not listed holds its reset value); what the spec gives the
machine besides registers has a typed field of its own, and a register that shows such state is computed where it is read. -/

namespace Sys2Proof.Machine

/-- A sparse map by number. -/
abbrev SMap (α : Type) := List (Nat × α)

/-- A memory: (address, byte) pairs with rising addresses and no zero byte; an unlisted address reads zero (R53). -/
abbrev Memory := List Host.Cell

/-- The modes of a quadrant (R40). -/
inductive Mode where
  | scour | standby | run | hardpan | service | halt
  deriving DecidableEq, Repr

/-! ### A core (spec/03 R67) -/

/-- A register named by a register code (R150). -/
inductive Rg where
  | d (n : Fin 16) | p (n : Fin 8) | m (n : Fin 8) | b (n : Fin 8) | l (n : Fin 8) | a (n : Fin 4)
  deriving DecidableEq, Repr

/-- One register set (R67), with the held base and length of each pointer (R102) and the return stack (R156), whose newest
entry comes first. -/
structure RegSet where
  d : Vector W40 16 := Vector.replicate 16 0
  a : Vector W96 4 := Vector.replicate 4 0
  p : Vector W36 8 := Vector.replicate 8 0
  m : Vector W36 8 := Vector.replicate 8 0
  b : Vector W36 8 := Vector.replicate 8 0
  l : Vector W24 8 := Vector.replicate 8 0
  st : W32 := 0
  heldB : Vector (Option W36) 8 := Vector.replicate 8 none
  heldL : Vector (Option W24) 8 := Vector.replicate 8 none
  stack : List PAddr := []
  deriving DecidableEq, Repr

/-- Where a result goes. `acc` tells whether a multiply-family instruction made it (R129); `flags` writes the bits of Z, N, V,
C under a mask; `sticky` sets bits of ST; `sys` is the write of `mts`. -/
inductive Dst where
  | reg (r : Rg) (v : W40)
  | acc (n : Fin 4) (v : W96) (mul : Bool)
  | flags (mask val : BitVec 4)
  | sticky (bits : W32)
  | sys (s : BitVec 4) (v : W32)
  deriving DecidableEq, Repr

/-- A result in flight: the set that issued it (R83), the cycles until it is readable (R117), and where it goes. -/
structure Flight where
  set : Bool
  due : Nat
  dst : Dst
  deriving DecidableEq, Repr

/-- What a read of a memory met (R80, R416). -/
inductive Ecc where
  | clean | corr | uncorr
  deriving DecidableEq, Repr

/-- An outstanding bus request (R108) and the code of its target. A load carries the set and register it will land in, none once a
later write to that register supersedes it (R116), and the data and error that its target gave. -/
structure BusReq where
  store : Bool
  set : Bool
  dst : Option Rg
  val : W40
  ecc : Ecc
  tgt : Nat := 0
  deriving DecidableEq, Repr

/-- A question put to the scheduler by `spawn.nb` or `cancel` (R157): the task operand, and the set and register that receive
the answer. -/
structure Ask where
  cancel : Bool
  arg : W40
  set : Bool
  dd : Option (Fin 16)
  deriving DecidableEq, Repr

/-- What a register set of a core waits for: a task (`req`, R157), or room (`spawn`, R157: the task). -/
inductive Wait where
  | none | req
  | spawn (task : Nat)
  deriving DecidableEq, Repr

/-- An instance of a task (spec/07 R166 to R171): the task, the level it was queued at, its ready time in FCLK cycles, the
tick it was made ready in, whether the tick made it, whether it is an event instance, its flow and sequence number. -/
structure Inst where
  task : Nat
  level : Nat
  ready : Nat
  tick : W64
  bound : Bool
  evt : Bool
  flow : Option (Nat × Nat)
  deriving DecidableEq, Repr

/-- A running instance: its Kiln word (R161), whether it issued `frel` (R158), whether the fabric substituted zeros for it
(R170), the status its faults give so far, for a Hardpan instance its schedule entry, and CTX as its start read it (R164). -/
structure Run where
  inst : Inst
  word : W40
  frel : Bool
  charged : Bool
  status : Nat
  entry : Option Nat
  ctx : Nat := 0
  deriving DecidableEq, Repr

/-- A core (R67): both register sets and whether set 1 is active; the program counter and the system registers; pending events (R85);
delay slots still to issue and the target behind them (R155); repetitions still to issue (R110); results in flight, bus requests and the
question to the scheduler; what each set waits for; the task instance of set 0, one assigned while a handler runs (R90), the
instance of an EVT handler; parked (R55), boot fetch (R66), stopped (R80, R89); the position held and the lock (R61, R94); busy
cycles (R194), dropped window writes and the window addresses of the words that the core stored in its present cycle (R77), the bytes of scratch banks 30 and 31 that it stored in it with what stood
there and what it wrote (R407).
`cyc` counts the cycles begun since the boundary: CYC is one less (R68). -/
structure Core where
  set0 : RegSet := {}
  set1 : RegSet := {}
  act : Bool := false
  pc : PAddr := 0
  epc : PAddr := 0
  evs : W32 := 0
  evb : PAddr := 0
  evm : W32 := 0
  cyc : W32 := 0
  pendEvt : Option Inst := none
  pendTick : Bool := false
  pendDbg : Bool := false
  slots : Nat := 0
  target : Option PAddr := none
  rep : Nat := 0
  flights : List Flight := []
  reqs : List BusReq := []
  ask : Option Ask := none
  wait : Wait := .none
  evWait : Wait := .none
  run : Option Run := none
  assigned : Option Inst := none
  evtRun : Option Run := none
  parked : Bool := false
  bootFetch : Bool := true
  stopped : Bool := false
  pos : Fin 32 := 31
  lock : Bool := false
  busy : Nat := 0
  coll : W32 := 0
  wrote : List Nat := []
  dual : List (Nat × Byte × Byte) := []
  deriving DecidableEq, Repr

/-! ### The scheduler (spec/07) -/

/-- A delay-list entry (R173): key, task, its period while periodic (R176), and whether it has expired and is held (R187). -/
structure DelayEntry where
  key : W64
  task : Nat
  period : Option Nat
  expired : Bool
  deriving DecidableEq, Repr

/-- A bound task (R175): from which tick, and the last tick once it is unbound. -/
structure Binding where
  task : Nat
  first : W64
  last : Option W64
  deriving DecidableEq, Repr

/-- An ordered flow (R183): the next sequence number, the count released, the outstanding sequence numbers that are releasable
(whether empty, and CTX of the instance), and whether release is held at the oldest (R185). Both counts go on from a multiple of 2¹⁶ at
each enabling, so that what the registers and records show starts at zero and no number comes twice. -/
structure Flow where
  seq : Nat := 0
  rel : Nat := 0
  ready : List (Nat × Bool × Nat) := []
  hold : Bool := false
  deriving DecidableEq, Repr

/-- The scheduler: queues, prefetch slots, bound tasks, delay lists, flows, the mailbox and whether its oldest word is held (R187),
and the positions that wait for work in the order they asked (R178). -/
structure Sched where
  queue : List Inst := []
  pref : Vector (Option Inst) 4 := Vector.replicate 4 none
  bound : List Binding := []
  tickList : List DelayEntry := []
  timeList : List DelayEntry := []
  flows : Vector Flow 64 := Vector.replicate 64 {}
  mbox : List Nat := []
  mboxHeld : Bool := false
  asks : List Nat := []
  deriving DecidableEq, Repr

/-! ### Exchange memory, fabric and meters (spec/08) -/

/-- A run waiting for its vote (R217, R218): destination, the right sums as the main pass formed them, whether pipeline A's
and pipeline B's were these, and its entries (R209). -/
structure Retry where
  dst : Nat
  sums : List W96
  okA : Bool
  okB : Bool
  run : List Nat := []
  deriving DecidableEq, Repr

/-- Who sent a beat to the route table: a core, the host bridge, or a DMA item, by its order of acceptance. -/
inductive BeatBy where
  | core (c : Fin 17) | host | dma (order : Nat)
  deriving DecidableEq, Repr

/-- A buffered or waiting beat to the route table (R222, R224): (address, byte) pairs, and its sender. -/
structure Beat where
  bytes : List (Nat × Byte)
  by_ : BeatBy
  deriving DecidableEq, Repr

/-- Values of a meter period (R225). -/
structure MeterVal where
  pk : Nat := 0
  zs : Bool := false
  sat : Bool := false
  fs : Nat := 0
  ss : Nat := 0
  deriving DecidableEq, Repr

/-- The fabric: which buffer has write duty (R197); the written mask of each slot of that buffer (R200); the slots whose read
buffer is complete, none before the first boundary (R204); the slots the fabric saturated, in the write and the read buffer
(R213); pending owners (R206); the retry queue (R218); destinations left unwritten in the pass (R219); whether the tick's
main pass has been made; direct writes buffered and waiting (R222, R224); meter periods (R225): the one in progress, the last
complete one, whether one has ended; a change of MPER that waits (1) or took effect at this boundary (0) (R227). -/
structure Fabric where
  wbuf : Bool := false
  masks : SMap (BitVec 4) := []
  full : Option (List Nat) := none
  satW : List Nat := []
  satR : List Nat := []
  ownPend : SMap W32 := []
  retry : List Retry := []
  unwritten : List Nat := []
  passed : Bool := false
  mainEnd : Nat := 0
  taps : SMap (Nat × Nat × Nat) := []
  dwq : List Beat := []
  dwWait : List Beat := []
  acc : SMap MeterVal := []
  accTicks : Nat := 0
  last : SMap MeterVal := []
  ended : Bool := false
  mperPend : Option Nat := none
  deriving DecidableEq, Repr

/-! ### Kiln (spec/09) -/

/-- An object (R230): a route entry or a task object. -/
structure Obj where
  kind : Bool
  index : Nat
  deriving DecidableEq, Repr

/-- A prepared commit (R236): `order` is the order of acceptance, `load` the products its source changes add; `scene` and `acc`, the
tick of acceptance, stand in the Auger image (R451). -/
structure Prepared where
  id : BitVec 16
  scene : Nat
  acc : W32
  t : W64
  len : Nat
  objs : List Obj
  gen : Option (Fin 16)
  dom : Bool
  committed : Bool
  staged : Bool
  load : Nat
  order : Nat
  deriving DecidableEq, Repr

/-- A crossfade that a generator drives (R243, R244): commit, the tick it starts, its length, the boundaries since its start,
the objects it fades, and whether it started at its commit's own T (R238). -/
structure Fade where
  gen : Fin 16
  id : BitVec 16
  start : W32
  len : Nat
  i : Nat
  objs : List Obj
  first : Bool
  deriving DecidableEq, Repr

/-- A pending change (R246, R247): object, commit, its length and order, whether it waits for a generator, and the boundary at which it
fell due (R248). -/
structure PendChange where
  obj : Obj
  id : BitVec 16
  len : Nat
  order : Nat
  waiting : Bool
  due : Option W64
  deriving DecidableEq, Repr

/-- A held piece (R234): the object, and the addresses and bytes. -/
structure HoldPiece where
  obj : Obj
  bytes : List (Nat × Byte)
  deriving DecidableEq, Repr

/-- Kiln: prepared commits, fades, pending changes, the hold store; the generators freed at this boundary and whether its groups
have been served (R248); the order of PREPAREs; `lastGen` keeps START, LEN and ID of each generator. -/
structure Kiln where
  prepared : List Prepared := []
  fades : List Fade := []
  pend : List PendChange := []
  hold : List HoldPiece := []
  freed : List (Fin 16) := []
  served : Bool := false
  order : Nat := 0
  lastGen : SMap (W32 × Nat × BitVec 16) := []
  deriving DecidableEq, Repr

/-! ### Hardpan (spec/10) -/

/-- STATE of HPN_CTL (R255, R256). -/
inductive HpnState where
  | off | verify | proving | live
  deriving DecidableEq, Repr

/-- An undo entry of the tick journal (R265): whose member's (false position 0, true position 1), memory (false X, true Y), word, the
value before, the schedule entry. -/
structure JEntry where
  one : Bool
  y : Bool
  word : Nat
  old : W40
  entry : Nat
  deriving DecidableEq, Repr

/-- Hardpan: the tick in which EN was accepted, the verifier's result once it has finished, lockstep, the schedule's next entry
in this tick (none while the schedule is not running), a mismatch in this tick, the journal, consecutive mismatches, the
debounced inputs with their counts (R270), the failure that the verifier met (R258), the tasks whose instances were aborted in
this tick, the boundaries up to an entry to HARDPAN that an emergency input brings (R46, R271), and whether the two members have taken
different ways (R94). -/
structure Hpn where
  state : HpnState := .off
  since : W64 := 0
  verified : Option Bool := none
  next : Option Nat := none
  mism : Bool := false
  journal : List JEntry := []
  run : Nat := 0
  lvl : BitVec 4 := 0
  deb : List Nat := [0, 0, 0, 0]
  pins : BitVec 4 := 0
  verr : W32 := 0
  aborted : List Nat := []
  entry : Option Nat := none
  apart : Bool := false
  deriving DecidableEq, Repr

/-! ### Sample clock (spec/11) -/

/-- A qualification state (R283). -/
inductive QState where
  | disabled | inactive | probing | qualified | rejected
  deriving DecidableEq, Repr

/-- A candidate reference: its state (R283), activity, consecutive accepted edges with no glitch, consecutive missing edges,
the glitches of the last eight expected periods, newest first, and the instant of the last accepted edge in root cycles of the
epoch count, none where the next edge opens the windows anew (R281); the accept timer in audio-master cycles and its whole
gates (R283); and whether its wait-to-restore time has run (R285). -/
structure Cand where
  q : QState := .disabled
  active : Bool := false
  good : Nat := 0
  missing : Nat := 0
  glitches : List Nat := []
  last : Option Int := none
  accCyc : Nat := 0
  gates : Nat := 0
  restored : Bool := false
  deriving DecidableEq, Repr

/-- A state of the DPLL (R287). -/
inductive DpllState where
  | freerun | acquire | locked | holdover
  deriving DecidableEq, Repr

/-- A switch in progress (R290): target, whether the bias is captured, edges since, whether the DPLL was locked before, whether
each edge since the capture passed the phase test, and the bias and the followed candidate before it, which stand again where the switch
is abandoned (R294, R300). -/
structure Switch where
  target : Fin 10
  captured : Bool
  edges : Nat
  wasLocked : Bool
  ok : Bool
  oldBias : Int
  oldSel : Fin 10
  deriving DecidableEq, Repr

/-- The DPLL and the selector. Phases are in root cycles (R280); `lockEdges` and `lockCyc` measure R288's test, `outEdges` its loss;
`slewAcc` the audio-master cycles towards the next root cycle of realignment (R291); `hist` holds the frequencies of LOCKED with
their durations in audio-master cycles, newest first (R296); `havg` is the averaging window in force (R297); `fresh` is FREERUN
from reset (R285); `rowAt` is the cycle of the last switch of the third or fourth selection event, with the candidate it left
(R295); `timeLock` tells whether the time PLL is locked (R281). -/
structure Clk where
  cands : Vector Cand 10 := (Vector.replicate 10 {}).set 9 { q := .qualified }
  state : DpllState := .freerun
  sel : Fin 10 := 9
  switch : Option Switch := none
  freq : W32 := 0
  hofreq : W32 := 0
  phase : Int := 0
  bias : Int := 0
  lockEdges : Nat := 0
  lockCyc : Nat := 0
  outEdges : Nat := 0
  hist : List (Nat × W32) := []
  hshort : Bool := false
  slewAcc : Nat := 0
  havg : Nat := 3
  fresh : Bool := true
  rowAt : Option (Nat × Fin 10) := none
  timeLock : Bool := true
  deriving DecidableEq, Repr

/-! ### Time counter and GPIO (spec/12) -/

/-- A GPIO capture (R321). -/
structure Capture where
  pin : Fin 16
  rise : Bool
  ts : W32
  deriving DecidableEq, Repr

/-- A GPIO launch (R321): its time extended under R305, its level, whether it was accepted already late, and whether it is the
fall that a periodic launch brought. -/
structure Launch where
  time : Int
  lvl : Bool
  late : Bool
  fall : Bool
  deriving DecidableEq, Repr

/-- The time counter: the count, its fraction, the INCR in force (R301), the held fraction (R302), the slew left (R306), whether
the counter runs (R54), and the reading of the TCLK cycle before, in units of 2⁻³² ns (R27). -/
structure Tim where
  ns : W64 := 0
  fr : W32 := 0
  incrNs : BitVec 4 := 3
  incrFr : W32 := 0x33333333
  heldFr : Option W32 := none
  slewLeft : W32 := 0
  slewDelta : BitVec 24 := 0
  started : Bool := false
  prev : Option Nat := none
  caps : List Capture := []
  launches : Vector (List Launch) 8 := Vector.replicate 8 []
  driven : Vector (Option Bool) 8 := Vector.replicate 8 none
  deriving DecidableEq, Repr

/-! ### Ethernet and streams (spec/12) -/

/-- The priority class of a frame at an egress port (R314). -/
inductive TxClass where
  | stream | event | ring | other
  deriving DecidableEq, Repr

/-- A frame that waits at, or leaves by, an egress port: class, bytes, for a forwarded event message its ingress timestamp
(R317), for a ring frame its descriptor's index, for a frame with a bad FCS a mark (R319), and the status its record gets. -/
structure TxFrame where
  cls : TxClass
  bytes : List Byte
  ingress : Option W64
  ring : Option Nat
  badFcs : Bool
  status : Nat
  deriving DecidableEq, Repr

/-- An Ethernet port: frames waiting, the frame in progress and its start timestamp, the last frame that left, and of the
descriptor at the head of the ring its extended launch time, whether that was already past (R319, R311), and the status that its read
gave it. -/
structure EthPort where
  waiting : List TxFrame := []
  sending : Option (TxFrame × W64) := none
  last : Option TxFrame := none
  lastTs : W32 := 0
  headSeen : Option Int := none
  headLate : Bool := false
  headStatus : Nat := 0
  deriving DecidableEq, Repr

/-- A receive stream: samples placed, by grid sample and channel (R325), the sequence numbers taken (R322), whether it is lost,
and the received samples of each channel that the converter still holds, newest first (R324). -/
structure RxStream where
  store : SMap (SMap W40) := []
  seqs : List (BitVec 16) := []
  lost : Bool := false
  hist : List (List W40) := []
  deriving DecidableEq, Repr

/-- A transmit stream: the next sequence number, whether it has started, the grid samples of each channel that the converter
holds, newest first, and the stream samples that wait for their packet, oldest first, with the media count of the first. -/
structure TxStream where
  seq : BitVec 16 := 0
  hist : List (List W40) := []
  waiting : List (Int × List W40) := []
  sentTick : Option W64 := none
  deriving DecidableEq, Repr

/-- Ethernet and the stream engine. -/
structure Net where
  ports : Vector EthPort 2 := Vector.replicate 2 {}
  rx : Vector RxStream 32 := Vector.replicate 32 {}
  tx : Vector TxStream 32 := Vector.replicate 32 {}
  deriving DecidableEq, Repr

/-! ### Stanex (spec/13) -/

/-- A Stanex port: the link delays of the last 16 probes, newest first (R333), and whether it went DOWN since the domain last
was unwrapped (R354). -/
structure SnxPort where
  dlys : List Int := []
  wasDown : Bool := false
  deriving DecidableEq, Repr

/-- A cell to send (R337): the consecutive frame ticks it is still to travel in, the frame it was last placed in, the rings of that
frame it was placed on, and its first frame (R353). -/
structure OutCell where
  cell : MsgCell
  left : Nat
  last : Option W64
  rings : List Bool
  since : W64
  deriving DecidableEq, Repr

/-- A domain commit whose reports are collected (R240, R353): the command, the manager's tick of acceptance, the members of frame
a + 1, the reports so far, whether the manager took its own PREPARE, and whether its host aborted the commit (R238). -/
structure Collect where
  id : BitVec 16
  scene : BitVec 8
  a : W64
  t : W64
  seq : W32
  members : W64
  ready : W64
  nready : W64
  took : Bool
  aborted : Bool
  deriving DecidableEq, Repr

/-- A decision that is repeated (R240): from a frame up to frame T - 3. -/
structure Decided where
  id : BitVec 16
  go : Bool
  t : W64
  first : W64
  deriving DecidableEq, Repr

/-- An announced level change (R357): its tick, the levels from it, whether it has been made, and the first frame that carries it
(R353). -/
structure LevelAnn where
  at_ : W64
  sl : BitVec 8
  fl : BitVec 16
  made : Bool
  since : W64
  deriving DecidableEq, Repr

/-- An announced wrap change (R355, R356): its tick, whether it wraps, whether it has been made, and the first frame that carries it
(R353). -/
structure WrapAnn where
  at_ : W64
  wrap : Bool
  made : Bool
  since : W64
  deriving DecidableEq, Repr

/-- The messages of a frame, taken in the tick after it (R353): its tick, whether this quadrant wrote it, whether the frame had passed
every member by then (R357), its message area. -/
structure InMsg where
  tick : W64
  own : Bool
  whole : Bool
  msg : MsgArea
  deriving DecidableEq, Repr

/-- The Stanex block: its ports; a JOIN written and not yet compared, and what the last frame heard compares to, DOMID then FI and
TICK (R348); the tick a JOIN was last sent, the entry tick granted; cells to send; messages to take; this member's report
with the frame it goes into; the commit collecting reports and the decisions repeated; the aggregates of the last frame that
returned (members, ASL, AFSL, AFL, AFFL); announcements; a hand-over (tick, new manager); consecutive missing frames and
the tick the third was declared in (R350); frames whose stamped start came, frames declared missing, frames of which a good pass
came; channels received and not yet written, and the (frame, slot) pairs written (R340); frames already inserted into, by
ring; the read views of the transmit slots in the last tick (R339); the last tick another manager was heard in and the
tick of EN (R347); a manager that steps down at the next boundary (R351); the tick of LEAVE (R349); map writes due at the next
boundary (R358); the cycle of the last launch, and those of the recent launches by frame and ring (R343); the passes that have ended, by
frame and port (R340); the manager last heard with its tick (R351), the last tick in which an origin's wrapped frame came, unstamped
(R356), the tick in which a turned frame came back (R355), and the levels that the last stamped frame told (R357); the last
frame sent by each port; reference edges recovered and not yet put to their candidates, with frame and raw phase, and the frames by
ring from which timing was taken (R345); the cells taken of recent frames (R337). -/
structure Snx where
  ports : Vector SnxPort 2 := Vector.replicate 2 {}
  joinReq : Bool := false
  heard : Option (Bool × Bool) := none
  joinSent : W64 := 0
  joinAt : Option W64 := none
  cells : List OutCell := []
  inbox : List InMsg := []
  report : Option (BitVec 16 × Bool × W64) := none
  coll : Option Collect := none
  decided : List Decided := []
  agg : Option (W64 × BitVec 8 × BitVec 8 × BitVec 16 × BitVec 16) := none
  lvl : Option LevelAnn := none
  wrapA : Option WrapAnn := none
  yieldA : Option (W64 × BitVec 8) := none
  missRun : Nat := 0
  missAt : W64 := 0
  startF : List W64 := []
  missF : List W64 := []
  goodF : List W64 := []
  rxHeld : List (W64 × Nat × List W40) := []
  rxDone : List (W64 × Nat) := []
  insF : List (W64 × Bool) := []
  prevTx : SMap (List W40) := []
  foreign : Option W64 := none
  enAt : W64 := 0
  stepDown : Bool := false
  leaveAt : Option W64 := none
  mapPend : SMap W32 := []
  launched : Option Nat := none
  launches : List (W64 × Bool × Nat) := []
  passes : List (W64 × Fin 2) := []
  mgrHeard : Option (BitVec 6 × W64) := none
  originF : Option W64 := none
  turned : Option W64 := none
  domLvl : Option (BitVec 8 × BitVec 16) := none
  sent : Vector (Option SnxFrame) 2 := Vector.replicate 2 none
  edges : List (Fin 10 × W64 × Int) := []
  timed : List (W64 × Bool) := []
  seen : List (W64 × MsgCell) := []
  deriving DecidableEq, Repr

/-! ### Serial ports, AES3 and rate converters (spec/14) -/

/-- The slot map of one direction of a port: the mask in force, a mask that waits for a frame start (R367), the tick of the last
change; the epoch and mask that the block's samples follow, and the change of these within the present block: its first sample (R368). -/
structure PortDir where
  mask : W32 := 0
  pend : Option W32 := none
  changed : Option W64 := none
  shown : Nat × W32 := (0, 0)
  chgJ : Option Nat := none
  deriving DecidableEq, Repr

/-- A map of an ASRC input that took effect at a frame start and has not reached the output (R367, R368): that instant, its epoch and mask,
and the channels that it moves. -/
structure MapUse where
  time : W64
  epoch : Nat
  mask : W32
  moved : List Bool
  deriving DecidableEq, Repr

/-- What a block collects for its header (R368, R381): the timestamp of sample 0, flags, and validity bits. -/
structure Block where
  ts : Option W32 := none
  lost : Bool := false
  unlocked : Bool := false
  glitch : Bool := false
  slip : Bool := false
  fade : Bool := false
  vbits : BitVec 8 := 0
  deriving DecidableEq, Repr

/-- A serial port: its directions; the next sample of the tick to be written by a frame and to be played; for a slave in direct
mode the latest frame as its map places it, that map with its epoch, how often it was used, whether one has come, the cycle it completed
in and the time of its frame-sync edge (R365, R369), and the frames counted as missing since; the maps of an ASRC input still to come;
consecutive good frames while LOST; the levels driven by the last frame, one to a bit clock from its first data bit on, none where it
is high impedance (R360); the histories of the converter of a port below Fi, newest first, by channel (R364). -/
structure Tdm where
  inp : PortDir := {}
  out : PortDir := {}
  inJ : Nat := 0
  outJ : Nat := 0
  latest : List W40 := []
  latestMap : Nat × W32 := (0, 0)
  used : Nat := 1
  had : Bool := false
  endCycle : Nat := 0
  fsNs : W64 := 0
  missed : Nat := 0
  maps : List MapUse := []
  good : Nat := 0
  driven : List (Option Bool) := []
  inHist : List (List W40) := []
  outHist : List (List W40) := []
  deriving DecidableEq, Repr

/-- An AES3 receiver: frames since the opening Z of the block in progress, its channel-status bits of A and B, its opening's
timestamp and ring position (none before a first Z), the time of the last Z preamble, and the last captured block, which word 12
latches (R372). -/
structure AesRx where
  count : Nat := 0
  csA : List Bool := []
  csB : List Bool := []
  opened : Option (W32 × W32) := none
  zTs : W32 := 0
  cap : List W32 := List.replicate 15 0
  deriving DecidableEq, Repr

/-- An AES3 transmitter: frames sent in the block, the channel-status words being sent (R375), the next sample of the tick, the
histories of its converter, the last frame sent. -/
structure AesTx where
  count : Nat := 0
  cs : List W32 := List.replicate 12 0
  j : Nat := 0
  hist : List (List W40) := []
  sent : Option AesFrame := none
  deriving DecidableEq, Repr

/-- A state of an ASRC group (R379). -/
inductive AsrcState where
  | idle | acquire | locked | lost
  deriving DecidableEq, Repr

/-- An ASRC group: accepted frames in a row, frames since the last glitched one, whether the frame in progress is glitched (R378), the times
of the last accepted edge and of the last frame's start, the samples received, newest first, by channel, and their times (R381), the
ratios tracked in the last 10 ms with the times that they were reached at, newest first (R379), the output samples of the fade-in that
are still to come (R379), those of the fades of channels that a mask moved (R367), the validity bits of the last frames, newest first
(R373), and the times of frames replaced by zeros, as a whole or in one channel (R373, R380). -/
structure Asrc where
  state : AsrcState := .idle
  good : Nat := 0
  sinceGlitch : Option Nat := none
  glitched : Bool := false
  edge : W64 := 0
  lastEdge : W64 := 0
  hist : List (List W40) := []
  times : List W64 := []
  ratios : List (W64 × W32) := []
  fadeIn : Nat := 0
  chFade : List Nat := []
  vbits : List (Bool × Bool) := []
  replaced : List (W64 × Option Nat) := []
  deriving DecidableEq, Repr

/-- The ports: TDM0 to TDM7, receivers, transmitters, groups, and the blocks' collected headers, by block number. -/
structure Ports where
  tdm : Vector Tdm 8 := Vector.replicate 8 {}
  rx : Vector AesRx 4 := Vector.replicate 4 {}
  tx : Vector AesTx 4 := Vector.replicate 4 {}
  asrc : Vector Asrc 12 := Vector.replicate 12 {}
  blocks : SMap Block := []
  deriving DecidableEq, Repr

/-! ### Decimators (spec/15) -/

/-- A decimator input: the tick of the reset that EN brings and that it waits for, and whether it has had it (R395); the bits captured since the reset,
newest first, as far back as the chain reaches; how many captured bits in a row are equal, and their value; INVALID samples
left (R396); the DC estimate in units of 2⁻⁶² (R397); word 2 of its configuration as in force (R397); the exact mean square
and envelope in units of 2⁻⁶² (R398). -/
structure DecIn where
  enPend : Option W64 := none
  active : Bool := false
  bits : List Bool := []
  same : Nat := 0
  lastBit : Bool := false
  left : Nat := 0
  dc : Int := 0
  w2 : W32 := 0
  ms : Nat := 0
  env : Nat := 0
  stuckBlk : Bool := false
  deriving DecidableEq, Repr

/-- The decimators: the inputs, the clock groups that are enabled with the tick that their clock starts in (R387), and the armed reset: its
tick and its masks, and whether it is for the next boundary (R395). -/
structure Dec where
  ins : Vector DecIn 64 := Vector.replicate 64 {}
  clkAt : Vector (Option W64) 8 := Vector.replicate 8 none
  armed : Option (W64 × W64) := none
  slated : Bool := false
  deriving DecidableEq, Repr

/-! ### DMA (spec/16) -/

/-- A DMA item (R423, R424): its submitter, the eight words of its descriptor, its order of acceptance, whether it is issued; once
its last beat is written while its make-ready is held (R187), its status so far and its bytes; while beats of it wait for the
direct-write buffer (R224), its status and its bytes. -/
structure DmaItem where
  sub : Writer
  words : List Nat
  order : Nat
  issued : Bool
  held : Option (Nat × Nat)
  tail : Option (Nat × Nat) := none
  deriving DecidableEq, Repr

/-- The DMA engine: the descriptor addresses being copied, by writer, the items accepted and not completed, in order of
acceptance, and the next order. -/
structure Dma where
  copying : SMap Nat := []
  items : List DmaItem := []
  order : Nat := 0
  deriving DecidableEq, Repr

/-! ### Resets (spec/02) -/

/-- Where a quadrant stands between a reset and the end of SCOUR (R49, R53): held in reset, released with its PLLs not yet
locked, scouring, or past SCOUR. -/
inductive RstPhase where
  | held | released | scouring | past
  deriving DecidableEq, Repr

/-! ### Faults, rotation and tests (spec/19) -/

/-- The phase of a rotation or of a repair (R477, R479): waiting for its copy, copying, the core under test, copying back. -/
inductive RotPhase where
  | copy | test | back
  deriving DecidableEq, Repr

/-- A rotation or a repair in progress: the position, the core that held it, the core that takes it, the phase, the tick of
its last start, the command that asked (R477), whether it repairs a stopped core (R479), the boundaries waited, and whether the copy has
been made. -/
structure Rotation where
  pos : Nat
  src : Nat
  dst : Nat
  phase : RotPhase
  since : W64
  cmd : Option W32
  repair : Bool
  waited : Nat
  made : Bool := false
  deriving DecidableEq, Repr

/-- A TEST in progress (R483): its code, parameters, command. -/
structure TestRun where
  code : Nat
  b : W32
  c : W32
  seq : W32
  deriving DecidableEq, Repr

/-- An event that a quadrant keeps for Mladcel (R461): code, severity, arguments, the time counter's reading. -/
structure QEvent where
  code : BitVec 16
  sev : BitVec 8
  arg0 : W32
  arg1 : BitVec 16
  time : W64
  deriving DecidableEq, Repr

/-- Fault counting, policy, rotation and tests: records of each class in the present window, the classes whose action was taken in it
and the classes whose action is due at the next boundary (R474); totals for Auger (R484); the last position that an automatic
rotation took (R478); the instance that a customer test made ready (R192); the core that a pair's repair replaced and has not yet
resumed (R479), and the rotations that ended with DONE (R484). -/
structure Flt where
  win : Vector Nat 7 := Vector.replicate 7 0
  acted : List Nat := []
  due : List Nat := []
  totals : Vector Nat 7 := Vector.replicate 7 0
  rot : Option Rotation := none
  test : Option TestRun := none
  testInst : Option Inst := none
  autoNext : Nat := 0
  pairRepair : Bool := false
  rotDone : Nat := 0
  deriving DecidableEq, Repr

/-! ### The host window of a quadrant (spec/17) -/

/-- A posted write (R437): host byte address, byte enables (set bits write), data. -/
structure Posted where
  addr : Nat
  be : BitVec 4
  v : W32
  deriving DecidableEq, Repr

/-- A completion record (R444). -/
structure CplRec where
  status : Nat
  op : Nat
  seqErr : Bool
  aux : Nat
  seq : W32
  resA : W32
  resB : W32
  deriving DecidableEq, Repr

/-- A digest slot (R446). -/
structure Digest where
  sha : List W32
  addr : Nat
  len : Nat
  deriving DecidableEq, Repr

/-- A LOAD in progress (R446): the address it began at, the next address, the bytes still to write and those written, the digest slot,
the bytes hashed, the bytes taken from the FIFO and not yet written, the status so far. -/
structure LoadRun where
  seq : W32
  start : Nat
  pos : Nat
  left : Nat
  done : Nat
  dig : Option (Fin 8)
  bytes : List Byte
  buf : List Byte
  status : Nat
  deriving DecidableEq, Repr

/-- A READ in progress (R447). -/
structure ReadRun where
  seq : W32
  addr : Nat
  left : Nat
  placed : Nat
  status : Nat
  deriving DecidableEq, Repr

/-- The host window of a quadrant and its HST_ registers, which a quadrant reset leaves: posted writes, the ring's words and
counts (R441), bulk FIFOs (R439), completion ring, counts and records not consumed (R444, R445), digest slots, the last
valid sequence number (R443), the pages and their generations (R436), the commands in progress, interrupt enables and
causes (R452), refusal flags and counts (R437 to R439), the host domain's flags for the Auger image (R451), the events kept for
Mladcel (R461), whether the host domain has not returned since its reset (R445), and the retirements that Mladcel has not stored yet
(R480). -/
structure HostPort where
  posted : List Posted := []
  ring : SMap W32 := []
  cmdWp : W32 := 0
  cmdRp : W32 := 0
  bulkW : List W32 := []
  bulkR : List W32 := []
  cplRing : SMap CplRec := []
  cplWp : W32 := 0
  cplRp : W32 := 0
  kept : List CplRec := []
  digests : SMap Digest := []
  lastSeq : Option W32 := none
  gen : W32 := 0
  mgen : W32 := 0
  status : SMap W32 := []
  auger : SMap W32 := []
  schedPage : SMap W32 := []
  open_ : List (W32 × Nat) := []
  load : Option LoadRun := none
  read : Option ReadRun := none
  writeWait : Option (W32 × Nat) := none
  augers : List W32 := []
  irqEn : BitVec 5 := 0
  irqSt : BitVec 5 := 0
  cref : Bool := false
  bref : Bool := false
  runder : Bool := false
  wref : Nat := 0
  seqref : Nat := 0
  seqrefTotal : Nat := 0
  hostFlags : List W32 := []
  events : List QEvent := []
  eventsLost : Nat := 0
  away : Bool := false
  retiring : BitVec 17 := 0
  deriving DecidableEq, Repr

/-! ### The host domain (spec/17, spec/18) -/

/-- A lifecycle state (R468). -/
inductive Life where
  | blank | open_ | sealed_ | returned | void_
  deriving DecidableEq, Repr

/-- A log record (R459); its CRC is formed where it is read. -/
structure LogRec where
  seq : W32
  code : BitVec 16
  src : BitVec 8
  sev : BitVec 8
  time : W64
  boot : W32
  up : W32
  arg0 : W32
  arg1 : BitVec 16
  deriving DecidableEq, Repr

/-- A copy of the boot record (R465): SEQ, the slot each of the five targets selects (true is B), AUTO of each quadrant. -/
structure BootRec where
  seq : Nat
  sel : BitVec 5
  auto : BitVec 4
  deriving DecidableEq, Repr

/-- The persistent record (R458): SEQ, ISZ in MB, the board record, the retired cores of each quadrant, the bad blocks, and the wipe marker
(R470). -/
structure PersRec where
  seq : Nat
  isz : Nat
  board : Option Memory
  retired : List (BitVec 17)
  bad : List Nat
  marker : Life
  deriving DecidableEq, Repr

/-- An image slot (R464): its bytes, its length, whether it was verified since it was staged. -/
structure Image where
  bytes : Memory
  len : Nat
  verified : Bool
  deriving DecidableEq, Repr

/-- A stage in progress (R466): target 0 to 4 and the slot being written. -/
structure Stage where
  target : Nat
  slot : Bool
  verified : Bool
  deriving DecidableEq, Repr

/-- A delivery of an autonomous-start image (R58): slot, whether it is the second image tried (R60), whether its bytes were delivered
and await the digest check, its start mode (none where the bytes came corrupt), its version, whether the start is finished. -/
structure Delivery where
  slot : Bool
  second : Bool
  delivered : Bool
  mode : Option Mode
  version : BitVec 16
  done : Bool
  deriving DecidableEq, Repr

/-- A running Mladcel command (R471): its OP, the status it will complete with, the result for MGT_ARG1, its arguments, and whether its
effect waits for non-volatile writes to resume (R467). -/
structure MgtRun where
  op : Nat
  status : Nat
  arg1 : Option W32
  a0 : W32
  a1 : W32
  todo : Bool
  deriving DecidableEq, Repr

/-- The host domain: registers, posted writes, staging buffer; the places of Mladcel's log in flash, an abandoned one holding no record
(R460), the log in RAM, records due to be written, spare blocks, boot and persistent record copies, images, stage, key slots with their
keys in fuses and in the key store, fused state and a state whose fuses are partly burned (R470), the stop of non-volatile writes (R467)
and whether VDD_MGT has stayed above 3.15 V for 10 ms (R469), VDD_HP below 1.5 V and VDD_CORE below its minimum (R496), start count, the
sample histories of the sensors (R456: consecutive samples beyond and inside), deliveries by quadrant (R58 to R60), POR_N and the supply
hold (R494), the port's level (R495), whether Mladcel runs, the command that runs, and the cause of the last reset (R459). -/
structure HostDom where
  regs : SMap W32 := []
  posted : List Posted := []
  staging : Memory := []
  log : List (Option LogRec) := []
  ramLog : List LogRec := []
  logDue : List LogRec := []
  logSeq : W32 := 0
  logDeg : Bool := false
  spares : Nat := 64
  boots : List (Option BootRec) := [none, none]
  pers : List (Option PersRec) := [none, none]
  images : SMap Image := []
  stage : Option Stage := none
  keys : BitVec 4 := 0
  keyFuse : SMap Memory := []
  keyStore : SMap Memory := []
  revoked : BitVec 4 := 0
  life : Life := .open_
  burn : Option Life := none
  nvStop : Bool := false
  mgtOk : Bool := true
  hpLow : Bool := false
  coreLow : Bool := false
  starts : W32 := 0
  slot : Bool := false
  fallback : Bool := false
  hist : SMap (Nat × Nat) := []
  deliveries : SMap Delivery := []
  porLow : Bool := false
  held : Bool := false
  port33 : Bool := true
  mladcel : Bool := false
  run : Option MgtRun := none
  cause : Nat := 0
  freeCtr : Nat := 0
  deriving DecidableEq, Repr

/-! ### A quadrant -/

/-- Who asked for a mode change (R41, R449): a command with its sequence number and tick of acceptance, or an autonomous-start image of a
slot. -/
inductive ModeBy where
  | command (seq acc : W32) | auto (slot : Bool)
  deriving DecidableEq, Repr

/-- A pending mode change (R43): its target, the boundaries still to come up to the one it takes effect at, and who asked. -/
structure ModeChange where
  target : Mode
  left : Nat
  by_ : ModeBy
  deriving DecidableEq, Repr

/-- A quadrant (R17). Beside its blocks: `ecc` marks the words that hold an error, `eccBack` those due for write-back; `rst` where it
stands after a reset; `gridDue` a grid that awaits its start instant (R26, R54); `autoHpn` an entry to RUN after which it enters
HARDPAN at the next boundary (R59); `aged` the masters whose waiting beat was promoted (R411); `bndCclk` and `bndNs` the cycle and
the time of the last boundary, with its fraction `bndFr`, and `bndFine` the time interpolated within the TCLK cycle (R369); `tick` the tick number, `running` whether the grid runs, `gridRan`
whether one has run since the reset; `pinLow` the level of Q_RST_N (R49); `tickHi` the latch of
QCTL_TICK_HI; `cclk` counts CCLK cycles and `phase` places TCLK between them (R24); `freeCtr` counts free values drawn (log 2). -/
structure Quad where
  regs : SMap W32 := []
  mem : Memory := []
  ecc : SMap Ecc := []
  eccBack : List Nat := []
  cores : Vector Core 17 := Vector.replicate 17 {}
  mode : Mode := .scour
  change : Option ModeChange := none
  sch : Sched := {}
  fab : Fabric := {}
  kln : Kiln := {}
  hpn : Hpn := {}
  clk : Clk := {}
  tim : Tim := {}
  net : Net := {}
  snx : Snx := {}
  prt : Ports := {}
  dec : Dec := {}
  dma : Dma := {}
  flt : Flt := {}
  hp : HostPort := {}
  rst : RstPhase := .released
  gridDue : Bool := false
  autoHpn : Bool := false
  aged : List Nat := []
  bndCclk : Nat := 0
  bndNs : W64 := 0
  bndFr : W32 := 0
  bndFine : W64 := 0
  tick : W64 := 0
  running : Bool := false
  gridRan : Bool := false
  pinLow : Bool := false
  tickHi : W32 := 0
  cclk : Nat := 0
  phase : Nat := 0
  freeCtr : Nat := 0
  deriving DecidableEq, Repr

/-- The device: the four quadrants and the host domain (R17, R18). -/
structure Device where
  q0 : Quad
  q1 : Quad
  q2 : Quad
  q3 : Quad
  host : HostDom
  deriving DecidableEq, Repr

/-- The state: the device, and the commands that wait, first in, first out. -/
structure State where
  dev : Device
  pending : List Instr
  deriving DecidableEq, Repr

/-- The cores after a quadrant reset with no core retired: position n on core n (R61), every register zero (R67), boot fetch
in progress (R66). -/
def coresReset : Vector Core 17 := Vector.ofFn fun c => { pos := ⟨c.val, by omega⟩ }

/-- A quadrant after POR_N, whose bit of QCTL_RST_CAUSE reads 1 (R49, Table: QCTL_RST_CAUSE). -/
def Quad.reset : Quad := { cores := coresReset, regs := [(0x8, 1)] }

/-- Reasons for a step to stop with a fault. No meaning answers with one: the spec gives the block no stop (every fault it
names is an outcome inside the machine), so the single constructor is raised by nobody. -/
inductive Fault where
  /-- Raised by no meaning; safe. -/
  | none
  deriving DecidableEq, Repr

/-- Reasons for a step to refuse a command. -/
inductive Refusal where
  /-- Raised by an arm of `exec` whose command has no meaning yet; safe. In this model no arm raises it. -/
  | notModelled (mnemonic : String)
  deriving DecidableEq, Repr

/-- The state after reset: the one that POR_N leaves once released at 3.3 V levels (R49, R10): every quadrant in SCOUR, in reset,
position n on core n (R61), nothing waiting. -/
def State.reset : State :=
  { dev := { q0 := Quad.reset, q1 := Quad.reset, q2 := Quad.reset, q3 := Quad.reset, host := {} }, pending := [] }

end Sys2Proof.Machine
end

