-- ==== Sys2Proof/Machine/Ops.lean ====
section
/-! DEFINITION. The named operations over the state: sparse maps, memory, registers and their copies, cores, the rings, counts,
fault records, kept events and completion records, and the four ways a command acts on the device. -/

namespace Sys2Proof.Machine

/-! ### Sparse maps -/

/-- The value listed at a key. -/
def SMap.find {α : Type} : SMap α → Nat → Option α
  | [], _ => none
  | (j, v) :: t, k => if j = k then some v else SMap.find t k

/-- The value listed at a key, or a default. -/
def SMap.get {α : Type} (m : SMap α) (k : Nat) (d : α) : α := (m.find k).getD d

/-- A map with a key set; keys stay in rising order. -/
def SMap.put {α : Type} : SMap α → Nat → α → SMap α
  | [], k, v => [(k, v)]
  | (j, w) :: t, k, v =>
    if k < j then (k, v) :: (j, w) :: t else if k = j then (k, v) :: t else (j, w) :: SMap.put t k v

/-- A map without a key. -/
def SMap.del {α : Type} (m : SMap α) (k : Nat) : SMap α := m.filter fun e => e.1 ≠ k

/-! ### Memory -/

/-- The byte at an address. -/
def Memory.read : Memory → Nat → Byte
  | [], _ => 0
  | (k, b) :: t, a => if k = a then b else Memory.read t a

/-- A memory with one byte written. -/
def Memory.write : Memory → Nat → Byte → Memory
  | [], a, b => if b = 0 then [] else [(a, b)]
  | (k, c) :: t, a, b =>
    if a < k then (if b = 0 then (k, c) :: t else (a, b) :: (k, c) :: t)
    else if a = k then (if b = 0 then t else (a, b) :: t)
    else (k, c) :: Memory.write t a b

/-- The canonical form: addresses strictly rising, no zero byte listed. -/
abbrev Memory.wf (m : Memory) : Prop :=
  m.Pairwise (fun x y => x.1 < y.1) ∧ ∀ c ∈ m, c.2 ≠ 0

/-- The memory in canonical form with the same bytes. -/
def Memory.normal (m : Memory) : Memory := m.foldr (fun c acc => acc.write c.1 c.2) []

/-- The little-endian value of `n` bytes from an address (R106). -/
def Memory.readLE (m : Memory) (a : Nat) : Nat → Nat
  | 0 => 0
  | n + 1 => (m.read a).toNat + 256 * m.readLE (a + 1) n

/-- The memory with a list of bytes written from an address. -/
def Memory.writeBytes (m : Memory) (a : Nat) : List Byte → Memory
  | [] => m
  | b :: t => (m.write a b).writeBytes (a + 1) t

/-- The bytes of a value, least significant first (R106). -/
def bytesLE (v : Nat) : Nat → List Byte
  | 0 => []
  | n + 1 => BitVec.ofNat 8 v :: bytesLE (v / 256) n

/-- The value of a list of bytes, least significant first. -/
def ofBytesLE : List Byte → Nat
  | [] => 0
  | b :: t => b.toNat + 256 * ofBytesLE t

/-- The memory with a value written as `n` bytes. -/
def Memory.writeLE (m : Memory) (a v n : Nat) : Memory := m.writeBytes a (bytesLE v n)

/-- The 40-bit word stored at an address (R76). -/
def Memory.word40 (m : Memory) (a : Nat) : W40 := BitVec.ofNat 40 (m.readLE a 5)

/-- The memory with a 40-bit word stored. -/
def Memory.setWord40 (m : Memory) (a : Nat) (v : W40) : Memory := m.writeLE a v.toNat 5

/-- A value of 32 bits. -/
def w32 (n : Nat) : W32 := BitVec.ofNat 32 n

/-- A signed value of 32 bits, saturated (R29, R280). -/
def sat32 (i : Int) : W32 :=
  if i > 2147483647 then 0x7FFFFFFF else if i < -2147483648 then 0x80000000 else BitVec.ofInt 32 i

/-- Bit `i` of a number. -/
def bitN (n i : Nat) : Bool := (n >>> i) % 2 == 1

/-- A bit as a number. -/
def b2n (b : Bool) : Nat := if b then 1 else 0

/-! ### Status codes (R14, R15) -/

namespace St
/-- Completed normally. -/
def done : Nat := 0x00
/-- Completed after its tick deadline. -/
def late : Nat := 0x01
/-- Cancelled before dispatch. -/
def cancelled : Nat := 0x02
/-- The cancel came after the item had started. -/
def tooLate : Nat := 0x03
/-- Not accepted. -/
def refused : Nat := 0x10
/-- Not accepted now. -/
def held : Nat := 0x11
/-- Ended by a reset. -/
def abortedReset : Nat := 0x20
/-- Ended by a fault. -/
def abortedFault : Nat := 0x21
/-- A single-bit error was corrected. -/
def eccCorrected : Nat := 0x30
/-- Data uncorrectable. -/
def eccUncorrected : Nat := 0x31
/-- The write lost a same-word collision. -/
def collided : Nat := 0x40
/-- The quadrant could not take part in a commit. -/
def notReady : Nat := 0x50
/-- The commit was abandoned. -/
def commitAborted : Nat := 0x51
/-- Firmware or Stanex level incompatible. -/
def levelMismatch : Nat := 0x60
end St

/-- The code a record carries when two conditions apply: the higher (R15). -/
def worse (a b : Nat) : Nat := max a b

/-! ### Registers -/

/-- The word a register holds. -/
def Quad.rd (q : Quad) (off : Nat) : W32 := (q.regs.find off).getD (quadReset off)

/-- A quadrant with a register's word set. -/
def Quad.wr (q : Quad) (off : Nat) (v : W32) : Quad := { q with regs := q.regs.put off v }

/-- Where a writer's or reader's own copy of a register is kept (R174, R303, R307, R425): each writer has an own range. -/
def copyOff (w : Writer) (off : Nat) : Nat := off + 0x100000 * (w.val + 1)

/-- The word that a writer's copy holds. -/
def Quad.rdCopy (q : Quad) (w : Writer) (off : Nat) : W32 := (q.regs.find (copyOff w off)).getD (quadReset off)

/-- A quadrant with a writer's copy set. -/
def Quad.wrCopy (q : Quad) (w : Writer) (off : Nat) (v : W32) : Quad := q.wr (copyOff w off) v

/-- The value of a field. -/
def Quad.fld (q : Quad) (f : Field) : Nat := f.get (q.rd f.off)

/-- Whether a one-bit field is set. -/
def Quad.flag (q : Quad) (f : Field) : Bool := q.fld f != 0

/-- A quadrant with a field set. -/
def Quad.setFld (q : Quad) (f : Field) (v : Nat) : Quad := q.wr f.off (f.put (q.rd f.off) v)

/-- A quadrant with a flag raised. -/
def Quad.raise (q : Quad) (f : Field) : Quad := q.setFld f 1

/-- A quadrant with a count raised by `n`; counts saturate at their largest value. -/
def Quad.count (q : Quad) (f : Field) (n : Nat) : Quad := q.setFld f (satTo f.max (q.fld f + n))

/-- Reset values that depend on the part (R453, R471): grade and revision, and the temperature limits of the grade. -/
def hostSpecial (off : Nat) : W32 :=
  if off = Reg.HST_ID then Reg.HST_ID_REV.put (Reg.HST_ID_GRADE.put 0 (if Config.gradeT then 1 else 0)) Config.revision.toNat
  else if off = Reg.MGT_TLIM then
    if Config.gradeT then Reg.MGT_TLIM_CRIT.put (Reg.MGT_TLIM_WARN.put 0 760) 840
    else Reg.MGT_TLIM_CRIT.put (Reg.MGT_TLIM_WARN.put 0 680) 760
  else 0

/-- The value a host-domain register holds after a host-domain reset (R453, R455). -/
def hostReset (off : Nat) : W32 :=
  match rowOf hostRows off with
  | some r => r.reset ||| hostSpecial off
  | none => 0

/-- The word a register of the host domain holds. -/
def HostDom.rd (h : HostDom) (off : Nat) : W32 := (h.regs.find off).getD (hostReset off)

/-- The host domain with a register's word set. -/
def HostDom.wr (h : HostDom) (off : Nat) (v : W32) : HostDom := { h with regs := h.regs.put off v }

/-- The value of a field of the host domain. -/
def HostDom.fld (h : HostDom) (f : Field) : Nat := f.get (h.rd f.off)

/-- The host domain with a field set. -/
def HostDom.setFld (h : HostDom) (f : Field) (v : Nat) : HostDom := h.wr f.off (f.put (h.rd f.off) v)

/-- The host domain with a count raised. -/
def HostDom.count (h : HostDom) (f : Field) (n : Nat) : HostDom := h.setFld f (satTo f.max (h.fld f + n))

/-- A free value of a quadrant, and the quadrant with the draw counted (log 2). -/
def Quad.draw (q : Quad) : W32 × Quad := (Config.free32 q.freeCtr, { q with freeCtr := q.freeCtr + 1 })

/-! ### Rates and counts of cycles (R5, R24, R25) -/

/-- Internal rate code: 0 is 48 kHz, 1 is 96 kHz, 2 is 192 kHz (R26). -/
def Quad.fi (q : Quad) : Nat := q.fld Reg.QCTL_RATE_FI

/-- Fi in kHz. -/
def fiKHz (fi : Nat) : Nat := if fi = 0 then 48 else if fi = 2 then 192 else 96

/-- CCLK cycles in a tick (R25). -/
def cclkPerTick (fi : Nat) : Nat := if fi = 0 then 102400 else if fi = 2 then 25600 else 51200

/-- Audio-master cycles in a tick (R25). -/
def masterPerTick (fi : Nat) : Nat := if fi = 0 then 2048 else if fi = 2 then 512 else 1024

/-- The length of three ticks in nanoseconds (R27). -/
def t3 (fi : Nat) : Nat := if fi = 0 then 250000 else if fi = 2 then 62500 else 125000

/-- The slots usable at a rate (R197). -/
def slotLimit (fi : Nat) : Nat := if fi = 2 then 2048 else 4096

/-- The epoch tick number of a time (R27). -/
def epochTick (fi t : Nat) : Nat := 3 * t / t3 fi

/-- The epoch sample number of a time (R27). -/
def epochSample (fi t : Nat) : Nat := 12 * t / t3 fi

/-! ### Error-checked words (R75, R220, R416, R418) -/

/-- The bytes of the checked word at an address: 40-bit words in exchange, X and Y memory, 8 bytes in program memory, the route
table and DRAM, 4 elsewhere. -/
def eccLen (a : Nat) : Nat :=
  if a ≥ 0x800000000 then 8
  else if 0x20000000 ≤ a ∧ a < 0x200A0000 then 5
  else if 0x21000000 ≤ a ∧ a < 0x21080000 then 8
  else if 0x40000000 ≤ a ∧ a < 0x41100000 then (if a % 0x100000 < 0x40000 then 5 else 8)
  else 4

/-- How far apart the checked words of a place lie. -/
def eccStep (a : Nat) : Nat := if eccLen a = 4 then 4 else 8

/-- The address of the checked word that a byte belongs to. -/
def eccWord (a : Nat) : Nat := a / eccStep a * eccStep a

/-- The error marks without those of words written whole by `n` bytes from an address. -/
def eccClear (e : SMap Ecc) (a n : Nat) : SMap Ecc :=
  e.filter fun x => ¬ (a ≤ x.1 ∧ x.1 + eccLen x.1 ≤ a + n)

/-- Bytes written from an address by the part itself: a word written whole is clean after it. -/
def Quad.store (q : Quad) (a : Nat) (bytes : List Byte) : Quad :=
  { q with mem := q.mem.writeBytes a bytes, ecc := eccClear q.ecc a bytes.length }

/-! ### REMAP (R56, R404) -/

/-- REMAP. -/
def Quad.remap (q : Quad) : Bool := q.flag Reg.QCTL_CTL_REMAP

/-- Where the byte at an address of the map is kept (R404): scratch bank 0, kept at 0x1000_0000, stands at 0 while REMAP is 1. -/
def Quad.phys (q : Quad) (a : Nat) : Nat := if q.remap && decide (a < 0x40000) then 0x10000000 + a else a

/-- Whether the boot ROM stands at an address (R404). -/
def Quad.inRom (q : Quad) (a : Nat) : Bool :=
  if q.remap then decide (0x10000000 ≤ a ∧ a < 0x10040000) else decide (a < 0x40000)

/-- Whether a range of the map lies in scratch (R402, R404). -/
def Quad.scratch (q : Quad) (a n : Nat) : Bool :=
  decide (0x10000000 ≤ a ∧ a + n ≤ 0x10800000) && !q.inRom a || (q.remap && decide (a + n ≤ 0x40000))

/-- Bytes written by the part itself at an address of the map; none reaches the boot ROM. -/
def Quad.partStore (q : Quad) (a : Nat) (bytes : List Byte) : Quad :=
  { q with mem := if q.inRom a then q.mem else (q.store (q.phys a) bytes).mem
           ecc := if q.inRom a then q.ecc else (q.store (q.phys a) bytes).ecc }

/-! ### Time (R24, R301, R369) -/

/-- INCR, with the slew while one runs, in units of 2⁻³² ns (R301, R306). -/
def Tim.incr (t : Tim) : Int :=
  (t.incrNs.toNat * 2 ^ 32 + t.incrFr.toNat : Nat) + (if t.slewLeft = 0 then 0 else t.slewDelta.toInt)

/-- One part in CLK_FREQ's units of 2⁻²⁴ ppm (R300). -/
def ppmOne : Nat := 2 ^ 24 * 1000000

/-- What TCLK's phase gains in a CCLK cycle, and its period (R24): unsteered TCLK runs at 3,125/12,288 of a CCLK with no offset, and
the DPLL steers CCLK. -/
def tclkGain : Nat := 3125 * ppmOne
/-- TCLK's period in units of its phase. -/
def Quad.tclkPeriod (q : Quad) : Nat := (12288 * ((ppmOne : Int) + q.clk.freq.toInt)).toNat

/-- The count interpolated within the TCLK cycle to 1 ns (R369). -/
def Quad.nsFine (q : Quad) : W64 :=
  BitVec.ofInt 64 (((q.tim.ns.toNat * 2 ^ 32 + q.tim.fr.toNat : Nat) + q.tim.incr * q.phase / (q.tclkPeriod : Int)) / 2 ^ 32)

/-! ### Beats (R411) -/

/-- A beat of a master granted: what aging gave it is over (R411). -/
def Quad.granted (q : Quad) (m : Nat) : Quad := { q with aged := q.aged.filter fun x => x != m }

/-! ### Cores -/

/-- A core by its physical number. -/
def Quad.core (q : Quad) (c : Fin 17) : Core := q.cores[c]

/-- A quadrant with a core replaced. -/
def Quad.setCore (q : Quad) (c : Fin 17) (k : Core) : Quad := { q with cores := q.cores.set c k }

/-- The numbers of the physical cores. -/
def physAll : List (Fin 17) := List.finRange 17

/-- The physical core that holds a position (R61, R62). -/
def Quad.coreAt (q : Quad) (pos : Nat) : Option (Fin 17) :=
  physAll.find? fun c => (q.core c).pos.val == pos

/-- The quadrant with every core changed. -/
def Quad.mapCores (q : Quad) (f : Fin 17 → Core → Core) : Quad :=
  { q with cores := Vector.ofFn fun c => f c q.cores[c] }

/-- Base of a core's window (R76). -/
def winBase (c : Fin 17) : Nat := 0x40000000 + c.val * 0x100000
/-- Address of an X word in a core's window. -/
def xAddr (c : Fin 17) (i : Nat) : Nat := winBase c + 8 * i
/-- Address of a Y word in a core's window. -/
def yAddr (c : Fin 17) (i : Nat) : Nat := winBase c + 0x20000 + 8 * i
/-- Address of an instruction in a core's window. -/
def pmAddr (c : Fin 17) (i : Nat) : Nat := winBase c + 0x40000 + 8 * i

/-- Whether a position is privileged (R61). -/
def privPos (pos : Nat) : Bool := decide (pos < 4)

/-- Whether Hardpan is enabled (R38): from the acceptance of EN. -/
def Quad.hpnOn (q : Quad) : Bool := q.hpn.state != .off

/-- Whether the lockstep pair is bound (R93): from PROVING on. -/
def Quad.locked (q : Quad) : Bool := q.hpn.state == .proving || q.hpn.state == .live

/-! ### Records, rings and counts -/

/-- The words of a ring record written to memory. -/
def writeWords (m : Memory) (a : Nat) : List W32 → Memory
  | [] => m
  | w :: t => writeWords (m.writeLE a w.toNat 4) (a + 4) t

/-- Where the next record of a ring of R191 goes: the ring's registers are BASE, LEN, WP, RP and OVWR. -/
def Quad.ringPlace (q : Quad) (base len wp : Field) : Nat := 16 * q.fld base + 16 * (q.fld wp % 2 ^ q.fld len)

/-- A ring of R191 once a record is written: its write count on, the oldest unread record given up where the ring is full. -/
def Quad.ringStep (q : Quad) (len wp rp ovwr : Field) : Quad :=
  let q := q.setFld wp (q.fld wp + 1)
  if (w32 (q.fld wp) - w32 (q.fld rp)).toNat > 2 ^ q.fld len then (q.setFld rp (q.fld rp + 1)).count ovwr 1 else q

/-- The bytes of a record. -/
def recordBytes (words : List W32) : List Byte := (words.map fun w => bytesLE w.toNat 4).flatten

/-- A record of the fault block, which is no bus master (R409), written to its ring. -/
def Quad.ringPush (q : Quad) (base len wp rp ovwr : Field) (words : List W32) : Quad :=
  (q.partStore (q.ringPlace base len wp) (recordBytes words)).ringStep len wp rp ovwr

/-- An event kept for Mladcel (R461). -/
def Quad.log (q : Quad) (code : BitVec 16) (sev : BitVec 8) (arg0 : W32) (arg1 : BitVec 16) : Quad :=
  if q.hp.events.length < 64 then
    { q with hp := { q.hp with events := q.hp.events ++ [⟨code, sev, arg0, arg1, q.tim.ns⟩] } }
  else { q with hp := { q.hp with eventsLost := q.hp.eventsLost + 1 } }

/-- Causes of HST_IRQSTq (R452). -/
def irqMode : BitVec 5 := 2
/-- HALT entered. -/
def irqHalt : BitVec 5 := 4
/-- A refusal flag was set. -/
def irqRef : BitVec 5 := 8
/-- A fault record was written. -/
def irqFlt : BitVec 5 := 16

/-- An interrupt cause raised (R452). -/
def Quad.irq (q : Quad) (c : BitVec 5) : Quad := { q with hp := { q.hp with irqSt := q.hp.irqSt ||| c } }

/-- One more record of a class in the present window, and the policy action it may make due (R474). -/
def Flt.note (f : Flt) (cls limit act : Nat) : Flt :=
  let n := (f.win.toList.getD cls 0) + 1
  let f := { f with win := f.win.setIfInBounds cls n, totals := f.totals.setIfInBounds cls (f.totals.toList.getD cls 0 + 1) }
  if limit ≠ 0 ∧ n ≥ limit ∧ act ≠ 0 ∧ ¬ f.acted.contains cls then
    { f with acted := cls :: f.acted, due := f.due ++ [cls] }
  else f

/-- A fault record (R472): written to the fault ring, counted, raised to the host, and put to the policy (R474). -/
def Quad.fault (q : Quad) (cls cause phys pos : Nat) (detail : W32) : Quad :=
  let w0 := w32 (cls + 256 * cause + 65536 * phys + 2097152 * pos)
  let q := q.ringPush Reg.FLT_RG_BASE_BASE Reg.FLT_RG_LEN_LOG2 Reg.FLT_RG_WP_WP Reg.FLT_RG_RP_RP Reg.FLT_RG_OVWR_OVWR
    [w0, q.tick.setWidth 32, q.tim.ns.setWidth 32, detail]
  let q := (q.count (Reg.FLT_CNT_COUNT cls) 1).irq irqFlt
  if cls ≤ 5 then
    { q with flt := q.flt.note cls (q.fld (Reg.FLT_POL_LIMIT cls)) (q.fld (Reg.FLT_POL_ACT cls)) }
  else { q with flt := q.flt.note cls 0 0 }

/-- A completion record given whole, which ends its command (R444, R447). While the host domain has not returned it is only kept
(R445). -/
def Quad.completeRec (q : Quad) (r : CplRec) : Quad :=
  let h := q.hp
  let h := { h with kept := h.kept ++ [r], open_ := h.open_.filter fun o => o.1 ≠ r.seq }
  { q with hp := if h.away then h else { h with cplRing := h.cplRing.put (h.cplWp.toNat % 512) r, cplWp := h.cplWp + 1 } }

/-- The completion record of a command (R444): RESB tells when. -/
def Quad.complete (q : Quad) (seq : W32) (op status aux : Nat) (resA : W32) : Quad :=
  q.completeRec ⟨status, op, false, aux, seq, resA, q.tim.ns.setWidth 32⟩

/-! ### How a command acts on the device -/

/-- A quadrant of the device. -/
def Device.quad (d : Device) : QId → Quad
  | .q0 => d.q0 | .q1 => d.q1 | .q2 => d.q2 | .q3 => d.q3

/-- The device with a quadrant replaced. -/
def Device.setQuad (d : Device) (i : QId) (q : Quad) : Device :=
  match i with
  | .q0 => { d with q0 := q } | .q1 => { d with q1 := q } | .q2 => { d with q2 := q } | .q3 => { d with q3 := q }

/-- A quadrant of a state. -/
def State.quad (s : State) (i : QId) : Quad := s.dev.quad i

/-- A quadrant with its memory in canonical form: what every command leaves. -/
def Quad.commit (q : Quad) : Quad := { q with mem := q.mem.normal }

/-- The outcome of a command. -/
abbrev Out := Host.Outcome State Fault Refusal

/-- A command that acts on one quadrant and on nothing else (R18, R22). -/
def onQ (i : QId) (f : Quad → Quad) (s : State) : Out :=
  .next { s with dev := s.dev.setQuad i (f (s.quad i)).commit }

/-- Whether the Nonor port takes nothing at its pins: in the resets that POR_N and the supply hold bring (R494), and while VDD_HP is below
1.5 V, when it sees every edge as idle (R496). -/
def HostDom.deaf (h : HostDom) : Bool := h.porLow || h.held || h.hpLow

/-- A command at the pins of the Nonor port. -/
def atPins (r : State → Out) (s : State) : Out := if s.dev.host.deaf then .next s else r s

/-- A command that acts on the host domain alone. -/
def onH (f : HostDom → HostDom) (s : State) : Out :=
  .next { s with dev := { s.dev with host := { f s.dev.host with staging := (f s.dev.host).staging.normal } } }

/-- A command that acts on one quadrant and on the host domain (R19). -/
def onQH (i : QId) (f : Quad → HostDom → Quad × HostDom) (s : State) : Out :=
  let r := f (s.quad i) s.dev.host
  .next { s with dev := { s.dev.setQuad i r.1.commit with host := { r.2 with staging := r.2.staging.normal } } }

/-- A command that acts on the whole device (POR_N, the host domain's own resets). -/
def onAll (f : Device → Device) (s : State) : Out :=
  let d := f s.dev
  .next { s with dev := { q0 := d.q0.commit, q1 := d.q1.commit, q2 := d.q2.commit, q3 := d.q3.commit,
                          host := { d.host with staging := d.host.staging.normal } } }

end Sys2Proof.Machine
end

