-- ==== Sys2Proof/Machine/Flags.lean ====
section
/-! DEFINITION. The fit of a result to its destination (R122), the flags of ST (R71) and the condition codes (R124). -/

namespace Sys2Proof.Machine

/-- A fitted result: the value, and which of V, SA and OV the fit sets (R122). -/
structure Fit (n : Nat) where
  val : BitVec n
  v : Bool
  sa : Bool
  ov : Bool
  deriving DecidableEq, Repr

/-- The fit of an exact result to `n` bits (R122): saturated with S, wrapped without. -/
def fit (n : Nat) (e : Int) (s : Bool) : Fit n :=
  if -(2 : Int) ^ (n - 1) ≤ e ∧ e ≤ (2 : Int) ^ (n - 1) - 1 then ⟨BitVec.ofInt n e, false, false, false⟩
  else if s then
    ⟨if e > 0 then BitVec.ofInt n ((2 : Int) ^ (n - 1) - 1) else BitVec.ofInt n (-(2 : Int) ^ (n - 1)), true, true, false⟩
  else ⟨BitVec.ofInt n e, true, false, true⟩

/-- The rounded quotient of a shift right by `sh` (R134): RND 0 nearest with a tie upward, 1 toward minus infinity, 2 nearest with
a tie to even. -/
def roundShift (e : Int) (sh : Nat) (rnd : Nat) : Int :=
  if sh = 0 then e
  else
    let d : Int := (2 : Int) ^ sh
    if rnd = 0 then (e + d / 2) / d
    else if rnd = 1 then e / d
    else
      let f := e / d
      let r := e % d
      if 2 * r < d then f else if 2 * r > d then f + 1 else if f % 2 = 0 then f else f + 1

/-- Bits of ST (R71). -/
def stOV : W32 := 0x100
/-- Sticky: saturated. -/
def stSA : W32 := 0x200
/-- Sticky: an accumulator left its range. -/
def stAV : W32 := 0x400
/-- Sticky: corrected ECC error. -/
def stEC : W32 := 0x800
/-- Sticky: uncorrectable ECC error. -/
def stEU : W32 := 0x1000
/-- Sticky: accumulator `n` left its range. -/
def stAVA (n : Fin 4) : W32 := BitVec.ofNat 32 (2 ^ (16 + n.val))
/-- The sticky bits of ST, which `mts` clears by writing 1 (R71). -/
def stSticky : W32 := 0x000F1F00

/-- The sticky bits that a fit to a D register sets (R72). -/
def sticky40 (f : Fit 40) : W32 := (if f.sa then stSA else 0) ||| (if f.ov then stOV else 0)

/-- The sticky bits that a fit to accumulator `n` sets (R72). -/
def sticky96 (n : Fin 4) (f : Fit 96) : W32 :=
  (if f.sa then stSA else 0) ||| (if f.ov then stOV else 0) ||| (if f.v then stAV ||| stAVA n else 0)

/-- The Z, N, V, C bits of a nibble, bit 0 to bit 3. -/
def nib (z n v c : Bool) : BitVec 4 :=
  BitVec.ofNat 4 (b2n z + 2 * b2n n + 4 * b2n v + 8 * b2n c)

/-- Masks of flags that an instruction writes. -/
def mZN : BitVec 4 := 0b0011
/-- Z, N and V. -/
def mZNV : BitVec 4 := 0b0111
/-- All four. -/
def mZNVC : BitVec 4 := 0b1111
/-- V alone. -/
def mV : BitVec 4 := 0b0100
/-- Z, N and C with V. -/
def mZNC : BitVec 4 := 0b1011

/-- Z of ST. -/
def stZ (st : W32) : Bool := st.getLsbD 0
/-- N of ST. -/
def stN (st : W32) : Bool := st.getLsbD 1
/-- V of ST. -/
def stV (st : W32) : Bool := st.getLsbD 2
/-- C of ST. -/
def stC (st : W32) : Bool := st.getLsbD 3

/-- Whether a condition holds (R124); the reserved codes hold never. -/
def cond (cc : BitVec 4) (st : W32) : Bool :=
  match cc.toNat with
  | 0 => stZ st
  | 1 => !stZ st
  | 2 => stN st
  | 3 => !stN st
  | 4 => !stN st && !stZ st
  | 5 => stN st || stZ st
  | 6 => stV st
  | 7 => !stV st
  | 8 => stC st
  | 9 => !stC st
  | 10 => !stC st && !stZ st
  | 11 => stC st || stZ st
  | 12 => true
  | _ => false

/-- Whether a condition code is defined (R124). -/
def condOk (cc : BitVec 4) : Bool := decide (cc.toNat ≤ 12)

/-- ST with the flags of a mask written. -/
def putFlags (st : W32) (mask val : BitVec 4) : W32 :=
  (st &&& ~~~(mask.setWidth 32)) ||| ((val &&& mask).setWidth 32)

end Sys2Proof.Machine
end

