-- ==== Sys2Proof/Machine/Operands.lean ====
section
/-! DEFINITION. Every operand form of the Ronene core: register codes (R150), reads and writes of registers, held bases and
lengths (R102), address modes and the circular add (R98 to R105), and the parallel-move field (R146). -/

namespace Sys2Proof.Machine

/-- A number below 8. -/
def fin8 (n : Nat) : Fin 8 := ⟨n % 8, by omega⟩
/-- A number below 16. -/
def fin16 (n : Nat) : Fin 16 := ⟨n % 16, by omega⟩
/-- A number below 4. -/
def fin4 (n : Nat) : Fin 4 := ⟨n % 4, by omega⟩

/-- The register that a 6-bit code names (R150); codes 0x34 to 0x3F name none. -/
def regOf (code : BitVec 6) : Option Rg :=
  let n := code.toNat
  if n < 0x10 then some (.d (fin16 n))
  else if n < 0x18 then some (.p (fin8 n))
  else if n < 0x20 then some (.m (fin8 n))
  else if n < 0x28 then some (.b (fin8 n))
  else if n < 0x30 then some (.l (fin8 n))
  else if n < 0x34 then some (.a (fin4 n))
  else none

/-- The register of a code outside the accumulators (R150: only `xmov` may name those). -/
def gprOf (code : BitVec 6) : Option Rg :=
  match regOf code with
  | some (.a _) => none
  | r => r

/-- The active set of a core. -/
def Core.cur (k : Core) : RegSet := if k.act then k.set1 else k.set0

/-- A core with a set replaced. -/
def Core.setSet (k : Core) (b : Bool) (r : RegSet) : Core := if b then { k with set1 := r } else { k with set0 := r }

/-- A set of a core. -/
def Core.getSet (k : Core) (b : Bool) : RegSet := if b then k.set1 else k.set0

/-- A register read as data (R150): P, B and L zero-extended, M sign-extended. An accumulator's low 40 bits are read only by
`xmov`, which reads it whole. -/
def RegSet.read (s : RegSet) : Rg → W40
  | .d n => s.d[n]
  | .p n => s.p[n].setWidth 40
  | .m n => s.m[n].signExtend 40
  | .b n => s.b[n].setWidth 40
  | .l n => s.l[n].setWidth 40
  | .a n => s.a[n].setWidth 40

/-- A register written from data (R150): P, M and B take bits [35:0], L bits [23:0]. A write to Bn or Ln takes effect if Ln
is zero and is held otherwise (R102). -/
def RegSet.write (s : RegSet) (r : Rg) (v : W40) : RegSet :=
  match r with
  | .d n => { s with d := s.d.set n v }
  | .p n => { s with p := s.p.set n (v.setWidth 36) }
  | .m n => { s with m := s.m.set n (v.setWidth 36) }
  | .b n => if s.l[n] = 0 then { s with b := s.b.set n (v.setWidth 36) }
            else { s with heldB := s.heldB.set n (some (v.setWidth 36)) }
  | .l n => if s.l[n] = 0 then { s with l := s.l.set n (v.setWidth 24) }
            else { s with heldL := s.heldL.set n (some (v.setWidth 24)) }
  | .a n => { s with a := s.a.set n (v.setWidth 96) }

/-- A pointer moved (R98). -/
def RegSet.setP (s : RegSet) (n : Fin 8) (v : Nat) : RegSet := { s with p := s.p.set n (BitVec.ofNat 36 v) }

/-- The pair of base and length that becomes active at a wrap (R102, R103): a register not written keeps its value. -/
def RegSet.heldPair (s : RegSet) (n : Fin 8) : W36 × W24 := (s.heldB[n].getD s.b[n], s.heldL[n].getD s.l[n])

/-- The held pair made active (R103). -/
def RegSet.applyHeld (s : RegSet) (n : Fin 8) : RegSet :=
  { s with b := s.b.set n (s.heldPair n).1, l := s.l.set n (s.heldPair n).2,
           heldB := s.heldB.set n none, heldL := s.heldL.set n none }

/-! TRAP causes (R162). -/
namespace Cause
/-- Reserved or forbidden. -/
def illegalOp : Nat := 0x01
/-- X or Y address of 16,384 or more. -/
def xyRange : Nat := 0x02
/-- Step larger than the window. -/
def circStep : Nat := 0x03
/-- Pointer outside its window. -/
def circOut : Nat := 0x04
/-- Length outside the limits of a reverse-carry mode. -/
def rcLength : Nat := 0x05
/-- One pointer stepped twice. -/
def dupModify : Nat := 0x06
/-- One register written twice. -/
def dupDest : Nat := 0x07
/-- Bus error. -/
def busErr : Nat := 0x08
/-- Write to the register region without privilege. -/
def privWrite : Nat := 0x09
/-- Instruction not allowed after `rep`. -/
def repIllegal : Nat := 0x0A
/-- Repeat count out of range. -/
def repCount : Nat := 0x0B
/-- Not allowed in a delay slot. -/
def slotIllegal : Nat := 0x0C
/-- Return stack full or empty. -/
def stack : Nat := 0x0D
/-- `rte` in a TRAP handler. -/
def rteTrap : Nat := 0x0E
/-- `frel` outside a flow. -/
def flow : Nat := 0x0F
end Cause

/-- Address modes (R98). -/
inductive AMode where
  | plain
  | stepK (k : Int)
  | stepM (m : Fin 8)
  | offset (k : Int)
  | rev (m : Fin 8) (radix4 : Bool)
  deriving DecidableEq, Repr

/-- The mode that MODE and VAL of MAJOR 0x10 give (R149): none where the encoding or the range of R98 forbids it. -/
def amodeOf (mode : BitVec 3) (val : BitVec 8) : Option AMode :=
  let k := val.toInt
  let m := fin8 val.toNat
  match mode.toNat with
  | 0 => if val = 0 then some .plain else none
  | 1 => if -8 ≤ k ∧ k ≤ 7 then some (.stepK k) else none
  | 2 => if val.toNat < 8 then some (.stepM m) else none
  | 3 => some (.offset k)
  | 4 => if val.toNat < 8 then some (.rev m false) else none
  | 5 => if val.toNat < 8 then some (.rev m true) else none
  | _ => none

/-- Digits of `g` bits of a `w`-bit number, in reverse order (R105). -/
def revDigits (g w n : Nat) : Nat :=
  (List.range (w / g)).foldl (fun acc i => acc * 2 ^ g + (n / 2 ^ (g * i)) % 2 ^ g) 0

/-- Whether a length suits a reverse-carry mode (R105). -/
def rcLenOk (radix4 : Bool) (l : Nat) : Bool :=
  if radix4 then decide (4 ≤ l ∧ l ≤ 4194304) && (l == 2 ^ l.log2) && l.log2 % 2 == 0
  else decide (2 ≤ l ∧ l ≤ 8388608) && (l == 2 ^ l.log2)

/-- The outcome of forming an address: the causes met, the effective address, and the set with the pointer stepped. -/
structure AddrRes where
  traps : List Nat
  ea : Nat
  set : RegSet
  deriving DecidableEq, Repr

/-- 2³⁶, the modulus of address arithmetic (R96). -/
def m36 : Nat := 2 ^ 36

/-- Whether a pointer lies outside its non-empty window (R99). -/
def outside (s : RegSet) (n : Fin 8) : Bool :=
  s.l[n] != 0 && (decide (s.p[n].toNat < s.b[n].toNat) || decide (s.p[n].toNat ≥ s.b[n].toNat + s.l[n].toNat))

/-- A circular step of `m` (R99, R100, R103): the causes met, and the stepped set. A pointer outside its window leaves no edge, so
the check of R103 is made of one inside only (R97). DESIGN CHOICE (log 134): where Bn + Ln exceeds 2³⁶, the comparisons are of unbounded
numbers, and only the result is reduced. -/
def circAdd (s : RegSet) (n : Fin 8) (m : Int) : List Nat × RegSet :=
  let p : Int := s.p[n].toNat
  let b : Int := s.b[n].toNat
  let l : Int := s.l[n].toNat
  let wrap36 (i : Int) : Nat := (i % (m36 : Int)).toNat
  if l = 0 then ([], s.setP n (wrap36 (p + m)))
  else
    let t1 := if m.natAbs > l.toNat then [Cause.circStep] else []
    let next := p + m
    let newB : Int := (s.heldPair n).1.toNat
    let newL : Int := (s.heldPair n).2.toNat
    if next ≥ b + l then
      let past := next - (b + l)
      let t2 := if newL ≠ 0 ∧ past > newL ∧ !outside s n then [Cause.circStep] else []
      (t1 ++ t2, (s.applyHeld n).setP n (wrap36 (newB + past)))
    else if next < b then
      let under := b - next
      let t2 := if newL ≠ 0 ∧ under > newL ∧ !outside s n then [Cause.circStep] else []
      (t1 ++ t2, (s.applyHeld n).setP n (wrap36 (newB + newL - under)))
    else (t1, s.setP n (wrap36 next))

/-- The reverse-carry step (R105). -/
def revAdd (s : RegSet) (n : Fin 8) (m : Int) (radix4 : Bool) : List Nat × RegSet :=
  let l := s.l[n].toNat
  let w := l.log2
  let g := if radix4 then 2 else 1
  let o := (((s.p[n].toNat : Int) - s.b[n].toNat)).toNat
  let step := (m % ((2 ^ w : Nat) : Int)).toNat
  let sum := revDigits g w o + revDigits g w step
  let o' := revDigits g w (sum % 2 ^ w)
  if sum ≥ 2 ^ w then
    let pair := s.heldPair n
    let t := if pair.2.toNat ≠ 0 ∧ o' ≥ pair.2.toNat ∧ !outside s n then [Cause.circStep] else []
    (t, (s.applyHeld n).setP n ((pair.1.toNat + o') % m36))
  else ([], s.setP n ((s.b[n].toNat + o') % m36))

/-- The effective address of mode (pn+k) (R98, R101): the active window, no held change, Pn unmoved. -/
def offsetAddr (s : RegSet) (n : Fin 8) (k : Int) : List Nat × Nat :=
  let r := circAdd { s with heldB := s.heldB.set n none, heldL := s.heldL.set n none } n k
  (r.1, r.2.p[n].toNat)

/-- An access's address and step (R98). The step counts in the unit of the access (R95), which is the unit of Pn. -/
def addrOf (s : RegSet) (n : Fin 8) (a : AMode) : AddrRes :=
  let out := if outside s n then [Cause.circOut] else []
  match a with
  | .plain => ⟨out, s.p[n].toNat, s⟩
  | .stepK k => let r := circAdd s n k; ⟨out ++ r.1, s.p[n].toNat, r.2⟩
  | .stepM m => let r := circAdd s n s.m[m].toInt; ⟨out ++ r.1, s.p[n].toNat, r.2⟩
  | .offset k => let r := offsetAddr s n k; ⟨out ++ r.1, r.2, s⟩
  | .rev m r4 =>
    if rcLenOk r4 s.l[n].toNat then
      let r := revAdd s n s.m[m].toInt r4
      ⟨out ++ r.1, s.p[n].toNat, r.2⟩
    else ⟨out ++ [Cause.rcLength], s.p[n].toNat, s⟩

/-- Whether a mode steps its pointer (R116). In PMOVE a step k of zero is the mode (pn) (R146). -/
def AMode.steps : AMode → Bool
  | .plain => false
  | .offset _ => false
  | .stepK _ => true
  | .stepM _ => true
  | .rev _ _ => true

/-- An X or Y access: direction, register, pointer, mode. -/
structure XyAcc where
  store : Bool
  reg : Rg
  p : Fin 8
  mode : AMode
  deriving DecidableEq, Repr

/-- A bus access: direction, register, pointer, width code (R106), mode. -/
structure BusAcc where
  store : Bool
  reg : Rg
  p : Fin 8
  w : BitVec 2
  mode : AMode
  deriving DecidableEq, Repr

/-- What a PMOVE field asks for (R146): a transfer, an X, a Y, a bus access. -/
structure PMove where
  xfer : Option (Rg × Rg) := none
  x : Option XyAcc := none
  y : Option XyAcc := none
  bus : Option BusAcc := none
  deriving DecidableEq, Repr

/-- The 11-bit X or Y access of PMOVE (R146); `y` selects the bank. -/
def pmXy (f : Nat) (y : Bool) : Option XyAcc :=
  let v := f % 8
  let md := bitN f 3
  let k : Int := if v < 4 then v else (v : Int) - 8
  some ⟨bitN f 10, .d (fin16 (f / 64)), fin8 ((f / 16) % 4 + (if y then 4 else 0)),
    if md then .stepM (fin8 v) else if k = 0 then .plain else .stepK k⟩

/-- The bus access of PMOVE (R146); none where a bit that must be zero is not. -/
def pmBus (f : Nat) : Option BusAcc :=
  let v := (f / 32) % 16
  let md := bitN f 9
  let k : Int := if v < 8 then v else (v : Int) - 16
  if f % 32 ≠ 0 ∨ (md ∧ v ≥ 8) then none
  else some ⟨bitN f 19, .d (fin16 (f / 32768)), fin8 (f / 4096), BitVec.ofNat 2 (f / 1024),
    if md then .stepM (fin8 v) else if k = 0 then .plain else .stepK k⟩

/-- The parallel moves of a PMOVE field (R146); none where the field is reserved or a bit that must be zero is not. -/
def pmOf (pm : BitVec 24) : Option PMove :=
  let n := pm.toNat
  let form := n / 2 ^ 22
  let sub := (n / 2 ^ 20) % 4
  let rest := n % 2 ^ 20
  let xf := (n / 2 ^ 11) % 2 ^ 11
  let yf := n % 2 ^ 11
  if form = 0 then
    if sub = 0 then (if rest = 0 then some {} else none)
    else if sub = 1 then
      match gprOf (BitVec.ofNat 6 (rest / 2 ^ 14)), gprOf (BitVec.ofNat 6 (rest / 2 ^ 8)) with
      | some d, some s => if rest % 256 = 0 then some { xfer := some (d, s) } else none
      | _, _ => none
    else if sub = 2 then (pmBus rest).map fun b => { bus := some b }
    else none
  else if form = 1 then (if yf = 0 then (pmXy xf false).map fun a => { x := some a } else none)
  else if form = 2 then (if xf = 0 then (pmXy yf true).map fun a => { y := some a } else none)
  else
    match pmXy xf false, pmXy yf true with
    | some a, some b => some { x := some a, y := some b }
    | _, _ => none

/-- The registers that moves read: sources, store data, pointers and modifiers of the addresses. -/
def PMove.reads (m : PMove) : List Rg :=
  let acc (store : Bool) (r : Rg) (p : Fin 8) (a : AMode) : List Rg :=
    (if store then [r] else []) ++ [.p p, .b p, .l p] ++
      (match a with | .stepM i => [.m i] | .rev i _ => [.m i] | _ => [])
  (match m.xfer with | some (_, s) => [s] | none => []) ++
  (match m.x with | some a => acc a.store a.reg a.p a.mode | none => []) ++
  (match m.y with | some a => acc a.store a.reg a.p a.mode | none => []) ++
  (match m.bus with | some a => acc a.store a.reg a.p a.mode | none => [])

/-- The registers that moves write, pointer steps apart. -/
def PMove.writes (m : PMove) : List Rg :=
  (match m.xfer with | some (d, _) => [d] | none => []) ++
  (match m.x with | some a => if a.store then [] else [a.reg] | none => []) ++
  (match m.y with | some a => if a.store then [] else [a.reg] | none => []) ++
  (match m.bus with | some a => if a.store then [] else [a.reg] | none => [])

/-- The pointers that moves step. -/
def PMove.stepped (m : PMove) : List Rg :=
  (match m.x with | some a => if a.mode.steps then [.p a.p] else [] | none => []) ++
  (match m.y with | some a => if a.mode.steps then [.p a.p] else [] | none => []) ++
  (match m.bus with | some a => if a.mode.steps then [.p a.p] else [] | none => [])

/-- Whether a list names an element twice. -/
def hasDup : List Rg → Bool
  | [] => false
  | r :: t => t.contains r || hasDup t

/-- The duplicate causes of an instruction that writes `w` and steps `st` (R116, R147). -/
def dupTraps (w st : List Rg) : List Nat :=
  (if hasDup st then [Cause.dupModify] else []) ++
  (if hasDup w || st.any (w.contains ·) then [Cause.dupDest] else [])

end Sys2Proof.Machine
end

