-- ==== Sys2Proof/Decode.lean ====
section
/-! DEFINITION. The decoder of the opcode table, whose rows give no bits; the command that a stored 64-bit instruction word spells
(R119 to R161); and the fields of a word that the legality of `rep` (R111) and the Hardpan verifier (R258, R259) read. -/

namespace Sys2Proof

/-- The command that a word spells by the bits of spec/opcode_table.json: no row of the table gives bits, so none. -/
def decodeTableWord (_nbits _w : Nat) : Option Instr := none

end Sys2Proof

namespace Sys2Proof.Machine

/-- Bits `hi` to `lo` of an instruction word (R119). -/
def wbits (w : W64) (hi lo : Nat) : Nat := (w.toNat >>> lo) % 2 ^ (hi - lo + 1)

/-- MAJOR (R119). -/
def wMajor (w : W64) : Nat := wbits w 63 58
/-- MINOR (R119). -/
def wMinor (w : W64) : Nat := wbits w 55 48
/-- The moves of PMOVE (R146). -/
def wMoves (w : W64) : Option PMove := pmOf (BitVec.ofNat 24 (wbits w 23 0))

/-- Whether an instruction carries PMOVE (R148). -/
def wHasMoves (w : W64) : Bool :=
  decide (1 ≤ wMajor w ∧ wMajor w ≤ 7) || (wMajor w == 0x10 && decide (wMinor w ≤ 2))

/-- Whether a register is Bn or Ln. -/
def isBL : Rg → Bool
  | .b _ => true
  | .l _ => true
  | _ => false

/-- Whether moves suit a repeated instruction (R111): no bus access, nothing written to Bn or Ln. -/
def PMove.repOk (m : PMove) : Bool := m.bus.isNone && !(m.writes.any isBL)

/-- The register a stand-alone access names (R149). -/
def wReg (w : W64) : Option Rg := gprOf (BitVec.ofNat 6 (wbits w 46 41))

/-- Whether a stand-alone access is a store. -/
def wStore (w : W64) : Bool := wbits w 47 47 == 1

/-- Whether an instruction may be repeated (R111, R125). DESIGN CHOICE (log 136): of a group that may be, an undefined MINOR or a field
that is not zero as it must be is no matter of `rep`, and gives ILLEGAL_OP at the first repetition. -/
def wRepOk (w : W64) : Bool :=
  let moves := match wMoves w with | some m => m.repOk | none => false
  if w = 0 then true
  else if wbits w 57 57 = 1 then false
  else if 1 ≤ wMajor w ∧ wMajor w ≤ 7 then moves
  else if wMajor w = 0x10 then
    if wMinor w = 0 then moves
    else if wMinor w = 2 then moves && (match wReg w with | some r => wStore w || !isBL r | none => false)
    else false
  else if wMajor w = 0x11 then
    decide (wMinor w ≤ 1) && (match gprOf (BitVec.ofNat 6 (wbits w 47 42)) with | some r => !isBL r | none => false)
  else false

/-! ### The command that a stored word spells (R119 to R121, R126, R130, R512, R139, R143, R146 to R161) -/

/-- A 4-bit field that names a D register. -/
def wD (w : W64) (lo : Nat) : Fin 16 := ⟨wbits w (lo + 3) lo % 16, Nat.mod_lt _ (by decide)⟩
/-- A 3-bit field that names a pointer. -/
def wP (w : W64) (lo : Nat) : Fin 8 := ⟨wbits w (lo + 2) lo % 8, Nat.mod_lt _ (by decide)⟩
/-- A 2-bit field that names an accumulator. -/
def wA (w : W64) (lo : Nat) : Fin 4 := ⟨wbits w (lo + 1) lo % 4, Nat.mod_lt _ (by decide)⟩
/-- A field of `n` bits as it stands. -/
def wF (n : Nat) (w : W64) (lo : Nat) : BitVec n := BitVec.ofNat n (wbits w (lo + n - 1) lo)

/-- The issue of a word by the core that fetched it: S, PMOVE, and whether bit 57 or a field that must be zero is not (R119, R121). -/
def wIssue (i : Issue) (w : W64) (zero : List (Nat × Nat)) : Issue :=
  { i with sat := wbits w 56 56 == 1, pm := wF 24 w 0, rsv := wbits w 57 57 == 1 || zero.any fun z => wbits w z.1 z.2 != 0 }

/-- The operand y of the data ALU: DB, or IMM beside a DB of zero (R139). -/
def wSrc (w : W64) : Src × List (Nat × Nat) :=
  if wbits w 35 35 = 1 then (.imm (wF 11 w 24), [(39, 36)]) else (.reg (wD w 36), [(34, 24)])

/-- Groups 0x01 to 0x03 (R120, R126). -/
def wMultiply (i : Issue) (w : W64) : Option Instr :=
  let one := wIssue i w [(37, 24)]
  let pair := wIssue i w [(37, 36), (27, 24)]
  match wMajor w, wMinor w with
  | 1, 0 => some (.mpy one (wA w 46) (wD w 42) (wD w 38))
  | 1, 1 => some (.mac one (wA w 46) (wD w 42) (wD w 38))
  | 1, 2 => some (.msu one (wA w 46) (wD w 42) (wD w 38))
  | 3, 0 => some (.mpy2 pair (wA w 46) (wD w 42) (wD w 38) (wD w 32) (wD w 28))
  | 3, 1 => some (.mac2 pair (wA w 46) (wD w 42) (wD w 38) (wD w 32) (wD w 28))
  | 3, 2 => some (.msu2 pair (wA w 46) (wD w 42) (wD w 38) (wD w 32) (wD w 28))
  | 3, 3 => some (.mas2 pair (wA w 46) (wD w 42) (wD w 38) (wD w 32) (wD w 28))
  | 2, _ => some (.dualMultiply (wIssue i w [(55, 52), (27, 24)]) (wF 2 w 48) (wF 2 w 50) (wA w 46) (wD w 42) (wD w 38)
      (wA w 36) (wD w 32) (wD w 28))
  | _, _ => none

/-- Group 0x04 (R120, R130). -/
def wAccumulator (i : Issue) (w : W64) : Option Instr :=
  match wMinor w with
  | 0 => some (.clrAcc (wIssue i w [(45, 24)]) (wA w 46))
  | 1 => some (.amovD (wIssue i w [(45, 42), (37, 24)]) (wA w 46) (wD w 38))
  | 2 => some (.amovAcc (wIssue i w [(43, 24)]) (wA w 46) (wA w 44))
  | 3 => some (.aadd (wIssue i w [(41, 24)]) (wA w 46) (wA w 44) (wA w 42))
  | 4 => some (.asub (wIssue i w [(41, 24)]) (wA w 46) (wA w 44) (wA w 42))
  | 5 => some (.aneg (wIssue i w [(43, 24)]) (wA w 46) (wA w 44))
  | 6 => some (.aabs (wIssue i w [(43, 24)]) (wA w 46) (wA w 44))
  | 7 => some (.ashAcc (wIssue i w [(43, 38), (30, 24)]) (wA w 46) (wA w 44) (wF 7 w 31))
  | 8 => some (.ex2 (wIssue i w [(45, 42), (37, 24)]) (wA w 46) (wD w 38))
  | 9 => some (.tsta (wIssue i w [(47, 46), (43, 24)]) (wA w 44))
  | _ => none

/-- Group 0x05 (R120, R512). -/
def wExtract (i : Issue) (w : W64) : Option Instr :=
  match wMinor w with
  | 0 => some (.ext (wIssue i w [(33, 24)]) (wD w 44) (wA w 42) (wF 2 w 40) (wF 6 w 34))
  | 1 => some (.extl (wIssue i w [(41, 24)]) (wD w 44) (wA w 42))
  | 2 => some (.nrma (wIssue i w [(41, 24)]) (wD w 44) (wA w 42))
  | 3 => some (.lg2 (wIssue i w [(41, 24)]) (wD w 44) (wA w 42))
  | 4 => some (.bqs (wIssue i w [(29, 24)]) (wD w 44) (wA w 42) (wD w 30) (wF 2 w 40) (wF 6 w 34))
  | _ => none

/-- Group 0x06 (R120, R139). -/
def wDataAlu (i : Issue) (w : W64) : Option Instr :=
  let y := wSrc w
  let two := wIssue i w y.2
  let one := wIssue i w [(39, 24)]
  match wMinor w with
  | 0x00 => some (.add two (wD w 44) (wD w 40) y.1)
  | 0x01 => some (.sub two (wD w 44) (wD w 40) y.1)
  | 0x02 => some (.adc two (wD w 44) (wD w 40) y.1)
  | 0x03 => some (.sbc two (wD w 44) (wD w 40) y.1)
  | 0x04 => some (.neg one (wD w 44) (wD w 40))
  | 0x05 => some (.abs one (wD w 44) (wD w 40))
  | 0x06 => some (.min two (wD w 44) (wD w 40) y.1)
  | 0x07 => some (.max two (wD w 44) (wD w 40) y.1)
  | 0x08 => some (.clip two (wD w 44) (wD w 40) y.1)
  | 0x09 => some (.clrD (wIssue i w [(43, 24)]) (wD w 44))
  | 0x0A => some (.cmp (wIssue i w ((47, 44) :: y.2)) (wD w 40) y.1)
  | 0x0B => some (.tst (wIssue i w [(47, 44), (39, 24)]) (wD w 40))
  | 0x0C => some (.sel (wIssue i w [(31, 24)]) (wD w 44) (wD w 40) (wD w 36) (wF 4 w 32))
  | 0x0D => some (.nrm one (wD w 44) (wD w 40))
  | 0x10 => some (.asl two (wD w 44) (wD w 40) y.1)
  | 0x11 => some (.asr two (wD w 44) (wD w 40) y.1)
  | 0x12 => some (.lsl two (wD w 44) (wD w 40) y.1)
  | 0x13 => some (.lsr two (wD w 44) (wD w 40) y.1)
  | 0x14 => some (.ashD two (wD w 44) (wD w 40) y.1)
  | _ => none

/-- Group 0x07 (R120, R143). -/
def wLogic (i : Issue) (w : W64) : Option Instr :=
  let two := wIssue i w [(35, 24)]
  match wMinor w with
  | 0 => some (.and two (wD w 44) (wD w 40) (wD w 36))
  | 1 => some (.or two (wD w 44) (wD w 40) (wD w 36))
  | 2 => some (.xor two (wD w 44) (wD w 40) (wD w 36))
  | 3 => some (.andn two (wD w 44) (wD w 40) (wD w 36))
  | 4 => some (.not (wIssue i w [(39, 24)]) (wD w 44) (wD w 40))
  | _ => none

/-- MAJOR 0x10 and 0x11 (R149, R151); the low bits of `ldi` are its immediate's (R148). -/
def wMove (i : Issue) (w : W64) : Option Instr :=
  match wMajor w, wMinor w with
  | 0x10, 0 => some (.movesAlone (wIssue i w [(47, 24)]))
  | 0x10, 1 => some (.busAccess (wIssue i w [(24, 24)]) (wStore w) (wF 6 w 41) (wP w 38) (wF 2 w 36) (wF 3 w 33) (wF 8 w 25))
  | 0x10, 2 => some (.xyAccess (wIssue i w [(37, 36), (24, 24)]) (wStore w) (wF 6 w 41) (wP w 38) (wF 3 w 33) (wF 8 w 25))
  | 0x10, 3 => some (.fence (wIssue i w [(47, 24)]))
  | 0x11, 0 => some (.mov (wIssue i w [(35, 24)]) (wF 6 w 42) (wF 6 w 36))
  | 0x11, 1 => some (.ldi { wIssue i w [(41, 40)] with pm := 0 } (wF 6 w 42) (wF 40 w 0))
  | 0x11, 2 => some (.mfs (wIssue i w [(39, 24)]) (wD w 44) (wF 4 w 40))
  | 0x11, 3 => some (.mts (wIssue i w [(47, 44), (35, 24)]) (wF 4 w 40) (wD w 36))
  | 0x11, 4 => some (.xmov (wIssue i w [(34, 24)]) (wF 6 w 42) (wF 6 w 36) (wbits w 35 35 == 1))
  | 0x11, 5 => some (.clrc (wIssue i w [(44, 24)]) (wP w 45))
  | _, _ => none

/-- MAJOR 0x20 (R154). -/
def wControl (i : Issue) (w : W64) : Option Instr :=
  let none_ := wIssue i w [(47, 24)]
  let far := wIssue i w [(47, 37)]
  let reg := wIssue i w [(47, 44), (39, 24)]
  match wMinor w with
  | 0x0 => some (.brTarget (wIssue i w [(43, 37)]) (wF 4 w 44) (wF 13 w 24))
  | 0x1 => some (.brReg (wIssue i w [(39, 24)]) (wF 4 w 44) (wD w 40))
  | 0x2 => some (.callTarget far (wF 13 w 24))
  | 0x3 => some (.callReg reg (wD w 40))
  | 0x4 => some (.ret none_)
  | 0x5 => some (.rte none_)
  | 0x6 => some (.jpm far (wF 13 w 24))
  | 0x7 => some (.dbnz (wIssue i w [(47, 44), (39, 37)]) (wD w 40) (wF 13 w 24))
  | 0x8 => some (.repImm (wIssue i w [(47, 34)]) (wF 10 w 24))
  | 0x9 => some (.repReg reg (wD w 40))
  | 0xA => some (.brk none_)
  | _ => none

/-- MAJOR 0x30 and 0x31 (R157, R161). -/
def wSystem (i : Issue) (w : W64) : Option Instr :=
  let none_ := wIssue i w [(47, 24)]
  let one := wIssue i w [(43, 24)]
  let two := wIssue i w [(39, 24)]
  match wMajor w, wMinor w with
  | 0x30, 0 => some (.req none_)
  | 0x30, 1 => some (.done none_)
  | 0x30, 2 => some (.spawn (wIssue i w [(47, 44), (39, 24)]) (wD w 40))
  | 0x30, 3 => some (.spawnNb two (wD w 44) (wD w 40))
  | 0x30, 4 => some (.cancel two (wD w 44) (wD w 40))
  | 0x30, 5 => some (.frel none_)
  | 0x30, 6 => some (.pfs one (wD w 44))
  | 0x31, 0 => some (.kld one (wD w 44))
  | 0x31, 1 => some (.kfg one (wD w 44))
  | _, _ => none

/-- The command that a word spells, if its MAJOR and MINOR are defined (R120, R121); the all-zero word is `nop`. -/
def wInstr (i : Issue) (w : W64) : Option Instr :=
  match wMajor w with
  | 0x00 => if w = 0 then some (.nop (wIssue i w [])) else none
  | 0x04 => wAccumulator i w
  | 0x05 => wExtract i w
  | 0x06 => wDataAlu i w
  | 0x07 => wLogic i w
  | 0x10 => wMove i w
  | 0x11 => wMove i w
  | 0x20 => wControl i w
  | 0x30 => wSystem i w
  | 0x31 => wSystem i w
  | _ => wMultiply i w

/-- The command by which a core issues a word: an undefined MAJOR or MINOR is a word of no effect that raises ILLEGAL_OP (R121),
which `nop` with a non-zero must-be-zero field does (log 126). -/
def wordCommand (i : Issue) (w : W64) : Instr := (wInstr i w).getD (.nop { i with rsv := true })

/-! ### What the verifier reads (R258, R259) -/

/-- How an instruction goes on, for the verifier. -/
inductive VFlow where
  | plain
  | done
  | forbidden
  | br (cond : Bool) (target : Nat)
  | dbnz (dx : Nat) (target : Nat)
  | rep (n : Nat)
  deriving DecidableEq, Repr

/-- The flow of a word (R154, Table: instructions not allowed in Hardpan). -/
def wFlow (w : W64) : VFlow :=
  let target := wbits w 36 24
  match wMajor w, wMinor w with
  | 0x20, 0x00 => .br (wbits w 47 44 != 0xC) target
  | 0x20, 0x01 => .forbidden
  | 0x20, 0x02 => .forbidden
  | 0x20, 0x03 => .forbidden
  | 0x20, 0x04 => .forbidden
  | 0x20, 0x05 => .forbidden
  | 0x20, 0x06 => .forbidden
  | 0x20, 0x07 => .dbnz (wbits w 43 40) target
  | 0x20, 0x08 => .rep (wbits w 33 24 + 1)
  | 0x20, 0x09 => .forbidden
  | 0x20, 0x0A => .forbidden
  | 0x11, 0x03 => .forbidden
  | 0x11, 0x04 => .forbidden
  | 0x30, 0x01 => .done
  | 0x30, _ => .forbidden
  | 0x31, _ => .forbidden
  | _, _ => .plain

/-- The D registers that a word writes. -/
def wWritesD (w : W64) : List Nat :=
  let moves := if wHasMoves w then (match wMoves w with
    | some m => m.writes.filterMap fun r => match r with | .d n => some n.val | _ => none
    | none => []) else []
  let own : List Nat := match wMajor w, wMinor w with
    | 0x05, 0x04 => [wbits w 47 44, wbits w 47 44 + 1, wbits w 47 44 + 2, wbits w 47 44 + 3]
    | 0x05, _ => [wbits w 47 44]
    | 0x06, 0x0A => []
    | 0x06, 0x0B => []
    | 0x06, _ => [wbits w 47 44]
    | 0x07, _ => [wbits w 47 44]
    | 0x10, n => if 1 ≤ n ∧ n ≤ 2 ∧ !wStore w then
        (match wReg w with | some (.d r) => [r.val] | _ => []) else []
    | 0x11, 0x00 => if wbits w 47 42 < 16 then [wbits w 47 42] else []
    | 0x11, 0x01 => if wbits w 47 42 < 16 then [wbits w 47 42] else []
    | 0x11, 0x02 => [wbits w 47 44]
    | 0x20, 0x07 => [wbits w 43 40]
    | _, _ => []
  own ++ moves

/-- The `ldi` of a word: the D register and the immediate (R151). -/
def wLdi (w : W64) : Option (Nat × Nat) :=
  if wMajor w = 0x11 ∧ wMinor w = 1 ∧ wbits w 47 42 < 16 then some (wbits w 47 42, wbits w 39 0) else none

/-- Whether a word loads from the bus, or is a `fence`: charged 200 cycles (R259). -/
def wSlow (w : W64) : Bool :=
  (wMajor w == 0x10 && wMinor w == 3) || (wMajor w == 0x10 && wMinor w == 1 && !wStore w) ||
  (wHasMoves w && (match wMoves w with
    | some m => (match m.bus with | some a => !a.store | none => false)
    | none => false))

/-- The X stores and Y stores of a word. -/
def wStores (w : W64) : Nat × Nat :=
  let m : PMove := if wHasMoves w then (wMoves w).getD {} else {}
  let st (a : Option XyAcc) : Nat := match a with | some a => if a.store then 1 else 0 | none => 0
  let own := wMajor w == 0x10 && wMinor w == 2 && wStore w
  let p := wbits w 40 38
  (st m.x + (if own && decide (p < 4) then 1 else 0), st m.y + (if own && decide (4 ≤ p) then 1 else 0))

/-- The cycles charged for a word by itself (R259). -/
def wCycles (w : W64) : Nat := if wFlow w = .done then 8 else if wSlow w then 200 else 1

end Sys2Proof.Machine
end

