-- ==== Sys2Proof/Machine/CoreOps.lean ====
section
/-! DEFINITION. A core by itself: cycles, results landing (R82, R116, R117), where the program counter goes (R155, R110), event
entry (R86), and the start of an instance (R166). -/

namespace Sys2Proof.Machine

/-! ### Landing -/

/-- An older flight after a later-issued one to the same destination has landed (R116): dropped, or its flags masked out. -/
def Flight.after (f : Flight) (set : Bool) (d : Dst) : Option Flight :=
  if f.set ≠ set then some f
  else
    match f.dst, d with
    | .reg r _, .reg r' _ => if r = r' then none else some f
    | .acc n _ _, .acc n' _ _ => if n = n' then none else some f
    | .reg (.a n) _, .acc n' _ _ => if n = n' then none else some f
    | .flags m v, .flags m' _ => some { f with dst := .flags (m &&& ~~~m') v }
    | _, _ => some f

/-- A register written, whichever set, and the outstanding loads and answers into it superseded (R116). -/
def Core.putReg (k : Core) (set : Bool) (r : Rg) (v : W40) : Core :=
  let k := k.setSet set ((k.getSet set).write r v)
  { k with
      reqs := k.reqs.map fun q => if q.set = set ∧ q.dst = some r then { q with dst := none } else q
      ask := k.ask.map fun a => if a.set = set ∧ a.dd.map Rg.d = some r then { a with dd := none } else a }

/-- An accumulator written. -/
def Core.putAcc (k : Core) (set : Bool) (n : Fin 4) (v : W96) : Core :=
  let s := k.getSet set
  k.setSet set { s with a := s.a.set n v }

/-- ST of a set changed. -/
def Core.mapSt (k : Core) (set : Bool) (f : W32 → W32) : Core :=
  let s := k.getSet set
  k.setSet set { s with st := f s.st }

/-- The write of `mts` to a system register, each field as its access code allows (R151, R71, R84); EVM of
the pair stays zero (R262); Z, N, V and C of ST apart. -/
def Core.putSys (k : Core) (set : Bool) (s : BitVec 4) (v : W32) : Core :=
  match s.toNat with
  | 0 => k.mapSt set fun st => st &&& ~~~(v &&& stSticky)
  | 1 => { k with epc := v.setWidth 13 }
  | 2 => { k with evs := k.evs &&& ~~~(v &&& 0x100) }
  | 3 => { k with evb := v.setWidth 13 }
  | 4 => if k.lock then k else { k with evm := v &&& 3 }
  | _ => k

/-- A result landing in the set that issued it (R83). -/
def Core.landOne (k : Core) (set : Bool) : Dst → Core
  | .reg r v => k.putReg set r v
  | .acc n v _ => k.putAcc set n v
  | .flags m v => k.mapSt set fun st => putFlags st m v
  | .sticky b => k.mapSt set fun st => st ||| b
  | .sys s v => k.putSys set s v

/-- Whether a flight sets sticky flags: those land after everything else of their cycle, so that a set wins over a clear by
`mts` (R73). -/
def Flight.isSticky (f : Flight) : Bool := match f.dst with | .sticky _ => true | _ => false

/-- The flights, each one cycle nearer; those due are dropped from the list with what they supersede. -/
def stepFlights : List Flight → List Flight → List Flight
  | older, [] => older
  | older, f :: t =>
    if f.due ≤ 1 then stepFlights (older.filterMap fun o => o.after f.set f.dst) t
    else stepFlights (older ++ [{ f with due := f.due - 1 }]) t

/-- The results due in this cycle landed, in order of issue, sticky flags last. -/
def Core.landDue (k : Core) : Core :=
  let due := k.flights.filter fun f => decide (f.due ≤ 1)
  let plain := due.filter fun f => !f.isSticky
  let sticky := due.filter fun f => f.isSticky
  let k' := { k with flights := stepFlights [] k.flights }
  (plain ++ sticky).foldl (fun k f => k.landOne f.set f.dst) k'

/-- Whether the core's cycles count as busy (R194): it runs a handler, or an instance that is not blocked in `req`, and is not
parked. -/
def Core.isBusy (k : Core) : Bool := (k.act || (k.run.isSome && k.wait != .req)) && !k.parked

/-- One CCLK cycle (R68, R194). `per` is the number of cycles in a tick. -/
def Core.cycle (per : Nat) (k : Core) : Core :=
  let k := k.landDue
  { k with wrote := [], dual := []
           cyc := if k.cyc.toNat < per then k.cyc + 1 else k.cyc
           busy := if k.isBusy then k.busy + 1 else k.busy }

/-- `n` cycles. -/
def Core.cycles (per : Nat) : Nat → Core → Core
  | 0, k => k
  | n + 1, k => (k.cycle per).cycles per n

/-- A result that is readable by the next instruction (R117): it takes effect at the end of its issue. -/
def Core.landNow (k : Core) (set : Bool) (d : Dst) : Core :=
  { k.landOne set d with flights := k.flights.filterMap fun o => o.after set d }

/-- A result put in flight, or landed at once where its latency is one. -/
def Core.put (k : Core) (set : Bool) (due : Nat) (d : Dst) : Core :=
  if due ≤ 1 then k.landNow set d else { k with flights := k.flights ++ [⟨set, due, d⟩] }

/-- The accumulator as an accumulating multiply-family instruction reads it: the latest multiply-family result in flight,
forwarded, else the register (R129). -/
def Core.accMul (k : Core) (n : Fin 4) : W96 :=
  match (k.flights.filterMap fun f =>
      match f.dst with
      | .acc n' v true => if f.set = k.act ∧ n' = n then some v else none
      | _ => none).getLast? with
  | some v => v
  | none => k.cur.a[n]

/-- Whether a register awaits an outstanding bus load, or the scheduler's answer, in a set (R82, R157). -/
def Core.awaited (k : Core) (set : Bool) (r : Rg) : Bool :=
  k.reqs.any (fun q => !q.store && q.set == set && q.dst == some r) ||
  (match k.ask with | some a => a.set == set && (a.dd.map Rg.d) == some r | none => false)

/-! ### The program counter -/

/-- Where the program counter goes after the instruction at hand. -/
def Core.nextPc (k : Core) : PAddr :=
  if k.slots = 1 then k.target.getD (k.pc + 1) else k.pc + 1

/-- The program counter, delay slots and repeat after an instruction that does not branch (R155, R110). -/
def Core.advance (k : Core) : Core :=
  if k.rep > 1 then { k with rep := k.rep - 1 }
  else { k with rep := 0, pc := k.nextPc, slots := k.slots - 1, target := if k.slots ≤ 1 then none else k.target }

/-- The program counter after a branch: two delay slots, then the target if it is taken (R155). -/
def Core.branch (k : Core) (target : Option PAddr) : Core :=
  { k.advance with slots := 2, target := target }

/-! ### Events -/

/-- Entry to an event (R86): EPC, the class and cause, set 1 with ST cleared and its return stack empty (R156), and the
vector; the switch and the fetch and decode at the vector take three cycles. -/
def Core.enter (k : Core) (per cls cause : Nat) (epc : PAddr) : Core :=
  let k := { k.cycles per 3 with wait := if k.wait = Wait.req then Wait.req else Wait.none, evWait := .none }
  { k with epc := epc
           evs := w32 (cls + 4 * cause) ||| (k.evs &&& 0x100)
           set1 := { k.set1 with st := 0, stack := [] }
           act := true
           pc := k.evb + BitVec.ofNat 13 (16 * cls)
           slots := 0, target := none, rep := 0 }

/-- Class of the event that the handler in set 1 serves. -/
def Core.cls (k : Core) : Nat := k.evs.toNat % 4

/-- The return to set 0 (R87). -/
def Core.leave (k : Core) : Core := { k with act := false, evWait := .none, evtRun := none, pc := k.epc, slots := 0, target := none, rep := 0 }

/-! ### The start of an instance -/

/-- What dispatch clears in set 0 (R74, R97, R156). -/
def RegSet.dispatch (s : RegSet) : RegSet :=
  { s with st := 0, stack := [], l := Vector.replicate 8 0,
           heldB := Vector.replicate 8 none, heldL := Vector.replicate 8 none }

/-- The dispatch word (R166). -/
def Inst.dispatchWord (i : Inst) : W40 :=
  BitVec.ofNat 40 (i.task + 4096 * (match i.flow with | some (_, s) => s % 256 | none => 0)
    + 1048576 * b2n i.flow.isSome + 2097152 * i.level)

/-- The three writes of R166. -/
def RegSet.startWrites (s : RegSet) (i : Inst) (entry ctx : Nat) : RegSet :=
  { s with d := (s.d.set 0 i.dispatchWord).set 1 (BitVec.ofNat 40 entry), p := s.p.set 7 (BitVec.ofNat 36 (16 * ctx)) }

/-- A core that starts an instance in set 0 (R166); task code is fetched from program memory, so boot fetch is over (R65, DEDUCED). -/
def Core.startInst (k : Core) (i : Inst) (entry ctx : Nat) (word : W40) : Core :=
  { k with set0 := (k.set0.dispatch).startWrites i entry ctx
           pc := BitVec.ofNat 13 entry, slots := 0, target := none, rep := 0
           run := some ⟨i, word, false, false, 0, none, ctx⟩
           wait := .none, assigned := none, bootFetch := false }

end Sys2Proof.Machine
end

