-- ==== Sys2Proof/Machine/ArithOps.lean ====
section
/-! DEFINITION. What the arithmetic instructions compute (spec/05 R126 to R143, R512): exact results, fits, flags and carries as
values, without a core. -/

namespace Sys2Proof.Machine

/-! ### Multiplies (R126 to R129) -/

/-- What a multiply of the family makes of its product (R126). -/
inductive MulOp where
  | mpy | mac | msu
  deriving DecidableEq, Repr

/-- OP1 and OP2 of a dual multiply; 0b11 is reserved. -/
def mulOpOf (op : BitVec 2) : Option MulOp :=
  match op.toNat with
  | 0 => some .mpy
  | 1 => some .mac
  | 2 => some .msu
  | _ => none

/-- The exact result from the accumulator and the product. -/
def MulOp.exact (op : MulOp) (a p : Int) : Int :=
  match op with
  | .mpy => p
  | .mac => a + p
  | .msu => a - p

/-! ### Exponential and logarithm (R132, R137) -/

/-- 2 to the power 2⁻ⁱ for i from 1 to 31, in units of 2⁻¹²⁸, rounded down. -/
def exp2Table : List Nat :=
  [ 481231938336009023090067544955250113854, 404666211852346594250993303657235475948,
    371080552416919877990254144423618836768, 355347954397881497469693820312941593444,
    347733580493780928808815525413232318462, 343987798952690256687074238090730651113,
    342130066523749645191881555545647086144, 341204966012395051463589306197117539652,
    340743354212339922144397487283364652956, 340512782555889898808859563671008026640,
    340397555242326998647385072673097901536, 340339956208435708755752659506489956134,
    340311160346490911934870813363085081662, 340296763329178528376528243588334151603,
    340289565048926066557319684044576333862, 340285965965899358974465315064323671036,
    340284166438660709872813645066166128556, 340283266678610039476911010529773336521,
    340282816799476865065514053322893021549, 340282591860133317712432962519222523747,
    340282479390517303956044167089727739432, 340282423155723237052512385577070742060,
    340282395038329688593740233918090740389, 340282380979633785612518603506803612671,
    340282373950286051933938400987007267568, 340282370435612239547654640565033792378,
    340282368678275346967764181521839267590, 340282367799606904081131786786979136761,
    340282367360272683488643795553082001443, 340282367140605573405106851149122747984,
    340282367030772018416515141710341210063 ]

/-- 2 to the power `f`·2⁻³¹ in units of 2⁻¹²⁸, for `f` below 2³¹. -/
def exp2Frac (f : Nat) : Nat :=
  (List.range 31).foldl (fun acc i => if bitN f (30 - i) then acc * exp2Table.getD i 0 / 2 ^ 128 else acc) (2 ^ 128)

/-- The value of `ex2` for an operand from -62 to below 33 (R132): any integer within the error bound of 2^x in units of 2⁻⁶², which
one being free (log 6). -/
def ex2Value (d : W40) : Int :=
  let n := d.toInt / 2 ^ 31
  let t := exp2Frac (d.toInt % 2 ^ 31).toNat * 2 ^ (n + 62).toNat
  let e := max (t / 2 ^ 24) (2 ^ 128)
  let lo := (t - e + 2 ^ 128 - 1) / 2 ^ 128
  let hi := min ((t + e + 2 ^ 108) / 2 ^ 128) (2 ^ 95 - 1)
  ((lo + Config.ex2Err d % (hi - lo + 1) : Nat) : Int)

/-- The first `n` bits of the fraction of log2 of `m`·2⁻¹²⁷, for `m` from 2¹²⁷ to below 2¹²⁸, after those already found. -/
def log2Bits : Nat → Nat → Nat → Nat
  | 0, _, acc => acc
  | n + 1, m, acc =>
    let s := m * m / 2 ^ 127
    if s ≥ 2 ^ 128 then log2Bits n (s / 2) (2 * acc + 1) else log2Bits n s (2 * acc)

/-- The value of `lg2` for a positive accumulator in units of 2⁻⁶² (R137): any integer within 2⁻²² of log2, in units of 2⁻³¹, from -62 to
below 33, which one being free (log 6). -/
def lg2Value (a : W96) : Int :=
  let n := a.toNat.log2
  let l : Int := ((n : Int) - 62) * 2 ^ 31 * 2 ^ 20 + log2Bits 51 (a.toNat * 2 ^ (127 - n)) 0
  let lo := max ((l + 2 ^ 20 - 1) / 2 ^ 20 - 512) (-62 * 2 ^ 31)
  let hi := min ((l + 2) / 2 ^ 20 + 512) (33 * 2 ^ 31 - 1)
  lo + (Config.lg2Err a % (hi - lo + 1).toNat : Nat)

/-! ### Normalisation (R136, R141) -/

/-- Bits equal to the sign from bit `top - 1` downward, up to the first that differs. -/
def leadCount (neg : Bool) (bits : Nat) : Nat → Nat
  | 0 => 0
  | top + 1 => if bitN bits top == neg then leadCount neg bits top + 1 else 0

/-- `nrma`: the shift that normalises an accumulator. -/
def nrmaValue (a : W96) : Int := if a = 0 then 63 else (leadCount a.msb a.toNat 95 : Int) - 33

/-- `nrm`: the shift that normalises a data word. -/
def nrmValue (x : W40) : Int := if x = 0 then 31 else (leadCount x.msb x.toNat 39 : Int) - 8

/-! ### Data ALU (R139 to R143) -/

/-- What a data-ALU operation answers: the value for Dd, the flags it writes under a mask, sticky flags. -/
structure AluRes where
  val : Option W40
  mask : BitVec 4
  flags : BitVec 4
  sticky : W32
  deriving DecidableEq, Repr

/-- An exact result fitted to 40 bits, with Z, N and V (R122, R123), and C where the operation writes it. -/
def aluFit (e : Int) (s : Bool) (c : Option Bool) : AluRes :=
  let f := fit 40 e s
  ⟨some f.val, if c.isSome then mZNVC else mZNV, nib (decide (e = 0)) (decide (e < 0)) f.v (c.getD false), sticky40 f⟩

/-- A result in range: V cleared, Z and N from it (`min`, `max`). -/
def aluPlain (e : Int) : AluRes := ⟨some (BitVec.ofInt 40 e), mZNV, nib (decide (e = 0)) (decide (e < 0)) false false, 0⟩

/-- `add` and `adc`. -/
def aluAdd (x y : W40) (c : Bool) (s : Bool) : AluRes :=
  aluFit (x.toInt + y.toInt + b2n c) s (some (decide (x.toNat + y.toNat + b2n c ≥ 2 ^ 40)))

/-- `sub` and `sbc`. -/
def aluSub (x y : W40) (c : Bool) (s : Bool) : AluRes :=
  aluFit (x.toInt - y.toInt - b2n c) s (some (decide (x.toNat < y.toNat + b2n c)))

/-- `clip`: V marks that x was limited, without OV or SA. -/
def aluClip (x y : W40) : AluRes :=
  let lim : Int := min (mag y.toInt) (2 ^ 39 - 1)
  let e := if x.toInt > lim then lim else if x.toInt < -lim then -lim else x.toInt
  ⟨some (BitVec.ofInt 40 e), mZNV, nib (decide (e = 0)) (decide (e < 0)) (decide (e ≠ x.toInt)) false, 0⟩

/-- `cmp`: the flags of x - y, V cleared. -/
def aluCmp (x y : W40) : AluRes :=
  let e := x.toInt - y.toInt
  ⟨none, mZNVC, nib (decide (e = 0)) (decide (e < 0)) false (decide (x.toNat < y.toNat)), 0⟩

/-- `tst`: the flags of x, V cleared. -/
def aluTst (x : W40) : AluRes := ⟨none, mZNV, nib (decide (x = 0)) x.msb false false, 0⟩

/-- The last bit that a shift left by `n` moves out: 0 for no shift, and where only zeros are left. -/
def shlOut (x : W40) (n : Nat) : Bool := decide (1 ≤ n ∧ n ≤ 40) && x.getLsbD (40 - n)

/-- `asl`. -/
def aluAsl (x : W40) (n : Nat) (s : Bool) : AluRes := aluFit (x.toInt * 2 ^ n) s (some (shlOut x n))

/-- `asr`: beyond 40 places the bit moved out is the sign. -/
def aluAsr (x : W40) (n : Nat) : AluRes :=
  let e := x.toInt / 2 ^ n
  let c := decide (1 ≤ n) && (if n ≤ 40 then x.getLsbD (n - 1) else x.msb)
  ⟨some (BitVec.ofInt 40 e), mZNVC, nib (decide (e = 0)) (decide (e < 0)) false c, 0⟩

/-- A value with Z and N taken from it, V cleared (R123, R143). -/
def aluLogic (v : W40) (c : Bool) : AluRes := ⟨some v, mZNVC, nib (decide (v = 0)) v.msb false c, 0⟩

/-- `lsl`. -/
def aluLsl (x : W40) (n : Nat) : AluRes := aluLogic (x <<< n) (shlOut x n)

/-- `lsr`. -/
def aluLsr (x : W40) (n : Nat) : AluRes := aluLogic (x >>> n) (decide (1 ≤ n ∧ n ≤ 40) && x.getLsbD (n - 1))

/-- `ash`: left for a positive count, right for a negative one. -/
def aluAsh (x : W40) (n : Int) (s : Bool) : AluRes := if n ≥ 0 then aluAsl x n.toNat s else aluAsr x (-n).toNat

end Sys2Proof.Machine
end

