-- ==== Sys2Proof/Machine/RoleOps.lean ====
section
/-! DEFINITION. What decides how a write to memory is taken: task descriptors (R163), route entries (R207, R215), Kiln's objects and
the roles of bytes (R230 to R234), and the ranges that the part's own masters reach (R413). -/

namespace Sys2Proof.Machine

/-! ### Descriptors (R163) -/

/-- Address of a task's descriptor. -/
def taskAddr (t : Nat) : Nat := 0x22000000 + 32 * (t % 4096)

/-- Whether an address range holds an uncorrectable word. -/
def Quad.poisoned (q : Quad) (a n : Nat) : Bool :=
  q.ecc.any fun e => e.2 == .uncorr && decide (e.1 < a + n ∧ a < e.1 + eccLen e.1)

/-- Bits `hi` to `lo` of word `w` of a descriptor; a word with an uncorrectable error reads zero (R416). -/
def Quad.tf (q : Quad) (t w hi lo : Nat) : Nat :=
  if q.poisoned (taskAddr t + 4 * w) 4 then 0 else (q.mem.readLE (taskAddr t + 4 * w) 4 >>> lo) % 2 ^ (hi - lo + 1)

/-- A descriptor field set. -/
def Quad.setTf (q : Quad) (t w hi lo v : Nat) : Quad :=
  let f : Field := ⟨0, hi, lo⟩
  let a := taskAddr t + 4 * w
  { q with mem := q.mem.writeLE a (f.put (w32 (q.mem.readLE a 4)) v).toNat 4 }

/-- A saturating count of a descriptor raised. -/
def Quad.countTf (q : Quad) (t w hi lo n : Nat) : Quad :=
  q.setTf t w hi lo (satTo (2 ^ (hi - lo + 1) - 1) (q.tf t w hi lo + n))

/-- ENTRY. -/
def Quad.tEntry (q : Quad) (t : Nat) : Nat := q.tf t 0 12 0
/-- LEVEL. -/
def Quad.tLevel (q : Quad) (t : Nat) : Nat := q.tf t 0 15 13
/-- VALID. -/
def Quad.tValid (q : Quad) (t : Nat) : Bool := q.tf t 0 16 16 == 1
/-- EVT. -/
def Quad.tEvt (q : Quad) (t : Nat) : Bool := q.tf t 0 18 18 == 1
/-- HPN. -/
def Quad.tHpn (q : Quad) (t : Nat) : Bool := q.tf t 0 19 19 == 1
/-- FVLD. -/
def Quad.tFvld (q : Quad) (t : Nat) : Bool := q.tf t 0 21 21 == 1
/-- FLOW. -/
def Quad.tFlow (q : Quad) (t : Nat) : Nat := q.tf t 0 27 22
/-- CTX: bits [35:4] of the context's byte address. -/
def Quad.tCtx (q : Quad) (t : Nat) : Nat := q.tf t 2 31 0

/-! ### Copies of a core's memories (R477, R479) -/

/-- The core that a rotation or a repair copies, and the core that the copy goes to: the holder of the position, or the healthy member of
the pair. -/
def Quad.copyEnds (q : Quad) (r : Rotation) : Option (Fin 17 × Fin 17) :=
  match r.phase with
  | .copy =>
    if q.flt.pairRepair ∧ r.pos ≤ 1 then (q.coreAt (1 - r.pos)).map fun c => (c, ⟨r.dst % 17, by omega⟩)
    else some (⟨r.src % 17, by omega⟩, ⟨r.dst % 17, by omega⟩)
  | .back => some (⟨r.dst % 17, by omega⟩, ⟨r.src % 17, by omega⟩)
  | .test => none

/-- A store to a core's memories made to the copy too. DEDUCED (log 72): from the copy's end up to the move as well, and whoever makes it,
since the contents are to stand in the new core at the boundary of the move (R62). -/
def Quad.mirrored (q : Quad) (l : List (Nat × Byte)) : Quad :=
  match q.flt.rot with
  | none => q
  | some r =>
    match (if r.made then q.copyEnds r else none) with
    | some (a, b) =>
      (l.filter fun x => decide (winBase a ≤ x.1 ∧ x.1 < winBase a + 0x50000)).foldl
        (fun q x => { q with mem := q.mem.write (x.1 - winBase a + winBase b) x.2 }) q
    | none => q

/-! ### Task objects (R231) -/

/-- The address of a task-object entry (R231). -/
def objAddr (t : Nat) : Nat := 0x23000000 + 16 * (t % 4096)

/-- Whether an entry, if enabled, is a valid object (R231): its task is no Hardpan task, and LINES is in range. -/
def Quad.objShape (q : Quad) (t : Nat) : Bool :=
  let lines := q.mem.readLE (objAddr t + 12) 4 % 128
  !q.tHpn t && decide (1 ≤ lines ∧ lines ≤ 64)

/-- Whether a task is a valid Kiln object (R231). -/
def Quad.taskObj (q : Quad) (t : Nat) : Bool := q.mem.readLE (objAddr t) 4 % 2 == 1 && q.objShape t

/-! ### Route entries (R207) -/

/-- Address of a route entry. -/
def routeAddr (i : Nat) : Nat := 0x21000000 + 16 * i

/-- Bits `hi` to `lo` of a route entry. -/
def Quad.rt (q : Quad) (i hi lo : Nat) : Nat := (q.mem.readLE (routeAddr i) 16 >>> lo) % 2 ^ (hi - lo + 1)

/-- A field of a route entry set. -/
def Quad.setRt (q : Quad) (i hi lo v : Nat) : Quad :=
  let e := q.mem.readLE (routeAddr i) 16
  let e := e - (((e >>> lo) % 2 ^ (hi - lo + 1)) <<< lo) + ((v % 2 ^ (hi - lo + 1)) <<< lo)
  { q with mem := q.mem.writeLE (routeAddr i) e 16 }

/-- Source slot of a bank. -/
def Quad.rSrc (q : Quad) (i : Nat) (bank : Bool) : Nat := if bank then q.rt i 23 12 else q.rt i 11 0
/-- Gain of a bank, in LSBs of Q8.31. -/
def Quad.rGain (q : Quad) (i : Nat) (bank : Bool) : Int :=
  (BitVec.ofNat 40 (if bank then q.rt i 115 76 else q.rt i 75 36)).toInt
/-- Destination slot. -/
def Quad.rDst (q : Quad) (i : Nat) : Nat := q.rt i 35 24
/-- EN. -/
def Quad.rEn (q : Quad) (i : Nat) : Bool := q.rt i 120 120 == 1
/-- ACT. -/
def Quad.rAct (q : Quad) (i : Nat) : Bool := q.rt i 121 121 == 1
/-- FADE. -/
def Quad.rFade (q : Quad) (i : Nat) : Bool := q.rt i 122 122 == 1
/-- FGEN. -/
def Quad.rGen (q : Quad) (i : Nat) : Nat := q.rt i 126 123

/-- The bits of byte `k` of a route entry that a write sets: all but the reserved ones, and ACT, FADE and FGEN only where Kiln does
not keep them. -/
def routeMask (k : Nat) (keep : Bool) : Byte :=
  if k = 14 then 0x0F else if k = 15 then (if keep then 0x01 else 0x7F) else 0xFF

/-- The enabled entries, in index order: those whose byte 15 is listed with EN set. -/
def Quad.routes (q : Quad) : List Nat :=
  q.mem.filterMap fun c =>
    if 0x21000000 ≤ c.1 ∧ c.1 < 0x21080000 ∧ c.1 % 16 = 15 ∧ c.2.getLsbD 0 then some ((c.1 - 0x21000000) / 16) else none

/-- Products per sample of an entry (R215). -/
def Quad.rCost (q : Quad) (i : Nat) : Nat :=
  if q.rFade i && q.rSrc i false != q.rSrc i true then 2 else 1

/-- RTE_LOAD (R215): at 192 kHz the fabric reads only the first half of the table (R208). -/
def Quad.rteLoad (q : Quad) : Nat :=
  ((q.routes.filter fun i => q.fi != 2 || decide (i < 16384)).map q.rCost).sum

/-- The effective limit (R215). -/
def Quad.rteLimit (q : Quad) : Nat :=
  min (q.fld Reg.RTE_LIM_LIM) (if q.fi = 0 then 65536 else if q.fi = 2 then 16384 else 32768)

/-- What RTE_LOADPK and OVLDS keep of the present load (R229), noted before anything may lower it; a read shows the load of its own
instant beside it. -/
def Quad.noteLoad (q : Quad) : Quad :=
  let q := q.setFld Reg.RTE_LOADPK_LOAD (max (q.fld Reg.RTE_LOADPK_LOAD) q.rteLoad)
  if q.rteLoad > q.rteLimit then q.raise Reg.RTE_STAT_OVLDS else q

/-- A number put into a rising list, once. -/
def insertOnce (n : Nat) : List Nat → List Nat
  | [] => [n]
  | m :: t => if n < m then n :: m :: t else if n = m then m :: t else m :: insertOnce n t

/-! ### Objects (R230 to R232) -/

/-- ACT of an object. -/
def Quad.objAct (q : Quad) (o : Obj) : Bool :=
  if o.kind then bitN (q.mem.readLE (objAddr o.index) 4) 1 else q.rAct o.index

/-- FADE of an object. -/
def Quad.objFade (q : Quad) (o : Obj) : Bool :=
  if o.kind then bitN (q.mem.readLE (objAddr o.index) 4) 2 else q.rFade o.index

/-- ACT, FADE and FGEN of an object set by Kiln. -/
def Quad.setObj (q : Quad) (o : Obj) (act fade : Bool) (gen : Nat) : Quad :=
  if o.kind then
    let w := q.mem.readLE (objAddr o.index) 4
    { q with mem := q.mem.writeLE (objAddr o.index) (w % 2 + 2 * b2n act + 4 * b2n fade + 8 * (gen % 16)) 4 }
  else ((q.setRt o.index 121 121 (b2n act)).setRt o.index 122 122 (b2n fade)).setRt o.index 126 123 gen

/-- The objects that may hold sealed or outgoing bytes: those of prepared commits, of fades and of pending changes, but no invalid
ones (R231). DESIGN CHOICE (log 129): EN written 0 of an object named by one of these releases nothing and stops no fade. -/
def Quad.liveObjs (q : Quad) : List Obj :=
  ((q.kln.prepared.map (·.objs)).flatten ++ (q.kln.fades.map (·.objs)).flatten ++ q.kln.pend.map (·.obj)).filter fun o =>
    !o.kind || q.objShape o.index

/-- The objects that may decide the role of a byte: the live ones, and a route entry at the byte whose FADE is 1, whoever set it
(R221, R232). -/
def Quad.objsAt (q : Quad) (a : Nat) : List Obj :=
  let i := (a - 0x21000000) / 16
  if 0x21000000 ≤ a ∧ a < 0x21080000 ∧ q.rFade i then ⟨false, i⟩ :: q.liveObjs else q.liveObjs

/-- Whether an object is sealed or fading (R231). -/
def Quad.objLive (q : Quad) (o : Obj) : Bool := q.liveObjs.contains o

/-- Whether a byte holds bits of a bank of an object (R232): of the bank's SRC and GAIN, or of its block. -/
def Quad.inBank (q : Quad) (o : Obj) (bank : Bool) (a : Nat) : Bool :=
  if o.kind then
    let base := q.phys (64 * (q.mem.readLE (objAddr o.index + (if bank then 8 else 4)) 4 % 2 ^ 30))
    decide (base ≤ a ∧ a < base + 64 * (q.mem.readLE (objAddr o.index + 12) 4 % 128))
  else
    let base := routeAddr o.index
    decide (base ≤ a ∧ a < base + 16) &&
      (let k := a - base
       if bank then decide (k = 1 ∨ k = 2 ∨ (9 ≤ k ∧ k ≤ 14)) else decide (k ≤ 1 ∨ (4 ≤ k ∧ k ≤ 9)))

/-- The role of a byte that Kiln decides (R232): the most restrictive among the fields it holds. -/
inductive Role where
  | plain
  | seal (o : Obj)
  | outgoing (o : Obj)
  deriving DecidableEq, Repr

/-- The role of a byte. -/
def Quad.role (q : Quad) (a : Nat) : Role :=
  match (q.objsAt a).find? fun o => q.inBank o (!q.objAct o) a with
  | some o => .seal o
  | none =>
    match (q.objsAt a).find? fun o => q.objFade o && q.inBank o (q.objAct o) a with
    | some o => .outgoing o
    | none => .plain

/-- Whether a write touches words 1 to 3 of a task-object entry whose object is sealed or fading (R231). -/
def Quad.touchesEntry (q : Quad) (a : Nat) : Bool :=
  decide (0x23000000 ≤ a ∧ a < 0x23010000 ∧ 4 ≤ a % 16) && q.objLive ⟨true, (a - 0x23000000) / 16⟩

/-- The 16-byte pieces of the outgoing bytes of a write (R234). -/
def holdPieces (bytes : List (Obj × Nat × Byte)) : List HoldPiece :=
  let keys := (bytes.map fun b => (b.1, b.2.1 / 16)).eraseDups
  keys.map fun k => ⟨k.1, (bytes.filter fun b => (b.1, b.2.1 / 16) == k).map fun b => b.2⟩

/-- What Kiln makes of a write (R231 to R234): none where it is refused as a whole, else the bytes that go on to memory, with
the outgoing ones put in the hold store. -/
def Quad.kilnWrite (q : Quad) (bytes : List (Nat × Byte)) : Quad × Option (List (Nat × Byte)) :=
  if bytes.any fun b => q.touchesEntry b.1 then (q, none)
  else
    match bytes.findSome? fun b => match q.role b.1 with | .seal o => some o | _ => none with
    | some o =>
      (((q.count Reg.KLN_SEAL_COUNT 1).setFld Reg.KLN_SEAL_INDEX o.index).setFld Reg.KLN_SEAL_KIND (b2n o.kind), none)
    | none =>
      let out := bytes.filterMap fun b => match q.role b.1 with | .outgoing o => some (o, b.1, b.2) | _ => none
      let pieces := holdPieces out
      if q.kln.hold.length + pieces.length > 4096 then (q.count Reg.KLN_HOLD_FULL 1, none)
      else
        ({ q with kln := { q.kln with hold := q.kln.hold ++ pieces } },
         some (bytes.filter fun b => match q.role b.1 with | .outgoing _ => false | _ => true))

/-- A quadrant with Kiln changed. -/
def Quad.mapKln (q : Quad) (f : Kiln → Kiln) : Quad := { q with kln := f q.kln }

/-! ### Ranges (R402, R413, R418) -/

/-- Bytes of DRAM usable (R418, R420): seven eighths of the fitted capacity; none without a trained device. -/
def Quad.dramBytes (q : Quad) : Nat :=
  let s := q.fld Reg.BUS_DDRSTAT_SIZE
  if s = 0 ∨ ¬ q.flag Reg.BUS_DDRSTAT_TRAINED then 0 else 7 * 2 ^ 27 * 2 ^ (s - 1)

/-- Whether a range lies in scratch memory. -/
def inScratch (a n : Nat) : Bool := decide (0x10000000 ≤ a ∧ a + n ≤ 0x10800000)
/-- Whether a range lies in the fitted DRAM. -/
def Quad.inDram (q : Quad) (a n : Nat) : Bool := decide (0x800000000 ≤ a ∧ a + n ≤ 0x800000000 + q.dramBytes)

/-- Whether a range lies in scratch or in the fitted DRAM: where Kiln, the network and the audio blocks may go (R413). -/
def Quad.sysRange (q : Quad) (a n : Nat) : Bool := q.scratch a n || q.inDram a n

/-- Whether a byte belongs to the clip area, or to the descriptor of a Hardpan task, which R254 keeps while Hardpan is enabled. -/
def Quad.hpnKept (q : Quad) (a : Nat) : Bool :=
  q.hpnOn &&
    ((let base := q.phys (16 * q.fld Reg.HPN_CLIPB_BASE)
      decide (base ≤ a ∧ a < base + 16 * q.fld Reg.HPN_CLIPL_LEN)) ||
     (decide (0x22000000 ≤ a ∧ a < 0x22020000) && q.tHpn ((a - 0x22000000) / 32)))

end Sys2Proof.Machine
end

