-- ==== Sys2Proof/Machine/MemOps.lean ====
section
/-! DEFINITION. Byte-addressed memory as a master meets it: errors counted and recorded (R416, R419), reads that deliver zero, and
partial writes of a word that holds an error. -/

namespace Sys2Proof.Machine

/-- The group of BUS_ECCt and the MEMORY cause of an address (R416, R472): scratch, tables, program store, DRAM. -/
def eccGroup (a : Nat) : Option Nat :=
  if 0x10000000 ≤ a ∧ a < 0x10800000 then some 0
  else if (0x22000000 ≤ a ∧ a < 0x22020000) ∨ (0x23000000 ≤ a ∧ a < 0x23011000) then some 1
  else if 0x30000000 ≤ a ∧ a < 0x30200000 then some 2
  else if a ≥ 0x800000000 then some 3
  else none

/-- An uncorrectable error counted, its address kept and recorded (R416, R472). Exchange memory has cause 5. -/
def Quad.uncorr (q : Quad) (a : Nat) : Quad :=
  match eccGroup a with
  | some t =>
    let q := (q.count (Reg.BUS_ECC_UNCORR t) 1).setFld (Reg.BUS_ECC_ADDR t) (a / 16)
    q.fault 4 (t + 1) 31 31 (w32 (a / 16))
  | none =>
    if 0x20000000 ≤ a ∧ a < 0x200A0000 then (q.count Reg.XCH_ECC_UNCORR 1).fault 4 5 31 31 (w32 (a / 16)) else q

/-- A corrected error counted, and the word due for write-back (R416). -/
def Quad.corrected (q : Quad) (a : Nat) : Quad :=
  let q := match eccGroup a with
    | some t => q.count (Reg.BUS_ECC_CORR t) 1
    | none => if 0x20000000 ≤ a ∧ a < 0x200A0000 then q.count Reg.XCH_ECC_CORR 1 else q
  { q with eccBack := q.eccBack ++ [a] }

/-- The marked words that `n` bytes from an address touch. -/
def Quad.eccIn (q : Quad) (a n : Nat) : List (Nat × Ecc) :=
  q.ecc.filter fun x => x.1 < a + n ∧ a < x.1 + eccLen x.1

/-- The worst error in a list of marked words. -/
def worstEcc (l : List (Nat × Ecc)) : Ecc :=
  if l.any fun x => x.2 == .uncorr then .uncorr else if l.any fun x => x.2 == .corr then .corr else .clean

/-- The errors of a read noted. -/
def Quad.noteEcc (q : Quad) (l : List (Nat × Ecc)) : Quad :=
  l.foldl (fun q x => match x.2 with | .uncorr => q.uncorr x.1 | .corr => q.corrected x.1 | .clean => q) q

/-- The bytes of a memory. -/
def Memory.bytesAt (m : Memory) (a n : Nat) : List Byte := (List.range n).map fun i => m.read (a + i)

/-- A read of `n` bytes by a master (R416): zero for the whole access where a word is uncorrectable. -/
def Quad.memRead (q : Quad) (a n : Nat) : List Byte × Ecc × Quad :=
  let l := q.eccIn a n
  let e := worstEcc l
  (if e == .uncorr then List.replicate n 0 else q.mem.bytesAt a n, e, q.noteEcc l)

/-- The status that an error met gives its item (R14). -/
def Ecc.status : Ecc → Nat
  | .clean => St.done
  | .corr => St.eccCorrected
  | .uncorr => St.eccUncorrected

/-- A write of some bytes by a master (R416, R419), and the status it gives its item: words written whole are clean after it; the read
half of a partial write meets the word's error, and an uncorrectable word stays poisoned. -/
def Quad.memWrite (q : Quad) (a : Nat) (bytes : List Byte) : Quad × Nat :=
  let q := q.store a bytes
  let l := q.eccIn a bytes.length
  let q := q.noteEcc l
  ({ q with ecc := q.ecc.filter fun x => !(l.any (fun y => y.1 == x.1 && y.2 == .corr)) }, (worstEcc l).status)

/-- Single bytes in rising order gathered into runs. -/
def gather : List (Nat × Byte) → List (Nat × List Byte)
  | [] => []
  | (a, b) :: t =>
    match gather t with
    | (a', bs) :: r => if a' = a + 1 then (a, b :: bs) :: r else (a, [b]) :: (a', bs) :: r
    | [] => [(a, [b])]

/-- The bytes of a masked write, each run of them written as one. -/
def Quad.memWriteAt (q : Quad) (l : List (Nat × Byte)) : Quad × Nat :=
  (gather l).foldl (fun r x => let w := r.1.memWrite x.1 x.2; (w.1, worse r.2 w.2)) (q, St.done)

/-- A read of `n` bytes from scratch or DRAM by one of the part's own masters (R413, R416): zero where it has no path. -/
def Quad.partRead (q : Quad) (a n : Nat) : List Byte × Ecc × Quad :=
  if q.sysRange a n then q.memRead (q.phys a) n else (List.replicate n 0, .clean, q)

/-- A block read so, in beats of sixteen bytes. -/
def Quad.partBlock (q : Quad) (a n : Nat) : List Byte × Quad :=
  (List.range ((n + 15) / 16)).foldl (fun r i =>
    let b := r.2.partRead (a + 16 * i) (min 16 (n - 16 * i))
    (r.1 ++ b.1, b.2.2)) ([], q)

/-- The errors of a task's descriptor noted, as the scheduler reads it (R416, R472). -/
def Quad.noteTask (q : Quad) (t : Nat) : Quad := q.noteEcc (q.eccIn (taskAddr t) 32)

/-! ### The dual-ported banks (R406, R407) -/

/-- Whether an address lies in scratch bank 30 or 31. -/
def inDual (a : Nat) : Bool := decide (0x10780000 ≤ a ∧ a < 0x10800000)

/-- The QoS of a master's beat as it counts in arbitration (R411). -/
def Quad.effQos (q : Quad) (m n : Nat) : Nat := if n < 14 ∧ q.aged.contains m then 14 else n

/-- The effective QoS of a core's beat (R409, R411). -/
def Quad.coreQos (q : Quad) (c : Fin 17) : Nat :=
  let p := (q.core c).pos.val
  if q.locked && p == 0 then 15 else q.effQos p (q.fld (Reg.BUS_QOS_QOS p))

/-- What a core's store through port A wrote in its present cycle noted, with what stood there (R407). -/
def Quad.noteDual (q : Quad) (c : Fin 17) (was : Memory) (l : List (Nat × Byte)) : Quad :=
  let d := (l.filter fun b => inDual b.1 && q.mem.read b.1 == b.2).map fun b => (b.1, was.read b.1, b.2)
  if d.isEmpty then q else q.setCore c { q.core c with dual := d }

/-- A beat of master `m` through port B against what the cores store in the same cycle (R407): where a common byte differs, the
beat of lower effective QoS, port B's at equal QoS, is dropped whole and counted. The bytes of the beat, none where it lost. -/
def Quad.portB (q : Quad) (m qos : Nat) (l : List (Nat × Byte)) : Quad × Option (List (Nat × Byte)) :=
  let meets (k : Core) : Bool := k.dual.any fun d => l.any fun b => b.1 == d.1 && b.2 != d.2.2
  physAll.foldl (fun r c =>
    match r with
    | (q, none) => (q, none)
    | (q, some l) =>
      if !meets (q.core c) then (q, some l)
      else if q.coreQos c ≥ q.effQos m qos then (q.count (Reg.BUS_COLL_COUNT m) 1, none)
      else
        let q := { q with mem := (q.core c).dual.foldl (fun (y : Memory) (d : Nat × Byte × Byte) => y.write d.1 d.2.1) q.mem }
        ((q.count (Reg.BUS_COLL_COUNT (q.core c).pos.val) 1).setCore c { q.core c with dual := [] }, some l)) (q, some l)

/-- The QoS of a master that is no core and no DMA item (R409). -/
def Quad.sysQos (q : Quad) (m : Nat) : Nat := if m = 17 ∨ m = 18 then 12 else q.fld (Reg.BUS_QOS_QOS m)

/-- Whether a master has a path to a range (R413): the scheduler to scratch, Kiln, the network and the audio blocks to DRAM too. -/
def Quad.sysPath (q : Quad) (m a n : Nat) : Bool := q.scratch a n || (m != 17 && q.inDram a n)

/-- Bytes put to memory by one of these masters: a beat that loses to a core's store is dropped (R407), and a grant ends what aging gave it
(R411). -/
def Quad.sysPut (q : Quad) (m : Nat) (l : List (Nat × Byte)) : Quad :=
  match q.portB m (q.sysQos m) l with
  | (q, none) => q.granted m
  | (q, some l) => (q.memWriteAt l).1.granted m

/-- Bytes of a range of `n`, by their places in it, written by the scheduler (master 17), Kiln (18), the network (21) or an audio block (22)
(R413): within its path, and by the rules of Hardpan's memory (R254) and of Kiln's roles (R232 to R234). -/
def Quad.sysBeat (q : Quad) (m a n : Nat) (l : List (Nat × Byte)) : Quad :=
  let l := l.map fun b => (q.phys a + b.1, b.2)
  if !q.sysPath m a n || l.any fun b => q.hpnKept b.1 then q
  else
    match q.kilnWrite l with
    | (q, none) => q
    | (q, some rest) => q.sysPut m rest

/-- A range written whole so. -/
def Quad.sysWrite (q : Quad) (m a : Nat) (bytes : List Byte) : Quad :=
  q.sysBeat m a bytes.length ((List.range bytes.length).map fun i => (i, bytes.getD i 0))

/-- A record of the scheduler or of Kiln written to its ring (R190, R191, R239). -/
def Quad.recordPush (q : Quad) (m : Nat) (base len wp rp ovwr : Field) (words : List W32) : Quad :=
  (q.sysWrite m (q.ringPlace base len wp) (recordBytes words)).ringStep len wp rp ovwr

end Sys2Proof.Machine
end

