-- ==== Sys2Proof/Machine/Egress.lean ====
section
/-! DEFINITION. The egress of the Ethernet ports (R314) and the packet that a flow release builds (R328). -/

namespace Sys2Proof.Machine

/-- Whether a port has a link (R327). -/
def Quad.ethUp (q : Quad) (p : Fin 2) : Bool := q.flag (Reg.NET_PCFG_LINK p.val)

/-- The order of the classes at an egress port (R314). -/
def TxClass.rank : TxClass → Nat
  | .stream => 0 | .event => 1 | .ring => 2 | .other => 3

/-- A quadrant with a port changed. -/
def Quad.mapPort (q : Quad) (p : Fin 2) (f : EthPort → EthPort) : Quad :=
  { q with net := { q.net with ports := q.net.ports.set p (f q.net.ports[p]) } }

/-- A frame put to wait at a port, behind the frames of its class and of better ones (R314). -/
def Quad.egress (q : Quad) (p : Fin 2) (f : TxFrame) : Quad :=
  q.mapPort p fun e =>
    { e with waiting := e.waiting.filter (fun g => decide (g.cls.rank ≤ f.cls.rank)) ++ [f] ++
        e.waiting.filter (fun g => decide (f.cls.rank < g.cls.rank)) }

/-- A field of a transmit stream's descriptor, by its word (R323). -/
def txD (s : Nat) (word hi lo : Nat) : Field := ⟨Reg.NET_TXDESC s + 4 * word, hi, lo⟩
/-- A field of a receive stream's descriptor. -/
def rxD (s : Nat) (word hi lo : Nat) : Field := ⟨Reg.NET_RXDESC s + 4 * word, hi, lo⟩

/-- A value as big-endian bytes. -/
def bytesBE (v n : Nat) : List Byte := (bytesLE v n).reverse

/-- A stream packet (R326, R328): the header template with payload type, sequence number, timestamp and SSRC in its last twelve
bytes, which are its RTP header, then the payload. -/
def Quad.rtpPacket (q : Quad) (s : Nat) (seq : BitVec 16) (ts : Nat) (payload : List Byte) : List Byte × Quad :=
  let n := 2 * q.fld (txD s 6 6 0)
  let a := 16 * q.fld (txD s 5 31 0)
  let (tmpl, q) := q.partBlock a n
  (tmpl.take (n - 11) ++ [BitVec.ofNat 8 ((tmpl.getD (n - 11) 0).toNat / 128 * 128 + q.fld (txD s 0 31 25))] ++
    bytesBE seq.toNat 2 ++ bytesBE ts 4 ++ bytesBE (q.fld (txD s 4 31 0)) 4 ++ payload, q)

/-- A packet handed to every port with a link that the stream names (R322); a packet time with no link at a port is counted once
(R327). -/
def Quad.sendPacket (q : Quad) (s : Nat) (bytes : List Byte) : Quad :=
  let ports := (List.finRange 2).filter fun p => bitN (q.fld (txD s 0 2 1)) p.val
  let sent := (ports.filter q.ethUp).foldl (fun q p => q.egress p ⟨.stream, bytes, none, none, false, St.done⟩)
    (q.count ⟨Reg.NET_TXSTAT s, 15, 0⟩ 1)
  if ports.all q.ethUp then sent else sent.count ⟨Reg.NET_TXSTAT s, 31, 16⟩ 1

/-- The packet of a released flow instance (R328): timestamp from context bytes 8 to 11, payload from byte 16. Sent only where
stream packets are (R327). -/
def Quad.flowPacket (q : Quad) (s ctx : Nat) : Quad :=
  let st := q.net.tx.toList.getD (s % 32) {}
  let s := s % 32
  if q.flag (txD s 0 0 0) && q.flag (txD s 0 6 6) && q.mode == .run then
    let n := (q.fld (txD s 0 15 8) + 1) * q.fld (txD s 0 24 16) * (if q.flag (txD s 0 4 4) then 3 else 2)
    let (c, q) := q.partBlock (16 * ctx) (16 + n)
    let (packet, q) := q.rtpPacket s st.seq (ofBytesLE ((c.drop 8).take 4)) (c.drop 16)
    let q := q.sendPacket s packet
    let q := q.setFld (txD s 7 31 0) st.seq.toNat
    { q with net := { q.net with tx := q.net.tx.setIfInBounds s { st with seq := st.seq + 1 } } }
  else q

end Sys2Proof.Machine
end

