-- ==== Sys2Proof/Machine/SchedOps.lean ====
section
/-! DEFINITION. The shared operations of the scheduler (spec/07): descriptors, make-ready, selection, starts, records, flows,
cancel, arming, and what a stop of a core or of the quadrant does to instances. -/

namespace Sys2Proof.Machine

/-- TICKB: whether a task is bound (R174). -/
def Quad.tickB (q : Quad) (t : Nat) : Bool := q.sch.bound.any fun b => b.task == t && b.last.isNone

/-- SER, treated as 1 while bound (R163). -/
def Quad.tSer (q : Quad) (t : Nat) : Bool := q.tf t 0 20 20 == 1 || q.tickB t

/-- PMODE (R163). -/
def Quad.pmode (q : Quad) (t : Nat) : Nat :=
  if q.sch.tickList.any (fun e => e.task == t && e.period.isSome) then 1
  else if q.sch.timeList.any (fun e => e.task == t && e.period.isSome) then 2 else 0

/-- The effective mask of a task (R165, R481, R482). -/
def Quad.effMask (q : Quad) (t : Nat) : Nat :=
  let hp := if q.hpnOn then 0xFFFC else 0xFFFF
  let live := 0xFFFF - q.fld Reg.FLT_LOST_POS
  let base := q.tf t 1 15 0 &&& hp
  let m := base &&& live
  if m = 0 ∧ base ≠ 0 ∧ q.flag Reg.FLT_CTL_REDIST then q.fld Reg.FLT_REDIST_MASK &&& hp &&& live else m

/-- The number of positions a mask names. -/
def popcount16 (m : Nat) : Nat := ((List.range 16).filter fun i => bitN m i).length

/-- Whether a make-ready of a task is refused (R165). -/
def Quad.refused165 (q : Quad) (t : Nat) : Bool :=
  let m := q.effMask t
  !q.tValid t || q.tHpn t || (q.tFvld t && !q.flag (Reg.SCH_FLOW_CFG_EN (q.tFlow t))) ||
    (q.tEvt t && popcount16 m != 1) || m == 0

/-! ### Queues -/

/-- Instances of a task in the queues or a prefetch slot: QUEUED (R163). -/
def Quad.queued (q : Quad) (t : Nat) : Nat :=
  (q.sch.queue.filter fun i => i.task == t).length +
    (q.sch.pref.toList.filter fun s => match s with | some i => i.task == t | none => false).length

/-- Entries of a level; `res` counts the tick-bound ones too (R167). -/
def Quad.depth (q : Quad) (l : Nat) (res : Bool) : Nat :=
  (q.sch.queue.filter fun i => i.level == l && (res || !i.bound)).length

/-- The reservation: one entry for each bound task (R167), until the last instance of an unbound one (R175). -/
def Quad.reservation (q : Quad) : Nat :=
  ((q.sch.bound.filter fun b => match b.last with | none => true | some l => decide (q.tick.toNat < l.toNat)).map
    fun b => b.task).eraseDups.length

/-- The flow's outstanding instances (R183). -/
def Flow.out (f : Flow) : Nat := f.seq - f.rel

/-- A flow. -/
def Quad.flow (q : Quad) (f : Nat) : Flow := q.sch.flows.toList.getD f {}

/-- A quadrant with a flow replaced. -/
def Quad.setFlow (q : Quad) (f : Nat) (v : Flow) : Quad :=
  { q with sch := { q.sch with flows := q.sch.flows.setIfInBounds f v } }

/-- The conditions of R168 beside R165. -/
def Quad.room168 (q : Quad) (t : Nat) : Bool :=
  let l := q.tLevel t
  decide (q.queued t < 255) && decide (q.depth l false < q.fld (Reg.SCH_LVL_LIM_LIM l)) &&
    decide ((q.sch.queue.filter fun i => !i.bound).length < 4096 - q.reservation) &&
    (!q.tFvld t || decide ((q.flow (q.tFlow t)).out < 256))

/-- An instance put in its queue, which raises the high-water mark of its level. -/
def Quad.enqueue (q : Quad) (i : Inst) : Quad :=
  let q := { q with sch := { q.sch with queue := q.sch.queue ++ [i] } }
  let f := Reg.SCH_LVL_DEP_HWM i.level
  q.setFld f (max (q.fld f) (q.depth i.level true))

/-- The outcome of a make-ready (R168). -/
inductive Ready where
  | accepted | held | refused
  deriving DecidableEq, Repr

/-- The number that a new instance of a task takes in its flow, if it is a member of one (R164, R183). -/
def Quad.joinFlow (q : Quad) (t : Nat) : Quad × Option (Nat × Nat) :=
  if q.tFvld t then
    let f := q.tFlow t
    (q.setFlow f { q.flow f with seq := (q.flow f).seq + 1 }, some (f, (q.flow f).seq))
  else (q, none)

/-- A make-ready from a producer other than the tick (R168); its acceptance takes the scheduler one FCLK cycle. A held one is
counted (SCH_HELDCNT). DESIGN CHOICE (log 131): an instance made so, though its task may be bound, is no instance of the tick and has no
deadline of R170. -/
def Quad.makeReady (q : Quad) (t : Nat) : Quad × Ready :=
  let q := q.noteTask t
  if q.refused165 t then (q, .refused)
  else if q.room168 t then
    let r := q.joinFlow t
    let i : Inst := ⟨t, q.tLevel t, q.cclk / 2, q.tick, false, q.tEvt t, r.2⟩
    ({ r.1.enqueue i with cclk := q.cclk + 2 }, .accepted)
  else (q.count Reg.SCH_HELDCNT_COUNT 1, .held)

/-! ### Records (R190) -/

/-- The completion record of an instance, and LAST of its descriptor; `ran` tells whether it ran at all. -/
def Quad.taskRecord (q : Quad) (i : Inst) (pos status : Nat) (skip ran : Bool) (stBits : Nat) : Quad :=
  let w0 := i.task + 4096 * (pos % 16) + 65536 * status + 16777216 * b2n skip + 33554432 * b2n (i.evt && ran)
    + 67108864 * b2n i.flow.isSome + 134217728 * i.level
  let w3 := stBits + (match i.flow with | some (f, s) => 4096 * f + 262144 * (s % 256) | none => 0)
  let q := q.recordPush 17 Reg.SCH_CR_BASE_BASE Reg.SCH_CR_LEN_LOG2 Reg.SCH_CR_WP_WP Reg.SCH_CR_RP_RP Reg.SCH_CR_OVWR_OVWR
    [w32 w0, i.tick.setWidth 32, q.tim.ns.setWidth 32, w32 w3]
  q.setTf i.task 7 7 0 status

/-! ### Flows (R183 to R185, R328) -/

/-- One release (R184): the oldest outstanding instance, if it is releasable. `true` when another may follow. -/
def Quad.releaseOne (q : Quad) (f : Nat) : Quad × Bool :=
  let fl := q.flow f
  match fl.ready.find? fun e => e.1 == fl.rel with
  | none => (q, false)
  | some (_, empty, ctx) =>
    let next := { fl with rel := fl.rel + 1, ready := fl.ready.filter (fun e => e.1 != fl.rel), hold := false }
    let tgt := q.fld (Reg.SCH_FLOW_CFG_TGT f)
    let idx := q.fld (Reg.SCH_FLOW_CFG_IDX f)
    if empty || tgt == 0 then (q.setFlow f next, true)
    else if tgt == 1 then
      match q.makeReady idx with
      | (q, .held) => (q.setFlow f { q.flow f with hold := true }, false)
      | (q, _) =>
        let cur := q.flow f
        (q.setFlow f { cur with rel := cur.rel + 1, ready := cur.ready.filter (fun e => e.1 != cur.rel), hold := false }, true)
    else ((q.flowPacket idx ctx).setFlow f next, true)

/-- Consecutive releases (R184), at most `n`. -/
def Quad.releaseFlow (q : Quad) (f : Nat) : Nat → Quad
  | 0 => q
  | n + 1 =>
    match q.releaseOne f with
    | (q, true) => q.releaseFlow f n
    | (q, false) => q

/-- An instance of a flow becomes releasable (R184), with the CTX it started with; `empty` where it was cancelled or aborted, as one is
that issued `frel` and still waits for older ones. -/
def Quad.releasable (q : Quad) (i : Inst) (ctx : Nat) (empty : Bool) : Quad :=
  match i.flow with
  | none => q
  | some (f, s) =>
    let fl := q.flow f
    if s < fl.rel then q
    else if fl.ready.any fun e => e.1 == s then
      if empty then q.setFlow f { fl with ready := fl.ready.map fun e => if e.1 == s then (s, true, e.2.2) else e } else q
    else
      let q := q.setFlow f { fl with ready := fl.ready ++ [(s, empty, ctx)] }
      if (q.flow f).hold then q else q.releaseFlow f 257

/-! ### Removal -/

/-- Whether an instance is the one that a customer test in progress made ready (R192, R483). -/
def Quad.underTest (q : Quad) (i : Inst) : Bool :=
  match q.flt.test with | some t => t.code == 0x10 && q.flt.testInst == some i | none => false

/-- The end of a customer test with the status of its instance (R483): one that failed writes a TEST record. -/
def Quad.customerEnd (q : Quad) (i : Inst) (status : Nat) : Quad :=
  match q.flt.test with
  | some t =>
    if q.underTest i then
      let q := if status = St.abortedFault then q.fault 5 1 31 31 (w32 0x10) else q
      let q := ((q.setFld Reg.FLT_TRES_TEST 0x10).setFld Reg.FLT_TRES_STATUS status).setFld Reg.FLT_TRES_DETAIL 0
      { q.complete t.seq 0x0B status 0 0 with flt := { q.flt with test := none } }
    else q
  | none => q

/-- A removed instance's record (R189, R190): CANCELLED, CANC raised, released empty. -/
def Quad.cancelled (q : Quad) (i : Inst) (skip : Bool) : Quad :=
  let q := (q.taskRecord i 0 St.cancelled skip false 0).countTf i.task 5 31 16 1
  (q.customerEnd i St.cancelled).releasable i 0 true

/-- A list of instances removed. -/
def Quad.cancelAll (q : Quad) (skip : Bool) : List Inst → Quad
  | [] => q
  | i :: t => (q.cancelled i skip).cancelAll skip t

/-- A position asks for work (R178), once. -/
def Quad.ask (q : Quad) (pos : Nat) : Quad :=
  if q.sch.asks.contains pos then q else { q with sch := { q.sch with asks := q.sch.asks ++ [pos] } }

/-- A prefetch slot emptied, so that its position asks again (R178). -/
def Quad.emptyPref (q : Quad) (pos : Nat) : Quad :=
  Quad.ask { q with sch := { q.sch with pref := q.sch.pref.setIfInBounds pos none } } pos

/-- The instance in a prefetch slot. -/
def Quad.prefAt (q : Quad) (pos : Nat) : Option Inst := (q.sch.pref.toList.getD pos none)

/-- The prefetch slots whose instance satisfies a test, emptied; the instances taken out. -/
def Quad.takePref (q : Quad) (p : Inst → Bool) : Quad × List Inst :=
  [0, 1, 2, 3].foldl (fun (r : Quad × List Inst) pos =>
    match r.1.prefAt pos with
    | some i => if p i then (r.1.emptyPref pos, r.2 ++ [i]) else r
    | none => r) (q, [])

/-- The queued instances that satisfy a test, taken out. -/
def Quad.takeQueue (q : Quad) (p : Inst → Bool) : Quad × List Inst :=
  ({ q with sch := { q.sch with queue := q.sch.queue.filter fun i => !p i } }, q.sch.queue.filter p)

/-- The instances assigned to requesting cores behind a handler that still runs (R90) which satisfy a test, taken back: they have not
started, and the positions ask again (log 119). -/
def Quad.takeAssigned (q : Quad) (p : Inst → Bool) : Quad × List Inst :=
  (List.range 16).foldl (fun (r : Quad × List Inst) pos =>
    match r.1.coreAt pos with
    | none => r
    | some c =>
      let k := r.1.core c
      match k.assigned with
      | some i => if p i then ((r.1.setCore c { k with assigned := none }).ask pos, r.2 ++ [i]) else r
      | none => r) (q, [])

/-- Every waiting instance that satisfies a test, taken out of the queues, the prefetch slots and the places behind a handler. -/
def Quad.takeWaiting (q : Quad) (p : Inst → Bool) : Quad × List Inst :=
  let a := q.takeQueue p
  let b := a.1.takePref p
  let c := b.1.takeAssigned p
  (c.1, a.2 ++ b.2 ++ c.2)

/-- The record of a one-shot entry removed before it was made ready (R190). -/
def Quad.cancelEntry (q : Quad) (e : DelayEntry) : Quad :=
  (q.taskRecord ⟨e.task, q.tLevel e.task, 0, q.tick, false, false, none⟩ 0 St.cancelled false false 0).countTf e.task 5 31 16 1

/-- Whether a core runs an instance of a task, in either set. -/
def Core.runsTask (k : Core) (t : Nat) : Bool :=
  (match k.run with | some r => r.inst.task == t | none => false) || (match k.evtRun with | some r => r.inst.task == t | none => false)

/-- Whether an instance of a task runs on some core (R163). -/
def Quad.runs (q : Quad) (t : Nat) : Bool := physAll.any fun c => (q.core c).runsTask t

/-- Whether an instance of a task runs on some core, or was given to one: behind a handler, or as a pending event. -/
def Quad.running? (q : Quad) (t : Nat) : Bool :=
  q.runs t || physAll.any fun c =>
    let k := q.core c
    (match k.assigned with | some i => i.task == t | none => false) ||
    (match k.pendEvt with | some i => i.task == t | none => false)

/-- Cancel (R189): the outcome, and every waiting instance of the task removed. -/
def Quad.cancelTask (q : Quad) (t : Nat) : Quad × Nat :=
  let (q, a) := q.takeWaiting fun i => i.task == t
  let shots := (q.sch.tickList ++ q.sch.timeList).filter fun e => e.task == t && e.period.isNone
  let keep (l : List DelayEntry) := l.filter fun e => !(e.task == t && e.period.isNone)
  let q := { q with sch := { q.sch with tickList := keep q.sch.tickList, timeList := keep q.sch.timeList } }
  let q := q.cancelAll false a
  let q := shots.foldl (fun q e => q.cancelEntry e) q
  if !a.isEmpty || !shots.isEmpty then (q, St.cancelled)
  else if q.running? t then (q, St.tooLate) else (q, St.refused)

/-! ### Selection and starts (R178, R179, R192) -/

/-- Whether the mode lets an instance be dispatched (R192). -/
def Quad.modeAllows (q : Quad) (i : Inst) : Bool :=
  match q.mode with
  | .standby => !i.bound && !q.tickB i.task
  | .run => true
  | .service => q.underTest i
  | _ => false

/-- Whether a SER task has an instance that runs or sits in a prefetch slot (R172). -/
def Quad.serBusy (q : Quad) (t : Nat) : Bool :=
  q.tSer t && (q.running? t ||
    q.sch.pref.toList.any fun s => match s with | some i => i.task == t | none => false)

/-- Whether R178 may give an instance to a position. -/
def Quad.selectable (q : Quad) (pos : Nat) (i : Inst) : Bool :=
  !i.evt && q.modeAllows i && bitN (q.effMask i.task) pos && !q.serBusy i.task && q.tValid i.task

/-- Whether R178 prefers an instance to another: higher level, earlier ready time, lower task. -/
def Inst.before (a b : Inst) : Bool :=
  decide (a.level > b.level) || (a.level == b.level &&
    (decide (a.ready < b.ready) || (a.ready == b.ready && decide (a.task < b.task))))

/-- The preferred one of a list. -/
def bestInst : List Inst → Option Inst
  | [] => none
  | i :: t => match bestInst t with
    | none => some i
    | some j => if j.before i then some j else some i

/-- The instance R178 selects for a position. -/
def Quad.select (q : Quad) (pos : Nat) : Option Inst := bestInst (q.sch.queue.filter (q.selectable pos))

/-- Queued instances whose VALID is 0 when selection considers them: removed with CANCELLED (R164). -/
def Quad.purgeInvalid (q : Quad) : Quad :=
  let (q, l) := q.takeQueue fun i => !q.tValid i.task
  q.cancelAll false l

/-- An instance taken out of the queue. -/
def Quad.dequeue (q : Quad) (i : Inst) : Quad := { q with sch := { q.sch with queue := q.sch.queue.erase i } }

/-- The wait of an instance that starts (R195): WLAST, WMAX and the histogram. -/
def Quad.noteWait (q : Quad) (i : Inst) : Quad :=
  let w := q.cclk / 2 - i.ready
  let w16 := satTo 0xFFFF w
  let q := (q.setTf i.task 6 15 0 w16).setTf i.task 6 31 16 (max (q.tf i.task 6 31 16) w16)
  if q.flag Reg.SCH_CTL_HEN && (q.flag Reg.SCH_CTL_HALL || q.fld Reg.SCH_CTL_HLVL == i.level) then
    q.count (Reg.SCH_HIST_COUNT (min 31 (w >>> q.fld Reg.SCH_CTL_HSHIFT))) 1
  else q

/-- The Kiln word an instance receives at its start (R161, R245): the one stored in its context, zero where the task is no object. -/
def Quad.kilnWordOf (q : Quad) (t : Nat) : W40 := if q.taskObj t then q.mem.word40 (q.phys (16 * q.tCtx t)) else 0

/-- An instance started on a core in set 0 (R166), its wait noted. -/
def Quad.startOn (q : Quad) (c : Fin 17) (i : Inst) : Quad :=
  let q := (q.noteTask i.task).noteWait i
  q.setCore c ((q.core c).startInst i (q.tEntry i.task) (q.tCtx i.task) (q.kilnWordOf i.task))

/-- Whether an event is pending at a core (R67, R85). -/
def Core.eventPends (k : Core) : Bool := k.pendEvt.isSome || k.pendTick || k.pendDbg

/-- An instance given to a core that waits for one: it starts at once, or once the handler that runs there, or that a pending event is to
enter, returns (R90). -/
def Quad.give (q : Quad) (c : Fin 17) (i : Inst) : Quad :=
  let k := q.core c
  if k.act || k.eventPends then q.setCore c { k with assigned := some i } else q.startOn c i

/-- A privileged core that waits takes the instance of its prefetch slot (R64, R157), where the mode dispatches it (R192) and no
handler runs or is to be entered; until then the instance stays in the slot and waits (R90, R179). -/
def Quad.startFromSlot (q : Quad) (c : Fin 17) : Quad :=
  let k := q.core c
  let pos := k.pos.val
  if k.wait == .req && !k.act && !k.eventPends && !k.parked && !k.stopped then
    match q.prefAt pos with
    | some i => if pos < 4 && q.modeAllows i then (q.emptyPref pos).startOn c i else q
    | none => q
  else q

/-- The privileged positions that wait take what stands in their prefetch slots: where the mode or Hardpan has changed. -/
def Quad.startSlots (q : Quad) : Quad :=
  [0, 1, 2, 3].foldl (fun q p => match q.coreAt p with | some c => q.startFromSlot c | none => q) q

/-- A position with nothing to run asks for work (R157, R178): a privileged one from its prefetch slot, a requesting one from the
queues. -/
def Quad.waitForWork (q : Quad) (c : Fin 17) : Quad :=
  let k := q.core c
  let q := q.setCore c { k with wait := .req, run := none }
  if k.pos.val < 4 then
    let q := q.startFromSlot c
    if (q.prefAt k.pos.val).isNone then q.ask k.pos.val else q
  else q.ask k.pos.val

/-- An instance that waited on a core behind a handler (R90): started, or, where the mode dispatches it no more, queued again
(R192). -/
def Quad.startAssigned (q : Quad) (c : Fin 17) (i : Inst) : Quad :=
  if q.modeAllows i then q.startOn c i
  else ((q.setCore c { q.core c with assigned := none }).enqueue i).waitForWork c

/-! ### Ends of instances -/

/-- The ST bits of a record: bits [19:8] (R190). -/
def stBits (st : W32) : Nat := (st.toNat / 256) % 4096

/-- The status that sticky flags give (R74). -/
def stStatus (st : W32) : Nat :=
  if st &&& stEU ≠ 0 then St.eccUncorrected else if st &&& stEC ≠ 0 then St.eccCorrected else St.done

/-- An instance that ends (R158, R170, R190): an overrun counted where it is late or zeros stood for it, its record, RUNS, and its flow
item released unless `frel` did it, empty where the instance was aborted. -/
def Quad.closeRun (q : Quad) (pos : Nat) (r : Run) (status : Nat) (st : W32) (late empty : Bool) : Quad :=
  let i := r.inst
  let ovr := late || r.charged
  let q := if ovr then q.countTf i.task 5 15 0 1 else q
  let s := worse (worse status (stStatus st)) (worse r.status (if ovr then St.late else St.done))
  let q := (q.taskRecord i pos s false true (stBits st)).setTf i.task 4 31 0 (q.tf i.task 4 31 0 + 1)
  let q := q.customerEnd i s
  if r.frel && !empty then q else q.releasable i r.ctx empty

/-- The end of an instance whose code issued `done`: one bound to the tick is late after its tick (R170). DESIGN CHOICE (log 141): it is
so whatever mode the quadrant has come to since. -/
def Quad.endRun (q : Quad) (pos : Nat) (r : Run) (status : Nat) (st : W32) (empty : Bool) : Quad :=
  q.closeRun pos r status st (r.inst.bound && r.inst.tick != q.tick) empty

/-- An event instance that was delivered to a core and not entered ends with its core (R475): its record, and its flow item released
empty. DESIGN CHOICE (log 142): it did not start, so RUNS does not count it. -/
def Quad.abortEvt (q : Quad) (pos : Nat) (i : Inst) (status : Nat) : Quad :=
  ((q.taskRecord i pos status false false 0).customerEnd i status).releasable i 0 true

/-- The instances of a core ended (R89, R193, R475): each one that runs, and an event instance that was delivered to it and not entered,
with a status, its flow item released empty; it issued no `done`, and is not late (R170). -/
def Quad.abortCore (q : Quad) (c : Fin 17) (status : Nat) : Quad :=
  let k := q.core c
  let pos := k.pos.val
  let q := match k.evtRun with | some r => q.closeRun pos r status k.set1.st false true | none => q
  let q := match k.run with | some r => q.closeRun pos r status k.set0.st false true | none => q
  let q := match k.assigned with | some i => q.enqueue i | none => q
  let q := match k.pendEvt with | some i => q.abortEvt pos i status | none => q
  q.setCore c { q.core c with run := none, evtRun := none, assigned := none, pendEvt := none }

/-! ### Arming (R174 to R176) -/

/-- A quadrant with its scheduler changed. -/
def Quad.mapSch (q : Quad) (f : Sched → Sched) : Quad := { q with sch := f q.sch }

/-- An entry placed behind those of equal or smaller key (R173), and behind one that has expired and is held (R187). -/
def insertEntry (e : DelayEntry) : List DelayEntry → List DelayEntry
  | [] => [e]
  | f :: t => if e.key < f.key ∧ !f.expired then e :: f :: t else f :: insertEntry e t

/-- Tasks bound at most (R168). -/
def boundMax : Nat := 1024

/-- The key of a writer's arming (R174). -/
def Quad.armKey (q : Quad) (w : Writer) : W64 :=
  BitVec.ofNat 64 ((q.rdCopy w Reg.SCH_KEY_LO).toNat + 2 ^ 32 * (q.rdCopy w Reg.SCH_KEY_HI).toNat)

/-- The result shown in a writer's SCH_ARM_STAT (R174). -/
def Quad.armStat (q : Quad) (w : Writer) (status : Nat) : Quad := q.wrCopy w Reg.SCH_ARM_STAT (w32 status)

/-- BIND (R174, R175): from tick j + 2. -/
def Quad.armBind (q : Quad) (w : Writer) (t : Nat) : Quad :=
  if q.tickB t || q.pmode t != 0 || q.tEvt t || q.tFvld t || decide (boundMax ≤ q.reservation) || q.refused165 t
      || q.mode == .scour || q.mode == .halt then q.armStat w St.refused
  else
    (q.mapSch fun s => { s with bound := s.bound ++ [⟨t, q.tick + 2, none⟩] }).armStat w St.done

/-- UNBIND (R175): the next tick is the last. -/
def Quad.armUnbind (q : Quad) (w : Writer) (t : Nat) : Quad :=
  if !q.tickB t then q.armStat w St.refused
  else
    (q.mapSch fun s => { s with bound := s.bound.map fun b =>
        if b.task == t && b.last.isNone then { b with last := some (q.tick + 1) } else b }).armStat w St.done

/-- Arming on the tick list, periodic or once (R174). -/
def Quad.armTick (q : Quad) (w : Writer) (t : Nat) (periodic : Bool) : Quad :=
  let per := q.tf t 1 31 16
  if q.refused165 t || (periodic && (q.tickB t || q.pmode t != 0 || per == 0)) then q.armStat w St.refused
  else if q.sch.tickList.length ≥ 1024 then q.armStat w St.held
  else
    let e : DelayEntry := ⟨q.armKey w, t, if periodic then some per else none, false⟩
    (q.mapSch fun s => { s with tickList := insertEntry e s.tickList }).armStat w St.done

/-- Arming on the time list, periodic or once (R174). -/
def Quad.armTime (q : Quad) (w : Writer) (t : Nat) (periodic : Bool) : Quad :=
  let per := q.tf t 3 31 0
  if q.refused165 t || (periodic && (q.tickB t || q.pmode t != 0 || decide (per < 10000))) then q.armStat w St.refused
  else if q.sch.timeList.length ≥ 1024 then q.armStat w St.held
  else
    let e : DelayEntry := ⟨q.armKey w, t, if periodic then some per else none, false⟩
    (q.mapSch fun s => { s with timeList := insertEntry e s.timeList }).armStat w St.done

/-- DISARM (R175). -/
def Quad.armDisarm (q : Quad) (w : Writer) (t : Nat) : Quad :=
  if q.pmode t == 0 then q.armStat w St.refused
  else
    let keep (l : List DelayEntry) := l.filter fun e => !(e.task == t && e.period.isSome)
    (q.mapSch fun s => { s with tickList := keep s.tickList, timeList := keep s.timeList }).armStat w St.done

/-- A write of SCH_ARM (R174): the operation it names; a reserved one, or a reserved bit set, gives REFUSED. -/
def Quad.armWrite (q : Quad) (w : Writer) (v : W32) : Quad :=
  let t := v.toNat % 4096
  if v.toNat ≥ 2 ^ 15 then q.armStat w St.refused
  else
    match (v.toNat / 4096) % 8 with
    | 1 => q.armBind w t
    | 2 => q.armUnbind w t
    | 3 => q.armTick w t true
    | 4 => q.armTime w t true
    | 5 => q.armTick w t false
    | 6 => q.armTime w t false
    | 7 => q.armDisarm w t
    | _ => q.armStat w St.refused

/-! ### Expiry (R173, R176, R177) -/

/-- The advance of a periodic key past the present (R176): the new key, and the periods passed over. -/
def advanceKey (key : W64) (per now : Nat) : W64 × Nat :=
  let k1 := key.toNat + per
  if k1 > now then (BitVec.ofNat 64 k1, 0)
  else
    let n := (now - k1) / per + 1
    (BitVec.ofNat 64 (k1 + n * per), n)

/-- The head of a delay list put to the queues: `now` is the tick or the time. `tk` selects the tick list. The test of R177 is made as
the entry expires; one that is held is never dropped (R187). -/
def Quad.expireHead (q : Quad) (tk : Bool) (now : Nat) : Quad :=
  let setL (q : Quad) (l : List DelayEntry) : Quad :=
    if tk then { q with sch := { q.sch with tickList := l } } else { q with sch := { q.sch with timeList := l } }
  match (if tk then q.sch.tickList else q.sch.timeList) with
  | [] => q
  | e :: rest =>
    if e.key.toNat > now && !e.expired then q
    else
      let after (q : Quad) : Quad :=
        let rest := (if tk then q.sch.tickList else q.sch.timeList).drop 1
        match e.period with
        | none => setL q rest
        | some per =>
          let (k, n) := advanceKey e.key (max per 1) now
          (setL q (insertEntry { e with key := k, expired := false } rest)).countTf e.task 5 31 16 n
      if !e.expired && e.period.isSome && (decide (q.queued e.task > 0) || (q.tSer e.task && q.running? e.task)) then
        (after q).countTf e.task 5 31 16 1
      else
        match q.makeReady e.task with
        | (q, .held) => setL q ({ e with expired := true } :: rest)
        | (q, _) => after q

end Sys2Proof.Machine
end

