-- ==== Sys2Proof/Machine/KilnOps.lean ====
section
/-! DEFINITION. The shared operations of Kiln (spec/09): records, scenes, PREPARE, crossfades, held writes, Kiln words. -/

namespace Sys2Proof.Machine

/-! ### Records (R239) -/

/-- A record in the Kiln ring. -/
def Quad.klnRecord (q : Quad) (status typ reason : Nat) (id : BitVec 16) (tick : W32) (now defer : Nat) : Quad :=
  q.recordPush 18 Reg.KLN_RG_BASE_BASE Reg.KLN_RG_LEN_LOG2 Reg.KLN_RG_WP_WP Reg.KLN_RG_RP_RP Reg.KLN_RG_OVWR_OVWR
    [w32 (status + 256 * typ + 1024 * reason + 65536 * id.toNat), tick, w32 (now % 65536 + 65536 * (defer % 65536)),
     q.tim.ns.setWidth 32]

/-- The code of an object in a replacement record (R239). -/
def Obj.code (o : Obj) : Nat := o.index % 32768 + 32768 * b2n o.kind

/-! ### Scenes and PREPARE (R235, R236) -/

/-- Address of a scene descriptor. -/
def sceneAddr (scene : Nat) : Nat := 0x23010000 + 16 * (scene % 256)

/-- A scene descriptor's words; zero where its read is uncorrectable (R416). -/
def Quad.sceneW (q : Quad) (scene w : Nat) : Nat :=
  if q.poisoned (sceneAddr scene) 16 then 0 else q.mem.readLE (sceneAddr scene + 4 * w) 4

/-- COUNT of a scene. -/
def Quad.sceneCount (q : Quad) (scene : Nat) : Nat := q.sceneW scene 1 % 65536
/-- Length of a scene's crossfade in ticks. -/
def Quad.sceneLen (q : Quad) (scene : Nat) : Nat := q.sceneW scene 1 / 65536 % 4096 + 1
/-- Byte address of a scene's list. -/
def Quad.sceneList (q : Quad) (scene : Nat) : Nat := 16 * q.sceneW scene 0

/-- Whether a scene's list lies where Kiln may read it. -/
def Quad.sceneReach (q : Quad) (scene : Nat) : Bool :=
  decide (q.sceneCount scene ≤ 36864) && q.sysRange (q.sceneList scene) (4 * q.sceneCount scene)

/-- The 32-bit entries of a scene's list; zero those of a beat of sixteen bytes whose read is uncorrectable (R416). -/
def Quad.sceneRaw (q : Quad) (scene : Nat) : List Nat :=
  (List.range (q.sceneCount scene)).map fun i =>
    let a := q.phys (q.sceneList scene) + 4 * i
    if q.poisoned (a / 16 * 16) 16 then 0 else q.mem.readLE a 4

/-- The objects of a scene. -/
def Quad.sceneObjs (q : Quad) (scene : Nat) : List Obj :=
  (q.sceneRaw scene).map fun e => ⟨bitN e 15, e % 32768⟩

/-- Whether check SCENE of R236 fails. -/
def Quad.sceneBad (q : Quad) (scene : Nat) : Bool :=
  let n := q.sceneCount scene
  decide (q.sceneW scene 1 ≥ 2 ^ 28) || q.sceneW scene 2 != 0 || q.sceneW scene 3 != 0 || decide (n > 36864) ||
    (n != 0 && !q.sceneReach scene) ||
    (q.sceneRaw scene).any (fun e => decide (e ≥ 65536)) ||
    (q.sceneObjs scene).any (fun o => o.kind && (decide (o.index ≥ 4096) || q.poisoned (objAddr o.index) 16 || !q.taskObj o.index)) ||
    decide ((q.sceneObjs scene).eraseDups.length ≠ n) || (n != 0 && q.poisoned (q.phys (q.sceneList scene)) (4 * n))

/-- The marked words that the reads of a PREPARE meet (R416, R472): of the descriptor, the list, and the entries of the task objects named. -/
def Quad.sceneEcc (q : Quad) (scene : Nat) : List (Nat × Ecc) :=
  q.eccIn (sceneAddr scene) 16 ++
    (if q.sceneReach scene then
      q.eccIn (q.phys (q.sceneList scene)) (4 * q.sceneCount scene) ++
        (((q.sceneObjs scene).filter fun o => o.kind && decide (o.index < 4096)).map fun o => q.eccIn (objAddr o.index) 16).flatten.eraseDups
     else [])

/-- The products that source changes of objects add (R236). -/
def Quad.srcLoad (q : Quad) (objs : List Obj) : Nat :=
  (objs.filter fun o => !o.kind && q.rSrc o.index false != q.rSrc o.index true).length

/-- Generators that neither drive a crossfade nor are reserved (R244). -/
def Quad.freeGens (q : Quad) : List (Fin 16) :=
  (List.finRange 16).filter fun g =>
    !(q.kln.fades.any fun f => f.gen == g) && !(q.kln.prepared.any fun p => p.gen == some g)

/-- The first failing check of R236, zero when all pass. `soonest` is the earliest tick that the lead allows: a + 3, or a + 8 for a
domain commit that its manager accepted in tick a (R241). -/
def Quad.prepReason (q : Quad) (id : BitVec 16) (scene : Nat) (t : W64) (soonest : Nat) : Nat :=
  let objs := q.sceneObjs scene
  if t.toNat < soonest then 1
  else if !(q.mode == .run || q.mode == .hardpan) || !q.flag Reg.KLN_CTL_ARM then 2
  else if q.kln.prepared.length ≥ 8 then 3
  else if q.sceneCount scene ≠ 0 ∧ q.freeGens = [] then 4
  else if q.rteLoad + q.srcLoad objs + (q.kln.prepared.map fun p => q.srcLoad p.objs).sum
      + (q.kln.fades.map fun f => q.srcLoad f.objs).sum + q.srcLoad (q.kln.pend.map (·.obj)) > q.rteLimit then 5
  else if q.sceneBad scene then 6
  else if (q.kln.prepared.any fun p => p.id == id) ||
      (q.kln.prepared.any fun p => p.t == t && p.objs.any (objs.contains ·)) then 7
  else 0

/-- START, LEN and ID of a generator as KLN_GENn shows them. -/
def Quad.noteGen (q : Quad) (g : Fin 16) (start : W32) (len : Nat) (id : BitVec 16) : Quad :=
  q.mapKln fun k => { k with lastGen := k.lastGen.put g.val (start, len - 1, id) }

/-- PREPARE (R236): the reason it fails for, zero when the commit is prepared; the errors that its reads meet are noted. -/
def Quad.prepare (q : Quad) (id : BitVec 16) (scene : Nat) (t : W64) (soonest : Nat) (dom : Bool) : Quad × Nat :=
  let r := q.prepReason id scene t soonest
  let q := q.noteEcc (q.sceneEcc scene)
  if r = 0 then
    let n := q.sceneCount scene
    let g := if n = 0 then none else q.freeGens.head?
    let p : Prepared := ⟨id, scene % 256, q.tick.setWidth 32, t, q.sceneLen scene, q.sceneObjs scene, g, dom, false, false, q.srcLoad (q.sceneObjs scene),
      q.kln.order⟩
    let q := q.mapKln fun k => { k with prepared := k.prepared ++ [p], order := k.order + 1 }
    (match g with | some g => q.noteGen g (t.setWidth 32) p.len id | none => q, 0)
  else (q.klnRecord St.commitAborted 0 r id (t.setWidth 32) 0 0, r)

/-- A prepared commit abandoned (R238): its seals and reservation go, its record is written. -/
def Quad.abandon (q : Quad) (p : Prepared) (status reason : Nat) : Quad :=
  (q.mapKln fun k => { k with prepared := k.prepared.filter fun x => x.id != p.id }).klnRecord
    status 0 reason p.id (p.t.setWidth 32) 0 0

/-- COMMIT, or GO (R237): its status. DESIGN CHOICE (log 130): a COMMIT that the host sends for a domain commit, which R240 says it does
not, acts as GO does in this quadrant. -/
def Quad.commitId (q : Quad) (id : BitVec 16) : Quad × Nat :=
  match q.kln.prepared.find? fun p => p.id == id with
  | none => (q, St.refused)
  | some p =>
    if q.tick.toNat + 2 ≤ p.t.toNat then
      (q.mapKln fun k => { k with prepared := k.prepared.map fun x => if x.id == id then { x with committed := true } else x },
       St.done)
    else (q, St.refused)

/-- The domain commit that the quadrant collects reports for, of an identifier, not aborted (R240). -/
def Quad.collectOf (q : Quad) (id : BitVec 16) : Option Collect :=
  match q.snx.coll with
  | some c => if c.id == id && !c.aborted then some c else none
  | none => none

/-- The coordinated commit of an identifier marked aborted by its host: the decision will be ABORT (R238, R240). -/
def Quad.abortColl (q : Quad) (id : BitVec 16) : Quad :=
  match q.collectOf id with
  | some c => { q with snx := { q.snx with coll := some { c with aborted := true } } }
  | none => q

/-- ABORT (R238): its status. An identifier that the manager accepted for the domain is known before its own PREPARE message is taken;
its record is then written at once. DESIGN CHOICE (log 139): once GO is decided, the manager abandons its own part alone, and GO goes on
being sent. -/
def Quad.abortId (q : Quad) (id : BitVec 16) : Quad × Nat :=
  match q.kln.prepared.find? fun p => p.id == id with
  | some p => if q.tick.toNat + 2 ≤ p.t.toNat then ((q.abandon p St.commitAborted 0).abortColl id, St.done) else (q, St.tooLate)
  | none =>
    match q.collectOf id with
    | some c =>
      if c.took then (q, St.refused)
      else if q.tick.toNat + 2 ≤ c.t.toNat then ((q.abortColl id).klnRecord St.commitAborted 0 0 id (c.t.setWidth 32) 0 0, St.done)
      else (q, St.tooLate)
    | none => (q, if q.kln.fades.any fun f => f.id == id && f.first then St.tooLate else St.refused)

/-! ### Crossfades (R242 to R248) -/

/-- A replacement (R247): the record, the count, the old change gone. -/
def Quad.replacePend (q : Quad) (o : Obj) (new : BitVec 16) : Quad :=
  match q.kln.pend.find? fun c => c.obj == o with
  | none => q
  | some c =>
    let q := q.mapKln fun k => { k with pend := k.pend.filter fun x => x.obj != o }
    (q.klnRecord St.cancelled 1 0 c.id (q.tick.setWidth 32) o.code new.toNat).count Reg.KLN_CNT_REPL 1

/-- A commit reaches its objects at T (R242, R246, R247): those that start, those deferred. DESIGN CHOICE (log 137): a task object that has
become invalid since its PREPARE is reached like any other. -/
def Quad.reach (q : Quad) (p : Prepared) : List Obj → Quad × List Obj × List Obj
  | [] => (q, [], [])
  | o :: t =>
    let q' := q.replacePend o p.id
    if q.objFade o then
      let q' := q'.mapKln fun k => { k with pend := k.pend ++ [⟨o, p.id, p.len, p.order, false, none⟩] }
      let r := q'.reach p t
      (r.1, r.2.1, o :: r.2.2)
    else
      let q' := q'.setObj o (q.objAct o) true (match p.gen with | some g => g.val | none => 0)
      let r := q'.reach p t
      (r.1, o :: r.2.1, r.2.2)

/-- The Kiln word of an object in the present tick (R245). -/
def Quad.kilnWord (q : Quad) (t : Nat) : Nat :=
  let w := q.mem.readLE (objAddr t) 4
  let act := bitN w 1
  if bitN w 2 then
    match q.kln.fades.find? fun f => f.gen.val == (w / 8) % 16 with
    | some f => 65536 * (2 * f.i + 1) / (2 * f.len) + 65536 * b2n act + 131072 * b2n (!act) + 262144
    | none => 65536 * b2n act + 131072 * b2n (!act) + 262144
  else 65536 * b2n act

/-- The enabled, valid task objects; an entry whose read is uncorrectable reads zero (R416). -/
def Quad.taskObjs (q : Quad) : List Nat :=
  q.mem.filterMap fun c =>
    if 0x23000000 ≤ c.1 ∧ c.1 < 0x23010000 ∧ c.1 % 16 = 0 ∧ c.2.getLsbD 0 ∧ q.taskObj ((c.1 - 0x23000000) / 16) ∧
        !q.poisoned c.1 16 then
      some ((c.1 - 0x23000000) / 16) else none

/-- The Kiln words of this tick computed and stored at byte 0 of each context, in the .q layout (R245). -/
def Quad.kilnWords (q : Quad) : Quad :=
  q.taskObjs.foldl (fun r t => r.sysWrite 18 (16 * q.tCtx t) (bytesLE (q.kilnWord t) 8)) q

/-- A commit takes effect at T (R242, R239). -/
def Quad.takeEffect (q : Quad) (p : Prepared) : Quad :=
  let (q, now, later) := q.reach p p.objs
  let q := q.mapKln fun k => { k with prepared := k.prepared.filter fun x => x.id != p.id }
  let q := match p.gen with
    | some g =>
      if now.isEmpty then q
      else
        let f : Fade := ⟨g, p.id, q.tick.setWidth 32, p.len, 0, now, true⟩
        (q.mapKln fun k => { k with fades := k.fades ++ [f] }).noteGen g (q.tick.setWidth 32) p.len p.id
    | none => q
  (q.klnRecord St.done 0 0 p.id (p.t.setWidth 32) now.length later.length).kilnWords

/-- A held byte as it is put: of a route entry, the bits that a write sets (R207, R221). -/
def Quad.heldByte (q : Quad) (b : Nat × Byte) : Nat × Byte :=
  if 0x21000000 ≤ b.1 ∧ b.1 < 0x21080000 then
    let m := routeMask (b.1 % 16) true
    (b.1, (q.mem.read b.1 &&& ~~~m) ||| (b.2 &&& m))
  else b

/-- The held pieces of an object applied in order, by Kiln (R234, R409). -/
def Quad.applyHold (q : Quad) (o : Obj) : Quad :=
  ((q.kln.hold.filter fun h => h.obj == o).foldl (fun q h => q.sysPut 18 (h.bytes.map q.heldByte)) q).mapKln fun k =>
    { k with hold := k.hold.filter fun h => h.obj != o }

/-- An object at the end of its crossfade (R242, R246): held writes, then ACT to the former incoming bank. DESIGN CHOICE (log 128): FGEN
of an object that does not fade is 0. -/
def Quad.endObj (q : Quad) (o : Obj) : Quad := (q.noteLoad.applyHold o).setObj o (!q.objAct o) false 0

/-- Deferred changes that are due: their object no longer fades. -/
def Quad.duePend (q : Quad) : List PendChange := q.kln.pend.filter fun c => !q.objFade c.obj

/-- The boundary noted at which pending changes fall due. -/
def Quad.markDue (q : Quad) : Quad :=
  q.mapKln fun k => { k with pend := k.pend.map fun c => if c.due.isNone && !q.objFade c.obj then { c with due := some q.tick } else c }

/-- One group served (R248): the changes of one commit that fell due at one boundary take a generator, freed ones of this boundary
first; without one they wait and are counted. -/
def Quad.serveGroup (q : Quad) (key : Nat × Option W64) : Quad :=
  let mine (c : PendChange) : Bool := c.order == key.1 && c.due == key.2
  let group := q.duePend.filter mine
  match group with
  | [] => q
  | c :: _ =>
    let free := q.freeGens
    let pick := match (List.finRange 16).find? fun g => q.kln.freed.contains g && free.contains g with
      | some g => some g
      | none => free.head?
    match pick with
    | none =>
      (q.mapKln fun k => { k with pend := k.pend.map fun x => if mine x then { x with waiting := true } else x }).count
        Reg.KLN_CNT_GWAIT 1
    | some g =>
      let objs := group.map (·.obj)
      let q := objs.foldl (fun q o => q.setObj o (q.objAct o) true g.val) q
      let f : Fade := ⟨g, c.id, q.tick.setWidth 32, c.len, 0, objs, false⟩
      (q.mapKln fun k => { k with
          pend := k.pend.filter fun x => !(mine x && objs.contains x.obj)
          freed := k.freed.filter fun x => x != g
          fades := k.fades ++ [f] }).noteGen g (q.tick.setWidth 32) c.len c.id

/-- The groups due at this boundary, in the order of their commits' PREPARE, those of one commit in the order in which they fell due
(R248). -/
def Quad.serveGroups (q : Quad) : Quad :=
  let q := q.markDue
  let orders := q.duePend.foldr (fun c l => insertOnce c.order l) []
  let keys := (orders.map fun o =>
    let times := (q.duePend.filter fun c => c.order == o).foldr (fun c l => insertOnce (c.due.getD 0).toNat l) []
    times.map fun t => (o, some (BitVec.ofNat 64 t))).flatten
  (keys.foldl (fun q k => q.serveGroup k) q).mapKln fun k => { k with served := true }

/-- The end of a generator's crossfade (R242, R244): its objects flip, its generator is free. Deferred changes are served once the
last crossfade that ends at this boundary has ended. -/
def Quad.endFade (q : Quad) (f : Fade) : Quad :=
  let q := f.objs.foldl (fun q o => q.endObj o) q
  let q := q.mapKln fun k => { k with fades := k.fades.filter fun x => x.gen != f.gen, freed := f.gen :: k.freed }
  let q := if q.kln.fades.any fun x => decide (x.i ≥ x.len) then q else q.serveGroups
  q.kilnWords

/-- What HALT makes of Kiln (R250): prepared commits end, pending changes are dropped with their records, fades freeze. -/
def Quad.kilnHalt (q : Quad) : Quad :=
  let q := q.kln.prepared.foldl (fun q p => q.abandon p St.abortedFault 0) q
  let q := q.kln.pend.foldl (fun q c => q.klnRecord St.abortedFault 1 0 c.id (q.tick.setWidth 32) c.obj.code 0) q
  q.mapKln fun k => { k with pend := [] }

end Sys2Proof.Machine
end

