-- ==== Sys2Proof/Machine/AssignOps.lean ====
section
/-! DEFINITION. What the scheduler does of itself (spec/07 R173 to R188): assignments and changes of places, event posts, held
make-readies, the host mailbox, flow registers. -/

namespace Sys2Proof.Machine

/-- The positions with a prefetch slot. -/
def prefPositions : List Nat := [0, 1, 2, 3]

/-- The change of places that R179 asks for: a position whose slot holds an instance of lower level than one selectable for it. -/
def Quad.swapPref (q : Quad) : Option (Nat × Inst × Inst) :=
  prefPositions.findSome? fun pos =>
    match q.prefAt pos, q.select pos with
    | some old, some new => if new.level > old.level then some (pos, old, new) else none
    | _, _ => none

/-- An assignment to a position: to its prefetch slot, or to the core that waits in `req` (R64, R178). -/
def Quad.assignTo (q : Quad) (pos : Nat) (i : Inst) : Quad :=
  let q := q.dequeue i
  let q := { q with sch := { q.sch with asks := q.sch.asks.filter fun p => p != pos } }
  if pos < 4 then
    let q := { q with sch := { q.sch with pref := q.sch.pref.setIfInBounds pos (some i) } }
    match q.coreAt pos with
    | some c => q.startFromSlot c
    | none => q
  else
    match q.coreAt pos with
    | some c => q.give c i
    | none => q.enqueue i

/-- Whether a position that asks can take work. -/
def Quad.takes (q : Quad) (pos : Nat) : Bool :=
  match q.coreAt pos with
  | some c => !(q.core c).stopped && (decide (pos < 4) || ((q.core c).wait == .req && (q.core c).assigned.isNone))
  | none => false

/-- The first position that waits under R178 and has something selectable. -/
def Quad.nextAsk (q : Quad) : Option Nat :=
  q.sch.asks.find? fun p => q.takes p && (q.select p).isSome

/-- TASK_ASSIGN (R178, R179): one FCLK cycle, a change of places before any position that waits. -/
def Quad.taskAssign (q : Quad) (pos : Nat) : Quad :=
  let q := q.purgeInvalid
  match q.swapPref with
  | some (p, old, new) =>
    if p = pos then
      let q := q.dequeue new
      let q := { q with sch := { q.sch with pref := q.sch.pref.setIfInBounds p (some new) } }
      let q := { q.enqueue old with cclk := q.cclk + 2 }
      match q.coreAt p with
      | some c => q.startFromSlot c
      | none => q
    else q
  | none =>
    if q.nextAsk = some pos then
      match q.select pos with
      | some i => { q.assignTo pos i with cclk := q.cclk + 2 }
      | none => q
    else q

/-- EVT_POST (R164, R180): the oldest preferred event instance for a position with no EVT pending or running. DESIGN CHOICE (log 143): a
parked position is posted none, and its instances stay queued. -/
def Quad.evtPost (q : Quad) (pos : Nat) : Quad :=
  let q := q.purgeInvalid
  match q.coreAt pos with
  | none => q
  | some c =>
    let k := q.core c
    let busy := k.pendEvt.isSome || k.evtRun.isSome || (k.act && k.cls == 1) || k.stopped || k.parked
    let can := fun i : Inst =>
      i.evt && q.modeAllows i && bitN (q.effMask i.task) pos && q.tValid i.task &&
        !(q.tSer i.task && q.running? i.task)
    if busy then q
    else
      match bestInst (q.sch.queue.filter can) with
      | some i => (q.dequeue i).setCore c { k with pendEvt := some i }
      | none => q

/-- TICK_LIST_EXPIRY and TIME_LIST_EXPIRY (R173, R176, R177): an entry that is already held waits for
HELD_MAKE_READY_ACCEPT. -/
def Quad.listExpiry (q : Quad) (tk : Bool) : Quad :=
  if q.mode == .scour then q
  else
    match (if tk then q.sch.tickList else q.sch.timeList).head? with
    | some e => if e.expired then q else q.expireHead tk (if tk then q.tick.toNat else q.tim.ns.toNat)
    | none => q

/-! ### The mailbox (R187, R188) -/

/-- A word of the mailbox refused, counted in REF. -/
def Quad.mboxRef (q : Quad) : Quad := q.count Reg.SCH_MBOX_STAT_REF 1

/-- MAILBOX_WRITE (R187): a word with reserved bits is discarded and counted; a full mailbox refuses the host, and counts the word
of anyone else. `true` where the write is refused. -/
def Quad.mailboxWrite (q : Quad) (fromHost : Bool) (v : W32) : Quad × Bool :=
  if v.toNat ≥ 4096 then (q.mboxRef, false)
  else if q.sch.mbox.length ≥ 64 then (if fromHost then (q, true) else (q.mboxRef, false))
  else (q.mapSch fun s => { s with mbox := s.mbox ++ [v.toNat] }, false)

/-- The oldest word of the mailbox offered as a make-ready. -/
def Quad.mailboxOffer (q : Quad) : Quad :=
  match q.sch.mbox with
  | [] => q
  | t :: rest =>
    match q.makeReady t with
    | (q, .accepted) => q.mapSch fun s => { s with mbox := rest, mboxHeld := false }
    | (q, .refused) => (q.mapSch fun s => { s with mbox := rest, mboxHeld := false }).mboxRef
    | (q, .held) => q.mapSch fun s => { s with mboxHeld := true }

/-- MAILBOX_DRAIN (R188): nothing while its word is held. -/
def Quad.mailboxDrain (q : Quad) : Quad := if q.sch.mboxHeld || q.mode == .scour then q else q.mailboxOffer

/-! ### Held make-readies (R188) -/

/-- Whether a held make-ready of a task would now be answered. -/
def Quad.answerable (q : Quad) (t : Nat) : Bool := q.refused165 t || q.room168 t

/-- The core of the lowest position that stalls in `spawn` and would be answered, with its task. -/
def Quad.stalledSpawn (q : Quad) : Option (Fin 17 × Nat) :=
  (List.range 32).findSome? fun pos =>
    match q.coreAt pos with
    | some c =>
      let k := q.core c
      match (if k.act then k.evWait else k.wait) with
      | .spawn t => if q.answerable t then some (c, t) else none
      | _ => none
    | none => none

/-- A `spawn` answered: its core goes on (R157). -/
def Quad.spawnAnswered (q : Quad) (c : Fin 17) : Quad :=
  let k := q.core c
  q.setCore c (if k.act then { k with evWait := .none } else { k with wait := .none }).advance

/-- HELD_MAKE_READY_ACCEPT (R188) up to the stalled `spawn`: one make-ready, in the order of R188. `none` where none of these is
held and answerable. -/
def Quad.heldAccept (q : Quad) : Option Quad :=
  let head (l : List DelayEntry) : Bool := match l.head? with | some e => e.expired && q.answerable e.task | none => false
  if head q.sch.tickList then some (q.expireHead true q.tick.toNat)
  else if head q.sch.timeList then some (q.expireHead false q.tim.ns.toNat)
  else
    match (List.range 64).find? fun f => (q.flow f).hold && q.answerable (q.fld (Reg.SCH_FLOW_CFG_IDX f)) with
    | some f => some (q.releaseFlow f 257)
    | none =>
      match q.stalledSpawn with
      | some (c, t) => some ((q.makeReady t).1.spawnAnswered c)
      | none => none

/-! ### Flow registers (R186) -/

/-- FLOW_CFG_WRITE (R186): refused while instances are outstanding or for the reserved TGT; enabling starts the sequence at
zero: both counts go on from the next multiple of 2¹⁶. DESIGN CHOICE (log 122): so the count of released ones is shown as zero too. -/
def Quad.flowCfgWrite (q : Quad) (f : Nat) (v : W32) : Quad :=
  if (q.flow f).out ≠ 0 ∨ Field.get ⟨0, 1, 0⟩ v = 3 then q.raise Reg.SCH_CTL_WERR
  else
    let was := q.flag (Reg.SCH_FLOW_CFG_EN f)
    let q := q.wr (Reg.SCH_FLOW_CFG f) (v &&& 0xFFF7)
    if !was && v.getLsbD 2 then let n := ((q.flow f).seq + 65535) / 65536 * 65536; q.setFlow f { seq := n, rel := n } else q

/-- Whether an instance is queued, in a prefetch slot or running (R196). -/
def Quad.anyInstance (q : Quad) : Bool :=
  !q.sch.queue.isEmpty || q.sch.pref.toList.any Option.isSome ||
    physAll.any fun c =>
      let k := q.core c
      k.run.isSome || k.evtRun.isSome || k.assigned.isSome || k.pendEvt.isSome

end Sys2Proof.Machine
end

