-- ==== Sys2Proof/Machine/FabricOps.lean ====
section
/-! DEFINITION. The shared operations of exchange memory, the summing fabric and the meters (spec/08). -/

namespace Sys2Proof.Machine

/-! ### Slots (R197 to R206) -/

/-- Address of sample `j` of raw buffer `b` of a slot (R198). -/
def rawAddr (s : Nat) (b : Bool) (j : Nat) : Nat := 0x20040000 + 64 * s + 32 * b2n b + 8 * j

/-- KIND of a slot (R201). -/
def Quad.kind (q : Quad) (s : Nat) : Nat := q.fld (Reg.XCH_OWN_KIND s)
/-- IDX of a slot. -/
def Quad.ownIdx (q : Quad) (s : Nat) : Nat := q.fld (Reg.XCH_OWN_IDX s)

/-- The slots with an owner. -/
def Quad.ownedSlots (q : Quad) : List Nat :=
  q.regs.filterMap fun e =>
    if Reg.XCH_OWN 0 ≤ e.1 ∧ e.1 < Reg.XCH_OWN 4096 ∧ e.2.toNat % 8 ≠ 0 then some ((e.1 - Reg.XCH_OWN 0) / 4) else none

/-- Whether a slot's read view is substituted (R204). -/
def Quad.substituted (q : Quad) (s : Nat) : Bool :=
  match q.fab.full with
  | none => false
  | some l => !l.contains s

/-- The error of the word at an address. -/
def Quad.eccAt (q : Quad) (a : Nat) : Ecc := q.ecc.get a .clean

/-- A sample of a slot's read view (R198, R204): zero for an unowned or substituted slot, one beyond the limit of Fi, or an
uncorrectable word. -/
def Quad.readView (q : Quad) (s j : Nat) : W40 :=
  if s ≥ slotLimit q.fi ∨ q.kind s = 0 ∨ q.substituted s then 0
  else if q.eccAt (rawAddr s (!q.fab.wbuf) j) == .uncorr then 0
  else q.mem.word40 (rawAddr s (!q.fab.wbuf) j)

/-- A sample of the write view: zero until it is stored in the tick (R200), and for an uncorrectable word (R229). -/
def Quad.writeView (q : Quad) (s j : Nat) : W40 :=
  if q.eccAt (rawAddr s q.fab.wbuf j) == .uncorr then 0
  else if s < slotLimit q.fi ∧ (q.fab.masks.get s 0).getLsbD j then q.mem.word40 (rawAddr s q.fab.wbuf j) else 0

/-- A quadrant with its fabric changed. -/
def Quad.mapFab (q : Quad) (f : Fabric → Fabric) : Quad := { q with fab := f q.fab }

/-- A sample stored to a slot's write buffer, and its bit of the written mask (R200). Slots beyond the limit of Fi discard it
and count it (R197). -/
def Quad.slotStore (q : Quad) (s j : Nat) (v : W40) : Quad :=
  if s ≥ slotLimit q.fi then (q.count Reg.XCH_BADWR_COUNT 1).setFld Reg.XCH_BADWR_SLOT s
  else
    { q with mem := q.mem.setWord40 (rawAddr s q.fab.wbuf j) v, ecc := q.ecc.del (rawAddr s q.fab.wbuf j) }.mapFab fun f =>
      { f with masks := f.masks.put s (f.masks.get s 0 ||| BitVec.ofNat 4 (2 ^ (j % 4))) }

/-- The four samples of a slot stored (R31). -/
def Quad.slotStore4 (q : Quad) (s : Nat) (v : List W40) : Quad :=
  [0, 1, 2, 3].foldl (fun q j => q.slotStore s j (v.getD j 0)) q

/-- A store by an I/O block to a slot of its owner kind or to an open one; to any other slot it is a foreign one (R201, R202), and
beyond the limit of Fi a bad one (R197). -/
def Quad.ioStore (q : Quad) (kind s j : Nat) (v : W40) : Quad :=
  if s ≥ slotLimit q.fi ∨ q.kind s = kind ∨ q.kind s = 7 then q.slotStore s j v
  else (q.count Reg.XCH_FOREIGN_COUNT 1).setFld Reg.XCH_FOREIGN_SLOT s

/-- The four samples of a slot stored by an I/O block. -/
def Quad.ioStore4 (q : Quad) (kind s : Nat) (v : List W40) : Quad :=
  [0, 1, 2, 3].foldl (fun q j => q.ioStore kind s j (v.getD j 0)) q

/-- The errors met by an output that reads samples of a slot's read view (R229). -/
def Quad.noteSlot (q : Quad) (s : Nat) (js : List Nat) : Quad :=
  q.noteEcc ((js.map fun j => rawAddr s (!q.fab.wbuf) j).filterMap fun a => (q.ecc.find a).map fun e => (a, e))

/-- The samples of a slot's read view. -/
def Quad.readView4 (q : Quad) (s : Nat) : List W40 := [0, 1, 2, 3].map (q.readView s)

/-! ### Sums (R211 to R213) -/

/-- Weight of the incoming bank for sample `j`, in 65,536ths (R243); a generator that drives nothing gives none. -/
def Quad.weight (q : Quad) (g j : Nat) : Nat :=
  match q.kln.fades.find? fun f => f.gen.val == g with
  | some f => 65536 * (4 * f.i + j + 1) / (4 * f.len)
  | none => 0

/-- Rounding to Q8.31 of a value in 65,536ths of its last place: nearest, tie upward (R212). -/
def r40 (e : Int) : Int := (e + 32768) / 65536

/-- What an entry adds to sample `j` (R212), in units of 2⁻⁶². -/
def Quad.contrib (q : Quad) (i j : Nat) : Int :=
  let act := q.rAct i
  let x (b : Bool) : Int := (q.readView (q.rSrc i b) j).toInt
  let g (b : Bool) : Int := q.rGain i b
  if !q.rFade i then g act * x act
  else
    let w : Int := q.weight (q.rGen i) j
    if q.rSrc i act = q.rSrc i (!act) then r40 (65536 * g act + w * (g (!act) - g act)) * x act
    else r40 (g act * (65536 - w)) * x act + r40 (g (!act) * w) * x (!act)

/-- A run's four sums (R212). -/
def Quad.runSums (q : Quad) (run : List Nat) : List W96 :=
  [0, 1, 2, 3].map fun j => BitVec.ofInt 96 ((run.map fun i => q.contrib i j).sum)

/-- What an entry meets before it may contribute (R208, R220). -/
inductive EntryCheck where
  | ok | off | drop | dstOwn | range
  deriving DecidableEq, Repr

/-- The check of one entry, as the pass reads it. DESIGN CHOICE (log 125): an entry with both faults of R208 is counted as one whose
destination is not the fabric's, and in no other count. -/
def Quad.entryCheck (q : Quad) (i : Nat) : EntryCheck :=
  if q.eccAt (routeAddr i) == .uncorr || q.eccAt (routeAddr i + 8) == .uncorr then .drop
  else if !q.rEn i then .off
  else if q.kind (q.rDst i) ≠ 3 then .dstOwn
  else if q.fi = 2 ∧ (q.rDst i ≥ 2048 ∨ q.rSrc i (q.rAct i) ≥ 2048 ∨ (q.rFade i ∧ q.rSrc i (!q.rAct i) ≥ 2048)) then .range
  else .ok

/-- A FABRIC fault record (R219) with the last destination, cause and tick shown. -/
def Quad.fabFault (q : Quad) (dst cause : Nat) : Quad :=
  (((q.setFld Reg.RTE_FLT_DST_SLOT dst).setFld Reg.RTE_FLT_DST_CAUSE cause).setFld Reg.RTE_FLT_TICK_TICK q.tick.toNat).fault
    2 cause 31 31 (w32 dst)

/-- The errors of an entry's two words as it is read (R220): a corrected one is counted and due for write-back; an uncorrectable one is
counted and recorded. -/
def Quad.readEntry (q : Quad) (i : Nat) : Quad :=
  let bad := [routeAddr i, routeAddr i + 8].filter fun a => q.eccAt a == .corr
  let q := if bad.isEmpty then q else { q.count Reg.RTE_ECC_CORR bad.length with eccBack := q.eccBack ++ bad }
  if q.entryCheck i == .drop then (q.count Reg.RTE_ECC_UNCORR 1).fabFault (q.rDst i) 3 else q

/-- The entries whose reading does something, in index order: the enabled ones, and those with an error in a word (R208, R220). -/
def Quad.passEntries (q : Quad) : List Nat :=
  let marked := q.ecc.filterMap fun e =>
    if 0x21000000 ≤ e.1 ∧ e.1 < 0x21080000 then some ((e.1 - 0x21000000) / 16) else none
  (marked.foldl (fun l i => insertOnce i l) q.routes).filter fun i => q.fi != 2 || decide (i < 16384)

/-- The runs of a pass (R209), in order: destination and entries; and the quadrant with skipped entries counted (R208, R209,
R220). `cur` is the run being formed, newest entry first; `done` the finished ones, newest first. -/
def Quad.formRuns (q : Quad) : List Nat → Option (Nat × List Nat) → List (Nat × List Nat) → Quad × List (Nat × List Nat)
  | [], cur, done => (q, (match cur with | some r => (r.1, r.2.reverse) :: done | none => done).reverse)
  | i :: t, cur, done =>
    let q := q.readEntry i
    match q.entryCheck i with
    | .drop | .off => q.formRuns t cur done
    | .dstOwn => (q.count Reg.RTE_ERR_DSTOWN 1).formRuns t cur done
    | .range => (q.count Reg.RTE_ERR_SRCRNG 1).formRuns t cur done
    | .ok =>
      let dst := q.rDst i
      match cur with
      | none => q.formRuns t (some (dst, [i])) done
      | some (d, l) =>
        if d = dst then q.formRuns t (some (d, i :: l)) done
        else if done.any fun r => r.1 == dst then (q.count Reg.RTE_ERR_SPLIT 1).formRuns t cur done
        else q.formRuns t (some (dst, [i])) ((d, l.reverse) :: done)

/-- The words that the entries of a run read as sources. -/
def Quad.sourceWords (q : Quad) (run : List Nat) : List Nat :=
  (run.map fun i =>
    (if q.rFade i && q.rSrc i false != q.rSrc i true then [q.rSrc i false, q.rSrc i true] else [q.rSrc i (q.rAct i)]).map
      fun s => [0, 1, 2, 3].map fun j => rawAddr s (!q.fab.wbuf) j).flatten.flatten

/-- The errors met by a run's source reads counted, and the corrected words due for write-back (R220). -/
def Quad.countSources (q : Quad) (run : List Nat) : Quad :=
  let ws := (q.sourceWords run).filter fun a => q.eccAt a != .clean
  let c := ws.filter fun a => q.eccAt a == .corr
  let q := { q with eccBack := q.eccBack ++ c }
  let q := if c.isEmpty then q else q.count Reg.RTE_ECC_CORR c.length
  if ws.length = c.length then q else q.count Reg.RTE_ECC_UNCORR (ws.length - c.length)

/-- A run's sums extracted as `ext.s` does, saturated samples counted and shown, and written to the destination (R213). -/
def Quad.runWrite (q : Quad) (dst : Nat) (sums : List W96) : Quad :=
  let f := sums.map fun s => fit 40 (roundShift s.toInt 31 0) true
  let sat := (f.filter fun x => x.sa).length
  let q := if sat = 0 then q else
    ((q.count Reg.RTE_SAT_COUNT sat).setFld Reg.RTE_SAT_SLOT dst).mapFab fun b => { b with satW := dst :: b.satW }
  q.slotStore4 dst (f.map fun x => x.val)

/-- FCLK cycles in a tick (R25). -/
def fclkPerTick (fi : Nat) : Nat := cclkPerTick fi / 2

/-- The main pass over the runs (R213, R216 to R219): `p` products per sample so far. -/
def Quad.mainPass (q : Quad) (upsets : List RunUpset) : List (Nat × List Nat) → Nat → Quad × Nat
  | [], p => (q, p)
  | (dst, run) :: t, p =>
    let q := q.countSources run
    let p := p + (run.map q.rCost).sum
    let sums := q.runSums run
    match upsets.find? fun u => u.dst.toNat == dst && (u.wrongA || u.wrongB) with
    | some u =>
      let q := q.count Reg.RTE_CMP_MISM 1
      if q.fab.retry.length ≥ 64 then
        (((q.count Reg.RTE_FAIL_UNFIN 1).fabFault dst 1).mapFab fun f => { f with unwritten := dst :: f.unwritten }).mainPass upsets t p
      else (q.mapFab fun f => { f with retry := f.retry ++ [⟨dst, sums, !u.wrongA, !u.wrongB, run⟩] }).mainPass upsets t p
    | none =>
      if 1024 + ceilDiv p 2 + 4 > fclkPerTick q.fi then q.mainPass upsets t p
      else (q.runWrite dst sums).mainPass upsets t p

/-- Twice the FCLK cycles of a tick: the fabric's times fall on half cycles. -/
def Quad.halfCycles (q : Quad) : Nat := 2 * fclkPerTick q.fi

/-- The pass of a tick (R211): runs formed, summed, compared and written; at its end, `mainEnd` half cycles after the boundary (R213),
zeros for fabric slots without a run (R214), if the tick lasts so long. -/
def Quad.pass (q : Quad) (upsets : List RunUpset) : Quad :=
  let q := q.noteLoad
  let (q, runs) := q.formRuns q.passEntries none []
  let (q, p) := q.mainPass upsets runs 0
  let bare := q.ownedSlots.filter fun s => q.kind s == 3 && !(runs.any fun r => r.1 == s) && decide (s < slotLimit q.fi)
  let q := if 2048 + p ≤ q.halfCycles then bare.foldl (fun q s => q.slotStore4 s [0, 0, 0, 0]) q else q
  q.mapFab fun f => { f with passed := true, mainEnd := 2048 + p }

/-- One vote (R218): the run's entries and sources read again, an entry with an uncorrectable word left out. -/
def Quad.vote (q : Quad) (r : Retry) : Quad :=
  let q := r.run.foldl Quad.readEntry q
  let run := r.run.filter fun i => q.entryCheck i != .drop
  let q := q.countSources run
  let c := q.runSums run
  if r.okB && c == r.sums then (q.runWrite r.dst c).count Reg.RTE_VOTE_ALOSS 1
  else if r.okA && c == r.sums then (q.runWrite r.dst c).count Reg.RTE_VOTE_BLOSS 1
  else ((q.count Reg.RTE_FAIL_NOVOTE 1).fabFault r.dst 0).mapFab fun f => { f with unwritten := r.dst :: f.unwritten }

/-- The votes of the queued runs, as far as the tick has time for them (R218, R219); `t` is the half cycle reached. -/
def Quad.votes (q : Quad) (t : Nat) : List Retry → Quad
  | [] => q.mapFab fun f => { f with retry := [] }
  | r :: l =>
    let t := t + (r.run.map q.rCost).sum
    if t > q.halfCycles then q.mapFab fun f => { f with retry := [] }
    else (q.vote r).votes t l

/-! ### Meters (R225 to R227) -/

/-- Magnitude of a sample. -/
def mag40 (v : W40) : Nat := v.toInt.natAbs

/-- Tick values of a slot's tap (R225): peak, sum of squares in Q20.44, samples at or above 1.0. -/
def Quad.meterTick (q : Quad) (s : Nat) : Nat × Nat × Nat :=
  let v := q.readView4 s
  (v.foldl (fun m x => max m (mag40 x)) 0, (v.map fun x => mag40 x * mag40 x).sum / 2 ^ 18,
   (v.filter fun x => decide (mag40 x ≥ 2 ^ 31)).length)

/-- The tick values of all taps fixed at a boundary (R226). -/
def Quad.fixTaps (q : Quad) : Quad :=
  let taps := q.ownedSlots.foldl (fun (m : SMap (Nat × Nat × Nat)) s => if q.substituted s then m else m.put s (q.meterTick s)) []
  q.mapFab fun f => { f with taps := taps }

/-- The tick values that a tap shows. -/
def Quad.tapTick (q : Quad) (s : Nat) : Nat × Nat × Nat := q.fab.taps.get s (0, 0, 0)

/-- The tick that ends added to the period (R225): for every slot with an owner, a whole buffer or a part in the period. -/
def Quad.meterAdd (q : Quad) : Quad :=
  let slots := (q.ownedSlots ++ (q.fab.full.getD []) ++ q.fab.acc.map fun e => e.1).eraseDups
  let acc := slots.foldl (fun acc s =>
    let m := q.tapTick s
    let o := acc.get s { zs := decide (q.fab.accTicks > 0) }
    acc.put s { pk := max o.pk m.1, zs := o.zs || q.substituted s, sat := o.sat || q.fab.satR.contains s,
                fs := satTo 0xFFFF (o.fs + m.2.2), ss := o.ss + m.2.1 }) q.fab.acc
  q.mapFab fun f => { f with acc := acc, accTicks := f.accTicks + 1 }

/-- The last complete period of a slot: an unlisted one was substituted all along. -/
def Quad.meterLast (q : Quad) (s : Nat) : MeterVal := q.fab.last.get s { zs := q.fab.ended }

/-- The 64-bit words of a tap (R225). -/
def Quad.tapWord (q : Quad) (s w : Nat) : Nat :=
  let m := q.tapTick s
  let l := q.meterLast s
  match w with
  | 0 => m.1 + 2 ^ 40 * b2n (q.substituted s) + 2 ^ 41 * b2n (q.fab.satR.contains s) + 2 ^ 42 * b2n (decide (m.2.2 > 0))
  | 1 => m.2.1 % 2 ^ 64
  | 2 => l.pk + 2 ^ 40 * b2n l.zs + 2 ^ 41 * b2n l.sat + 2 ^ 48 * l.fs
  | _ => l.ss / 2 ^ 12 % 2 ^ 64

end Sys2Proof.Machine
end

