-- ==== Sys2Proof/Machine/ExchOps.lean ====
section
/-! DEFINITION. How a master reaches the exchange memory and the tables: slot stores and loads (R198 to R203), direct writes
(R221 to R224), owners (R206), meter periods (R227), and what the hardware keeps of the task tables (R163, R231, R235). -/

namespace Sys2Proof.Machine

/-- A master of the bus matrix that carries commands or instructions (R409): a core, the host bridge, the DMA engine with the QoS and
the order of its item. -/
inductive Master where
  | core (c : Fin 17)
  | host
  | dma (qos order : Nat)
  deriving DecidableEq, Repr

/-- A master as the sender of a beat. -/
def Master.beat : Master → BeatBy
  | .core c => .core c
  | .host => .host
  | .dma _ n => .dma n

/-- The instance whose code a core runs: in set 0 the task's, in an EVT handler the event task's; any other handler runs for no
instance (R83, R87). DESIGN CHOICE (log 124): so what such a handler stores to a slot that a task owns is foreign. -/
def Core.instance? (k : Core) : Option Run := if !k.act then k.run else if k.cls = 1 then k.evtRun else none

/-- The instance that a master's store is made by. -/
def Quad.storeRun (q : Quad) : Master → Option Run
  | .core c => (q.core c).instance?
  | _ => none

/-! ### Slot stores (R197 to R203) -/

/-- A store counted in XCH_BADWR. -/
def Quad.badWrite (q : Quad) (s : Nat) : Quad := (q.count Reg.XCH_BADWR_COUNT 1).setFld Reg.XCH_BADWR_SLOT s

/-- Whether a store is made by a slot's owner (R201). -/
def Quad.ownerOk (q : Quad) (s : Nat) (r : Option Run) : Bool :=
  match q.kind s, r with
  | 7, _ => true
  | 2, some r => r.inst.task == q.ownIdx s && r.entry.isNone
  | 6, some r => r.inst.task == q.ownIdx s && r.entry.isSome
  | _, _ => false

/-- Whether a store comes from an instance of a task bound to the tick that an earlier tick made ready (R203), whoever did it. -/
def Quad.lateStore (q : Quad) (i : Inst) : Bool := (i.bound || (q.tickB i.task && !i.evt)) && i.tick != q.tick

/-- A whole word stored to the write view (R197, R202, R203); the status it gives its item. -/
def Quad.slotWord (q : Quad) (m : Master) (s j : Nat) (v : W40) : Quad × Nat :=
  let r := q.storeRun m
  let late := match r with | some r => q.lateStore r.inst | none => false
  if s ≥ slotLimit q.fi then (q.badWrite s, St.refused)
  else if !q.ownerOk s r then ((q.count Reg.XCH_FOREIGN_COUNT 1).setFld Reg.XCH_FOREIGN_SLOT s, St.refused)
  else if late then ((q.count Reg.XCH_LATEWR_COUNT 1).setFld Reg.XCH_LATEWR_SLOT s, St.refused)
  else (q.slotStore s j v, St.done)

/-- The slot that an offset of the exchange views belongs to (R198). -/
def viewSlot (o : Nat) : Nat :=
  if o < 0x20000 then o / 32
  else if o < 0x40000 then (o - 0x20000) / 32
  else if o < 0x80000 then (o - 0x40000) / 64
  else (o - 0x80000) / 32

/-- A write to the views, cut into the 8-byte words it touches (R199): whole words of the write view are stored; what else the
store covers is discarded and counted once, at the slot it meets first. DESIGN CHOICE (log 123): a store to the other views, raw
buffers and taps included, is such a piece, so it is counted and answered REFUSED. -/
def Quad.viewWrite (q : Quad) (m : Master) (o : Nat) (bytes : List Byte) : Quad × Nat :=
  let words := (List.range ((o % 8 + bytes.length + 7) / 8)).map fun i => o / 8 * 8 + 8 * i
  let whole (w : Nat) : Bool := decide (w < 0x20000 ∧ o ≤ w ∧ w + 8 ≤ o + bytes.length)
  let r := (words.filter whole).foldl (fun r w =>
    let t := r.1.slotWord m (w / 32) (w / 8 % 4) (BitVec.ofNat 40 (ofBytesLE ((bytes.drop (w - o)).take 5)))
    (t.1, worse r.2 t.2)) (q, St.done)
  match words.find? fun w => !whole w with
  | some w => (r.1.badWrite (viewSlot (max w o)), worse r.2 St.refused)
  | none => r

/-! ### Loads of the views (R198, R200, R204, R225) -/

/-- A sample in the .q layout (R106). -/
def q64 (v : W40) : Nat := (v.signExtend 64).toNat

/-- The 8-byte word at an offset of the views. -/
def Quad.viewWord (q : Quad) (o : Nat) : Nat :=
  if o < 0x20000 then q64 (q.writeView (o / 32) (o / 8 % 4))
  else if o < 0x40000 then q64 (q.readView ((o - 0x20000) / 32) (o / 8 % 4))
  else if o < 0x80000 then
    if viewSlot o ≥ slotLimit q.fi ∨ q.eccAt (0x20000000 + o) == .uncorr then 0 else q64 (q.mem.word40 (0x20000000 + o))
  else q.tapWord ((o - 0x80000) / 32) (o / 8 % 4)

/-- The stored word that a word of the views is read from. -/
def Quad.viewSource (q : Quad) (o : Nat) : Option Nat :=
  if o < 0x20000 then some (rawAddr (o / 32) q.fab.wbuf (o / 8 % 4))
  else if o < 0x40000 then some (rawAddr ((o - 0x20000) / 32) (!q.fab.wbuf) (o / 8 % 4))
  else if o < 0x80000 then some (0x20000000 + o)
  else none

/-- A read of the views: bytes, the worst error met, and the errors counted (R220). -/
def Quad.viewRead (q : Quad) (o n : Nat) : List Byte × Ecc × Quad :=
  let words := (List.range ((o % 8 + n + 7) / 8)).map fun i => o / 8 * 8 + 8 * i
  let bytes := (words.map fun w => bytesLE (q.viewWord w) 8).flatten
  let marks := (words.filterMap q.viewSource).filterMap fun a => (q.ecc.find a).map fun e => (a, e)
  ((bytes.drop (o % 8)).take n, worstEcc marks, q.noteEcc marks)

/-! ### Direct writes (R221 to R224) -/

/-- Bytes put into an entry. -/
def Quad.routeBytes (q : Quad) (keep : Bool) (bytes : List (Nat × Byte)) : Quad :=
  bytes.foldl (fun q b =>
    let k := b.1 % 16
    let fading := q.rFade ((b.1 - 0x21000000) / 16)
    let m := routeMask k (keep || fading)
    let old := q.mem.read b.1
    { q with mem := q.mem.write b.1 ((old &&& ~~~m) ||| (b.2 &&& m)) }) q

/-- Whether the direct-write buffer is in use (R221). -/
def Quad.buffered (q : Quad) : Bool := q.mode == .run || q.mode == .hardpan

/-- The marks of the entry's words after a write to the table: words written whole are clean. -/
def Quad.routeClean (q : Quad) (bytes : List (Nat × Byte)) : Quad :=
  (gather bytes).foldl (fun q r => { q with ecc := eccClear q.ecc r.1 r.2.length }) q

/-- The places free for beats; without the buffer, all are accepted. -/
def Quad.beatRoom (q : Quad) : Bool := !q.buffered || decide (q.fab.dwq.length < 1024)

/-- A beat accepted: what Kiln refuses or holds (R232 to R234), and the rest applied at once, or given a place in the buffer (R221,
R222). -/
def Quad.beatTake (q : Quad) (b : Beat) : Quad × Nat :=
  match q.kilnWrite b.bytes with
  | (q, none) => (q, St.refused)
  | (q, some rest) =>
    if rest.isEmpty then (q, St.done)
    else if q.buffered then (q.mapFab fun f => { f with dwq := f.dwq ++ [{ b with bytes := rest }] }, St.done)
    else ((q.noteLoad.routeBytes false rest).routeClean rest, St.done)

/-- A beat put to the table: accepted, or waiting for a place behind those that wait (R224). -/
def Quad.routePlace (q : Quad) (b : Beat) : Quad × Nat :=
  if b.bytes.isEmpty then (q, St.done)
  else if q.fab.dwWait.isEmpty && q.beatRoom then q.beatTake b
  else ((q.mapFab fun f => { f with dwWait := f.dwWait ++ [b] }).count Reg.RTE_DWQ_STALL 1, St.done)

/-- A write to the route table, cut at entry edges into beats (R222). -/
def Quad.routeWriteL (q : Quad) (by_ : BeatBy) (all : List (Nat × Byte)) : Quad × Nat :=
  (all.map fun b => b.1 / 16).eraseDups.foldl (fun r e =>
    let t := r.1.routePlace ⟨all.filter fun b => b.1 / 16 == e, by_⟩
    (t.1, worse r.2 t.2)) (q, St.done)

/-- A write of consecutive bytes to the route table. -/
def Quad.routeWrite (q : Quad) (by_ : BeatBy) (a : Nat) (bytes : List Byte) : Quad × Nat :=
  q.routeWriteL by_ ((List.range bytes.length).map fun i => (a + i, bytes.getD i 0))

/-- The buffered beats applied at a boundary (R222). -/
def Quad.applyDirect (q : Quad) : Quad :=
  (q.fab.dwq.foldl (fun q b => (q.routeBytes true b.bytes).routeClean b.bytes) q.noteLoad).mapFab fun f => { f with dwq := [] }

/-- The beats that waited, at most `n` of them and as far as there is room, in order (R224), and those that Kiln refuses (R448). -/
def Quad.resumeDirect (q : Quad) : Nat → Quad × List Beat
  | 0 => (q, [])
  | n + 1 =>
    match q.fab.dwWait with
    | [] => (q, [])
    | b :: rest =>
      if !q.beatRoom then (q, [])
      else
        let t := (q.mapFab fun f => { f with dwWait := rest }).beatTake b
        let r := t.1.resumeDirect n
        (r.1, if t.2 = St.done then r.2 else b :: r.2)

/-- Whether a sender has beats that wait. -/
def Quad.waits (q : Quad) (by_ : BeatBy) : Bool := q.fab.dwWait.any fun b => b.by_ == by_

/-- The bytes of some beats. -/
def beatBytes (l : List Beat) : Nat := (l.map fun b => b.bytes.length).sum

/-- The waiting beats of a sender masked (R429), and how many bytes they carry. -/
def Quad.maskBeats (q : Quad) (by_ : BeatBy) : Quad × Nat :=
  (q.mapFab fun f => { f with dwWait := f.dwWait.filter fun b => b.by_ != by_ }, beatBytes (q.fab.dwWait.filter fun b => b.by_ == by_))

/-! ### Owners and meter periods -/

/-- XCH_OWN_WRITE (R206). -/
def Quad.ownWrite (q : Quad) (s : Nat) (v : W32) : Quad :=
  let v := v &&& 0xFFF7
  match q.mode with
  | .standby | .service => q.wr (Reg.XCH_OWN s) v
  | .run | .hardpan => q.mapFab fun f => { f with ownPend := f.ownPend.put s v }
  | _ => q.raise Reg.XCH_CTL_WERR

/-- The pending owners taken (R206). -/
def Quad.applyOwners (q : Quad) : Quad :=
  (q.fab.ownPend.foldl (fun q e => q.wr (Reg.XCH_OWN e.1) e.2) q).mapFab fun f => { f with ownPend := [] }

/-- METER_PERIOD_WRITE (R227): a change discards the period in progress at the next boundary. -/
def Quad.mperWrite (q : Quad) (v : Nat) : Quad :=
  if v > 12 then q.raise Reg.XCH_CTL_WERR
  else if v = q.fld Reg.XCH_CTL_MPER then q
  else (q.setFld Reg.XCH_CTL_MPER v).mapFab fun f => { f with mperPend := some 1 }

/-- METER_PERIOD_END (R227): at a boundary whose tick number is a multiple of the period. DESIGN CHOICE (log 127): a first period cut
short, by the start of the grid or by a change of MPER, is shown as a complete one. -/
def Quad.meterEnd (q : Quad) : Quad :=
  if q.fab.mperPend.isSome ∨ q.fab.accTicks = 0 ∨ q.tick.toNat % 2 ^ q.fld Reg.XCH_CTL_MPER ≠ 0 then q
  else q.mapFab fun f => { f with last := f.acc, acc := [], accTicks := 0, ended := true }

/-! ### What the hardware keeps of the tables -/

/-- The bits of byte `k` of a task descriptor that a bus write sets (R163). -/
def taskMask (k : Nat) : Byte :=
  if k = 2 then 0xFD else if k = 3 then 0x0F else if 24 ≤ k ∧ k < 26 then 0 else if 28 ≤ k then 0 else 0xFF

/-- The bits of byte `k` of a task-object entry that a bus write sets (R231). -/
def objMask (k : Nat) : Byte :=
  if k = 0 then 1 else if k < 4 then 0 else if k = 7 ∨ k = 11 then 0x3F else if k = 12 then 0x7F else if k > 12 then 0 else 0xFF

/-- The bits of byte `k` of a scene descriptor that a bus write sets (R235). -/
def sceneMask (k : Nat) : Byte := if k < 7 then 0xFF else if k = 7 then 0x0F else 0

/-- The writable bits of the byte at an address of the three tables. -/
def tableMask (a : Nat) : Byte :=
  if a < 0x22020000 then taskMask (a % 32) else if a < 0x23010000 then objMask (a % 16) else sceneMask (a % 16)

/-- The fields of a task's descriptor that show the scheduler's state (R163): words 0 and 7. -/
def Quad.taskShown (q : Quad) (t w : Nat) : Nat :=
  if w = 0 then 2 ^ 17 * b2n (q.tickB t) + 2 ^ 28 * q.pmode t
  else if w = 7 then
    let lists := q.sch.tickList ++ q.sch.timeList
    2 ^ 8 * min 255 (q.queued t) + 2 ^ 16 * b2n (q.runs t) +
      2 ^ 17 * b2n (q.sch.pref.toList.any fun s => match s with | some i => i.task == t | none => false) +
      2 ^ 18 * b2n (lists.any fun e => e.task == t)
  else 0

/-- The byte that a read of the tables returns. -/
def Quad.tableByte (q : Quad) (a : Nat) : Byte :=
  let m := q.mem.read a
  if 0x22000000 ≤ a ∧ a < 0x22020000 then
    m ||| BitVec.ofNat 8 (q.taskShown ((a - 0x22000000) / 32) (a % 32 / 4) >>> (8 * (a % 4)))
  else m

end Sys2Proof.Machine
end

