-- ==== Sys2Proof/Machine/SnxOps.lean ====
section
/-! DEFINITION. The shared operations of Stanex (spec/13): links, frames, cells, channels, membership, domain commits, wrap and
levels. Times on a link are in units of 2⁻⁸ ns. -/

namespace Sys2Proof.Machine

/-! ### State -/

/-- States of SNX_STAT.STATE (R347). -/
def snxOff : Nat := 0
/-- LISTEN. -/
def snxListen : Nat := 1
/-- JOINING. -/
def snxJoining : Nat := 2
/-- MEMBER. -/
def snxMember : Nat := 3
/-- MANAGER. -/
def snxManager : Nat := 4

/-- A quadrant with its Stanex block changed. -/
def Quad.mapSnx (q : Quad) (f : Snx → Snx) : Quad := { q with snx := f q.snx }
/-- The domain state. -/
def Quad.snxState (q : Quad) : Nat := q.fld Reg.SNX_STAT_STATE
/-- The domain state set. -/
def Quad.setSnx (q : Quad) (n : Nat) : Quad := q.setFld Reg.SNX_STAT_STATE n
/-- MID. -/
def Quad.mid (q : Quad) : Nat := q.fld Reg.SNX_CFG_MID
/-- Whether the quadrant acts on messages and carries channels (R336, R347). -/
def Quad.snxIn (q : Quad) : Bool := q.snxState == snxMember || q.snxState == snxManager
/-- The bit of a member in a 64-bit mask. -/
def midBit (m : Nat) : W64 := BitVec.ofNat 64 (2 ^ (m % 64))

/-- The state of a port (R332): 0 OFF, 1 DOWN, 2 LOCK, 3 UP. -/
def Quad.link (q : Quad) (p : Fin 2) : Nat := q.fld (Reg.SNX_LINK_STATE p.val)
/-- The state of a port set, with LINKA or LINKB. -/
def Quad.setLink (q : Quad) (p : Fin 2) (n : Nat) : Quad :=
  (q.setFld (Reg.SNX_LINK_STATE p.val) n).setFld (if p = 0 then Reg.SNX_STAT_LINKA else Reg.SNX_STAT_LINKB) (b2n (n == 3))
/-- Whether the domain is wrapped. -/
def Quad.wrapped (q : Quad) : Bool := q.flag Reg.SNX_STAT_WRAP
/-- Whether a port counts as UP for forwarding (R354): while wrapped, not one that went DOWN. -/
def Quad.portUp (q : Quad) (p : Fin 2) : Bool :=
  q.link p == 3 && !(q.wrapped && (q.snx.ports[p]).wasDown)
/-- The opposite port. -/
def otherPort (p : Fin 2) : Fin 2 := if p = 0 then 1 else 0
/-- The delay of a port's link (R333). -/
def Quad.linkDelay (q : Quad) (p : Fin 2) : Nat := q.fld (Reg.SNX_LINK_DLY p.val)

/-- Time passed since a CCLK cycle, in units of 2⁻⁸ ns: 625/3 to a cycle (R24). -/
def Quad.since8 (q : Quad) (c : Nat) : Nat := (q.cclk - c) * 625 / 3
/-- The time counter in units of 2⁻⁸ ns. -/
def Quad.now8 (q : Quad) : Nat := 256 * q.tim.ns.toNat + q.tim.fr.toNat / 2 ^ 24

/-- SNX_CFG.EN written to 1 (R332, R347): the ports go to DOWN; a worker or a standby listens, a manager waits for
MANAGER_START. -/
def Quad.snxOn (q : Quad) : Quad :=
  if q.link 0 == 0 then
    let q := ((q.setFld Reg.SNX_CFG_EN 1).setLink 0 1).setLink 1 1
    let q := q.mapSnx fun s => { ({} : Snx) with enAt := q.tick, sent := s.sent, mapPend := s.mapPend }
    if q.fld Reg.SNX_CFG_ROLE = 0 ∨ q.fld Reg.SNX_CFG_ROLE = 2 then q.setSnx snxListen else q
  else q

/-- The Kiln record of a domain commit that ends at its manager before the manager's own PREPARE was taken (R239). -/
def Quad.collRecord (q : Quad) (c : Collect) (reason : Nat) : Quad :=
  if c.took || c.aborted then q else q.klnRecord St.commitAborted 0 reason c.id (c.t.setWidth 32) 0 0

/-- The commit that a manager collects reports for given up, when it ceases to manage: its command completes with NOT_READY. -/
def Quad.dropColl (q : Quad) : Quad :=
  match q.snx.coll with
  | none => q
  | some c => ((q.mapSnx fun s => { s with coll := none }).collRecord c 8).complete c.seq 0x05 St.notReady 8 (c.a.setWidth 32)

/-- SNX_CFG.EN written to 0: ports OFF, state OFF (R332, R347); map writes that were accepted still take effect at the boundary (R358). -/
def Quad.snxOffAll (q : Quad) : Quad :=
  let q := (((q.setFld Reg.SNX_CFG_EN 0).setLink 0 0).setLink 1 0).setSnx snxOff
  let q := (q.setFld Reg.SNX_STAT_WRAP 0).setFld Reg.SNX_STAT_ORIGIN 0
  q.dropColl.mapSnx fun s => { ({} : Snx) with mapPend := s.mapPend }

/-- A cell queued to travel in `n` consecutive frames from that of the next tick (R337, R353). -/
def Quad.queueCell (q : Quad) (c : MsgCell) (n : Nat) : Quad :=
  q.mapSnx fun s => { s with cells := s.cells ++ [⟨c, n, none, [], q.tick + 1⟩] }

/-- A cell of this quadrant (R337): type, addressee, result, tick. -/
def Quad.cell (q : Quad) (typ : Nat) (dst result : Nat) (tk : W64) : MsgCell :=
  { typ := BitVec.ofNat 8 typ, src := BitVec.ofNat 8 q.mid, dst := BitVec.ofNat 8 dst, result := BitVec.ofNat 8 result, tk := tk,
    sl := 0, fsl := 0, fl := 0, ffl := 0 }

/-- The JOIN cell (R337, R348, R357). -/
def Quad.joinCell (q : Quad) : MsgCell :=
  { q.cell 1 0xFF 0 0 with sl := 1, fsl := 1, fl := BitVec.ofNat 16 (q.fld Reg.SNX_FWL_FL),
                           ffl := BitVec.ofNat 16 (q.fld Reg.SNX_FWL_FFL) }

/-- A JOIN sent (R348). -/
def Quad.sendJoin (q : Quad) : Quad :=
  ((q.queueCell q.joinCell 1).mapSnx fun s => { s with joinReq := false, joinSent := q.tick }).setSnx snxJoining

/-- The comparison that JOIN asks for, against the last frame heard (R348). -/
def Quad.tryJoin (q : Quad) : Quad :=
  if q.snx.joinReq && q.snxState == snxListen then
    match q.snx.heard with
    | some (true, true) => q.sendJoin
    | some (true, false) => (q.raise Reg.SNX_STAT_TICKMIS).mapSnx fun s => { s with joinReq := false }
    | _ => q
  else q

/-! ### The message area -/

/-- The empty message area an origin launches. -/
def emptyMsg : MsgArea :=
  { prep := none, report := none, ready := 0, nready := 0, decisions := [], asl := 0xFF, afsl := 0, afl := 0xFFFF, affl := 0,
    nsl := 0, dfl := 0, nfl := 0, leff := none, weff := none, nwrap := false, members := 0, cells := [] }

/-- The records that the manager writes at launch or stamp (R336, R353, R357) over what the members on the way set. -/
def Quad.managerMsg (q : Quad) (f : W64) (m : MsgArea) : MsgArea :=
  let s := q.snx
  { m with
    prep := match s.coll with | some c => if f = c.a + 1 then some ⟨c.id, c.scene, c.a.setWidth 32, c.t⟩ else none | none => none
    report := match s.coll with | some c => if f = c.a + 3 then some c.id else none | none => none
    decisions := ((s.decided.filter fun d => decide (d.first.toNat ≤ f.toNat ∧ f.toNat + 3 ≤ d.t.toNat)).take 4).map
      fun d => ⟨d.id, d.go, d.t.setWidth 32⟩
    nsl := match s.lvl with | some l => l.sl | none => 0
    nfl := match s.lvl with | some l => l.fl | none => 0
    leff := match s.lvl with | some l => if l.since.toNat ≤ f.toNat ∧ f.toNat ≤ l.at_.toNat then some (l.at_.setWidth 32) else none | none => none
    weff := match s.wrapA with | some w => if w.since.toNat ≤ f.toNat ∧ f.toNat ≤ w.at_.toNat then some (w.at_.setWidth 32) else none | none => none
    nwrap := match s.wrapA with | some w => w.wrap | none => false
    dfl := BitVec.ofNat 16 (q.fld Reg.SNX_DLVL_DFL) }

/-- What a member adds to the message area of a frame that passes it (R336). -/
def Quad.memberMsg (q : Quad) (f : W64) (m : MsgArea) : MsgArea :=
  if q.snxIn then
    let own := midBit q.mid
    let rep (ok : Bool) : W64 := match q.snx.report with | some (_, r, g) => if g = f ∧ r = ok then own else 0 | none => 0
    { m with
      ready := m.ready ||| rep true
      nready := m.nready ||| rep false
      asl := if m.asl.toNat ≤ 1 then m.asl else 1
      afsl := if m.afsl.toNat ≥ 1 then m.afsl else 1
      afl := if m.afl.toNat ≤ q.fld Reg.SNX_FWL_FL then m.afl else BitVec.ofNat 16 (q.fld Reg.SNX_FWL_FL)
      affl := if m.affl.toNat ≥ q.fld Reg.SNX_FWL_FFL then m.affl else BitVec.ofNat 16 (q.fld Reg.SNX_FWL_FFL)
      members := m.members ||| own }
  else m

/-- Waiting cells placed in the empty ones of a frame of tick `f` on a ring (R337): a cell travels in each frame of its ticks, once in
each. -/
def placeCells (f : W64) (ring : Bool) : List OutCell → List MsgCell → List OutCell × List MsgCell
  | [], placed => ([], placed)
  | c :: t, placed =>
    let again := decide (c.last = some f)
    if c.left = 0 ∧ !again then placeCells f ring t placed
    else if decide (placed.length < 4) && decide (c.since.toNat ≤ f.toNat) && !(again && c.rings.contains ring) then
      let r := placeCells f ring t (placed ++ [c.cell])
      ((if again then { c with rings := ring :: c.rings } else { c with left := c.left - 1, last := some f, rings := [ring] }) :: r.1, r.2)
    else
      let r := placeCells f ring t placed
      (c :: r.1, r.2)

/-- The cells of this quadrant put into a frame. -/
def Quad.fillCells (q : Quad) (f : W64) (ring : Bool) (m : MsgArea) : Quad × MsgArea :=
  let r := placeCells f ring q.snx.cells m.cells
  (q.mapSnx fun s => { s with cells := r.1 }, { m with cells := r.2 })

/-! ### Channels (R338 to R340) -/

/-- Channel positions of a frame at a rate (R338). -/
def chanLimit (fi : Nat) : Nat := if fi = 2 then 1024 else 2048

/-- The (channel, slot) pairs of the transmit ranges (R339), within the frame's channels. -/
def Quad.txPairs (q : Quad) : List (Nat × Nat) :=
  ([0, 1, 2, 3].map fun n =>
    (List.range (q.fld (Reg.SNX_TXMAP_COUNT n))).map fun i =>
      (q.fld (Reg.SNX_TXMAP_FIRST n) + i, q.fld (Reg.SNX_TXMAP_SLOT n) + i)).flatten.filter
        fun c => decide (c.1 < chanLimit q.fi ∧ c.2 < slotLimit q.fi)

/-- The (channel, slot) pairs of the receive ranges whose slots the Stanex receiver owns (R340). -/
def Quad.rxPairs (q : Quad) : List (Nat × Nat) :=
  (([0, 1, 2, 3, 4, 5, 6, 7].map fun n =>
    (List.range (q.fld (Reg.SNX_RXMAP_COUNT n))).map fun i =>
      (q.fld (Reg.SNX_RXMAP_FIRST n) + i, q.fld (Reg.SNX_RXMAP_SLOT n) + i)).flatten).filter
        fun c => decide (c.1 < chanLimit q.fi ∧ c.2 < slotLimit q.fi) && q.kind c.2 == 5

/-- The channels that the member's mode lets it insert (R349, R273): in RUN all, in HARDPAN those of Hardpan-owned slots. -/
def Quad.insertPairs (q : Quad) : List (Nat × Nat) :=
  if !q.snxIn && decide (q.snx.leaveAt ≠ some q.tick) then []
  else if q.mode == .run then q.txPairs
  else if q.mode == .hardpan then q.txPairs.filter fun c => q.kind c.2 == 6
  else []

/-- The read view of tick F of a transmit slot: the present one, or that of the tick before (R339). -/
def Quad.txView (q : Quad) (f : W64) (s : Nat) : List W40 :=
  if f = q.tick then q.readView4 s else q.snx.prevTx.get s [0, 0, 0, 0]

/-- The insertions of a member into a frame (R339). A channel another member has inserted stays and is counted; a further pass of
a frame this member has inserted into is left alone. -/
def Quad.insertChans (q : Quad) (f : SnxFrame) : Quad × List Chan :=
  let ps := if q.snx.insF.contains (f.tick, f.ring) then [] else q.insertPairs
  let taken := ps.filter fun c => f.chans.any fun x => x.pos.toNat == c.1
  let free := ps.filter fun c => !(f.chans.any fun x => x.pos.toNat == c.1)
  let new : List Chan := free.map fun c => ⟨BitVec.ofNat 11 c.1, q.txView f.tick c.2⟩
  let q := match taken.getLast? with
    | some c => (q.count Reg.SNX_COLL_COUNT taken.length).setFld Reg.SNX_COLL_CHAN c.1
    | none => q
  (q.mapSnx fun s => { s with insF := ((f.tick, f.ring) :: s.insF).take 8 }, f.chans ++ new)

/-- Samples of frame F put into a receive slot (R340), which holds them for tick F + 1. -/
def Quad.rxPut (q : Quad) (f : W64) (slot : Nat) (v : List W40) : Quad :=
  if q.snx.rxDone.contains (f, slot) then q
  else if q.tick = f then
    q.mapSnx fun s => { s with rxHeld := s.rxHeld ++ [(f, slot, v)], rxDone := (f, slot) :: s.rxDone }
  else if q.tick = f + 1 then (q.slotStore4 slot v).mapSnx fun s => { s with rxDone := (f, slot) :: s.rxDone }
  else q

/-- The channels of a good pass taken (R340); those that come after boundary F + 2 are left unwritten and counted. -/
def Quad.takeChans (q : Quad) (f : SnxFrame) : Quad :=
  if !q.snxIn then q
  else
    let ps := q.rxPairs.filterMap fun c => match f.chans.find? fun x => x.pos.toNat == c.1 with
      | some x => some (c.2, x.smp)
      | none => none
    if q.tick.toNat ≥ f.tick.toNat + 2 then
      q.count Reg.SNX_CHCNT_LATE (ps.filter fun c => !q.snx.rxDone.contains (f.tick, c.1)).length
    else ps.foldl (fun q c => q.rxPut f.tick c.1 c.2) q

/-- Zeros for the channels of frame F that no pass brought (R340), counted. -/
def Quad.zeroFill (q : Quad) (f : W64) : Quad :=
  if !q.snxIn then q
  else
    let ps := q.rxPairs.filter fun c => !q.snx.rxDone.contains (f, c.2)
    (ps.foldl (fun q c => q.rxPut f c.2 [0, 0, 0, 0]) q).count Reg.SNX_CHCNT_ZERO ps.length

/-! ### Announcements (R355 to R357) -/

/-- A wrap change announced by the manager (R355, R356): at m + 3. -/
def Quad.announceWrap (q : Quad) (wrap : Bool) : Quad :=
  let pending := match q.snx.wrapA with | some w => !w.made | none => false
  if q.snxState == snxManager && !pending && q.wrapped != wrap then
    q.mapSnx fun s => { s with wrapA := some ⟨q.tick + 3, wrap, false, q.tick + 1⟩ }
  else q

/-- A level change announced by the manager (R357). -/
def Quad.announceLevel (q : Quad) (at_ : W64) (sl : BitVec 8) (fl : BitVec 16) : Quad :=
  q.mapSnx fun s => { s with lvl := some ⟨at_, sl, fl, false, q.tick + 1⟩ }

/-- The tick of a level change that is pending. -/
def Quad.levelPending (q : Quad) : Option W64 :=
  match q.snx.lvl with | some l => if l.made then none else some l.at_ | none => none

/-! ### Taking messages (R353) -/

/-- A 32-bit tick field extended against the present tick (R336, R304). -/
def Quad.extTick (q : Quad) (t : W32) : W64 := BitVec.ofInt 64 (ext64 t q.tick)

/-- A JOIN taken by the manager (R348), with its JOINACK. -/
def Quad.joinTake (q : Quad) (c : MsgCell) : Quad :=
  let (members, asl, afsl, afl, affl) := q.snx.agg.getD (midBit q.mid, 1, 1, BitVec.ofNat 16 (q.fld Reg.SNX_FWL_FL),
    BitVec.ofNat 16 (q.fld Reg.SNX_FWL_FFL))
  let count := ((List.range 64).filter fun i => members.getLsbD i).length
  let sl := if c.sl.toNat < asl.toNat then c.sl else asl
  let fl := if c.fl.toNat < afl.toNat then c.fl else afl
  let ack (res : Nat) (j : W64) (q : Quad) : Quad := q.queueCell (q.cell 2 c.src.toNat res j) 4
  if members.getLsbD c.src.toNat || decide (count ≥ 64) then ack St.refused 0 q
  else if c.sl.toNat < afsl.toNat ∨ c.fl.toNat < affl.toNat ∨ sl.toNat < c.fsl.toNat ∨ fl.toNat < c.ffl.toNat then
    ack St.levelMismatch 0 q
  else
    let j := match q.levelPending with | some l => if l.toNat > q.tick.toNat + 8 then l else q.tick + 8 | none => q.tick + 8
    let lower := decide (sl.toNat < q.fld Reg.SNX_DLVL_DSL) || decide (fl.toNat < q.fld Reg.SNX_DLVL_DFL)
    ack St.done j (if lower then q.announceLevel j sl fl else q)

/-- A JOINACK taken by the joiner (R348). -/
def Quad.joinAckTake (q : Quad) (c : MsgCell) : Quad :=
  if c.result.toNat = St.done then q.mapSnx fun s => { s with joinAt := some c.tk }
  else (q.raise (if c.result.toNat = St.levelMismatch then Reg.SNX_STAT_LVLMIS else Reg.SNX_STAT_JREF)).setSnx snxListen

/-- A cell taken (R337): JOIN and HEAL by the manager, JOINACK by the joiner, YIELD by the members. -/
def Quad.takeCell (q : Quad) (c : MsgCell) : Quad :=
  match c.typ.toNat with
  | 1 => if q.snxState == snxManager then q.joinTake c else q
  | 2 => if q.snxState == snxJoining && q.snx.joinAt.isNone && c.dst.toNat == q.mid then q.joinAckTake c else q
  | 4 => if q.snxIn then q.mapSnx fun s => { s with yieldA := some (c.tk, c.dst) } else q
  | 5 => q.announceWrap false
  | _ => q

/-- A domain PREPARE evaluated, and the report for frame a + 3 (R353); a manager whose host aborted the commit prepares nothing (R238). -/
def Quad.takePrepare (q : Quad) (p : PrepRec) : Quad :=
  let a := q.extTick p.a
  match q.snx.report with
  | some (id, _, f) => if id = p.id ∧ f = a + 3 then q else go q a
  | none => go q a
where
  go (q : Quad) (a : W64) : Quad :=
    match q.snx.coll with
    | some c =>
      if c.id = p.id ∧ c.a = a then
        if c.aborted then q.mapSnx fun s => { s with report := some (p.id, false, a + 3) }
        else prep (q.mapSnx fun s => { s with coll := some { c with took := true } }) a
      else prep q a
    | none => prep q a
  prep (q : Quad) (a : W64) : Quad :=
    let r := q.prepare p.id p.scene.toNat p.t (a.toNat + 8) true
    r.1.mapSnx fun s => { s with report := some (p.id, decide (r.2 = 0), a + 3) }

/-- A decision taken (R241): GO as COMMIT, ABORT as abandonment. -/
def Quad.takeDecision (q : Quad) (d : Decision) : Quad :=
  if d.go then (q.commitId d.id).1
  else match q.kln.prepared.find? fun p => p.id == d.id && p.dom with
    | some p => q.abandon p St.commitAborted 0
    | none => q

/-- Whether every member of a mask has a bit. -/
def covers (members bits : W64) : Bool := members &&& ~~~bits == 0

/-- The aggregates of a returned frame (R357): the manager announces the levels they form when they differ from the present
ones. -/
def Quad.takeAgg (q : Quad) (m : MsgArea) : Quad :=
  let q := q.mapSnx fun s => { s with agg := some (m.members, m.asl, m.afsl, m.afl, m.affl) }
  if q.snxState == snxManager && q.levelPending.isNone &&
      (decide (m.asl.toNat ≠ q.fld Reg.SNX_DLVL_DSL) || decide (m.afl.toNat ≠ q.fld Reg.SNX_DLVL_DFL)) then
    q.announceLevel (q.tick + 8) m.asl m.afl
  else q

/-- An announced level change taken (R357). -/
def Quad.takeLeff (q : Quad) (m : MsgArea) : Quad :=
  match m.leff with
  | some t =>
    match q.snx.lvl with
    | some l => if l.at_ = q.extTick t then q else q.announceLevel (q.extTick t) m.nsl m.nfl
    | none => q.announceLevel (q.extTick t) m.nsl m.nfl
  | none => q

/-- The messages of one frame taken (R336, R353); `cells` are those of its cells of which no copy has been taken (R337). A quadrant that
joins takes a level change too, since it may enter with it (R348, R357). -/
def Quad.takeMsg (q : Quad) (i : InMsg) (cells : List MsgCell) : Quad :=
  let m := i.msg
  if !q.snxIn then cells.foldl (fun q c => q.takeCell c) (if q.snxState == snxJoining then q.takeLeff m else q)
  else
    let mgr := q.snxState == snxManager
    let q := if i.own || !i.whole then q else q.takeAgg m
    let q := match q.snx.coll with
      | some c =>
        if mgr ∧ !i.own then
          let c := if i.tick = c.a + 1 then { c with members := c.members ||| m.members } else c
          let c := if i.tick = c.a + 3 then { c with ready := c.ready ||| m.ready, nready := c.nready ||| m.nready } else c
          q.mapSnx fun s => { s with coll := some c }
        else q
      | none => q
    let q := match m.prep with | some p => q.takePrepare p | none => q
    let q := m.decisions.foldl (fun q d => q.takeDecision d) q
    let q := if mgr then q else
      let q := q.takeLeff m
      match m.weff with
      | some t =>
        if (match q.snx.wrapA with | some w => decide (w.at_ = q.extTick t) | none => false) then q
        else q.mapSnx fun s => { s with wrapA := some ⟨q.extTick t, m.nwrap, false, q.tick + 1⟩ }
      | none => q
    cells.foldl (fun q c => q.takeCell c) q

/-- The messages of frames taken in order: of the copies of a cell in one tick's frames the first (R337), whenever the others come. -/
def Quad.takeAll (q : Quad) : List InMsg → Quad
  | [] => q
  | i :: t =>
    let cells := i.msg.cells.eraseDups.filter fun c => !q.snx.seen.contains (i.tick, c)
    ((q.takeMsg i cells).mapSnx fun s => { s with seen := (cells.map fun c => (i.tick, c)) ++ s.seen }).takeAll t

/-- The messages due taken: those of frames before the present tick (R353); and a turned frame that came back in an earlier tick (R355). -/
def Quad.takeInbox (q : Quad) : Quad :=
  let due := q.snx.inbox.filter fun i => decide (i.tick.toNat < q.tick.toNat)
  let q := q.mapSnx fun s => { s with inbox := s.inbox.filter fun i => !decide (i.tick.toNat < q.tick.toNat) }
  let q := match q.snx.turned with
    | some t => if t.toNat < q.tick.toNat then (q.announceWrap true).mapSnx fun s => { s with turned := none } else q
    | none => q
  q.takeAll due

/-- The messages of a pass put with those of its frame's other passes: bits joined, levels combined, cells gathered. -/
def mergeMsg (a b : MsgArea) : MsgArea :=
  { a with
    prep := a.prep.or b.prep, report := a.report.or b.report, ready := a.ready ||| b.ready, nready := a.nready ||| b.nready,
    decisions := a.decisions ++ b.decisions.filter fun d => !a.decisions.contains d,
    asl := if a.asl.toNat ≤ b.asl.toNat then a.asl else b.asl, afsl := if a.afsl.toNat ≥ b.afsl.toNat then a.afsl else b.afsl,
    afl := if a.afl.toNat ≤ b.afl.toNat then a.afl else b.afl, affl := if a.affl.toNat ≥ b.affl.toNat then a.affl else b.affl,
    leff := a.leff.or b.leff, weff := a.weff.or b.weff, nsl := if a.leff.isSome then a.nsl else b.nsl,
    nfl := if a.leff.isSome then a.nfl else b.nfl, nwrap := if a.weff.isSome then a.nwrap else b.nwrap,
    members := a.members ||| b.members, cells := a.cells ++ b.cells.filter fun c => !a.cells.contains c }

/-- A pass's messages kept for the tick after its frame. -/
def Quad.keepMsg (q : Quad) (f : W64) (own whole : Bool) (m : MsgArea) : Quad :=
  q.mapSnx fun s =>
    match s.inbox.find? fun i => i.tick == f && i.own == own && i.whole == whole with
    | some i => { s with inbox := s.inbox.map fun x => if x = i then { i with msg := mergeMsg i.msg m } else x }
    | none => { s with inbox := s.inbox ++ [⟨f, own, whole, m⟩] }

/-- The manager's decision on the commit it coordinates (R240, R353): formed once the tick a + 4 has ended, sent from frame
a + 5. Its PREPARE command completes with it. -/
def Quad.decideDomain (q : Quad) : Quad :=
  match q.snx.coll with
  | none => q
  | some c =>
    if q.tick.toNat < c.a.toNat + 5 then q
    else
      let all := c.members ||| midBit q.mid
      let go := covers all c.ready && c.nready == 0 && !c.aborted
      let reason := if c.nready ≠ 0 ∨ c.aborted then 0 else 8
      let q := q.mapSnx fun s => { s with coll := none, decided := s.decided ++ [⟨c.id, go, c.t, c.a + 5⟩] }
      let q := if go then (q.commitId c.id).1
        else match q.kln.prepared.find? fun p => p.id == c.id && p.dom with
          | some p => q.abandon p St.commitAborted reason
          | none => q.collRecord c reason
      q.complete c.seq 0x05 (if go then St.done else St.notReady) (if go then 0 else reason) (c.a.setWidth 32)

/-! ### Frames -/

/-- The residence of a forwarded pass (R342): 400 ns within 6.4 ns, as measured. -/
def Quad.residence (q : Quad) : Nat × Quad :=
  let r := q.draw
  (100762 + r.1.toNat % 3277, r.2)

/-- A frame sent on a port. -/
def Quad.sendFrame (q : Quad) (p : Fin 2) (f : SnxFrame) : Quad := q.mapSnx fun s => { s with sent := s.sent.set p (some f) }

/-- The header and records that the manager stamps on a frame that leaves by a port (R342). -/
def Quad.stamp (q : Quad) (p : Fin 2) (mofs : Nat) (f : SnxFrame) : SnxFrame :=
  { f with stamped := true, tick := q.tick, tstart := q.bndNs, mofs := w32 mofs, acc := w32 (q.linkDelay p),
           mgr := BitVec.ofNat 6 q.mid, domid := BitVec.ofNat 16 (q.fld Reg.SNX_CFG_DOMID),
           dsl := BitVec.ofNat 8 (q.fld Reg.SNX_DLVL_DSL), msg := q.managerMsg q.tick f.msg }

/-- A frame as its origin launches it on a port (R338, R342). -/
def Quad.newFrame (q : Quad) (p : Fin 2) : SnxFrame :=
  { tick := q.tick, tstart := 0, acc := 0, mofs := 0, domid := BitVec.ofNat 16 (q.fld Reg.SNX_CFG_DOMID), mgr := 0, stamped := false,
    wrap := q.wrapped, origin := BitVec.ofNat 6 q.mid, turn := 0, fi := BitVec.ofNat 2 q.fi, ring := decide (p = 1), hops := 0,
    dsl := 0, msg := emptyMsg, chans := [], crcOk := true }

/-- A launch on one port (R342). -/
def Quad.launchOn (q : Quad) (p : Fin 2) : Quad :=
  if !q.portUp p then q
  else
    let f := q.newFrame p
    let mgr := q.snxState == snxManager
    let f := if mgr then q.stamp p 256000 f else f
    let m := q.memberMsg q.tick f.msg
    let (q, m) := q.fillCells q.tick f.ring m
    let q := if mgr then q.keepMsg q.tick true true m else q
    let (q, ch) := q.insertChans { f with msg := m }
    (q.sendFrame p { f with msg := m, chans := ch }).mapSnx fun s =>
      { s with launched := some q.cclk, launches := ((f.tick, f.ring, q.cclk) :: s.launches).take 8 }

/-- FRAME_LAUNCH (R342, R355): the manager of an intact ring launches on both ports, the origin of a wrapped domain on SXA. -/
def Quad.launch (q : Quad) : Quad :=
  if q.snxState == snxManager && !q.wrapped then (q.launchOn 0).launchOn 1
  else if q.flag Reg.SNX_STAT_ORIGIN && q.snxIn then q.launchOn 0
  else q

/-- Whether a stamped pass of the last tick's frame is a late one of 192 kHz (R343): since the boundary of its tick has passed what
MOFS and ACC say, within half a tick; in a quadrant one tick ahead a whole tick more has passed. -/
def Quad.latePass (q : Quad) (f : SnxFrame) : Bool :=
  let tick8 := cclkPerTick q.fi * 625 / 3
  let err : Int := ((q.since8 q.bndCclk + tick8 : Nat) : Int) - f.acc.toNat - f.mofs.toNat
  q.fi == 2 && f.stamped && decide (f.tick + 1 = q.tick) && decide (2 * err.natAbs < tick8)

/-- Whether a frame's TICK and FI match the quadrant's (R348, R351): a pass of frame F is received in tick F, at 192 kHz, where it is
late, in F + 1. -/
def Quad.tickMatch (q : Quad) (f : SnxFrame) : Bool :=
  decide (f.fi.toNat = q.fi) && (decide (f.tick = q.tick) || q.latePass f)

/-- A bounded list of recent frame numbers with one more. -/
def recent (f : W64) (l : List W64) : List W64 := if l.contains f then l else (f :: l).take 8

/-- The raw phase of a frame's recovered edge (R280, R345): arrival less ACC less MOFS, against the boundary of the frame's tick,
in root cycles, rounded down (log 114). -/
def Quad.recovered (q : Quad) (f : SnxFrame) : Int :=
  let bnd : Int := (q.bndCclk : Int) - ((q.tick.toNat : Int) - f.tick.toNat) * cclkPerTick q.fi
  2 * ((q.cclk : Int) - bnd) - (((f.acc.toNat + f.mofs.toNat) * 24576 : Nat) : Int) / 2560000

/-- Timing and time error from the first good stamped pass of a frame (R345, R346): on SXB for candidate 6, on SXA for 7. An intact ring
brings two frames of a tick, one on each. -/
def Quad.recover (q : Quad) (p : Fin 2) (f : SnxFrame) : Quad :=
  let q := q.setFld Reg.SNX_ACC_T f.acc.toNat
  if q.snx.timed.contains (f.tick, f.ring) then q
  else
    let q := q.mapSnx fun s => { s with timed := ((f.tick, f.ring) :: s.timed).take 16, startF := recent f.tick s.startF, missRun := 0 }
    if q.snxState == snxManager then q
    else
      let err : Int := (q.now8 : Int) - f.acc.toNat - f.mofs.toNat - 256 * f.tstart.toNat
      (q.setFld Reg.SNX_TERR_ERR (sat32 err).toNat).mapSnx fun s =>
        { s with edges := let n : Fin 10 := if p = 1 then 6 else 7
                          (n, f.tick, q.recovered f) :: s.edges.filter fun e => e.1 != n }

/-- The end of a frame at its origin (R342, R343, R355). -/
def Quad.frameEnd (q : Quad) (f : SnxFrame) : Quad :=
  let q := match q.snx.launches.find? fun l => l.1 == f.tick && l.2.1 == f.ring with
    | some (_, _, c) =>
      let t := q.since8 c
      let q := q.setFld Reg.SNX_TRANSIT_T t
      if t > 24000 * 256 then q.raise Reg.SNX_STAT_OVB else q
    | none => q
  if f.turn ≠ 0 then q.mapSnx fun s => { s with turned := some q.tick } else q

/-- The forwarding of a good pass (R339, R342, R354). -/
def Quad.forward (q : Quad) (p : Fin 2) (f : SnxFrame) : Quad :=
  let o := otherPort p
  let turned := !q.portUp o
  let out := if turned then p else o
  let (res, q) := q.residence
  let f := { f with hops := f.hops + 1, turn := if turned then f.turn + 1 else f.turn }
  let mgr := q.snxState == snxManager
  let f := if mgr && !f.stamped then q.stamp out (q.since8 q.bndCclk + res) f
    else if f.stamped then { f with acc := f.acc + w32 (res + q.linkDelay out) } else f
  let m := q.memberMsg f.tick f.msg
  let (q, m) := q.fillCells f.tick f.ring m
  let q := if mgr then q.keepMsg f.tick true true m else q
  let (q, ch) := q.insertChans { f with msg := m }
  q.sendFrame out { f with msg := m, chans := ch }

/-- A frame of another manager noted (R347). -/
def Quad.noteForeign (q : Quad) (f : SnxFrame) : Quad :=
  if f.stamped && (f.mgr.toNat != q.mid || f.domid.toNat != q.fld Reg.SNX_CFG_DOMID) then
    q.mapSnx fun s => { s with foreign := some q.tick } else q

/-- A frame heard from another manager of the domain (R351). -/
def Quad.conflict (q : Quad) (f : SnxFrame) : Quad :=
  if f.stamped && f.mgr.toNat != q.mid then
    if q.snxState == snxManager && decide (f.mgr.toNat < q.mid) then q.mapSnx fun s => { s with stepDown := true } else q
  else q

/-- Whether a frame is one of a manager that loses its role (R351): another of lower MID was heard in this tick or the last. -/
def Quad.losing (q : Quad) (f : SnxFrame) : Bool :=
  match q.snx.mgrHeard with
  | some (m, t) => decide (m.toNat < f.mgr.toNat) && decide (q.tick.toNat ≤ t.toNat + 1)
  | none => false

/-- A member whose tick differs from that of the domain's manager, of two the one that keeps the role, leaves it (R347, R351). -/
def Quad.tickCheck (q : Quad) (f : SnxFrame) : Quad :=
  if !f.stamped || q.losing f then q
  else
    let q := q.mapSnx fun s => { s with mgrHeard := some (f.mgr, q.tick) }
    if q.snxState == snxMember && !q.tickMatch f then (q.raise Reg.SNX_STAT_TICKMIS).setSnx snxListen else q

/-- DSL and DFL shown. -/
def Quad.setLevels (q : Quad) (sl : BitVec 8) (fl : BitVec 16) : Quad :=
  (q.setFld Reg.SNX_DLVL_DSL sl.toNat).setFld Reg.SNX_DLVL_DFL fl.toNat

/-- The domain levels that a stamped frame tells (R357): kept for the entry, and taken by a member in whose domain no change is
pending. -/
def Quad.hearLevels (q : Quad) (f : SnxFrame) : Quad :=
  if !f.stamped || q.losing f then q
  else
    let q := q.mapSnx fun s => { s with domLvl := some (f.dsl, f.msg.dfl) }
    if q.snxState == snxMember && q.levelPending.isNone && f.tick == q.tick then
      q.setLevels f.dsl f.msg.dfl
    else q

/-- The wrap ended in this quadrant. -/
def Quad.unwrap (q : Quad) : Quad :=
  let q := (q.setFld Reg.SNX_STAT_WRAP 0).setFld Reg.SNX_STAT_ORIGIN 0
  q.mapSnx fun s => { s with ports := s.ports.map fun p => { p with wasDown := false } }

/-- The wrap as a quadrant that is no member hears of it (R354, R358). -/
def Quad.hearWrap (q : Quad) (f : SnxFrame) : Quad :=
  if q.snxIn || f.wrap == q.wrapped then q
  else if f.wrap then q.setFld Reg.SNX_STAT_WRAP 1
  else q.unwrap

/-- Whether a pass has been through every member (R336, R357): in a wrapped domain the return pass, or the one that turns here. -/
def Quad.wholePass (q : Quad) (p : Fin 2) (f : SnxFrame) : Bool := !f.wrap || f.turn != 0 || !q.portUp (otherPort p)

/-- STANEX_FRAME_PASS (R336 to R346). -/
def Quad.framePass (q : Quad) (p : Fin 2) (f : SnxFrame) : Quad :=
  if q.link p ≠ 3 then q
  else if q.snxState = snxOff then (if f.crcOk then q.noteForeign f else q)
  else
    let q := q.mapSnx fun s => { s with passes := ((f.tick, p) :: s.passes).take 16 }
    let mine := f.origin.toNat = q.mid ∧ q.snx.launched.isSome
    if !f.crcOk then
      let q := q.count Reg.SNX_FRCNT_CRC 1
      if mine then q
      else
        let o := otherPort p
        if q.portUp o then q.sendFrame o { f with hops := f.hops + 1 }
        else q.sendFrame p { f with hops := f.hops + 1, turn := f.turn + 1 }
    else if f.domid.toNat ≠ q.fld Reg.SNX_CFG_DOMID then
      let q := q.mapSnx fun s => { s with heard := some (false, false) }
      if mine then q else q.forward p f
    else
      let q := (q.mapSnx fun s => { s with heard := some (true, q.tickMatch f)
                                           originF := if f.wrap && !f.stamped then some q.tick else s.originF }).tryJoin
      let q := ((((q.noteForeign f).conflict f).tickCheck f).hearLevels f).hearWrap f
      let q := if f.stamped then q.recover p f else q
      let q := q.mapSnx fun s => { s with goodF := recent f.tick s.goodF }
      let q := if q.snxState == snxListen then q else q.keepMsg f.tick false (q.wholePass p f) f.msg
      let q := q.setFld Reg.SNX_STAT_MEMBERS (((List.range 64).filter fun i =>
        (f.msg.members ||| (if q.snxIn then midBit q.mid else 0)).getLsbD i).length)
      let q := q.takeChans f
      (if mine then q.frameEnd f else q.forward p f).takeInbox

/-! ### Events of the domain -/

/-- The frame that is due 26 µs after its boundary (R350): at 192 kHz the tick has moved on by then. -/
def Quad.dueFrame (q : Quad) : W64 := if q.fi = 2 then q.tick - 1 else q.tick

/-- FRAME_MISSING (R350): its frame, unless a stamped start of it came, and a good pass. -/
def Quad.frameMissing (q : Quad) : Quad :=
  let f := q.dueFrame
  if q.snxState = snxOff ∨ q.snx.startF.contains f ∨ q.snx.missF.contains f then q
  else
    let q := q.count Reg.SNX_FRCNT_MISS 1
    let q := q.mapSnx fun s => { s with missF := recent f s.missF, missRun := s.missRun + 1,
                                        missAt := if s.missRun + 1 = 3 then q.tick else s.missAt }
    if q.snx.goodF.contains f then q else q.zeroFill f

/-- Whether an origin launches in this quadrant's segment of a wrapped domain: this quadrant, or one whose frame came within the last three
ticks (R356, log 133). -/
def Quad.originNear (q : Quad) : Bool :=
  q.flag Reg.SNX_STAT_ORIGIN || (match q.snx.originF with | some t => decide (q.tick.toNat ≤ t.toNat + 3) | none => false)

/-- STANDBY_TAKEOVER (R350): where a second break cut the origin off, the new manager launches intact frames (R356). -/
def Quad.takeover (q : Quad) : Quad :=
  if q.snxState = snxMember ∧ q.fld Reg.SNX_CFG_ROLE = 2 ∧ q.snx.missRun ≥ 3 ∧
      q.tick.toNat ≥ q.snx.missAt.toNat + 1 + q.fld Reg.SNX_CFG_SPRI then
    let q := if q.wrapped && !q.originNear then q.unwrap else q
    ((q.setSnx snxManager).raise Reg.SNX_STAT_TAKEN).mapSnx fun s => { s with coll := none, decided := [], missRun := 0 }
  else q

/-- MANAGER_START (R347): three ticks after EN with no frame of another manager. -/
def Quad.managerStart (q : Quad) : Quad :=
  let quiet := match q.snx.foreign with | some t => decide (t.toNat + 3 ≤ q.tick.toNat) | none => true
  if q.flag Reg.SNX_CFG_EN && q.fld Reg.SNX_CFG_ROLE == 1 && q.snxState == snxOff && quiet &&
      decide (q.snx.enAt.toNat + 3 ≤ q.tick.toNat) then q.setSnx snxManager else q

/-- SNX_CTL.JOIN (R348): heeded in LISTEN. -/
def Quad.snxJoin (q : Quad) : Quad :=
  if q.snxState = snxListen then (q.mapSnx fun s => { s with joinReq := true }).tryJoin else q

/-- JOIN_RETRY (R348): no JOINACK within 16 ticks. -/
def Quad.joinRetry (q : Quad) : Quad :=
  if q.snxState = snxJoining ∧ q.snx.joinAt.isNone ∧ q.tick.toNat ≥ q.snx.joinSent.toNat + 16 then q.sendJoin else q

/-- LEVEL_CHANGE (R357): at boundary LEFF. -/
def Quad.levelChange (q : Quad) : Quad :=
  match q.snx.lvl with
  | some l =>
    if l.made ∨ q.tick.toNat < l.at_.toNat ∨ !q.snxIn then q
    else (q.setLevels l.sl l.fl).mapSnx fun s => { s with lvl := some { l with made := true } }
  | none => q

/-- MEMBER_ENTRY (R348): at boundary J; the levels are those the domain's frames tell, or those of a change that falls due with the entry
(R357). -/
def Quad.memberEntry (q : Quad) : Quad :=
  match q.snx.joinAt with
  | some j => if q.snxState = snxJoining ∧ q.tick.toNat ≥ j.toNat then
      let q := (q.setSnx snxMember).mapSnx fun s => { s with joinAt := none }
      (match q.snx.domLvl with
        | some (sl, fl) => q.setLevels sl fl
        | none => q).levelChange
    else q
  | none => q

/-- SNX_CTL.LEAVE (R349): insertion goes on until the next boundary. -/
def Quad.snxLeave (q : Quad) : Quad :=
  if q.snxState = snxOff ∨ q.snxState = snxListen then q
  else
    let q := q.queueCell (q.cell 3 0xFF 0 0) 1
    (q.mapSnx fun s => { s with leaveAt := if q.snxIn then some q.tick else none, joinAt := none }).setSnx snxListen

/-- SNX_CTL.YIELD (R352). -/
def Quad.snxYield (q : Quad) (ymid : Nat) : Quad :=
  if q.snxState ≠ snxManager then q
  else
    let members := match q.snx.agg with | some a => a.1 ||| midBit q.mid | none => midBit q.mid
    let busy := q.snx.coll.isSome || q.snx.decided.any (fun d => decide (q.tick.toNat + 3 ≤ d.t.toNat)) ||
      (match q.snx.wrapA with | some w => !w.made | none => false)
    if !members.getLsbD ymid || busy then q.raise Reg.SNX_CTL_WERR
    else
      let h := q.tick + 8
      (q.queueCell (q.cell 4 ymid 0 h) 4).mapSnx fun s => { s with yieldA := some (h, BitVec.ofNat 8 ymid) }

/-- YIELD_HANDOVER (R352): at boundary H. -/
def Quad.handover (q : Quad) : Quad :=
  match q.snx.yieldA with
  | some (h, m) =>
    if q.snxIn ∧ q.tick.toNat ≥ h.toNat then
      (if m.toNat = q.mid then q.setSnx snxManager else q.setSnx snxMember).mapSnx fun s => { s with yieldA := none }
    else q
  | none => q

/-- WRAP_CHANGE (R354 to R356): at boundary WEFF. -/
def Quad.wrapChange (q : Quad) : Quad :=
  match q.snx.wrapA with
  | some w =>
    if w.made ∨ q.tick.toNat < w.at_.toNat ∨ !q.snxIn then q
    else
      let q := q.mapSnx fun s => { s with wrapA := some { w with made := true } }
      if w.wrap then
        let q := q.setFld Reg.SNX_STAT_WRAP 1
        q.setFld Reg.SNX_STAT_ORIGIN (b2n (!q.portUp 1 && q.portUp 0))
      else q.unwrap
  | none => q

/-- HEAL (R356): the origin's SXB has been UP for one second. -/
def Quad.snxHeal (q : Quad) : Quad :=
  if q.flag Reg.SNX_STAT_ORIGIN && q.link 1 == 3 then q.queueCell (q.cell 5 0xFF 0 0) 1 else q

/-- Whether a TEST of the port with DIVERT is in progress, which keeps it from rejoining (R483). -/
def Quad.diverted (q : Quad) (p : Fin 2) : Bool :=
  match q.flt.test with
  | some t => t.code == 4 && t.b.toNat == p.val && t.c == 1
  | none => false

/-- LINK_BLOCK_LOCK (R332). -/
def Quad.linkLock (q : Quad) (p : Fin 2) : Quad := if q.link p = 1 ∧ !q.diverted p then q.setLink p 2 else q

/-- LINK_UP (R332): 16 valid probe replies. -/
def Quad.linkUp (q : Quad) (p : Fin 2) : Quad :=
  if q.link p = 2 ∧ (q.snx.ports[p]).dlys.length ≥ 16 ∧ !q.diverted p then
    let pending := match q.snx.wrapA with | some w => !w.made && w.wrap | none => false
    (q.setLink p 3).mapSnx fun s =>
      if q.wrapped || pending then s else { s with ports := s.ports.set p { s.ports[p] with wasDown := false } }
  else q

/-- LINK_DOWN (R332, R354, R355). -/
def Quad.linkDown (q : Quad) (p : Fin 2) : Quad :=
  if q.link p < 2 then q
  else
    let wasUp := q.link p == 3
    let q := (q.setLink p 1).mapSnx fun s =>
      { s with ports := s.ports.set p ⟨[], (s.ports[p]).wasDown || wasUp⟩ }
    if wasUp then q.announceWrap true else q

/-- DELAY_PROBE_RECEIVE (R333). -/
def Quad.delayProbe (q : Quad) (p : Fin 2) (roundTrip turnaround : Nat) : Quad :=
  if q.link p < 2 then q
  else
    let asym := (BitVec.ofNat 16 (q.fld (Reg.SNX_ASYM_ASYM p.val))).toInt
    let d : Int := ((roundTrip : Int) - turnaround) / 2 + asym
    let l := (d :: (q.snx.ports[p]).dlys).take 16
    let avg := (l.sum / (l.length : Int)).toNat
    (q.mapSnx fun s => { s with ports := s.ports.set p { s.ports[p] with dlys := l } }).setFld (Reg.SNX_LINK_DLY p.val)
      (satTo 0xFFFFFF avg)

/-! ### At a boundary -/

/-- Whether every pass of frame F has ended (R340): one on each port that is UP, or the frame is missing. Of a frame of which a pass came
and another did not, the spec lets no part know whether it still comes: a free value (log 132). -/
def Quad.passesEnded (q : Quad) (f : W64) : Bool × Quad :=
  let open_ := ([0, 1] : List (Fin 2)).any fun p => q.portUp p && !q.snx.passes.contains (f, p)
  if q.snx.missF.contains f || !open_ then (true, q)
  else if ([0, 1] : List (Fin 2)).any fun p => q.snx.passes.contains (f, p) then let r := q.draw; (r.1.getLsbD 0, r.2)
  else (false, q)

/-- What Stanex does before the buffers change (R340): zeros for the channels of the frame whose writes are due by now, once its
passes have ended, and the read views of the transmit slots kept for passes of this tick that come late. -/
def Quad.snxEnd (q : Quad) : Quad :=
  if q.snxState = snxOff then q
  else
    let f := q.tick - 1
    let (done, q) := q.passesEnded f
    let q := if done then q.zeroFill f else q
    q.mapSnx fun s => { s with
      prevTx := q.txPairs.foldl (fun m c => m.put c.2 (q.readView4 c.2)) []
      rxDone := s.rxDone.filter fun e => decide (q.tick.toNat < e.1.toNat + 8)
      seen := s.seen.filter fun e => decide (q.tick.toNat < e.1.toNat + 8) }

/-- What Stanex does in the tick that begins: map writes (R358), a manager that steps down (R351), the channels held for this
tick's buffers (R340), the messages of the last frame, and a decision that is due (R353). -/
def Quad.snxBegin (q : Quad) : Quad :=
  if q.snxState = snxOff ∧ q.snx.mapPend.isEmpty then q
  else
    let q := (q.snx.mapPend.foldl (fun q e => q.wr e.1 e.2) q).mapSnx fun s => { s with mapPend := [] }
    let q := if q.snx.stepDown then
        ((q.raise Reg.SNX_STAT_MCONF).setSnx snxListen).dropColl.mapSnx fun s =>
          { s with stepDown := false, joinReq := true, decided := [] }
      else q
    let held := q.snx.rxHeld
    let q := q.mapSnx fun s => { s with rxHeld := [], leaveAt := none,
                                        decided := s.decided.filter fun d => decide (q.tick.toNat ≤ d.t.toNat) }
    let q := if q.snxIn then held.foldl (fun q e => q.ioStore4 5 e.2.1 e.2.2) q else q
    q.takeInbox.decideDomain

end Sys2Proof.Machine
end

