-- ==== Sys2Proof/Machine/PortOps.lean ====
section
/-! DEFINITION. The shared operations of the serial ports, the AES3 blocks, the rate converters and the block headers
(spec/14). -/

namespace Sys2Proof.Machine

/-- A quadrant with its ports changed. -/
def Quad.mapPrt (q : Quad) (f : Ports → Ports) : Quad := { q with prt := f q.prt }
/-- A quadrant with a serial port changed. -/
def Quad.mapTdm (q : Quad) (p : Fin 8) (f : Tdm → Tdm) : Quad := q.mapPrt fun s => { s with tdm := s.tdm.set p (f s.tdm[p]) }
/-- A quadrant with an AES3 receiver changed. -/
def Quad.mapRx (q : Quad) (r : Fin 4) (f : AesRx → AesRx) : Quad := q.mapPrt fun s => { s with rx := s.rx.set r (f s.rx[r]) }
/-- A quadrant with an AES3 transmitter changed. -/
def Quad.mapTx (q : Quad) (t : Fin 4) (f : AesTx → AesTx) : Quad := q.mapPrt fun s => { s with tx := s.tx.set t (f s.tx[t]) }
/-- A quadrant with an ASRC group changed. -/
def Quad.mapAsrc (q : Quad) (g : Fin 12) (f : Asrc → Asrc) : Quad := q.mapPrt fun s => { s with asrc := s.asrc.set g (f s.asrc[g]) }
/-- A quadrant with what a block collects changed. -/
def Quad.mapBlock (q : Quad) (b : Nat) (f : Block → Block) : Quad :=
  q.mapPrt fun s => { s with blocks := s.blocks.put b (f (s.blocks.get b {})) }

/-- The low 32 bits of the time counter. -/
def Quad.ts (q : Quad) : W32 := q.tim.ns.setWidth 32

/-- A sample of a converter whose response the spec does not give (R324, R364, R377): free, but zero from a history of zeros. -/
def Quad.convert (q : Quad) (kind : Nat) (hist : List W40) : W40 × Quad :=
  if hist.all (· == 0) then (0, q)
  else (Config.filtered kind hist q.freeCtr, { q with freeCtr := q.freeCtr + 1 })

/-- Whether the mode lets an output read a slot (R48, R273). -/
def Quad.live (q : Quad) (s : Nat) : Bool := q.mode == .run || (q.mode == .hardpan && q.kind s == 6)

/-- An input word of `w` bits, left-aligned in 32, in Q8.31 (R363). -/
def inWord (w : Nat) (v : W32) : W40 := (BitVec.ofNat 32 (v.toNat / 2 ^ (32 - w) * 2 ^ (32 - w))).signExtend 40

/-- An output sample rounded and saturated to `w` bits (R363). -/
def outBits (w : Nat) (v : W40) : Int :=
  let r := roundShift v.toInt (32 - w) 0
  max (-(2 : Int) ^ (w - 1)) (min r ((2 : Int) ^ (w - 1) - 1))

/-- An output word of `w` bits, left-aligned in 32 (R360, R363). -/
def outWord (w : Nat) (v : W40) : W32 := BitVec.ofInt 32 (outBits w v * (2 : Int) ^ (32 - w))

/-! ### Serial ports -/

/-- Slots of a port's frame. -/
def Quad.tdmSlots (q : Quad) (p : Nat) : Nat := q.fld (Reg.PRT_TDMCFG_SLOTS p) + 1
/-- Width of its slots. -/
def Quad.tdmWidth (q : Quad) (p : Nat) : Nat := q.fld (Reg.PRT_TDMCFG_WIDTH p) + 1
/-- Grid samples to a frame (R362). -/
def Quad.tdmDiv (q : Quad) (p : Nat) : Nat := 2 ^ q.fld (Reg.PRT_TDMCFG_RDIV p)
/-- Whether a port is a clock master. -/
def Quad.tdmMaster (q : Quad) (p : Nat) : Bool := q.flag (Reg.PRT_TDMCFG_MS p)

/-- The frame slots that a mask makes active, in order (R366). -/
def activeSlots (n : Nat) (mask : W32) : List Nat := (List.range n).filter fun c => mask.getLsbD c

/-- The number of bits set in a mask. -/
def popcount32 (m : W32) : Nat := ((List.range 32).filter fun i => m.getLsbD i).length

/-- Bit clocks from the first data bit of a slot to that of the next (R360). -/
def Quad.tdmStride (q : Quad) (p : Nat) : Nat :=
  if q.fld (Reg.PRT_TDMCFG_FMT p) < 2 then q.fld (Reg.PRT_TDMCFG_FLEN p) / 2 else q.tdmWidth p
/-- Bit clocks from the frame-sync edge to the first data bit (R360). -/
def Quad.tdmDelay (q : Quad) (p : Nat) : Nat :=
  match q.fld (Reg.PRT_TDMCFG_FMT p) with
  | 0 => 1
  | 1 => 0
  | _ => q.fld (Reg.PRT_TDMCFG_DLY p)
/-- The levels of FS over a frame of a clock master, one to a bit clock from the frame-sync edge on (R359, R360). -/
def Quad.tdmFs (q : Quad) (p : Nat) : List Bool :=
  let n := q.fld (Reg.PRT_TDMCFG_FLEN p)
  (List.range n).map fun b => q.flag (Reg.PRT_TDMCFG_FSPOL p) != (match q.fld (Reg.PRT_TDMCFG_FMT p) with
    | 0 => decide (n / 2 ≤ b)
    | 1 => decide (b < n / 2)
    | 2 => b == 0
    | _ => decide (b < q.tdmWidth p))
/-- The levels of BCLK over one bit clock of a frame that a clock master sends, the half that begins with the change of the outputs first, and
those of FS over the frame (R359, R48): none where the port takes both from outside; low in SCOUR. With BCLKPOL 0 the outputs change on
the falling edge, and the inputs are sampled on the rising edge, between the halves. -/
def Quad.tdmClocks (q : Quad) (p : Nat) : Option ((Bool × Bool) × List Bool) :=
  if q.mode == .scour then some ((false, false), [false])
  else if !q.flag (Reg.PRT_TDMCFG_EN p) || !q.tdmMaster p then none
  else
    let pol := q.flag (Reg.PRT_TDMCFG_BCLKPOL p)
    some ((pol, !pol), q.tdmFs p)

/-- The words of a frame's slots, left-aligned in 32 bits, from its bits: MSB first (R360); a bit that did not come is 0. -/
def Quad.tdmWords (q : Quad) (p : Nat) (bits : List Bool) : List W32 :=
  let w := q.tdmWidth p
  (List.range (q.tdmSlots p)).map fun s =>
    BitVec.ofNat 32 ((List.range w).foldl (fun x b => 2 * x + b2n (bits.getD (s * q.tdmStride p + b) false)) 0 * 2 ^ (32 - w))
/-- The levels of a frame at the output from the words of its slots, none of an inactive one (R360, R366): what is neither is low, or high
impedance with TRI. -/
def Quad.tdmLevels (q : Quad) (p : Nat) (words : List (Option W32)) : List (Option Bool) :=
  let idle : Option Bool := if q.flag (Reg.PRT_TDMCFG_TRI p) then none else some false
  (List.range (q.fld (Reg.PRT_TDMCFG_FLEN p))).map fun b =>
    if b % q.tdmStride p < q.tdmWidth p then
      match words.getD (b / q.tdmStride p) none with
      | some v => some (v.getLsbD (31 - b % q.tdmStride p))
      | none => idle
    else idle

/-- The samples of a received frame by signal slot (R363, R366): active slots in order, then zeros up to `len`. -/
def frameSamples (n w len : Nat) (mask : W32) (words : List W32) : List W40 :=
  let a := (activeSlots n mask).map fun c => inWord w (words.getD c 0)
  (a ++ List.replicate (len - a.length) 0).take (max len a.length)

/-- A sample time of a port's input slots stored (R366); a tick has four. -/
def Quad.tdmStore (q : Quad) (p j : Nat) (v : List W40) : Quad :=
  let base := q.fld (Reg.PRT_TDMCFG_INBASE p)
  if j ≥ 4 then q else (List.range v.length).foldl (fun q i => q.ioStore 1 (base + i) j (v.getD i 0)) q

/-- What the converter makes of the histories of all channels: one sample of each. -/
def Quad.convertAll (q : Quad) (kind : Nat) : List (List W40) → List W40 × Quad
  | [] => ([], q)
  | h :: t =>
    let r := q.convert kind h
    let s := r.2.convertAll kind t
    (r.1 :: s.1, s.2)

/-- Histories with one more sample of each channel, as far back as `n`. -/
def pushHist (hist : List (List W40)) (v : List W40) (n : Nat) : List (List W40) :=
  (List.range v.length).map fun i => (v.getD i 0 :: hist.getD i []).take n

/-- The grid instants of this tick that have passed, the boundary's own among them (R365). -/
def Quad.gridPassed (q : Quad) : Nat := min 4 (4 * (q.cclk - q.bndCclk) / cclkPerTick q.fi + 1)

/-- Nanoseconds of a number of CCLK cycles (R24). -/
def cclkNs (n : Int) : Int := n * 625 / 768

/-- The instant of sample `j` of the tick in CCLK cycles. -/
def Quad.instant (q : Quad) (j : Nat) : Nat := q.bndCclk + j * cclkPerTick q.fi / 4

/-- Grid samples of a port from one frame's samples: the frame itself at Fi, else what the converter makes of it (R364). -/
def Quad.tdmFeed (q : Quad) (p : Fin 8) (j : Nat) (v : List W40) : Quad :=
  let div := q.tdmDiv p.val
  if div = 1 then q.tdmStore p.val j v
  else
    (List.range div).foldl (fun q i =>
      let r := q.convertAll 1 q.prt.tdm[p].inHist
      r.2.tdmStore p.val (j + i) r.1) (q.mapTdm p fun t => { t with inHist := pushHist t.inHist v 64 })

/-- Bit clocks from the frame-sync edge to the end of the last data bit (R360). -/
def Quad.tdmSpan (q : Quad) (p : Nat) : Nat := q.tdmDelay p + (q.tdmSlots p - 1) * q.tdmStride p + q.tdmWidth p

/-- The instant of the frame-sync edge of a slave's frame that ends now, by its length (R360, R369). -/
def Quad.slaveFs (q : Quad) (p : Nat) : W64 :=
  BitVec.ofInt 64 ((q.nsFine.toNat : Int) - (q.tdmSpan p * 1000000 * q.tdmDiv p : Nat) /
    ((fiKHz q.fi * max 1 (q.fld (Reg.PRT_TDMCFG_FLEN p)) : Nat) : Int))

/-- Frames of a direct slave port that should have completed since its last one (R365). DESIGN CHOICE (log 145): a frame is missing half a
period after it is due. -/
def Quad.overdue (q : Quad) (p : Fin 8) : Nat :=
  let per := cclkPerTick q.fi * q.tdmDiv p.val / 4
  (q.cclk - q.prt.tdm[p].endCycle - per / 2) / max 1 per

/-- These frames counted, as far as they are not yet. -/
def Quad.countMissing (q : Quad) (p : Fin 8) (n : Nat) : Quad :=
  (q.count (Reg.PRT_TDMSTAT_MISSING p.val) (n - q.prt.tdm[p].missed)).mapTdm p fun t => { t with missed := max n t.missed }

/-- The map that the samples of a block follow, changed at sample `j` (R368). -/
def PortDir.follow (d : PortDir) (m : Nat × W32) (j : Nat) : PortDir :=
  if d.shown = m then d else { d with shown := m, chgJ := some (j % 4) }

/-- One frame instant of a direct slave port: the latest frame, or zeros while it is lost, a second use being a slip (R365). -/
def Quad.slaveSample (q : Quad) (p : Fin 8) (j : Nat) : Quad :=
  let t := q.prt.tdm[p]
  let len := q.fld (Reg.PRT_TDMCFG_INLEN p.val)
  if q.flag (Reg.PRT_TDMSTAT_LOST p.val) then
    ((List.range (q.tdmDiv p.val)).foldl (fun q i => q.tdmStore p.val (j + i) (List.replicate len 0)) q).mapBlock p.val fun b =>
      { b with lost := true }
  else
    let q := q.tdmFeed p j (t.latest ++ List.replicate (len - t.latest.length) 0)
    if !t.had then q
    else
      let q := q.setFld (Reg.PRT_TDMSTAT_PHASE p.val) (w32 (cclkNs ((q.instant j : Int) - t.endCycle)).toNat).toNat
      let q := if t.used ≥ 1 then (q.count (Reg.PRT_TDMSTAT_SLIP p.val) 1).mapBlock p.val fun b => { b with slip := true } else q
      let q := if j = 0 then q.mapBlock p.val fun b => { b with ts := some (t.fsNs.setWidth 32) } else q
      q.mapTdm p fun t => { t with used := t.used + 1, inp := t.inp.follow t.latestMap j }

/-- The frame instants of a direct slave port up to (and without) sample `n` of the tick. -/
def Quad.slaveUpTo (q : Quad) (p : Fin 8) (n : Nat) : Quad :=
  let first := q.prt.tdm[p].inJ
  ((List.range n).filter fun j => decide (first ≤ j ∧ j % q.tdmDiv p.val = 0)).foldl (fun q j => q.slaveSample p j)
    (q.mapTdm p fun t => { t with inJ := max n t.inJ })

/-- Samples pushed into a group's channels from one frame (R363, R373): histories as far back as the converter reaches. -/
def Quad.asrcPush (q : Quad) (g : Fin 12) (v : List W40) : Quad :=
  q.mapAsrc g fun a => { a with hist := pushHist a.hist v 1024, times := (a.lastEdge :: a.times).take 1024 }

/-- A frame whose samples a group replaces by zeros, all of them or those of one channel. -/
def Quad.asrcReplace (q : Quad) (g : Fin 12) (channel : Option Nat) : Quad :=
  q.mapAsrc g fun a => { a with replaced := ((a.lastEdge, channel) :: a.replaced).take 1024 }

/-- The samples of a frame that reach a group: zeros in place of a glitched frame (R380). -/
def Quad.asrcFrame (q : Quad) (g : Fin 12) (v : List W40) : Quad :=
  if q.prt.asrc[g].glitched then (q.asrcReplace g none).asrcPush g (v.map fun _ => 0) else q.asrcPush g v

/-- The input side of a frame (R363 to R366). -/
def Quad.frameIn (q : Quad) (p : Fin 8) (data : List Bool) : Quad :=
  let n := q.tdmSlots p.val
  let t := q.prt.tdm[p]
  let words := q.tdmWords p.val data
  let bad := decide (data.length ≠ q.fld (Reg.PRT_TDMCFG_FLEN p.val))
  let slave := !q.tdmMaster p.val
  let q := if slave && bad then q.count (Reg.PRT_TDMSTAT_BADLEN p.val) 1 else q
  if !q.flag (Reg.PRT_TDMCFG_IEN p.val) then q
  else if q.flag (Reg.PRT_TDMCFG_IMODE p.val) then
    q.asrcFrame ⟨p.val, by omega⟩ (frameSamples n (q.tdmWidth p.val) 0 t.inp.mask words)
  else
    let v := frameSamples n (q.tdmWidth p.val) (q.fld (Reg.PRT_TDMCFG_INLEN p.val)) t.inp.mask words
    let div := q.tdmDiv p.val
    if slave then
      let q := (q.slaveUpTo p q.gridPassed).countMissing p (q.overdue p)
      let t := q.prt.tdm[p]
      let q := if t.used = 0 && !q.flag (Reg.PRT_TDMSTAT_LOST p.val) then (q.count (Reg.PRT_TDMSTAT_SLIP p.val) 1).mapBlock p.val fun b => { b with slip := true } else q
      let good := if bad then 0 else t.good + 1
      let q := if good ≥ 16 then q.setFld (Reg.PRT_TDMSTAT_LOST p.val) 0 else q
      q.mapTdm p fun t => { t with latest := v, latestMap := (q.fld (Reg.PRT_TDMSTAT_IEPOCH p.val), t.inp.mask), used := 0, had := true,
                                   endCycle := q.cclk, missed := 0, good := good }
    else (q.tdmFeed p t.inJ v).mapTdm p fun t => { t with inJ := t.inJ + div }

/-- A sample of an output slot as the mode lets it play (R31, R48). -/
def Quad.playSample (q : Quad) (s j : Nat) : W40 := if q.live s && decide (j < 4) then q.readView s j else 0

/-- Samples of output slots with zeros where the mode mutes the slot, whatever its converter still holds (R48, R273). -/
def Quad.muted (q : Quad) (slots : List Nat) (v : List W40) : List W40 :=
  List.zipWith (fun s x => if q.live s then x else 0) slots v

/-- The output side of a frame (R31, R360, R363, R366): the levels driven. -/
def Quad.frameOut (q : Quad) (p : Fin 8) : Quad :=
  if !q.flag (Reg.PRT_TDMCFG_OEN p.val) then q
  else
    let n := q.tdmSlots p.val
    let t := q.prt.tdm[p]
    let act := activeSlots n t.out.mask
    let base := q.fld (Reg.PRT_TDMCFG_OUTBASE p.val)
    let div := q.tdmDiv p.val
    let at_ (j : Nat) : List W40 := (List.range act.length).map fun i => q.playSample (base + i) j
    let q := ((List.range act.length).filter fun i => q.live (base + i)).foldl (fun q i =>
      q.noteSlot (base + i) (((List.range div).map fun k => t.outJ + k).filter fun j => decide (j < 4))) q
    let (v, q) :=
      if div = 1 then (at_ t.outJ, q)
      else
        let h := (List.range div).foldl (fun h k => pushHist h (at_ (t.outJ + k)) 64) t.outHist
        let q := q.mapTdm p fun t => { t with outHist := h }
        let r := q.convertAll 2 h
        if q.mode == .run || q.mode == .hardpan then (q.muted ((List.range act.length).map fun i => base + i) r.1, r.2)
        else (act.map fun _ => 0, q)
    let word (c : Nat) : Option W32 :=
      if act.contains c then some (outWord (q.tdmWidth p.val) (v.getD ((act.filter fun x => decide (x < c)).length) 0)) else none
    q.mapTdm p fun t => { t with driven := q.tdmLevels p.val ((List.range n).map word), outJ := t.outJ + div }

/-- SERIAL_FRAME (R364 to R366). -/
def Quad.serialFrame (q : Quad) (p : Fin 8) (bits : List Bool) : Quad :=
  if !q.flag (Reg.PRT_TDMCFG_EN p.val) || q.mode == .scour then q
  else ((q.mapTdm p fun t => { t with fsNs := q.slaveFs p.val }).frameIn p bits).frameOut p

/-- SERIAL_LOST (R365): four frame periods of a direct slave port without a frame. -/
def Quad.serialLost (q : Quad) (p : Fin 8) : Quad :=
  if q.flag (Reg.PRT_TDMCFG_EN p.val) && !q.tdmMaster p.val && q.flag (Reg.PRT_TDMCFG_IEN p.val) &&
      !q.flag (Reg.PRT_TDMCFG_IMODE p.val) && q.mode != .scour then
    let q := (q.slaveUpTo p q.gridPassed).countMissing p (max 4 (q.overdue p))
    ((q.raise (Reg.PRT_TDMSTAT_LOST p.val)).raise (Reg.PRT_TDMSTAT_LOSTS p.val)).mapTdm p fun t => { t with good := 0 }
  else q

/-- Whether a configuration of a serial port may be enabled (R360 to R362). -/
def Quad.tdmOk (q : Quad) (p : Nat) : Bool :=
  let n := q.tdmSlots p
  let w := q.tdmWidth p
  let fl := q.fld (Reg.PRT_TDMCFG_FLEN p)
  let fmt := q.fld (Reg.PRT_TDMCFG_FMT p)
  let rdiv := q.fld (Reg.PRT_TDMCFG_RDIV p)
  let fs := 1000 * fiKHz q.fi / 2 ^ rdiv
  let master := q.tdmMaster p
  let conv := q.flag (Reg.PRT_TDMCFG_IMODE p)
  decide (16 ≤ w ∧ 32 ≤ fl ∧ fl ≤ 512 ∧ n * w ≤ fl ∧ rdiv ≠ 3) &&
    (if fmt < 2 then decide (n = 2 ∧ 2 * w ≤ fl ∧ fl % 2 = 0) else decide (2 ≤ n)) &&
    (if master then decide (24576000 % (fs * fl) = 0) && !conv
     else if conv then !q.flag (Reg.PRT_TDMCFG_OEN p) else decide (fs * fl ≤ 24600000))

/-- A mask write (R366, R367): refused, or waiting for a frame start. -/
def Quad.maskWrite (q : Quad) (p : Fin 8) (input : Bool) (mask : W32) : Quad :=
  let n := popcount32 mask
  let lim := if input then
      (if q.flag (Reg.PRT_TDMCFG_IMODE p.val) then q.fld (Reg.ASR_GRP_COUNT p.val) else q.fld (Reg.PRT_TDMCFG_INLEN p.val))
    else q.fld (Reg.PRT_TDMCFG_OUTLEN p.val)
  if n > lim ∨ n > q.tdmSlots p.val then q.raise Reg.PRT_CTL_WERR
  else
    let q := q.wr (if input then (Reg.PRT_TDMCFG_IMASK p.val).off else (Reg.PRT_TDMCFG_OMASK p.val).off) mask
    (q.raise (Reg.PRT_TDMSTAT_MPEND p.val)).mapTdm p fun t =>
      if input then { t with inp := { t.inp with pend := some mask } } else { t with out := { t.out with pend := some mask } }

/-- A waiting mask put in force in a direction, under an epoch; `j` is the sample that first follows it, unless the frames that it maps
reach their samples later. -/
def PortDir.apply (d : PortDir) (tick : W64) (epoch : Nat) (j : Option Nat) : PortDir :=
  match d.pend with
  | some m =>
    let d := { d with mask := m, pend := none, changed := some tick }
    match j with | some j => { d with shown := (epoch, m), chgJ := some (j % 4) } | none => d
  | none => d

/-- MASK_CHANGE_EFFECT (R367): at a frame start, once a tick. A channel of an ASRC input that moves to another frame slot starts from no
history; it fades in where the first frame of the new map reaches the output. -/
def Quad.maskEffect (q : Quad) (p : Fin 8) (input : Bool) : Quad :=
  let t := q.prt.tdm[p]
  let d := if input then t.inp else t.out
  if d.pend.isNone ∨ d.changed = some q.tick ∨ !q.flag (Reg.PRT_TDMCFG_EN p.val) then q
  else
    let f := if input then Reg.PRT_TDMSTAT_IEPOCH p.val else Reg.PRT_TDMSTAT_OEPOCH p.val
    let q := q.setFld f (q.fld f + 1)
    let conv := input && q.flag (Reg.PRT_TDMCFG_IMODE p.val)
    let q := if conv then
        let old := activeSlots (q.tdmSlots p.val) d.mask
        let new := activeSlots (q.tdmSlots p.val) (d.pend.getD 0)
        let moved := (List.range new.length).map fun i => decide (old[i]? ≠ new[i]?)
        (q.mapAsrc ⟨p.val, by omega⟩ fun a =>
          { a with hist := (List.range a.hist.length).map fun i => if old[i]? = new[i]? then a.hist.getD i [] else [] }).mapTdm p fun t =>
            { t with maps := t.maps ++ [⟨q.nsFine, q.fld f, d.pend.getD 0, moved⟩] }
      else q
    let lag := input && (conv || !q.tdmMaster p.val)
    let q := q.mapTdm p fun t =>
      if input then { t with inp := t.inp.apply q.tick (q.fld f) (if lag then none else some t.inJ) }
      else { t with out := t.out.apply q.tick (q.fld f) (some t.outJ) }
    q.setFld (Reg.PRT_TDMSTAT_MPEND p.val) (b2n (q.prt.tdm[p].inp.pend.isSome || q.prt.tdm[p].out.pend.isSome))

/-! ### ASRC groups -/

/-- The channel range of a group. -/
def Quad.grpRange (q : Quad) (g : Nat) : Nat × Nat := (q.fld (Reg.ASR_GRP_BASE g), q.fld (Reg.ASR_GRP_COUNT g))

/-- Whether a group may be enabled (R376). -/
def Quad.asrcOk (q : Quad) (g : Nat) : Bool :=
  let (b, n) := q.grpRange g
  decide (1 ≤ n ∧ n ≤ 32 ∧ b + n ≤ 128) &&
    (List.range 12).all fun h =>
      let (c, m) := q.grpRange h
      h == g || !q.flag (Reg.ASR_GRP_EN h) || decide (b + n ≤ c) || decide (c + m ≤ b)

/-- The code of a state (R384). -/
def AsrcState.code : AsrcState → Nat
  | .idle => 0 | .acquire => 1 | .locked => 2 | .lost => 3

/-- A group moved to a state, which its register shows. -/
def Quad.setAsrc (q : Quad) (g : Fin 12) (s : AsrcState) : Quad :=
  (q.setFld (Reg.ASR_GRP_STATE g.val) s.code).mapAsrc g fun a => { a with state := s }

/-- The smallest offset (R381). -/
def aofsMin (fi ratio : Nat) : Nat := ceilDiv (17 * 2 ^ 28 * 1000000) (16 * max 1 ratio * fiKHz fi) + 2000

/-- The tracked period in nanoseconds, rounded down. -/
def Quad.asrcPeriod (q : Quad) (g : Nat) : Nat := 2 ^ 28 * 1000000 / (max 1 (q.fld (Reg.ASR_GRP_RATIO g)) * fiKHz q.fi)

/-- The header block that a group's source belongs to (R368). -/
def asrcBlock (g : Fin 12) : Nat := if g.val < 8 then g.val else g.val + 8

/-- Entry to LOCKED (R379, R381); the block of this tick was not in LOCKED as a whole. -/
def Quad.asrcLock (q : Quad) (g : Fin 12) : Quad :=
  let m := aofsMin q.fi (q.fld (Reg.ASR_GRP_RATIO g.val))
  let target := q.fld (Reg.ASR_GRP_TARGET g.val)
  let align := q.flag (Reg.ASR_GRP_ALIGN g.val)
  let q := if align ∧ target < m then q.raise (Reg.ASR_GRP_AOFSLOW g.val) else q
  let q := q.setFld (Reg.ASR_GRP_AOFS g.val) (if align then max target m else m)
  let q := (q.setAsrc g .locked).mapBlock (asrcBlock g) fun b => { b with unlocked := true }
  (q.raise (Reg.ASR_GRP_FADING g.val)).mapAsrc g fun a => { a with fadeIn := 32, chFade := [], sinceGlitch := none }

/-- Entry to LOST (R379, R382). -/
def Quad.asrcLost (q : Quad) (g : Fin 12) : Quad :=
  let q := (q.setAsrc g .lost).raise (Reg.ASR_GRP_LOSTS g.val)
  (q.setFld (Reg.ASR_GRP_FADING g.val) 0).mapAsrc g fun a => { a with good := 0 }

/-- A glitched frame (R378 to R380), counted once, whatever makes it so. -/
def Quad.asrcGlitch (q : Quad) (g : Fin 12) : Quad :=
  let a := q.prt.asrc[g]
  if a.glitched then q
  else
    let q := q.mapAsrc g fun a => { a with glitched := true }
    match a.state with
    | .locked =>
      if a.sinceGlitch.isSome then q.asrcLost g
      else (q.count (Reg.ASR_GRP_GLITCH g.val) 1).mapAsrc g fun a => { a with sinceGlitch := some 0 }
    | .acquire => q.mapAsrc g fun a => { a with good := 0 }
    | _ => q

/-- The ratios of the last 10 ms, with the one in force as they began. -/
def recentRatios (now : W64) : List (W64 × W32) → List (W64 × W32)
  | [] => []
  | x :: t => if x.1.toNat + 10000000 ≤ now.toNat then [x] else x :: recentRatios now t

/-- Whether the ratio has moved by no more than 2 ppm over the last 10 ms (R379). -/
def Asrc.steady (a : Asrc) (ratio : W32) : Bool :=
  a.ratios.all fun x => decide (((x.2.toNat : Int) - ratio.toNat).natAbs * 1000000 ≤ 2 * ratio.toNat)

/-- A frame edge accepted (R377, R378): the ratio tracked, and of an edge that begins a frame the frames in a row. -/
def Quad.asrcAccept (q : Quad) (g : Fin 12) (ratio : W32) (first : Bool) : Quad :=
  (q.wr (Reg.ASR_GRP_RATIO g.val).off ratio).mapAsrc g fun a =>
    { a with good := if first then a.good + 1 else a.good, edge := q.nsFine, ratios := (q.nsFine, ratio) :: recentRatios q.nsFine a.ratios
             sinceGlitch := if first then (match a.sinceGlitch with | some n => if n + 1 ≥ 16 then none else some (n + 1) | none => none)
               else a.sinceGlitch }

/-- ASRC_FRAME_EDGE (R377 to R379): `dev` is the edge's distance in ns from the instant the tracker expects. -/
def Quad.asrcEdge (q : Quad) (g : Fin 12) (dev : Int) (ratio : W32) (pre : Preamble) : Quad :=
  let a := q.prt.asrc[g]
  let first := pre != .y
  let inWin := decide (16 * dev.natAbs ≤ q.asrcPeriod g.val)
  let q := if pre = .z ∧ 8 ≤ g.val then q.mapRx ⟨(g.val - 8) % 4, by omega⟩ fun x => { x with zTs := q.ts } else q
  let q := if a.state = .idle ∨ !first then q else q.mapAsrc g fun a => { a with lastEdge := q.nsFine, glitched := false }
  match a.state with
  | .idle => q
  | .lost => (((q.setAsrc g .acquire).setFld (Reg.ASR_GRP_FADING g.val) 0).mapAsrc g fun a => { a with good := 0 }).asrcAccept g ratio first
  | .acquire =>
    if a.good = 0 ∨ inWin then
      let q := q.asrcAccept g ratio first
      if q.prt.asrc[g].steady ratio ∧ q.prt.asrc[g].good ≥ 16 then q.asrcLock g else q
    else q.asrcGlitch g
  | .locked => if inWin then q.asrcAccept g ratio first else q.asrcGlitch g

/-- ASRC_FRAME_MISSING (R378, R379): a serial port counts the frame, a receiver has lost its lock (R384). -/
def Quad.asrcMissing (q : Quad) (g : Fin 12) : Quad :=
  let q := if g.val ≥ 8 then q.setFld (Reg.PRT_AESRXSTAT_LOCK (g.val - 8)) 0 else q
  let q := if g.val < 8 ∧ (q.prt.asrc[g].state = .locked ∨ q.prt.asrc[g].state = .acquire) then
      q.count (Reg.PRT_TDMSTAT_MISSING g.val) 1 else q
  match q.prt.asrc[g].state with
  | .locked => q.asrcLost g
  | .acquire => q.mapAsrc g fun a => { a with good := 0 }
  | _ => q

/-- ASRC_GROUP_ENABLE (R376, R379). -/
def Quad.asrcEnable (q : Quad) (g : Fin 12) : Quad :=
  if q.flag (Reg.ASR_GRP_EN g.val) then q
  else if q.asrcOk g.val then
    ((q.raise (Reg.ASR_GRP_EN g.val)).mapAsrc g fun _ =>
      { ({} : Asrc) with ratios := [(q.nsFine, q.rd (Reg.ASR_GRP_RATIO g.val).off)] }).setAsrc g .acquire
  else q.raise Reg.ASR_CTL_WERR

/-- EN of a group written to 0: IDLE. -/
def Quad.asrcDisable (q : Quad) (g : Fin 12) : Quad :=
  ((q.setFld (Reg.ASR_GRP_EN g.val) 0).setFld (Reg.ASR_GRP_FADING g.val) 0 |>.mapAsrc g fun _ => {}).setAsrc g .idle

/-- The input instant of sample `j` of the tick, in ns (R381). -/
def Quad.asrcInst (q : Quad) (g : Fin 12) (j : Nat) : Int :=
  (q.bndFine.toNat : Int) - q.fld (Reg.ASR_GRP_AOFS g.val) + (((j : Int) - 32) * 1000000).fdiv (fiKHz q.fi : Int)

/-- The output samples by which the last accepted edge lies after the input instant of sample `j` of the tick (R382). -/
def Quad.asrcLeft (q : Quad) (g : Fin 12) (j : Nat) : Int :=
  let f : Int := fiKHz q.fi
  (((q.prt.asrc[g].edge.toNat : Int) - q.bndFine.toNat + q.fld (Reg.ASR_GRP_AOFS g.val)) * f + (32 - (j : Int)) * 1000000).fdiv 1000000

/-- The sample of a channel at sample `j` before any fade (R381), by the input samples within reach; zero from zeros. -/
def Quad.asrcPlain (q : Quad) (g : Fin 12) (i j : Nat) : W40 :=
  let a := q.prt.asrc[g]
  let l := ((a.hist.getD i []).zip (a.times.map fun t => (t.toNat : Int) - q.asrcInst g j)).filter fun x =>
    decide (x.2.natAbs ≤ Config.asrcReach)
  if l.all fun x => x.1 == 0 then 0 else Config.asrcValue l

/-! Fades (R367, R373, R379, R380, R382). DESIGN CHOICE (log 146): sample `m` of a fade of `n` samples, from 0 on, has the gain (m + 1) / n as it
comes in and 1 less that as it goes out, as R243 weighs a crossfade; gains that meet are multiplied, and the product is rounded to nearest,
a tie upward. -/

/-- A sample under a gain. -/
def fadeBy (v : W40) (num den : Nat) : W40 := BitVec.ofInt 40 ((2 * v.toInt * num + den) / (2 * den))

/-- The gain of a fade-in over 32 samples of which `left` are still to come, this one among them, in 32nds. -/
def fadeInGain (left : Nat) : Nat := if left = 0 then 32 else 33 - min 32 left

/-- The gain, in eighths, that a frame replaced at time `t` leaves sample `j` (R373, R380): none where the sample depends on the frame, and
fades over the eight samples before these and after them. -/
def Quad.microGain (q : Quad) (g : Fin 12) (t : W64) (j : Nat) : Nat :=
  let d : Int := (t.toNat : Int) - q.asrcInst g j
  let past : Int := d.natAbs - Config.asrcReach
  if past ≤ 0 then 0
  else
    let k := ((past * fiKHz q.fi + 999999) / 1000000).toNat
    min 8 (if 0 < d then k - 1 else k)

/-- The smallest such gain of a channel at sample `j`, over the frames that are replaced in it. -/
def Quad.microMin (q : Quad) (g : Fin 12) (i j : Nat) : Nat :=
  (q.prt.asrc[g].replaced.filter fun r => r.2 == none || r.2 == some i).foldl (fun m r => min m (q.microGain g r.1 j)) 8

/-- Whether a frame that was glitched affects sample `j` (R368). -/
def Quad.asrcMarked (q : Quad) (g : Fin 12) (j : Nat) : Bool :=
  q.prt.asrc[g].replaced.any fun r => r.2 == none && decide (q.microGain g r.1 j < 8)

/-- The sample of a channel at sample `j` under every fade that runs; `out` is the gain of a fade-out, in 32nds. -/
def Quad.asrcFaded (q : Quad) (g : Fin 12) (out i j : Nat) : W40 :=
  let a := q.prt.asrc[g]
  fadeBy (q.asrcPlain g i j) (fadeInGain a.fadeIn * fadeInGain (a.chFade.getD i 0) * q.microMin g i j * out) (32 * 32 * 8 * 32)

/-- The maps of an ASRC input that the samples from `j` on follow (R367, R368), all of them where the group gives no input: the channels that
they move fade in. -/
def Quad.asrcMap (q : Quad) (g : Fin 12) (all : Bool) (j : Nat) : Quad :=
  if h : g.val < 8 then
    let due (m : MapUse) : Bool := all || decide ((m.time.toNat : Int) ≤ q.asrcInst g j)
    let l := (q.prt.tdm[(⟨g.val, h⟩ : Fin 8)]).maps.filter due
    match l.getLast? with
    | none => q
    | some m =>
      let moved (i : Nat) : Bool := l.any fun m => m.moved.getD i false
      (q.mapTdm ⟨g.val, h⟩ fun t =>
        { t with maps := t.maps.filter fun m => !due m, inp := { t.inp with shown := (m.epoch, m.mask), chgJ := some j } }).mapAsrc g fun a =>
          { a with chFade := (List.range 32).map fun i => if moved i then 32 else a.chFade.getD i 0 }
  else q

/-- The validity bits of the frame nearest to the input instant of sample `j` (R373). -/
def Quad.asrcVbit (q : Quad) (g : Fin 12) (j : Nat) : Bool × Bool :=
  let a := q.prt.asrc[g]
  let far (t : W64) : Nat := ((t.toNat : Int) - q.asrcInst g j).natAbs
  match a.times.zip a.vbits with
  | [] => (false, false)
  | x :: l => (l.foldl (fun best y => if far y.1 < far best.1 then y else best) x).2

/-- One output sample of a group's channels (R379 to R382). -/
def Quad.asrcSample (q : Quad) (g : Fin 12) (j : Nat) : Quad :=
  let n := q.fld (Reg.ASR_GRP_COUNT g.val)
  let s := q.fld (Reg.ASR_GRP_SLOT g.val)
  let put (q : Quad) (v : List W40) : Quad := (List.range n).foldl (fun q i => q.ioStore 1 (s + i) j (v.getD i 0)) q
  match q.prt.asrc[g].state with
  | .idle => q
  | .acquire => put (q.asrcMap g true j) (List.replicate n 0)
  | st =>
    let q := q.asrcMap g false j
    let a := q.prt.asrc[g]
    let left := if st = .lost then q.asrcLeft g j else 32
    let q := if st = .lost then q.mapBlock (asrcBlock g) fun b => { b with lost := true } else q
    if left < 0 then (put q (List.replicate n 0)).setFld (Reg.ASR_GRP_FADING g.val) 0
    else
      let out := min 32 left.toNat
      let micro := (List.range n).any fun i => decide (q.microMin g i j < 8)
      let fades := decide (out < 32) || decide (0 < a.fadeIn) || a.chFade.any (fun k => decide (0 < k)) || micro
      let goes := decide (0 < left ∧ out < 32) || decide (1 < a.fadeIn) || a.chFade.any (fun k => decide (1 < k)) || micro
      let q := put q ((List.range n).map fun i => q.asrcFaded g out i j)
      ((q.mapAsrc g fun a => { a with fadeIn := a.fadeIn - 1, chFade := a.chFade.map (· - 1) }).mapBlock (asrcBlock g) fun b =>
        { b with fade := b.fade || fades, glitch := b.glitch || q.asrcMarked g j }).setFld (Reg.ASR_GRP_FADING g.val) (b2n goes)

/-- The samples that a group writes in the tick that ends, and its block's marks (R376, R368). -/
def Quad.asrcEnd (q : Quad) (g : Fin 12) : Quad :=
  if !q.flag (Reg.ASR_GRP_EN g.val) then q.asrcMap g true 0
  else
    let q := [0, 1, 2, 3].foldl (fun q j => q.asrcSample g j) q
    let a := q.prt.asrc[g]
    let bits := ((List.range 4).map fun j => 2 ^ j * b2n (q.asrcVbit g j).1 + 2 ^ (4 + j) * b2n (q.asrcVbit g j).2).sum
    q.mapBlock (asrcBlock g) fun b =>
      { b with ts := some (BitVec.ofInt 32 (q.asrcInst g 0)), unlocked := b.unlocked || a.state != .locked, vbits := BitVec.ofNat 8 bits }

/-- LOCK of a group's block (R368): in LOCKED for the whole of it. -/
def Quad.asrcLocked (q : Quad) (g : Fin 12) : Bool :=
  q.prt.asrc[g].state == .locked && !(q.prt.blocks.get (asrcBlock g) {}).unlocked

/-! ### AES3 -/

/-- The channel-status CRC of AES3 over bytes (x⁸ + x⁴ + x³ + x² + 1, all ones at the start, least significant bit first;
PRESUMED from the standard that R372 names, log 12). -/
def aesCrc (bytes : List Byte) : Byte :=
  bytes.foldl (fun c b =>
    (List.range 8).foldl (fun (c : Byte) i =>
      if c.getLsbD 0 != b.getLsbD i then (c >>> 1) ^^^ 0xB8 else c >>> 1) c) 0xFF

/-- The bytes of a channel-status block from its 192 bits, bit 0 of byte 0 first (R372). -/
def csBytes (bits : List Bool) : List Byte :=
  (List.range 24).map fun i => BitVec.ofNat 8 ((List.range 8).map fun k => 2 ^ k * b2n (bits.getD (8 * i + k) false)).sum

/-- Six words of 24 bytes. -/
def csWords (bytes : List Byte) : List W32 := (List.range 6).map fun i => w32 (ofBytesLE ((bytes.drop (4 * i)).take 4))

/-- The 24 bytes of six words. -/
def wordBytes (ws : List W32) : List Byte := (ws.map fun w => bytesLE w.toNat 4).flatten

/-- A complete block captured (R372). -/
def Quad.csCapture (q : Quad) (r : Fin 4) (ts zidx : W32) : Quad :=
  let x := q.prt.rx[r]
  let a := csBytes x.csA
  let b := csBytes x.csB
  let bad (c : List Byte) : Bool := (c.getD 0 0).getLsbD 0 && aesCrc (c.take 23) != c.getD 23 0
  let crcbad := q.flag (Reg.PRT_AESRXCFG_CRCCHK r.val) && (bad a || bad b)
  let q := if crcbad then q.raise (Reg.PRT_AESRXSTAT_CRCERR r.val) else q
  let q := (q.setFld (Reg.PRT_CS_SEQ r.val) (q.fld (Reg.PRT_CS_SEQ r.val) + 1)).setFld (Reg.PRT_CS_CRCBAD r.val) (b2n crcbad)
  q.mapRx r fun x => { x with cap := csWords a ++ csWords b ++ [0, ts, zidx] }

/-- The auxiliary byte of a frame (R371). -/
def auxByte (f : AesFrame) : Byte :=
  BitVec.ofNat 8 (b2n f.va + 2 * b2n f.vb + 4 * b2n f.ua + 8 * b2n f.ub + 16 * b2n f.ca + 32 * b2n f.cb + 64 * b2n f.z + 128 * b2n f.par)

/-- The byte written to a receiver's ring (R371). -/
def Quad.auxPush (q : Quad) (r : Nat) (b : Byte) : Quad :=
  let size := 2 ^ q.fld (Reg.PRT_AESRXCFG_LOG2 r)
  let wp := q.rd (Reg.PRT_AESRXCFG_WP r).off
  let rp := q.rd (Reg.PRT_AESRXCFG_RP r).off
  let a := 16 * q.fld (Reg.PRT_AESRXCFG_BASE r) + wp.toNat % size
  let q := if (wp - rp).toNat ≥ size then q.raise (Reg.PRT_AESRXSTAT_RINGOVF r)
    else q.sysWrite 22 a [b]
  q.wr (Reg.PRT_AESRXCFG_WP r).off (wp + 1)

/-- AES3_FRAME_RECEIVE (R370 to R373): the frame is whole; its edges came before it. -/
def Quad.aesReceive (q : Quad) (r : Fin 4) (f : AesFrame) : Quad :=
  if !q.flag (Reg.PRT_AESRXCFG_EN r.val) || q.mode == .scour then q
  else
    let g : Fin 12 := ⟨8 + r.val, by omega⟩
    let zidx := q.rd (Reg.PRT_AESRXCFG_WP r.val).off
    let q := (q.raise (Reg.PRT_AESRXSTAT_LOCK r.val)).auxPush r.val (auxByte f)
    let q := if f.par then (q.count (Reg.PRT_AESRXSTAT_PERR r.val) 1).asrcGlitch g else q
    let mute := q.flag (Reg.PRT_AESRXCFG_VMUTE r.val)
    let smp (v : BitVec 24) (bad : Bool) : W40 :=
      if f.par || (mute && bad) then 0 else ((v.setWidth 32) <<< 8).signExtend 40
    let q := (q.asrcFrame g [smp f.a f.va, smp f.b f.vb]).mapAsrc g fun a => { a with vbits := ((f.va, f.vb) :: a.vbits).take 1024 }
    let q := if mute && f.va then q.asrcReplace g (some 0) else q
    let q := if mute && f.vb then q.asrcReplace g (some 1) else q
    if f.z then
      let x := q.prt.rx[r]
      let q := match x.opened with
        | some (ts, zi) => if x.count = 192 then q.csCapture r ts zi else q.raise (Reg.PRT_AESRXSTAT_SHORT r.val)
        | none => q
      q.mapRx r fun x => { x with count := 1, csA := [f.ca], csB := [f.cb], opened := some (x.zTs, zidx) }
    else
      q.mapRx r fun x => if x.opened.isSome then
        { x with count := satTo 255 (x.count + 1), csA := (x.csA ++ [f.ca]).take 192, csB := (x.csB ++ [f.cb]).take 192 } else x

/-- CS_LATCH_READ (R372): the captured words latched for a reader. -/
def Quad.csLatch (q : Quad) (w : Writer) (r : Fin 4) : Quad :=
  (List.range 15).foldl (fun q i =>
    if i = 12 then q else q.wrCopy w (Reg.PRT_CS r.val + 4 * i) (q.prt.rx[r].cap.getD i 0)) q

/-- TXCS_WRITE (R375). -/
def Quad.txcsWrite (q : Quad) (t : Fin 4) (word : Nat) (v : W32) : Quad :=
  if word < 12 then (q.wr (Reg.PRT_TXCS t.val + 4 * word) v).raise (Reg.PRT_TXCS_PEND t.val) else q

/-- TXCS_APPLY (R375): at a Z preamble. -/
def Quad.txcsApply (q : Quad) (t : Fin 4) : Quad :=
  if q.flag (Reg.PRT_TXCS_PEND t.val) && q.prt.tx[t].count == 0 then
    (q.setFld (Reg.PRT_TXCS_PEND t.val) 0).mapTx t fun x =>
      { x with cs := (List.range 12).map fun i => q.rd (Reg.PRT_TXCS t.val + 4 * i) }
  else q

/-- The 24 bytes that a transmitter sends on a channel: byte 23 computed with AUTOCRC (R375). -/
def Quad.txcsBytes (q : Quad) (t : Fin 4) (b : Bool) : List Byte :=
  let bytes := wordBytes ((q.prt.tx[t].cs.drop (if b then 6 else 0)).take 6)
  if q.flag (Reg.PRT_AESTXCFG_AUTOCRC t.val) then bytes.take 23 ++ [aesCrc (bytes.take 23)] else bytes

/-- The user bits of a frame (R375). -/
def Quad.userBits (q : Quad) (t : Nat) : Bool × Bool × Quad :=
  let base := q.fld (Reg.PRT_AESTXCFG_UBASE t)
  let wp := q.rd (Reg.PRT_AESTXCFG_WP t).off
  let rp := q.rd (Reg.PRT_AESTXCFG_RP t).off
  if base = 0 then (false, false, q)
  else if wp = rp then (false, false, q.count (Reg.PRT_TXCS_UUNDER t) 1)
  else
    let a := 16 * base + rp.toNat % 2 ^ q.fld (Reg.PRT_AESTXCFG_LOG2 t)
    let r := if q.sysRange a 1 then q.memRead (q.phys a) 1 else ([0], .clean, q)
    let b := r.1.getD 0 0
    (b.getLsbD 2, b.getLsbD 3, r.2.2.wr (Reg.PRT_AESTXCFG_RP t).off (rp + 1))

/-- A channel of a transmitter's frame (R374): the sample and its validity bit. -/
def Quad.aesOut (q : Quad) (t s j : Nat) : W40 × Bool :=
  (q.playSample s j, !q.live s || q.substituted s || q.flag (Reg.PRT_AESTXCFG_VFORCE t))

/-- AES3_FRAME_TRANSMIT (R374, R375). A frame that opens a block takes the waiting channel status, if TXCS_APPLY has not. -/
def Quad.aesTransmit (q : Quad) (t : Fin 4) : Quad :=
  if !q.flag (Reg.PRT_AESTXCFG_EN t.val) || q.mode == .scour then q
  else
    let q := q.txcsApply t
    let x := q.prt.tx[t]
    let s := q.fld (Reg.PRT_AESTXCFG_SLOT t.val)
    let div := 2 ^ q.fld (Reg.PRT_AESTXCFG_RDIV t.val)
    let at_ (j : Nat) : List W40 := [(q.aesOut t.val s j).1, (q.aesOut t.val (s + 1) j).1]
    let q := ([s, s + 1].filter q.live).foldl (fun q s =>
      q.noteSlot s (((List.range div).map fun k => x.j + k).filter fun j => decide (j < 4))) q
    let va := (q.aesOut t.val s x.j).2
    let vb := (q.aesOut t.val (s + 1) x.j).2
    let (v, q) :=
      if div = 1 then (at_ x.j, q)
      else
        let h := (List.range div).foldl (fun h k => pushHist h (at_ (x.j + k)) 64) x.hist
        let q := q.mapTx t fun x => { x with hist := h }
        let r := q.convertAll 3 h
        if q.mode == .run || q.mode == .hardpan then (q.muted [s, s + 1] r.1, r.2) else ([0, 0], q)
    let bit (b : Bool) : Bool := ((q.txcsBytes t b).getD (x.count / 8) 0).getLsbD (x.count % 8)
    let ca := bit false
    let cb := bit true
    let (ua, ub, q) := q.userBits t.val
    let frame : AesFrame :=
      { z := x.count == 0, a := BitVec.ofInt 24 (outBits 24 (v.getD 0 0)), b := BitVec.ofInt 24 (outBits 24 (v.getD 1 0)),
        va := va, vb := vb, ua := ua, ub := ub, ca := ca, cb := cb, par := false }
    let q := if x.count = 191 then q.setFld (Reg.PRT_TXCS_SEQ t.val) (q.fld (Reg.PRT_TXCS_SEQ t.val) + 1) else q
    q.mapTx t fun x => { x with count := (x.count + 1) % 192, j := x.j + div, sent := some frame }

/-- The first sample of the tick whose frame a port enabled now starts: a frame of `div` grid samples starts at its grid instant (R364). -/
def Quad.firstFrame (q : Quad) (div : Nat) : Nat := if q.running then (q.gridPassed + div - 1) / div * div else 0

/-- PORT_ENABLE (R362, R384): EN of a port block, or WERR. -/
def Quad.portEnable (q : Quad) : PortBlock → Quad
  | .tdm p =>
    if q.flag (Reg.PRT_TDMCFG_EN p.val) then q
    else if q.tdmOk p.val then
      (q.raise (Reg.PRT_TDMCFG_EN p.val)).mapTdm p fun t =>
        { ({} : Tdm) with inp := { t.inp with chgJ := none }, out := { t.out with chgJ := none }, latestMap := t.inp.shown,
                          endCycle := q.cclk, inJ := q.firstFrame (q.tdmDiv p.val), outJ := q.firstFrame (q.tdmDiv p.val) }
    else q.raise Reg.PRT_CTL_WERR
  | .rx r =>
    if q.flag (Reg.PRT_AESRXCFG_EN r.val) then q
    else ((q.raise (Reg.PRT_AESRXCFG_EN r.val)).wr (Reg.PRT_AESRXCFG_WP r.val).off 0).mapRx r fun x => { ({} : AesRx) with cap := x.cap }
  | .tx t =>
    let d := q.fld (Reg.PRT_AESTXCFG_RDIV t.val)
    if q.flag (Reg.PRT_AESTXCFG_EN t.val) then q
    else if d ≠ 3 ∧ fiKHz q.fi / 2 ^ d ≥ 32 then
      (q.raise (Reg.PRT_AESTXCFG_EN t.val)).mapTx t fun x => { x with count := 0, j := q.firstFrame (2 ^ d), hist := [] }
    else q.raise Reg.PRT_CTL_WERR

/-! ### At a boundary -/

/-- The map that a direction's samples follow: EPOCH, CHG and the map, words 2 and 3 of a header (R368). -/
def headMask (d : PortDir) (slots : Nat) : Nat × Nat :=
  (d.shown.1 + 65536 * d.chgJ.getD 0 + 262144 * b2n d.chgJ.isSome + 67108864 * (activeSlots slots d.shown.2).length, d.shown.2.toNat)

/-- A header written to the header view (R368). -/
def Quad.putHeader (q : Quad) (b : Nat) (words : List W32) : Quad := { q with mem := writeWords q.mem (0x200A0000 + 32 * b) words }

/-- Whether a block of the header view is in use (R368). -/
def Quad.blockUsed (q : Quad) (b : Nat) : Bool :=
  if b < 8 then q.flag (Reg.PRT_TDMCFG_EN b) && q.flag (Reg.PRT_TDMCFG_IEN b)
  else if b < 16 then q.flag (Reg.PRT_TDMCFG_EN (b - 8)) && q.flag (Reg.PRT_TDMCFG_OEN (b - 8))
  else if b < 20 then q.flag (Reg.PRT_AESRXCFG_EN (b - 16))
  else if b < 24 then q.flag (Reg.PRT_AESTXCFG_EN (b - 20))
  else b < 88 && q.flag (Reg.DEC_CH_EN (b - 24))

/-- The headers of unused blocks read zero (R368). -/
def Quad.clearHeaders (q : Quad) : Quad :=
  { q with mem := q.mem.filter fun c => !decide (0x200A0000 ≤ c.1 ∧ c.1 < 0x200A1000) || q.blockUsed ((c.1 - 0x200A0000) / 32) }

/-- The frame-sync edge of the frame that carries sample 0 of the period of play two ticks on (R369): of a clock master that of its grid
sample, of a slave that of its first frame from there on, by the period of its frames. -/
def Quad.playStart (q : Quad) (p : Fin 8) : Nat :=
  let bnd := q.bndFine.toNat + 2 * t3 q.fi / 3
  let fs := q.prt.tdm[p].fsNs.toNat
  if q.tdmMaster p.val ∨ fs = 0 then bnd
  else
    let per := 1000000 * q.tdmDiv p.val
    fs + ceilDiv ((bnd - fs) * fiKHz q.fi) per * per / fiKHz q.fi

/-- The headers of a serial port (R368, R369): of its input for the tick that ends, of its output for the next period of play. -/
def Quad.tdmHeaders (q : Quad) (p : Fin 8) : Quad :=
  let t := q.prt.tdm[p]
  let b := q.prt.blocks.get p.val {}
  let n := q.tdmSlots p.val
  let mi := headMask t.inp n
  let mo := headMask t.out n
  let conv := q.flag (Reg.PRT_TDMCFG_IMODE p.val)
  let cdly : Nat := if q.tdmDiv p.val = 1 then 0 else 16000000 / fiKHz q.fi
  let ts : W32 := match b.ts with
    | some x => x - w32 (if conv then 0 else cdly)
    | none => q.bndFine.setWidth 32 - w32 cdly
  let lock := conv && q.asrcLocked ⟨p.val, by omega⟩
  let q := if !q.flag (Reg.PRT_TDMCFG_IEN p.val) then q else q.putHeader p.val [q.tick.setWidth 32, ts,
    w32 (mi.1 + 524288 * b2n b.lost + 1048576 * b2n lock + 2097152 * b2n b.glitch + 4194304 * b2n b.slip + 8388608 * b2n b.fade),
    w32 mi.2, 0, w32 (if conv then q.fld (Reg.ASR_GRP_AOFS p.val) else 0),
    w32 (if conv then q.fld (Reg.ASR_GRP_RATIO p.val) else 0), 0]
  if !q.flag (Reg.PRT_TDMCFG_OEN p.val) then q else q.putHeader (8 + p.val) [q.tick.setWidth 32 + 2, w32 (q.playStart p + cdly), w32 mo.1, w32 mo.2, 0, 0, 0, 0]

/-- The header of an AES3 receiver. -/
def Quad.rxHeader (q : Quad) (r : Fin 4) : Quad :=
  let b := q.prt.blocks.get (16 + r.val) {}
  q.putHeader (16 + r.val) [q.tick.setWidth 32, b.ts.getD 0,
    w32 (524288 * b2n b.lost + 1048576 * b2n (q.asrcLocked ⟨8 + r.val, by omega⟩) + 2097152 * b2n b.glitch + 8388608 * b2n b.fade +
      16777216 * b2n (b.vbits != 0)), 0, b.vbits.setWidth 32, w32 (q.fld (Reg.ASR_GRP_AOFS (8 + r.val))),
    w32 (q.fld (Reg.ASR_GRP_RATIO (8 + r.val))), 0]

/-- The header of an AES3 transmitter. -/
def Quad.txHeader (q : Quad) (t : Fin 4) : Quad :=
  let cdly : Nat := if q.fld (Reg.PRT_AESTXCFG_RDIV t.val) = 0 then 0 else 16000000 / fiKHz q.fi
  q.putHeader (20 + t.val) [q.tick.setWidth 32 + 2, w32 (q.bndFine.toNat + 2 * t3 q.fi / 3 + cdly), 0, 0, 0, 0, 0, 0]

/-- The numbers below 8. -/
def fins8 : List (Fin 8) := List.finRange 8
/-- The numbers below 4. -/
def fins4 : List (Fin 4) := List.finRange 4
/-- The numbers below 12. -/
def fins12 : List (Fin 12) := List.finRange 12

/-- What the ports do at the end of a tick, before the buffers change: the remaining samples of direct slave ports, the groups'
samples, and the headers. -/
def Quad.portsEnd (q : Quad) : Quad :=
  if q.mode == .scour then q
  else
    let q := fins8.foldl (fun q p =>
      if q.flag (Reg.PRT_TDMCFG_EN p.val) && q.flag (Reg.PRT_TDMCFG_IEN p.val) && !q.tdmMaster p.val &&
          !q.flag (Reg.PRT_TDMCFG_IMODE p.val) then (q.slaveUpTo p 4).countMissing p (q.overdue p) else q) q.clearHeaders
    let q := fins12.foldl (fun q g => q.asrcEnd g) q
    let q := fins8.foldl (fun q p => if q.flag (Reg.PRT_TDMCFG_EN p.val) then q.tdmHeaders p else q) q
    let q := fins4.foldl (fun q r => if q.flag (Reg.PRT_AESRXCFG_EN r.val) then q.rxHeader r else q) q
    let q := fins4.foldl (fun q t => if q.flag (Reg.PRT_AESTXCFG_EN t.val) then q.txHeader t else q) q
    q.mapPrt fun s =>
      { s with
        blocks := []
        tdm := s.tdm.map fun t => { t with inJ := 0, outJ := 0, inp := { t.inp with chgJ := none }, out := { t.out with chgJ := none } }
        tx := s.tx.map fun t => { t with j := 0 } }

end Sys2Proof.Machine
end

