-- ==== Sys2Proof/Machine/DecOps.lean ====
section
/-! DEFINITION. The shared operations of the modulator inputs and decimators (spec/15). Group delays are counted in 512ths of an
output sample, which every term of R392 divides. -/

namespace Sys2Proof.Machine

/-- A quadrant with its decimators changed. -/
def Quad.mapDec (q : Quad) (f : Dec → Dec) : Quad := { q with dec := f q.dec }
/-- A quadrant with a decimator input changed. -/
def Quad.mapIn (q : Quad) (n : Fin 64) (f : DecIn → DecIn) : Quad := q.mapDec fun s => { s with ins := s.ins.set n (f s.ins[n]) }

/-! ### Configuration (R386 to R392, R401) -/

/-- OSR of an input's clock group (R386). -/
def Quad.decOsr (q : Quad) (n : Nat) : Nat := 64 * 2 ^ q.fld (Reg.DEC_CLK_OSR (n / 8))
/-- CIC order. -/
def Quad.decN (q : Quad) (n : Nat) : Nat := 3 + q.fld (Reg.DEC_CH_ORD n)
/-- Whether an input is in FIR mode. -/
def Quad.decFir (q : Quad) (n : Nat) : Bool := q.flag (Reg.DEC_CH_FIRM n)
/-- C of a response (R388). -/
def romC (resp : Nat) : Nat := if resp < 4 then 2 else if resp < 8 then 4 else 8
/-- D of the FIR (R389). -/
def Quad.decD (q : Quad) (n : Nat) : Nat := 2 ^ q.fld (Reg.DEC_CH_D n)
/-- CIC decimation R (R388, R389). -/
def Quad.decR (q : Quad) (n : Nat) : Nat :=
  if q.decFir n then 8 * 2 ^ q.fld (Reg.DEC_CH_RCIC n) else q.decOsr n / romC (q.fld (Reg.DEC_CH_RESP n))
/-- Half-band stages: 2^H. -/
def Quad.decHalf (q : Quad) (n : Nat) : Nat := q.decOsr n / (q.decR n * q.decD n)
/-- GDr of a ROM response in 512ths (R388). -/
def romDelay (resp : Nat) : Nat :=
  [8960, 12032, 4864, 2304, 10368, 13440, 5760, 2944, 10048, 13120, 5568, 2880].getD resp 0

/-- The group delay of an input without FGD (R392), in 512ths. -/
def Quad.decGd0 (q : Quad) (n : Nat) : Nat :=
  let u := 256 / q.decOsr n
  let cic := q.decN n * (q.decR n - 1) * u + q.fld (Reg.DEC_CH_EDGE n) * u
  cic + if q.decFir n then 11 * 512 * (q.decHalf n - 1) / (q.decHalf n * q.decD n) else romDelay (q.fld (Reg.DEC_CH_RESP n))
/-- The group delay of an input (R392), in 512ths. -/
def Quad.decGd (q : Quad) (n : Nat) : Nat := q.decGd0 n + if q.decFir n then 2 * q.fld (Reg.DEC_CH_FGD n) else 0
/-- GDNS (R393). -/
def Quad.decGdns (q : Quad) (n : Nat) : Nat := (2 * q.decGd n * 1000000 + 512 * fiKHz q.fi) / (2 * 512 * fiKHz q.fi)
/-- S of R396. -/
def Quad.decSettle (q : Quad) (n : Nat) : Nat :=
  let x := 2 * q.decGd0 n + 512 + if q.decFir n then 512 * (q.fld (Reg.DEC_CH_TAPS n) - 1) / q.decD n else 0
  4 * ceilDiv x 2048
/-- How many bits the response of the chain of an input spans: X output samples of R396. -/
def Quad.decSpan (q : Quad) (n : Nat) : Nat :=
  let x := 2 * q.decGd0 n + 512 + if q.decFir n then 512 * (q.fld (Reg.DEC_CH_TAPS n) - 1) / q.decD n else 0
  x * q.decOsr n / 512

/-- Whether the chain of an input can be built (R388, R389). -/
def Quad.decChainOk (q : Quad) (n : Nat) : Bool :=
  let r := q.decR n
  decide (q.fld (Reg.DEC_CH_ORD n) ≠ 3) &&
    (if q.decFir n then
      decide (q.fld (Reg.DEC_CH_RCIC n) ≠ 3 ∧ q.fld (Reg.DEC_CH_D n) ≠ 3 ∧ q.decOsr n = r * q.decHalf n * q.decD n) &&
        [1, 2, 4, 8].contains (q.decHalf n)
    else decide (q.fld (Reg.DEC_CH_RESP n) < 12) && [8, 16, 32].contains r)

/-- The taps of the enabled FIR-mode inputs (R390). -/
def Quad.decTaps (q : Quad) : Nat :=
  ((List.range 64).map fun n => if q.flag (Reg.DEC_CH_EN n) && q.decFir n then q.fld (Reg.DEC_CH_TAPS n) else 0).sum

/-- Whether EN = 1 of an input is accepted (R401). -/
def Quad.decOk (q : Quad) (n : Nat) : Bool :=
  let taps := q.fld (Reg.DEC_CH_TAPS n)
  q.flag (Reg.DEC_CLK_EN (n / 8)) && q.decChainOk n && decide (q.fld (Reg.DEC_CH_SLOT n) < slotLimit q.fi) &&
    decide (1 ≤ taps ∧ taps ≤ 384) && (!q.decFir n || decide (q.decTaps + taps ≤ 12288))

/-- Whether an address lies in one of the four coefficient sets (R390): the 384 taps of each; the rest of its range holds no register. -/
def inCoef (a : Nat) : Bool := decide (0xF0010000 ≤ a ∧ a < 0xF0014000 ∧ a % 0x1000 < 0xC00)

/-- Whether an address lies in a coefficient set that an enabled FIR-mode input names (R390). -/
def Quad.coefLocked (q : Quad) (a : Nat) : Bool :=
  inCoef a &&
    (List.range 64).any fun n => q.flag (Reg.DEC_CH_EN n) && q.decFir n && q.fld (Reg.DEC_CH_CSET n) == (a - 0xF0010000) / 4096

/-- MOD_CLOCK_ENABLE (R386, R387). -/
def Quad.modClock (q : Quad) (c : Fin 8) (en : Bool) : Quad :=
  if en then
    let osr := q.fld (Reg.DEC_CLK_OSR c.val)
    if osr = 3 ∨ (osr = 2 ∧ q.fi = 2) then q.raise Reg.DEC_CTL_WERR
    else if q.flag (Reg.DEC_CLK_EN c.val) then q
    else (q.raise (Reg.DEC_CLK_EN c.val)).mapDec fun s => { s with clkAt := s.clkAt.set c (some (q.tick + 1)) }
  else if (List.range 8).any fun i => q.flag (Reg.DEC_CH_EN (8 * c.val + i)) then q.raise Reg.DEC_CTL_WERR
  else (q.setFld (Reg.DEC_CLK_EN c.val) 0).mapDec fun s => { s with clkAt := s.clkAt.set c none }

/-- The four detector outputs of an input read zero (R395, R398). -/
def Quad.decZero (q : Quad) (n : Nat) : Quad :=
  (((q.setFld (Reg.DEC_DET_PKI n) 0).setFld (Reg.DEC_DET_PKH n) 0).setFld (Reg.DEC_DET_MS n) 0).setFld (Reg.DEC_DET_ENV n) 0

/-- DEC_INPUT_ENABLE (R395, R401). -/
def Quad.decEnable (q : Quad) (n : Fin 64) (en : Bool) : Quad :=
  if en then
    if q.flag (Reg.DEC_CH_EN n.val) then q
    else if q.decOk n.val then
      let q := (q.raise (Reg.DEC_CH_EN n.val)).setFld (Reg.DEC_GDNS_GDNS n.val) (q.decGdns n.val)
      (q.decZero n.val |>.raise (Reg.DEC_STAT_INVALID n.val)).mapIn n fun i => { ({} : DecIn) with dc := i.dc, enPend := some (q.tick + 1) }
    else q.raise Reg.DEC_CTL_WERR
  else
    let q := ((q.setFld (Reg.DEC_CH_EN n.val) 0).setFld (Reg.DEC_STAT_INVALID n.val) 0).setFld (Reg.DEC_STAT_LEFT n.val) 0
    (q.setFld (Reg.DEC_STAT_STUCK n.val) 0).mapIn n fun i => { ({} : DecIn) with dc := i.dc }

/-! ### Synchronising reset (R395, R396) -/

/-- SYNC_ARM: a write of DEC_SYNCT. -/
def Quad.syncArm (q : Quad) (key : W32) : Quad :=
  let t := ext64 key q.tick
  let mask : W64 := (q.rd Reg.DEC_SYNCM1).setWidth 64 <<< 32 ||| (q.rd Reg.DEC_SYNCM0).setWidth 64
  let far := decide (t ≥ (q.tick.toNat : Int) + 2)
  let q := (q.wr Reg.DEC_SYNCT key).raise Reg.DEC_CTL_SPEND
  let q := if far then q else q.raise Reg.DEC_CTL_SLATE
  q.mapDec fun s => { s with armed := some (if far then BitVec.ofInt 64 t else q.tick + 1, mask), slated := !far }

/-- What waits for the next boundary, as a grid starts with tick `n` (R28, R387, R395): the clocks, the resets that EN brings, and one armed
for the next boundary. A reset armed at a tick keeps its tick. -/
def Dec.renumber (s : Dec) (n : W64) : Dec :=
  { s with ins := s.ins.map fun i => { i with enPend := i.enPend.map fun _ => n }
           clkAt := s.clkAt.map fun c => c.map fun _ => n
           armed := s.armed.map fun a => if s.slated then (n, a.2) else a }

/-- One input reset. -/
def Quad.decReset (q : Quad) (n : Fin 64) : Quad :=
  let s := q.decSettle n.val
  let frz := q.flag (Reg.DEC_CH_FRZ n.val)
  let q := ((q.raise (Reg.DEC_STAT_INVALID n.val)).setFld (Reg.DEC_STAT_LEFT n.val) (satTo 1023 s))
  (q.decZero n.val).mapIn n fun i =>
    { i with enPend := none, active := true, bits := [], left := s, dc := if frz then i.dc else 0,
             w2 := q.rd (Reg.DEC_CH_DCEN n.val).off, ms := 0, env := 0 }

/-- The numbers of the inputs. -/
def fins64 : List (Fin 64) := List.finRange 64

/-- SYNC_RESET: at the boundary after EN, and at the armed one. -/
def Quad.syncReset (q : Quad) : Quad :=
  let arm := match q.dec.armed with | some (t, m) => if t.toNat ≤ q.tick.toNat then some m else none | none => none
  let q' := fins64.foldl (fun q n =>
    let new := match q.dec.ins[n].enPend with | some t => decide (t.toNat ≤ q.tick.toNat) | none => false
    let sync := match arm with | some m => m.getLsbD n.val | none => false
    if q.flag (Reg.DEC_CH_EN n.val) && (new || sync) then q.decReset n else q) q
  if arm.isSome then (q'.setFld Reg.DEC_CTL_SPEND 0).mapDec fun s => { s with armed := none } else q'

/-! ### The chain -/

/-- A captured bit as a number (R385). -/
def pm1 (b : Bool) : Int := if b then 1 else -1

/-- A sliding sum of `r` terms over a kernel, as one CIC stage widens it. -/
def boxcar (r : Nat) (k : List Int) : List Int :=
  (List.range (k.length + r - 1)).map fun i => ((List.range r).map fun j => if j ≤ i then k.getD (i - j) 0 else 0).sum

/-- The impulse response of a CIC of order `n` (R388). -/
def cicKernel (n r : Nat) : List Int := (List.range n).foldl (fun k _ => boxcar r k) [1]

/-- Two responses in a row, the second on every `step`-th place of the first's output. -/
def cascade (k h : List Int) (step : Nat) : List Int :=
  (List.range (k.length + step * (h.length - 1))).map fun i =>
    ((List.range h.length).map fun j => if step * j ≤ i then h.getD j 0 * k.getD (i - step * j) 0 else 0).sum

/-- The taps of half-band stage `s` (R389), in units of 2 to the power of -`Config.halfFrac`. -/
def halfTaps (s : Nat) : List Int := (List.range 23).map fun i => Config.halfTap s i

/-- The response of a CIC of order `n` and decimation `r` with `h` half-band stages behind it, by bits (R389). -/
def chainKernel (n r h : Nat) : List Int :=
  (List.range h).foldl (fun k s => cascade k (halfTaps s) (r * 2 ^ s)) (cicKernel n r)

/-- The sum of products of a kernel with bits, newest first. -/
def dotBits : List Int → List Bool → Int
  | k :: ks, b :: bs => k * pm1 b + dotBits ks bs
  | _, _ => 0

/-- The FIR sum with one input of the FIR for each tap, `r` bits apart (R389). -/
def firSum (kernel : List Int) (r : Nat) : List Int → List Bool → Int
  | [], _ => 0
  | c :: cs, bits => c * dotBits kernel bits + firSum kernel r cs (bits.drop r)

/-- The taps of a coefficient set (R390). -/
def Quad.taps (q : Quad) (set n : Nat) : List Int :=
  (List.range n).map fun i => (q.mem.word40 (0xF0010000 + 0x1000 * set + 8 * i)).toInt

/-- Saturation to Q8.31. -/
def sat40 (e : Int) : W40 := (fit 40 e true).val

/-- One output of the chain from the bits so far (R388 to R391). In FIR mode it is the exact sum, over half-band stages whose taps the spec
does not give. The responses in ROM are not in the spec either: there the value is an open function of the set-up and of the bits that the
response spans, but for equal bits that fill the chain, which give ±1.0. -/
def Quad.decChain (q : Quad) (n : Fin 64) (i : DecIn) : W40 :=
  let k := n.val
  if q.decFir k then
    let h := Nat.log2 (q.decHalf k)
    let s := firSum (chainKernel (q.decN k) (q.decR k) h) (q.decR k * 2 ^ h) (q.taps (q.fld (Reg.DEC_CH_CSET k)) (q.fld (Reg.DEC_CH_TAPS k))) i.bits
    let g : Int := (q.decR k : Int) ^ q.decN k * 2 ^ (h * Config.halfFrac)
    sat40 ((2 * s + g).fdiv (2 * g))
  else if i.same ≥ q.decSpan k then (if i.lastBit then 0x0080000000 else 0xFF80000000)
  else Config.decValue [q.decN k, q.decR k, q.fld (Reg.DEC_CH_RESP k)] (i.bits.take (q.decSpan k))

/-- 2⁹⁰ times 1 - exp(-x), for x in units of 2⁻⁹⁰ (R397, R398). -/
def oneMinusExp (x : Nat) : Nat :=
  let r := (List.range 30).foldl (fun (s : Nat × Int) k =>
    let t := s.1 * x / 2 ^ 90 / (k + 1)
    (t, if k % 2 = 0 then s.2 + t else s.2 - t)) (2 ^ 90, 0)
  r.2.toNat

/-- π in units of 2⁻⁹⁰. -/
def piFix : Nat := 3889103333003610706726905384

/-- k of the DC blocker in units of 2⁻³¹ (R397). -/
def dcK (fi dcf : Nat) : Nat :=
  let fc2 := [1, 2, 4, 10].getD dcf 1
  (oneMinusExp (piFix * fc2 / (1000 * fiKHz fi)) + 2 ^ 58) / 2 ^ 59

/-- The detector coefficient of a time code in units of 2⁻⁶² (R398): `tenths` is the first code's time in tenths of a
millisecond; none for a reserved code. -/
def detK (fi tenths code : Nat) : Option Nat :=
  if code ≥ 10 then none
  else
    let t := tenths * [1, 2, 5].getD (code % 3) 1 * 10 ^ (code / 3)
    some (oneMinusExp (2 ^ 90 * 10 / (t * fiKHz fi)) / 2 ^ 28)

/-- A quotient whose last place the spec leaves open: rounded down or up. -/
def Quad.openDiv (q : Quad) (e : Int) (d : Int) : Int × Quad :=
  if e % d = 0 then (e / d, q)
  else
    let r := q.draw
    (e.fdiv d + b2n (r.1.getLsbD 0), r.2)

/-- The DC blocker (R397): the sample that leaves, and the estimate advanced. -/
def Quad.dcBlock (q : Quad) (i : DecIn) (x : W40) : W40 × DecIn × Quad :=
  if !i.w2.getLsbD 0 then (x, i, q)
  else
    let d : Int := x.toInt * 2 ^ 31 - i.dc
    let y := sat40 (roundShift d 31 0)
    if i.w2.getLsbD 3 then (y, i, q)
    else
      let r := q.openDiv (d * (dcK q.fi ((i.w2.toNat / 2) % 4) : Nat)) (2 ^ 31)
      (y, { i with dc := i.dc + r.1 }, r.2)

/-- An exponential average advanced towards a value by a coefficient in units of 2⁻⁶²; free where the code is reserved. -/
def Quad.expStep (q : Quad) (k : Option Nat) (v old : Int) : Nat × Quad :=
  match k with
  | some k =>
    let r := q.openDiv ((v - old) * (k : Int)) (2 ^ 62)
    ((old + r.1).toNat, r.2)
  | none => let r := q.draw; (r.1.toNat * 2 ^ 31, r.2)

/-- The detectors after one sample (R398). -/
def Quad.detect (q : Quad) (i : DecIn) (y : W40) : DecIn × Quad :=
  let m := mag40 y
  let w := i.w2.toNat
  let s := q.expStep (detK q.fi 10 ((w / 16) % 16)) ((m * m : Nat) : Int) i.ms
  let v : Int := ((m * 2 ^ 31 : Nat) : Int)
  let k := if v > i.env then detK q.fi 1 ((w / 256) % 16) else detK q.fi 100 ((w / 4096) % 16)
  let e := s.2.expStep k v i.env
  ({ i with ms := s.1, env := e.1 }, e.2)

/-- A captured bit taken into an input (R391, R399): 4,096 equal bits in a row are a stuck input. -/
def DecIn.take (i : DecIn) (b : Bool) : DecIn :=
  let same := if b = i.lastBit then i.same + 1 else 1
  { i with bits := b :: i.bits, same, lastBit := b, stuckBlk := i.stuckBlk || decide (same ≥ 4096) }

/-- Sample `j` of the tick of an input (R391, R394, R396): the sample, and the input. -/
def Quad.decSample (q : Quad) (n : Fin 64) : W40 × Bool × Quad :=
  let i := q.dec.ins[n]
  if !i.active then (0, true, q)
  else if i.left > 0 then (0, true, q.mapIn n fun i => { i with left := i.left - 1 })
  else
    let (y, i, q) := q.dcBlock i (q.decChain n i)
    let (i, q) := q.detect i y
    (y, false, q.mapIn n fun _ => i)

/-- The tick of an input (R391, R393, R394, R398, R399): bits taken as far as each sample reaches, samples stored, detectors
published, STUCK shown, the header written. -/
def Quad.decTick (q : Quad) (n : Fin 64) (bits : List Bool) : Quad :=
  let osr := q.decOsr n.val
  let edge := q.fld (Reg.DEC_CH_EDGE n.val)
  let slot := q.fld (Reg.DEC_CH_SLOT n.val)
  let take (q : Quad) (l : List Bool) : Quad := q.mapIn n fun i => l.foldl (fun i b => i.take b) i
  let first := 1 - edge
  let step (r : Quad × Nat × Nat) (j : Nat) : Quad × Nat × Nat :=
    let lo := if j = 0 then 0 else (j - 1) * osr + first
    let q := take r.1 ((bits.drop lo).take (j * osr + first - lo))
    let s := q.decSample n
    (s.2.2.ioStore 1 slot j s.1, r.2.1 + 2 ^ j * b2n s.2.1, max r.2.2 (if s.2.1 then 0 else mag40 s.1))
  let (q, inv, pk) := [0, 1, 2, 3].foldl step (q, 0, 0)
  let q := take q (bits.drop (3 * osr + first))
  let i := q.dec.ins[n]
  let q := (q.setFld (Reg.DEC_STAT_INVALID n.val) (b2n (decide (i.left > 0) || !i.active))).setFld (Reg.DEC_STAT_LEFT n.val) (satTo 1023 i.left)
  let quiet := decide (inv = 15)
  let pk := satTo 0xFFFFFFFF pk
  let q := q.setFld (Reg.DEC_DET_PKI n.val) pk
  let q := if quiet then q else q.setFld (Reg.DEC_DET_PKH n.val) (max (q.fld (Reg.DEC_DET_PKH n.val)) pk)
  let q := q.setFld (Reg.DEC_DET_MS n.val) (if quiet then 0 else satTo 0xFFFFFFFF (i.ms / 2 ^ 32))
  let q := q.setFld (Reg.DEC_DET_ENV n.val) (if quiet then 0 else satTo 0xFFFFFFFF (i.env / 2 ^ 31))
  let stuck := decide (i.same ≥ 4096)
  let lost := i.stuckBlk || q.flag (Reg.DEC_STAT_STUCK n.val)
  let q := if i.stuckBlk && !q.flag (Reg.DEC_STAT_STUCK n.val) then q.raise (Reg.DEC_STAT_STUCKS n.val) else q
  let q := q.setFld (Reg.DEC_STAT_STUCK n.val) (b2n stuck)
  let gdns := q.decGdns n.val
  (q.putHeader (24 + n.val) [0, BitVec.ofInt 32 ((q.bndFine.toNat : Int) - gdns), w32 (524288 * b2n lost), 0, w32 inv, 0, w32 gdns, 0]).mapIn n
    fun i => { i with bits := i.bits.take 104000, stuckBlk := stuck, w2 := q.rd (Reg.DEC_CH_DCEN n.val).off }

/-- The decimators at the end of a tick (R387, R391, R395, R400): the resets due at the tick's boundary, if they are still to come,
then every enabled input, with the bits it captured once its clock runs. -/
def Quad.decEnd (q : Quad) (bits : List (Fin 64 × List Bool)) : Quad :=
  if q.mode == .scour then q
  else
    fins64.foldl (fun (q : Quad) n =>
      if q.flag (Reg.DEC_CH_EN n.val) then
        let runs := match q.dec.clkAt[n.val / 8]? with | some (some t) => decide (t.toNat ≤ q.tick.toNat) | _ => false
        q.decTick n (if runs then (match bits.find? fun e => e.1 == n with | some e => e.2 | none => []) else [])
      else q) q.syncReset

/-- STUCK_DETECT (R399). -/
def Quad.stuckDetect (q : Quad) (n : Fin 64) : Quad :=
  if q.flag (Reg.DEC_CH_EN n.val) && decide (q.dec.ins[n].same ≥ 4096) then
    ((q.raise (Reg.DEC_STAT_STUCK n.val)).raise (Reg.DEC_STAT_STUCKS n.val)).mapIn n fun i => { i with stuckBlk := true }
  else q

/-- STUCK_CLEAR (R399): the data has changed. -/
def Quad.stuckClear (q : Quad) (n : Fin 64) : Quad :=
  if q.dec.ins[n].same < 4096 then q.setFld (Reg.DEC_STAT_STUCK n.val) 0 else q

end Sys2Proof.Machine
end

