-- ==== Sys2Proof/Machine/ClkOps.lean ====
section
/-! DEFINITION. The shared operations of the references and the DPLL (spec/11). Phases and biases are in root cycles; there are
100 to an audio-master cycle (R24). -/

namespace Sys2Proof.Machine

/-- A quadrant with its clock block changed. -/
def Quad.mapClk (q : Quad) (f : Clk → Clk) : Quad := { q with clk := f q.clk }
/-- A quadrant with a candidate changed. -/
def Quad.mapCand (q : Quad) (n : Fin 10) (f : Cand → Cand) : Quad :=
  q.mapClk fun s => { s with cands := s.cands.set n (f s.cands[n]) }

/-- RANK of a candidate. -/
def Quad.rank (q : Quad) (n : Fin 10) : Nat := q.fld (Reg.CLK_REFCFG_RANK n.val)
/-- PDIV of a candidate in audio-master cycles (R278). -/
def Quad.pdiv (q : Quad) (n : Fin 10) : Nat :=
  if 6 ≤ n.val ∧ n.val ≤ 8 then masterPerTick q.fi else q.fld (Reg.CLK_REFCFG_PDIV n.val)
/-- Whether a candidate is held in DISABLED at a manager (R279). -/
def Quad.heldOff (q : Quad) (n : Fin 10) : Bool := (n == 6 || n == 7) && q.fld Reg.SNX_STAT_STATE == 4
/-- The qualification state of a candidate (R279, R283). -/
def Quad.candQ (q : Quad) (n : Fin 10) : QState := if q.heldOff n then .disabled else q.clk.cands[n].q
/-- Whether a candidate is QUALIFIED. -/
def Quad.qualified (q : Quad) (n : Fin 10) : Bool := q.candQ n == .qualified
/-- The measured frequency of a candidate. -/
def Quad.refFreq (q : Quad) (n : Fin 10) : Int := (q.rd (Reg.CLK_REFFREQ n.val)).toInt
/-- An instant in root cycles of the epoch count (R278): `at_` root cycles after the start of tick `t`. -/
def Quad.epochRoot (q : Quad) (t : W64) (at_ : Int) : Int := (100 * (t.toNat * masterPerTick q.fi) : Nat) + at_
/-- The raw phase of candidate 8 (R280): the grid offset of the last boundary, its sign reversed, in root cycles, rounded down
(log 114). -/
def Quad.gridPhase (q : Quad) : Int :=
  let num : Int := (3 * q.bndNs.toNat : Int) * 4294967296 + 3 * q.bndFr.toNat
  let ideal : Int := (q.tick.toNat * t3 q.fi : Int) * 4294967296
  ((ideal - num) * 24576).fdiv (3 * 4294967296 * 10000)
/-- A limit of 0.1 ppm in units of 2⁻²⁴ ppm, times ten. -/
def ppmLim (l : Nat) : Nat := l * 2 ^ 24
/-- The numbers of the candidates. -/
def fins10 : List (Fin 10) := List.finRange 10

/-! ### Best candidate (R284) -/

/-- The QUALIFIED candidates of lowest rank. -/
def Quad.topRank (q : Quad) (ok : Fin 10 → Bool) : List (Fin 10) :=
  let l := fins10.filter fun n => ok n && q.qualified n && q.rank n != 0
  l.filter fun n => l.all fun m => decide (q.rank n ≤ q.rank m)

/-- Whether two of a list disagree by more than the agreement limit. -/
def Quad.disagrees (q : Quad) (l : List (Fin 10)) : Bool :=
  l.any fun a => l.any fun b =>
    decide (10 * (q.refFreq a - q.refFreq b).natAbs > ppmLim (q.fld Reg.CLK_QUAL_AGREE))

/-- The candidate of a list nearest the output frequency, the lower index on a tie. -/
def Quad.nearest (q : Quad) : List (Fin 10) → Option (Fin 10)
  | [] => none
  | n :: t => match q.nearest t with
    | none => some n
    | some m =>
      if (q.refFreq n - q.clk.freq.toInt).natAbs ≤ (q.refFreq m - q.clk.freq.toInt).natAbs then some n else some m

/-- The best candidate among those that satisfy a test. -/
def Quad.best (q : Quad) (ok : Fin 10 → Bool) : Option (Fin 10) :=
  let l := q.topRank ok
  if q.disagrees l then q.nearest l else l.head?

/-- DISAGREE (R284). -/
def Quad.disagreeNow (q : Quad) : Bool := q.disagrees (q.topRank fun _ => true)

/-- DISAGS after an event. -/
def Quad.noteDisagree (q : Quad) : Quad := if q.disagreeNow then q.raise Reg.CLK_STAT_DISAGS else q

/-! ### Holdover (R296 to R298) -/

/-- Audio-master cycles in a second. -/
def masterHz : Nat := 24576000

/-- The averaging window in seconds. -/
def havgSeconds (code : Nat) : Nat := [1, 2, 5, 10, 20, 50, 100, 200, 500, 1000].getD code 10

/-- The newest entries of the history up to a total duration. -/
def windowOf (n : Nat) : List (Nat × W32) → List (Nat × W32)
  | [] => []
  | (d, f) :: t => if n = 0 then [] else if d ≥ n then [(n, f)] else (d, f) :: windowOf (n - d) t

/-- The holdover value, and whether the history is short. -/
def Quad.holdoverValue (q : Quad) : W32 × Bool :=
  let win := havgSeconds q.clk.havg * masterHz
  let l := windowOf win q.clk.hist
  let total := (l.map Prod.fst).sum
  if total < masterHz then (q.clk.freq, true)
  else (BitVec.ofInt 32 ((l.map fun e => (e.1 : Int) * e.2.toInt).sum.fdiv total), decide (total < win))

/-- A switch in progress abandoned: the bias captured for its target is discarded (R294), and where nothing was captured, the target
was never followed (R300). -/
def Quad.dropSwitch (q : Quad) : Quad :=
  match q.clk.switch with
  | some w => q.mapClk fun s => { s with switch := none, bias := w.oldBias, sel := if w.captured then s.sel else w.oldSel }
  | none => q

/-- HOLDOVER entered (R298). -/
def Quad.enterHoldover (q : Quad) : Quad :=
  if q.clk.state = .holdover then q
  else
    let (v, short) := q.holdoverValue
    (q.dropSwitch.mapClk fun s => { s with state := .holdover, hofreq := v, freq := v, hshort := short, fresh := false }).raise Reg.CLK_STAT_HOLD

/-! ### Switching (R285, R286, R290) -/

/-- A switch started at a held frequency. -/
def Quad.startSwitch (q : Quad) (n : Fin 10) (freq : W32) : Quad :=
  q.dropSwitch.mapClk fun s =>
    { s with switch := some ⟨n, false, 0, s.state == .locked, true, s.bias, s.sel⟩, sel := n, freq := freq, fresh := false,
             state := if s.state == .locked then .locked else .acquire }

/-- FREERUN on candidate 9. -/
def Quad.freerun (q : Quad) : Quad :=
  q.dropSwitch.mapClk fun s => { s with state := .freerun, sel := 9, fresh := s.fresh && s.state == .freerun }

/-- A switch of the third or fourth selection event, at the present output frequency: its cycle is kept (R295). -/
def Quad.laterSwitch (q : Quad) (n : Fin 10) : Quad :=
  (if n = 9 then q.freerun else q.startSwitch n q.clk.freq).mapClk fun s => { s with rowAt := some (q.cclk, q.clk.sel) }

/-- Whether the selection is forced. -/
def Quad.forced (q : Quad) : Bool := q.flag Reg.CLK_SEL_MODE
/-- The forced candidate. -/
def Quad.forceN (q : Quad) : Fin 10 := ⟨q.fld Reg.CLK_SEL_FORCE % 10, by omega⟩

/-- The decision when the followed candidate leaves QUALIFIED (R285, R286, R294). -/
def Quad.loseSelected (q : Quad) : Quad :=
  if q.forced then q.enterHoldover
  else
    match q.best fun _ => true with
    | some n =>
      if n = 9 then q.enterHoldover
      else
        let (v, short) := q.holdoverValue
        (q.mapClk fun s => { s with hofreq := v, hshort := short }).startSwitch n v
    | none => q.enterHoldover

/-- The revertive decision (R285, R293): none during a switch. -/
def Quad.revert (q : Quad) : Quad :=
  if q.clk.switch.isSome ∨ !q.flag Reg.CLK_CTL_REVERT ∨ q.forced ∨ q.clk.state = .holdover then q
  else
    match q.best fun n => q.clk.cands[n].restored && decide (q.rank n < q.rank q.clk.sel) with
    | some n => q.laterSwitch n
    | none => q

/-- The decision in FREERUN from reset (R285): a candidate other than 9 has become best. -/
def Quad.leaveFreerun (q : Quad) : Quad :=
  if !q.forced && q.clk.state == .freerun && q.clk.fresh then
    match q.best fun _ => true with
    | some n => if n = 9 then q else q.laterSwitch n
    | none => q
  else q

/-- The decision when a candidate qualifies (R285, R286). -/
def Quad.onQualify (q : Quad) : Quad :=
  if q.forced then
    if q.forceN ≠ 9 ∧ q.qualified q.forceN ∧ q.clk.state = .holdover then q.startSwitch q.forceN q.clk.freq else q
  else if q.clk.state = .holdover then
    match q.best fun n => n != 9 with
    | some n => q.startSwitch n q.clk.hofreq
    | none => q
  else q.revert.leaveFreerun

/-- What a write to CLK_SEL brings about (R286): a switch at once, over all that the cycle brought before (R295). -/
def Quad.applySel (q : Quad) : Quad :=
  let q := q.mapClk fun s => { s with rowAt := none }
  let go (n : Fin 10) : Quad :=
    if n = 9 then q.freerun else q.startSwitch n q.clk.freq
  if q.forced then if q.forceN = 9 ∨ q.qualified q.forceN then go q.forceN else q.enterHoldover
  else
    match q.best fun _ => true with
    | some n => go n
    | none => q.enterHoldover

/-! ### Qualification (R281 to R283) -/

/-- The accept timer restarted. -/
def Cand.restart (c : Cand) : Cand := { c with accCyc := 0, gates := 0 }

/-- A candidate that left QUALIFIED: the selection follows if it was the one followed, or was until a later row of the table of
selection events moved the selection in the same cycle (R295). -/
def Quad.afterLeave (q : Quad) (n : Fin 10) (was : QState) : Quad :=
  if was == QState.qualified ∧ (q.clk.sel = n ∨ q.clk.rowAt = some (q.cclk, n)) ∧ q.clk.state ≠ .holdover ∧ ¬ (q.forced ∧ n = 9) then q.loseSelected else q

/-- A candidate inactive, with its cause (R281, R283): 1 MISSING, 2 EXTRA. Its next edge opens the windows anew (log 115). -/
def Quad.goInactive (q : Quad) (n : Fin 10) (cause : Nat) : Quad :=
  let was := q.clk.cands[n].q
  let q := q.mapCand n fun c =>
    { c.restart with active := false, good := 0, last := none, restored := false, q := if c.q == .disabled then .disabled else .inactive }
  let q := q.wr (Reg.CLK_REFFREQ n.val) 0
  let q := if was == QState.qualified || was == QState.probing then q.setFld (Reg.CLK_REFSTAT_CAUSE n.val) cause else q
  (q.afterLeave n was).leaveFreerun.noteDisagree

/-- A candidate active (R281, R283). -/
def Quad.goActive (q : Quad) (n : Fin 10) : Quad :=
  q.mapCand n fun c => if c.q == .inactive then { c.restart with active := true, q := .probing } else { c with active := true }

/-- The rank of a candidate set (R283, R309), without the decisions that follow: while SUSPECT, that of candidate 8 goes to RANK8. -/
def Quad.rankSet (q : Quad) (n : Fin 10) (rank : Nat) : Quad :=
  if n = 8 ∧ q.flag Reg.TIM_STAT_SUSPECT then q.setFld Reg.TIM_STAT_RANK8 rank
  else
    let old := q.rank n
    let q := q.setFld (Reg.CLK_REFCFG_RANK n.val) rank
    if rank = 0 then (q.mapCand n fun _ => {}).wr (Reg.CLK_REFFREQ n.val) 0
    else if old ≠ 0 then q
    else if n = 9 then q.mapCand n fun _ => { q := .qualified, restored := decide (q.fld Reg.CLK_TIMES_WTR = 0) }
    else
      let q := q.mapCand n fun _ => { q := .inactive }
      if n = 8 ∧ q.clk.timeLock = true then q.goActive n else q

/-- TIME_PLL lock, gained or lost, and with it the activity of candidate 8 (R281); the cause shown for a loss is free (log 116). -/
def Quad.timeLockSet (q : Quad) (lock : Bool) : Quad :=
  if q.clk.timeLock = lock then q
  else
    let q := q.mapClk fun s => { s with timeLock := lock }
    if q.clk.cands[8].q == QState.disabled then q
    else if lock then q.goActive 8
    else
      let (x, q) := q.draw
      q.goInactive 8 (x.toNat % 4)

/-- The decisions that follow a write of ranks (R285); `was` tells whether the selected candidate was QUALIFIED before it. -/
def Quad.afterRanks (q : Quad) (was : Bool) : Quad :=
  (if was && !q.qualified q.clk.sel then q.afterLeave q.clk.sel .qualified else q.revert.leaveFreerun).noteDisagree

/-- The rank of a candidate written. -/
def Quad.rankWrite (q : Quad) (n : Fin 10) (rank : Nat) : Quad := (q.rankSet n rank).afterRanks (q.qualified q.clk.sel)

/-- FREQ_GATE_END (R282, R283). -/
def Quad.gateEnd (q : Quad) (n : Fin 10) (ppm : W32) : Quad :=
  let c := q.clk.cands[n]
  if !c.active ∨ n = 9 ∨ q.heldOff n ∨ c.q == QState.disabled then q
  else
    let q := q.wr (Reg.CLK_REFFREQ n.val) ppm
    let off := 10 * ppm.toInt.natAbs
    let inAcc := decide (off ≤ ppmLim (q.fld Reg.CLK_QUAL_ACCEPT))
    let beyond := decide (off > ppmLim (q.fld Reg.CLK_QUAL_REJECT))
    let gate := max (masterHz / 10) (2 * q.pdiv n)
    let q := match c.q with
      | .probing | .rejected =>
        if inAcc then
          let acc := c.accCyc + gate
          if 10 * acc ≥ masterHz * q.fld Reg.CLK_TIMES_ACCT then
            (q.mapCand n fun c => { c with q := .qualified, accCyc := acc, gates := c.gates + 1,
                                           restored := decide (q.fld Reg.CLK_TIMES_WTR = 0) }).onQualify
          else q.mapCand n fun c => { c with accCyc := acc, gates := c.gates + 1 }
        else if beyond && c.q == QState.probing then
          (q.mapCand n fun c => { c.restart with q := .rejected }).setFld (Reg.CLK_REFSTAT_CAUSE n.val) 3
        else q.mapCand n fun c => c.restart
      | .qualified =>
        if beyond then
          ((q.mapCand n fun c => { c.restart with q := .rejected, restored := false }).setFld (Reg.CLK_REFSTAT_CAUSE n.val) 3).afterLeave
            n .qualified
        else q
      | _ => q
    q.leaveFreerun.noteDisagree

/-- The wait-to-restore time after a write of CLK_TIMES (R285): a longer one has not run for any candidate until its expiry, one of
zero has run for all. -/
def Quad.wtrSet (q : Quad) (old : Nat) : Quad :=
  let wtr := q.fld Reg.CLK_TIMES_WTR
  if wtr > old then q.mapClk fun s => { s with cands := s.cands.map fun c => { c with restored := false } }
  else if wtr = 0 ∧ old ≠ 0 then
    (q.mapClk fun s => { s with cands := s.cands.map fun c => { c with restored := c.q == .qualified } }).revert
  else q

/-- WAIT_TO_RESTORE_EXPIRY (R285, R293). -/
def Quad.wtrExpiry (q : Quad) (n : Fin 10) : Quad :=
  if q.qualified n then (q.mapCand n fun c => { c with restored := true }).revert else q

/-! ### The DPLL at an accepted edge (R287 to R292) -/

/-- Bandwidths by code, in millihertz (R289). -/
def bandwidths : List Nat :=
  [1, 2, 5, 10, 20, 50, 100, 200, 500, 1000, 2000, 5000, 10000, 20000, 50000, 100000, 200000, 500000, 1000000]

/-- Whether a bandwidth lies within a tenth of the edge rate of the candidate followed (R289). -/
def Quad.bwFits (q : Quad) (mHz : Nat) : Bool := decide (mHz * 10 * max 1 (q.pdiv q.clk.sel) ≤ masterHz * 1000)

/-- The bandwidth set for the state, in millihertz (R287): BW in LOCKED, else ABW. -/
def Quad.bwSet (q : Quad) : Nat :=
  bandwidths.getD (if q.clk.state == .locked then q.fld Reg.CLK_DPLL_BW else q.fld Reg.CLK_DPLL_ABW) 0

/-- The bandwidth in use (R289): the one set, or the largest that fits. -/
def Quad.bandwidth (q : Quad) : Nat :=
  if q.bwFits q.bwSet then q.bwSet else ((bandwidths.filter q.bwFits).getLast?).getD 1

/-- The output frequency within ±100 ppm (R288). -/
def Quad.setFreq (q : Quad) (f : W32) : Quad :=
  let lim : Int := 100 * 2 ^ 24
  if f.toInt > lim then (q.mapClk fun s => { s with freq := BitVec.ofInt 32 lim }).raise Reg.CLK_STAT_CLAMP
  else if f.toInt < -lim then (q.mapClk fun s => { s with freq := BitVec.ofInt 32 (-lim) }).raise Reg.CLK_STAT_CLAMP
  else q.mapClk fun s => { s with freq := f }

/-- A phase or bias of a candidate (R280, R291): within half an edge period for candidates 0 to 5, whose edges carry no number,
and whole for 6 to 8. -/
def Quad.wrapPhase (q : Quad) (n : Fin 10) (x : Int) : Int :=
  let half : Int := (50 * q.pdiv n : Nat)
  if n.val < 6 ∧ half ≠ 0 then (x + half) % (2 * half) - half else x

/-- Realignment over the audio-master cycles since the last edge (R291): one part in a million of the root cycles that pass. -/
def Quad.realign (q : Quad) (n : Fin 10) (gap : Nat) : Quad :=
  if q.flag (Reg.CLK_REFCFG_REALIGN n.val) ∧ q.clk.bias ≠ 0 then
    let acc := q.clk.slewAcc + gap
    let step := acc / 10000
    q.mapClk fun s =>
      { s with slewAcc := acc % 10000,
               bias := if s.bias.natAbs ≤ step then 0 else if s.bias > 0 then s.bias - step else s.bias + step }
  else q

/-- Whether a realignment goes on (R291, R298). -/
def Quad.realigning (q : Quad) : Bool :=
  q.flag (Reg.CLK_REFCFG_REALIGN q.clk.sel.val) && q.clk.bias != 0 && q.clk.switch.isNone &&
    (q.clk.state == .locked || q.clk.state == .acquire)

/-- The loop's output frequency at an edge of deviation `d`, with the bandwidth in use (R287 to R289); while LOCKED, a switch
included, the period that ends enters the history (R296). -/
def Quad.loop (q : Quad) (n : Fin 10) (d : Int) : Quad :=
  let q := if q.clk.state = .locked then
      q.mapClk fun s => { s with hist := windowOf (1000 * masterHz) ((q.pdiv n, s.freq) :: s.hist) }
    else q
  let q := if q.bwFits q.bwSet then q else q.raise Reg.CLK_STAT_BWCLAMP
  q.setFreq (Config.loopFreq q.bandwidth q.clk.freq d)

/-- The loop's steering at an edge, and its test of lock (R288); `gap` is the time since the last accepted edge in audio-master
cycles. -/
def Quad.steer (q : Quad) (n : Fin 10) (phase : Int) (gap : Nat) : Quad :=
  let d := q.wrapPhase n (phase - q.clk.bias)
  let q := q.loop n d
  let within (ns : Nat) : Bool := decide (d.natAbs * 10000 ≤ ns * 24576)
  match q.clk.state with
  | .acquire =>
    if within 50 then
      let q := q.mapClk fun s => { s with lockEdges := s.lockEdges + 1, lockCyc := s.lockCyc + (if s.lockEdges = 0 then 0 else gap) }
      if q.clk.lockEdges ≥ 8 ∧ q.clk.lockCyc ≥ masterHz then
        q.mapClk fun s => { s with state := .locked, lockEdges := 0, lockCyc := 0, outEdges := 0 }
      else q
    else q.mapClk fun s => { s with lockEdges := 0, lockCyc := 0 }
  | .locked =>
    let out := if within 500 then 0 else q.clk.outEdges + 1
    if out ≥ 8 then
      (q.mapClk fun s => { s with state := .acquire, lockEdges := 0, lockCyc := 0, outEdges := 0 }).raise Reg.CLK_STAT_UNLOCK
    else q.mapClk fun s => { s with outEdges := out }
  | _ => q

/-- An accepted edge of the candidate followed (R290 to R292, R300), `gap` audio-master cycles after the last. -/
def Quad.dpllEdge (q : Quad) (n : Fin 10) (phase : Int) (gap : Nat) : Quad :=
  match q.clk.switch with
  | some w =>
    if !w.captured then
      q.mapClk fun s => { s with bias := phase, phase := phase, slewAcc := 0, switch := some { w with captured := true } }
    else
      let d := q.wrapPhase n (phase - q.clk.bias)
      let ok := w.ok && decide (d.natAbs * 10000 ≤ 50 * 24576)
      let q := q.loop n d
      if w.edges + 1 ≥ 8 then
        let q := q.mapClk fun s =>
          { s with switch := none, phase := phase, state := if w.wasLocked && ok then .locked else .acquire,
                   lockEdges := 0, lockCyc := 0, outEdges := 0 }
        let q := if w.wasLocked && !ok then q.raise Reg.CLK_STAT_UNLOCK else q
        (q.raise Reg.CLK_STAT_SWEV).revert
      else q.mapClk fun s => { s with phase := phase, switch := some { w with edges := w.edges + 1, ok := ok } }
  | none =>
    if q.clk.state = .locked ∨ q.clk.state = .acquire then
      let change := q.wrapPhase n (phase - q.clk.phase)
      let hit := q.clk.state = .locked ∧ !q.realigning ∧ change.natAbs * 10000 > 1000 * 24576
      let q := if hit then (q.mapClk fun s => { s with bias := q.wrapPhase n (s.bias + change) }).raise Reg.CLK_STAT_PHIT else q
      ((q.realign n gap).mapClk fun s => { s with phase := phase }).steer n phase gap
    else q

/-- Whether an edge at a candidate's source is an edge of the candidate (R277, R279, R345): the direction that POL takes at a word
clock pin, a frame of an enabled AES3 receiver, a pass that recovered one on Stanex; candidate 9 has none. -/
def Quad.edgeComes (q : Quad) (n : Fin 10) (fall : Bool) : Bool :=
  q.clk.cands[n].q != QState.disabled && !q.heldOff n && n != 9 &&
    (if n.val < 2 then fall == q.flag (Reg.CLK_REFCFG_POL n.val)
     else if n.val < 6 then q.flag (Reg.PRT_AESRXCFG_EN (n.val - 2))
     else if n.val < 8 then q.snx.edges.any fun e => e.1 == n
     else true)

/-- The raw phase of an edge and its instant in root cycles of the epoch count (R278, R280): `at_` is the edge's time after the
start of the tick for candidates 0 to 5, whose phase lies against the nearest local edge; 6 to 8 name their tick. -/
def Quad.rawPhase (q : Quad) (n : Fin 10) (at_ : Int) : Int × Int :=
  if n.val < 6 then
    let x := q.epochRoot q.tick at_
    (q.wrapPhase n x, x)
  else if n.val < 8 then
    match q.snx.edges.find? fun e => e.1 == n with
    | some (_, t, p) => (p, q.epochRoot t p)
    | none => (0, 0)
  else (q.gridPhase, q.epochRoot q.tick q.gridPhase)

/-- How far an edge lies from the instant expected, in root cycles (R281): as measured for candidates 0 to 5; for 6 and 7 by the
instants that their edges name; every edge of candidate 8 is accepted (R292, log 115). -/
def Quad.edgeDev (q : Quad) (n : Fin 10) (dev inst : Int) : Int :=
  let c := q.clk.cands[n]
  if n.val < 6 then 100 * dev
  else if n = 8 then 0
  else match c.last with
    | some l => inst - l - ((c.missing + 1) * (100 * q.pdiv n) : Nat)
    | none => 0

/-- REFERENCE_EDGE (R281): `dev` is the edge's distance from the instant expected, in audio-master cycles; `at_` its time in root
cycles after the start of the tick; `fall` the direction of a pin's edge. -/
def Quad.refEdge (q : Quad) (n : Fin 10) (dev : Int) (at_ : Int) (fall : Bool) : Quad :=
  if !q.edgeComes n fall then q
  else
    let c := q.clk.cands[n]
    let (phase, inst) := q.rawPhase n at_
    let ok := c.last.isNone || decide (16 * (q.edgeDev n dev inst).natAbs ≤ 100 * q.pdiv n)
    let q := if n = 6 ∨ n = 7 then q.mapSnx fun s => { s with edges := s.edges.filter fun e => e.1 != n } else q
    if ok then
      let q := q.mapCand n fun c =>
        { c with missing := 0, good := satTo 255 (c.good + 1), glitches := (0 :: c.glitches).take 8, last := some inst }
      let q := if !c.active ∧ q.clk.cands[n].good ≥ 4 then q.goActive n else q
      if q.clk.sel = n ∧ q.clk.state ≠ .freerun ∧ q.clk.state ≠ .holdover then q.dpllEdge n phase ((c.missing + 1) * q.pdiv n)
      else q
    else
      let q := q.count (Reg.CLK_REFSTAT_GLITCH n.val) 1
      let q := q.mapCand n fun c => { c with good := 0, glitches := match c.glitches with | g :: t => (g + 1) :: t | [] => [1] }
      if q.clk.cands[n].glitches.sum > 4 then
        if q.clk.cands[n].active then q.goInactive n 2 else q.mapCand n fun c => { c with last := none }
      else q

/-- REFERENCE_EDGE_MISSING (R281). -/
def Quad.refMissing (q : Quad) (n : Fin 10) : Quad :=
  if n = 8 ∨ n = 9 ∨ q.heldOff n ∨ q.clk.cands[n].q == QState.disabled then q
  else
    let q := q.mapCand n fun c => { c with missing := satTo 255 (c.missing + 1), good := 0, glitches := (0 :: c.glitches).take 8 }
    if q.clk.cands[n].missing ≥ 4 then
      if q.clk.cands[n].active then q.goInactive n 1 else q.mapCand n fun c => { c with last := none }
    else q

/-- REFSEL (R449): ranks, and CLK_SEL, written in one cycle; then the decisions that follow, those of CLK_SEL over all others (R295). -/
def Quad.refsel (q : Quad) (ranks sel mode : Bool) (force : Nat) (rank07 : W32) (rank89 : BitVec 8) : Quad :=
  let was := q.qualified q.clk.sel
  let q := if ranks then fins10.foldl (fun q n =>
      q.rankSet n (if n.val < 8 then (rank07.toNat / 16 ^ n.val) % 16 else (rank89.toNat / 16 ^ (n.val - 8)) % 16)) q else q
  if sel then (((q.setFld Reg.CLK_SEL_MODE (b2n mode)).setFld Reg.CLK_SEL_FORCE force).applySel).noteDisagree
  else if ranks then q.afterRanks was else q

/-- CLK_SEL written (R286, R300). -/
def Quad.selWrite (q : Quad) (v : W32) : Quad :=
  if Reg.CLK_SEL_FORCE.get v > 9 then q.raise Reg.CLK_CTL_WERR
  else ((q.setFld Reg.CLK_SEL_MODE (Reg.CLK_SEL_MODE.get v)).setFld Reg.CLK_SEL_FORCE (Reg.CLK_SEL_FORCE.get v)).applySel

/-- A quadrant that became manager (R279): candidates 6 and 7 are held DISABLED and start again as INACTIVE, and the selection
follows if one of them was followed (R285). -/
def Quad.clkRecheck (q : Quad) : Quad :=
  if q.heldOff 6 then
    let clear (q : Quad) (n : Fin 10) : Quad :=
      (q.mapCand n fun c => if c.q == .disabled then c else { q := .inactive }).wr (Reg.CLK_REFFREQ n.val) 0
    let q := clear (clear q 6) 7
    if q.heldOff q.clk.sel && (q.clk.state == .locked || q.clk.state == .acquire) then q.loseSelected.noteDisagree
    else q.leaveFreerun.noteDisagree
  else q

/-- The drift of FREERUN over one tick (R287): towards zero at no more than 1 ppm a second. -/
def Quad.freerunDrift (q : Quad) : Quad :=
  if q.clk.state = .freerun then
    let step := 2 ^ 24 * masterPerTick q.fi / masterHz
    let f := q.clk.freq.toInt
    q.mapClk fun s => { s with freq := BitVec.ofInt 32 (if f.natAbs ≤ step then 0 else if f > 0 then f - step else f + step) }
  else q

end Sys2Proof.Machine
end

