-- ==== Sys2Proof/Machine/TimOps.lean ====
section
/-! DEFINITION. The shared operations of the time counter and the GPIO pins (spec/12 R301 to R311, R321). -/

namespace Sys2Proof.Machine

/-- A quadrant with its time block changed. -/
def Quad.mapTim (q : Quad) (f : Tim → Tim) : Quad := { q with tim := f q.tim }

/-- Whether an INCR lies within 1,000 ppm of 3.2 ns (R302). -/
def incrOk (i : Int) : Bool := decide ((5 * i - 2 ^ 36).natAbs * 1000 ≤ 2 ^ 36)

/-- One TCLK cycle (R301, R306). -/
def Tim.tclk (t : Tim) : Tim :=
  if !t.started then t
  else
    let v : Int := (t.ns.toNat * 2 ^ 32 + t.fr.toNat : Nat) + t.incr
    { t with prev := some (t.ns.toNat * 2 ^ 32 + t.fr.toNat)
             ns := BitVec.ofInt 64 (v / 2 ^ 32), fr := BitVec.ofInt 32 v, slewLeft := if t.slewLeft = 0 then 0 else t.slewLeft - 1 }

/-- TIM_INCR_FR written (R302). -/
def Quad.incrFrWrite (q : Quad) (v : W32) : Quad := q.mapTim fun t => { t with heldFr := some v }

/-- TIM_INCR_NS written (R302, R330). -/
def Quad.incrNsWrite (q : Quad) (v : BitVec 4) : Quad :=
  let fr := q.tim.heldFr.getD q.tim.incrFr
  let q := q.mapTim fun t => { t with heldFr := none }
  if incrOk ((v.toNat * 2 ^ 32 + fr.toNat : Nat) : Int) then q.mapTim fun t => { t with incrNs := v, incrFr := fr }
  else (q.raise Reg.TIM_STAT_INCRREF).raise Reg.TIM_CTL_WERR

/-- TIM_NOW_LO read (R303): the reader's latches. -/
def Quad.nowRead (q : Quad) (w : Writer) : Quad :=
  (q.wrCopy w Reg.TIM_NOW_HI ((q.tim.ns >>> 32).setWidth 32)).wrCopy w Reg.TIM_NOW_FR q.tim.fr

/-- TIM_SLEWN written (R306, R330). -/
def Quad.slewStart (q : Quad) (cyc : W32) : Quad :=
  let d := BitVec.ofNat 24 (q.fld Reg.TIM_SLEW_DELTA)
  let base : Int := ((q.tim.incrNs.toNat * 2 ^ 32 + q.tim.incrFr.toNat : Nat) : Int)
  if incrOk (base + d.toInt) then
    (q.mapTim fun t => { t with slewLeft := cyc, slewDelta := d }).setFld Reg.TIM_STAT_SLEWING (b2n (cyc != 0))
  else (q.raise Reg.TIM_STAT_INCRREF).raise Reg.TIM_CTL_WERR

/-- SLEW_END (R306). -/
def Quad.slewEnd (q : Quad) : Quad := if q.tim.slewLeft = 0 then q.setFld Reg.TIM_STAT_SLEWING 0 else q

/-- SUSPECT cleared, and the rank of candidate 8 restored (R309). -/
def Quad.suspectClear (q : Quad) : Quad :=
  if q.flag Reg.TIM_STAT_SUSPECT then
    let r := q.fld Reg.TIM_STAT_RANK8
    (q.setFld Reg.TIM_STAT_SUSPECT 0).rankWrite 8 r
  else q

/-- What a forward step passes over becomes late (R311). -/
def Quad.launchPassed (q : Quad) (old : Nat) : Quad :=
  let now := q.tim.ns.toNat
  let passed (t : Int) : Bool := decide ((old : Int) < t ∧ t ≤ now)
  let q := q.mapTim fun t => { t with launches := t.launches.map fun l => l.map fun x => if passed x.time then { x with late := true } else x }
  { q with net := { q.net with ports := q.net.ports.map fun p =>
      match p.headSeen with | some t => if passed t then { p with headLate := true } else p | none => p } }

/-- A step requested by a writer (R307 to R309): OP add or set, from the writer's copies of the value. -/
def Quad.timeStep (q : Quad) (w : Writer) (set permit : Bool) : Quad :=
  let v : W64 := (q.rdCopy w Reg.TIM_ADJ_HI).setWidth 64 <<< 32 ||| (q.rdCopy w Reg.TIM_ADJ_LO).setWidth 64
  let old := q.tim.ns.toNat
  let m := if set then ((v.toNat : Int) - old).natAbs else v.toInt.natAbs
  if m ≤ q.fld Reg.TIM_CTL_STEPTH ∨ permit then
    let q := q.mapTim fun t => if set then { t with ns := v, fr := 0 } else { t with ns := t.ns + v }
    let q := (q.raise Reg.TIM_STAT_STEPOK).wr Reg.TIM_STEPLAST (w32 (satTo 0x7FFFFFFF m))
    q.suspectClear.launchPassed old
  else
    let q := (q.raise Reg.TIM_STAT_STEPREF).wr Reg.TIM_STEPLAST (w32 (satTo 0x7FFFFFFF m + 2 ^ 31))
    if q.flag Reg.TIM_CTL_SUSHOLD && !q.flag Reg.TIM_STAT_SUSPECT then
      let q := (q.setFld Reg.TIM_STAT_RANK8 (q.rank 8)).rankWrite 8 0
      q.raise Reg.TIM_STAT_SUSPECT
    else q

/-- TIM_ADJ_CTL written (R307, R330): a reserved OP is refused. -/
def Quad.adjWrite (q : Quad) (w : Writer) (v : W32) : Quad :=
  match v.toNat % 4 with
  | 1 => q.timeStep w false (v.getLsbD 2)
  | 2 => q.timeStep w true (v.getLsbD 2)
  | _ => q.raise Reg.TIM_CTL_WERR

/-! ### GPIO (R321) -/

/-- GPIO_CAPTURE: an edge at a pin. -/
def Quad.gpioCapture (q : Quad) (pin : Fin 16) (rise : Bool) : Quad :=
  let cap := q.fld (Reg.TIM_GPCFG_CAP pin.val)
  if q.mode == .scour || !bitN cap (if rise then 0 else 1) then q
  else if q.tim.caps.length ≥ 64 then q.count Reg.TIM_GPSTAT_OVF 1
  else q.mapTim fun t => { t with caps := t.caps ++ [⟨pin, rise, t.ns.setWidth 32⟩] }

/-- GPIO_CAPTURE_POP. -/
def Quad.gpioPop (q : Quad) : Quad := q.mapTim fun t => { t with caps := t.caps.drop 1 }

/-- A bit of LATE or ORDER set. -/
def Quad.gpFlag (q : Quad) (f : Field) (pin : Nat) : Quad := q.setFld f (q.fld f ||| 2 ^ pin)

/-- A launch in its place by time. -/
def insertLaunch (l : Launch) : List Launch → List Launch
  | [] => [l]
  | x :: t => if l.time < x.time then l :: x :: t else x :: insertLaunch l t

/-- The queue of a pin changed. -/
def Quad.mapQueue (q : Quad) (pin : Fin 8) (f : List Launch → List Launch) : Quad :=
  q.mapTim fun t => { t with launches := t.launches.set pin (f t.launches[pin]) }

/-- The head of a pin's queue driven, with what PER makes follow it. -/
def Quad.gpioDrive (q : Quad) (pin : Fin 8) : Quad :=
  match q.tim.launches[pin] with
  | [] => q
  | x :: rest =>
    let q := (q.mapQueue pin fun _ => rest).mapTim fun t => { t with driven := t.driven.set pin (some x.lvl) }
    let q := if x.late then q.gpFlag Reg.TIM_GPSTAT_LATE pin.val else q
    if q.flag (Reg.TIM_GPCFG_PER pin.val) && x.lvl && !x.fall then
      let fall : Launch := ⟨x.time + (q.rd (Reg.TIM_GPPER_WIDTH pin.val).off).toNat, false, false, true⟩
      let again : Launch := ⟨x.time + (q.rd (Reg.TIM_GPPER_PERIOD pin.val).off).toNat, true, false, false⟩
      q.mapQueue pin fun l => insertLaunch again (insertLaunch fall l)
    else q

/-- Whether launches act (R48, R321): held in STANDBY, and in SERVICE and HARDPAN as there; none in SCOUR; the pins of HALT are high
impedance. -/
def Quad.launchesAct (q : Quad) : Bool := q.mode == .run || q.mode == .halt

/-- GPIO_LAUNCH: the head of a pin's queue is due. -/
def Quad.gpioLaunch (q : Quad) (pin : Fin 8) : Quad :=
  match q.tim.launches[pin] with
  | [] => q
  | x :: _ => if q.launchesAct && decide (x.time ≤ q.tim.ns.toNat) then q.gpioDrive pin else q

/-- GPIO_LAUNCH_QUEUE: TIM_GPLn word 1 written; a late launch is driven at once. -/
def Quad.gpioQueue (q : Quad) (pin : Fin 8) (lvl : Bool) : Quad :=
  let t := ext64 (q.rd (Reg.TIM_GPL_TIME pin.val).off) q.tim.ns
  let l := q.tim.launches[pin]
  let early := match l.getLast? with | some x => decide (t < x.time) | none => false
  if early then q.gpFlag Reg.TIM_GPSTAT_ORDER pin.val
  else if l.length ≥ 16 then q.raise Reg.TIM_CTL_WERR
  else
    let late := decide (t < (q.tim.ns.toNat : Int))
    let q := q.mapQueue pin fun l => l ++ [⟨t, lvl, late, false⟩]
    if late && l.isEmpty && q.launchesAct then q.gpioDrive pin else q

/-- The launches whose time passed while they were held, discarded (R321). -/
def Quad.gpioRelease (q : Quad) : Quad :=
  (List.finRange 8).foldl (fun q pin =>
    let now : Int := q.tim.ns.toNat
    if q.tim.launches[pin].any fun x => decide (x.time < now) then
      (q.mapQueue pin fun l => l.filter fun x => !decide (x.time < now)).gpFlag Reg.TIM_GPSTAT_LATE pin.val
    else q) q

/-- The level driven at a pin (R48, R321): none where it is high impedance. -/
def Quad.gpioLevel (q : Quad) (pin : Fin 8) : Option Bool :=
  if q.mode == .scour || q.mode == .halt || !q.flag (Reg.TIM_GPCFG_OUT pin.val) then none
  else some (q.tim.driven[pin].getD (q.flag (Reg.TIM_GPCFG_LVL pin.val)))

end Sys2Proof.Machine
end

