-- ==== Sys2Proof/Machine/NetOps.lean ====
section
/-! DEFINITION. The shared operations of the Ethernet ports, the frame rings and the stream engine (spec/12 R312 to R330). -/

namespace Sys2Proof.Machine

/-! ### Frames (R312, R313, R315) -/

/-- A byte of a frame. -/
def fb (l : List Byte) (i : Nat) : Nat := (l.getD i 0).toNat
/-- A big-endian value of a frame. -/
def fbe (l : List Byte) (i n : Nat) : Nat := ((l.drop i).take n).foldl (fun v b => 256 * v + b.toNat) 0

/-- Where the payload of a frame starts: behind one tag, if it bears one. -/
def l3At (l : List Byte) : Nat := if fbe l 12 2 = 0x8100 then 18 else 14
/-- The EtherType. -/
def etherType (l : List Byte) : Nat := fbe l (l3At l - 2) 2

/-- Whether a frame is a MAC control frame of PAUSE or priority flow control (R312). -/
def isPause (l : List Byte) : Bool := etherType l == 0x8808 && (fbe l (l3At l) 2 == 0x0001 || fbe l (l3At l) 2 == 0x0101)

/-- Where the UDP header of a frame starts, and whether it is carried over IPv6. -/
def udpAt (l : List Byte) : Option (Nat × Bool) :=
  let a := l3At l
  if etherType l = 0x0800 ∧ fb l a / 16 = 4 ∧ fb l (a + 9) = 17 ∧ fbe l (a + 6) 2 % 8192 = 0 then some (a + 4 * (fb l a % 16), false)
  else if etherType l = 0x86DD ∧ fb l a / 16 = 6 ∧ fb l (a + 6) = 17 then some (a + 40, true)
  else none

/-- The UDP destination port. -/
def udpPort (l : List Byte) : Option Nat := (udpAt l).map fun u => fbe l (u.1 + 2) 2

/-- Where the PTP header of a PTP frame starts (R313). -/
def ptpAt (l : List Byte) : Option Nat :=
  if etherType l = 0x88F7 then some (l3At l)
  else match udpAt l with
    | some (u, _) => if fbe l (u + 2) 2 = 319 ∨ fbe l (u + 2) 2 = 320 then some (u + 8) else none
    | none => none

/-- Whether a frame is a PTP event message (R315). -/
def ptpEvent (l : List Byte) : Bool :=
  (match ptpAt l with | some p => decide (fb l p % 16 ≤ 3) | none => false) && (udpPort l).getD 319 == 319

/-- The destination MAC address. -/
def destMac (l : List Byte) : Nat := fbe l 0 6
/-- The broadcast address. -/
def broadcast : Nat := 2 ^ 48 - 1

/-- The address of a filter entry (R330). -/
def Quad.macf (q : Quad) (n : Nat) : Nat := q.fld (Reg.NET_MACF_ADDR n) + 2 ^ 32 * ((q.rd (Reg.NET_MACF n + 4)).toNat % 65536)

/-- Whether an entry of the filter names an address on some port of a mask. -/
def Quad.macHit (q : Quad) (mac mask : Nat) : Bool :=
  (List.range 64).any fun n => q.fld (Reg.NET_MACF_PORTS n) &&& mask != 0 && q.macf n == mac

/-- Whether the RTP header of a UDP frame is one of a receive stream (R322, R323): version 2, with the stream's PT and SSRC. -/
def Quad.rtpFits (q : Quad) (s u : Nat) (l : List Byte) : Bool :=
  fb l (u + 8) / 64 == 2 && (q.fld (Reg.NET_RXDESC_PT s) == 0 || q.fld (Reg.NET_RXDESC_PT s) == fb l (u + 9) % 128) &&
    (q.fld (Reg.NET_RXDESC_SSRC s) == 0 || q.fld (Reg.NET_RXDESC_SSRC s) == fbe l (u + 16) 4)

/-- The enabled receive stream that a frame on port `p` belongs to (R313, R322). -/
def Quad.rxStreamOf (q : Quad) (p : Fin 2) (l : List Byte) : Option Nat :=
  (List.range 32).find? fun s =>
    q.flag (Reg.NET_RXDESC_EN s) && bitN (q.fld (Reg.NET_RXDESC_PORTS s)) p.val &&
      q.macf (q.fld (Reg.NET_RXDESC_MACF s)) == destMac l && bitN (q.fld (Reg.NET_MACF_PORTS (q.fld (Reg.NET_RXDESC_MACF s)))) p.val &&
      (match udpAt l with
        | some (u, six) => six == q.flag (Reg.NET_RXDESC_IP6 s) && fbe l (u + 2) 2 == q.fld (Reg.NET_RXDESC_UDP s) && q.rtpFits s u l
        | none => false)

/-- A signed correction in tenths of a nanosecond added to the count (R315, R330). -/
def Quad.corrected315 (q : Quad) (lat : Nat) : W64 :=
  BitVec.ofInt 64 (((q.tim.ns.toNat * 10 : Nat) + (q.tim.fr.toNat * 10 / 2 ^ 32 : Nat) + (BitVec.ofNat 16 lat).toInt : Int) / 10)

/-- Whether a port passes frames (R320, R330). -/
def Quad.ethOn (q : Quad) (p : Fin 2) : Bool := q.mode != .scour && q.fld (Reg.NET_PCFG_MODE p.val) != 0 && q.ethUp p

/-! ### Receive ring (R320) -/

/-- A frame written to a receive buffer, with its record; `cls` is its class of R313. -/
def Quad.rxRing (q : Quad) (p : Fin 2) (cls : Nat) (ts : W64) (l : List Byte) : Quad :=
  let size := 2 ^ q.fld (Reg.NET_RRB_LOG2 p.val)
  let wp := q.rd (Reg.NET_RRB_WP p.val).off
  let rp := q.rd (Reg.NET_RRB_RP p.val).off
  if (wp - rp).toNat ≥ size then q.count (Reg.NET_PSTAT_RXFULL p.val) 1
  else
    let e := 16 * q.fld (Reg.NET_RRB_BASE p.val) + 16 * (wp.toNat % size)
    let (w, _, q) := q.partRead (e + 8) 4
    let buf := 16 * ofBytesLE w
    let q := (q.sysWrite 21 buf l).sysWrite 21 e (bytesLE (l.length % 2048 + 4096 * cls) 4 ++ bytesLE (ts.toNat % 2 ^ 32) 4)
    q.wr (Reg.NET_RRB_WP p.val).off (wp + 1)

/-! ### Forwarding (R314, R317) -/

/-- A ones' complement sum with its carries folded in. -/
def fold16 (n : Nat) : Nat := let a := n % 65536 + n / 65536; let b := a % 65536 + a / 65536; b % 65536 + b / 65536

/-- The sixteen-bit words of some bytes, summed. -/
def sum16 : List Byte → Nat
  | a :: b :: t => 256 * a.toNat + b.toNat + sum16 t
  | [a] => 256 * a.toNat
  | [] => 0

/-- A list with bytes replaced from a place. -/
def patch (l : List Byte) (i : Nat) (v : List Byte) : List Byte := l.take i ++ v ++ l.drop (i + v.length)

/-- An event message with a residence time added to correctionField, and the UDP checksum corrected (R317). -/
def addResidence (l : List Byte) (res : Int) : List Byte :=
  match ptpAt l with
  | none => l
  | some p =>
    let old := (l.drop (p + 8)).take 8
    let new := bytesBE (BitVec.ofInt 64 ((BitVec.ofNat 64 (fbe l (p + 8) 8)).toInt + res)).toNat 8
    let l := patch l (p + 8) new
    match udpAt l with
    | none => l
    | some (u, six) =>
      let c := fbe l (u + 6) 2
      if c = 0 ∧ six = false then l
      else
        let c' := 65535 - fold16 ((65535 - c) + (4 * 65535 - sum16 old) + sum16 new)
        patch l (u + 6) (bytesBE (if c' = 0 then 65535 else c') 2)

/-- The other port. -/
def otherEth (p : Fin 2) : Fin 2 := if p = 0 then 1 else 0

/-! ### Transmit ring (R318, R319) -/

/-- The address of a port's descriptor. -/
def Quad.txDesc (q : Quad) (p : Fin 2) (i : W32) : Nat :=
  16 * q.fld (Reg.NET_TRB_BASE p.val) + 16 * (i.toNat % 2 ^ q.fld (Reg.NET_TRB_LOG2 p.val))

/-- A word of the descriptor at the head; zero where its read meets an uncorrectable error (R416). -/
def Quad.txWord (q : Quad) (p : Fin 2) (w : Nat) : Nat :=
  let a := q.phys (q.txDesc p (q.rd (Reg.NET_TRB_RP p.val).off))
  if q.poisoned a 16 then 0 else q.mem.readLE (a + 4 * w) 4

/-- Whether a port's ring holds a descriptor that is not yet recorded. -/
def Quad.txPosted (q : Quad) (p : Fin 2) : Bool := q.rd (Reg.NET_TRB_RP p.val).off != q.rd (Reg.NET_TRB_WP p.val).off

/-- A descriptor that reached the head of its ring is read, with the status that the read gives it (R14, R416): its launch time extended
(R305), and whether it is already past (R319). DESIGN CHOICE (log 103): a port that is off has no head. -/
def Quad.headCheck (q : Quad) (p : Fin 2) : Quad :=
  if q.fld (Reg.NET_PCFG_MODE p.val) = 0 ∨ !q.txPosted p then
    q.mapPort p fun e => { e with headSeen := none, headLate := false, headStatus := St.done }
  else
    let l := q.eccIn (q.phys (q.txDesc p (q.rd (Reg.NET_TRB_RP p.val).off))) 16
    let t := ext64 (w32 (q.txWord p 2)) q.tim.ns
    let timed := bitN (q.txWord p 1) 11
    (q.noteEcc l).mapPort p fun e =>
      { e with headSeen := if timed then some t else none, headLate := timed && decide (t < (q.tim.ns.toNat : Int)),
               headStatus := (worstEcc l).status }

/-- The record of the descriptor at the head (R318), the worst status that applies (R15), after which the next one reaches it: STATUS, the
timestamp where there is one, and the DONE-flag; the other bytes are not written. -/
def Quad.txRecord (q : Quad) (p : Fin 2) (status : Nat) (ts : Option W64) : Quad :=
  let rp := q.rd (Reg.NET_TRB_RP p.val).off
  let a := q.txDesc p rp
  let stamp := match ts with | some t => (bytesLE (t.toNat % 2 ^ 32) 4).zipIdx.map fun x => (8 + x.2, x.1) | none => []
  let status := worse (q.net.ports[p]).headStatus status
  let done := BitVec.ofNat 8 (q.txWord p 3 ||| 1)
  let q := q.sysBeat 21 a 16 ([(6, BitVec.ofNat 8 status)] ++ stamp ++ [(12, done)])
  (q.wr (Reg.NET_TRB_RP p.val).off (rp + 1)).headCheck p

/-- TX_RING_POST (R318): WP written. -/
def Quad.txPost (q : Quad) (p : Fin 2) (wp : W32) : Quad :=
  let empty := !q.txPosted p
  let q := q.wr (Reg.NET_TRB_WP p.val).off wp
  if empty then q.headCheck p else q

/-- Whether the frame of the head descriptor waits or is being sent. -/
def EthPort.ringBusy (e : EthPort) : Bool :=
  e.waiting.any (fun f => f.ring.isSome) || (match e.sending with | some s => s.1.ring.isSome | none => false)

/-- The head descriptor taken (R319): refused, dropped, kept waiting, or its frame put to the port. -/
def Quad.txHead (q : Quad) (p : Fin 2) : Quad :=
  let e := q.net.ports[p]
  if !q.txPosted p || e.ringBusy then q
  else
    let w1 := q.txWord p 1
    let len := w1 % 2048
    if len < 60 ∨ len > 1518 then q.txRecord p St.refused none
    else if e.headLate && bitN w1 12 then q.txRecord p St.cancelled none
    else if (match e.headSeen with | some t => decide (t > (q.tim.ns.toNat : Int)) | none => false) then q
    else
      let a := 16 * q.txWord p 0
      let (bytes, ecc, q) := if q.sysRange a len then q.memRead (q.phys a) len else (List.replicate len 0, .clean, q)
      let bad := ecc == .uncorr
      let status := worse ecc.status (if e.headLate then St.late else St.done)
      q.egress p ⟨.ring, bytes, none, some (q.rd (Reg.NET_TRB_RP p.val).off).toNat, bad, status⟩

/-- TX_LAUNCH (R314, R319): an idle port starts the first of the frames that wait, the head descriptor among them once it is
due. -/
def Quad.txLaunch (q : Quad) (p : Fin 2) : Quad :=
  if !q.ethOn p || (q.net.ports[p]).sending.isSome then q
  else
    let q := q.txHead p
    match (q.net.ports[p]).waiting with
    | [] => q
    | f :: t =>
      let ts := q.corrected315 (q.fld (Reg.NET_LAT_TX p.val))
      let f := match f.ingress with
        | some i => if q.flag Reg.NET_CTL_BRIDGE && q.flag Reg.NET_CTL_TC then
            { f with bytes := addResidence f.bytes (((ts.toNat : Int) - i.toNat) * 65536) } else f
        | none => f
      q.mapPort p fun e => { e with waiting := t, sending := some (f, ts) }

/-- TX_FRAME_DONE (R318, R315): the frame in progress has left. -/
def Quad.txDone (q : Quad) (p : Fin 2) : Quad :=
  match (q.net.ports[p]).sending with
  | none => q
  | some (f, ts) =>
    let tsreq := f.ring.isSome && bitN (q.txWord p 1) 13
    let q := q.mapPort p fun e => { e with sending := none, last := some f, lastTs := ts.setWidth 32 }
    if f.ring.isSome then q.txRecord p f.status (if tsreq then some ts else none) else q

/-- The frame of the head descriptor that waits or is being sent. -/
def EthPort.ringFrame (e : EthPort) : Option TxFrame :=
  ((e.sending.map (·.1)).toList ++ e.waiting).find? fun f => f.ring.isSome

/-- The frames of a port ended by a reset: the ring's own gets ABORTED_RESET (R50, R319), or what it bore before if that is worse (R15). -/
def Quad.txAbort (q : Quad) (p : Fin 2) : Quad :=
  let own := (q.net.ports[p]).ringFrame
  let q := q.mapPort p fun e => { e with waiting := [], sending := none }
  match own with
  | some f => q.txRecord p (worse f.status St.abortedReset) none
  | none => q

/-- ETH_LINK_CHANGE (R327). -/
def Quad.ethLink (q : Quad) (p : Fin 2) (up : Bool) : Quad := q.setFld (Reg.NET_PCFG_LINK p.val) (b2n up)

/-! ### Streams (R322 to R328) -/

/-- Fi in units of the stream rate: Q = num / den (R324). -/
def Quad.streamQ (q : Quad) (fs : Nat) : Nat × Nat :=
  let fi := fiKHz q.fi
  let f := if fs = 0 then 48 else 96
  if fi < f then (1, f / fi) else (fi / f, 1)

/-- CDLY (R324). -/
def cdly (qr : Nat × Nat) : Nat := if qr = (1, 1) then 0 else 16

/-- Whether a stream's packet time and payload keep to Table: stream support (R322). -/
def streamOk (fs ch spp : Nat) (l24 ip6 : Bool) : Bool :=
  let set := if fs = 0 then [6, 12, 16, 48, 192] else [12, 24, 32, 96, 384]
  set.contains spp && decide (ch * spp * (if l24 then 3 else 2) ≤ (if ip6 then 1440 else 1460))

/-- The channels of the enabled streams of a direction, without stream `s`. -/
def Quad.streamTotal (q : Quad) (rx : Bool) (s : Nat) : Nat :=
  (((List.range 32).filter fun t => t != s && q.flag (if rx then Reg.NET_RXDESC_EN t else Reg.NET_TXDESC_EN t)).map fun t =>
    q.fld (if rx then Reg.NET_RXDESC_CH t else Reg.NET_TXDESC_CH t) + 1).sum

/-- STREAM_ENABLE (R323, R327): EN written 1. A transmit stream takes a random first sequence number. -/
def Quad.streamEnable (q : Quad) (rx : Bool) (s : Nat) : Quad :=
  let d (hi lo w : Nat) : Nat := q.fld (if rx then rxD s w hi lo else txD s w hi lo)
  let fs := d 3 3 0
  let ch := d 15 8 0 + 1
  let ofs := d 9 0 3
  let qr := q.streamQ fs
  let ok := streamOk fs ch (d 24 16 0) (d 4 4 0 == 1) (d 5 5 0 == 1) &&
    decide (q.streamTotal rx s + ch ≤ 256) &&
    (if rx then decide (ofs * qr.2 ≥ d 24 16 0 * qr.1) else qr.2 != 1 || ofs % qr.1 == 0)
  if d 0 0 0 = 1 then q.raise Reg.NET_CTL_WERR
  else if !ok then q.raise Reg.NET_CTL_WERR
  else if rx then
    { q.setFld (Reg.NET_RXDESC_EN s) 1 with net := { q.net with rx := q.net.rx.setIfInBounds s {} } }
  else
    let (v, q) := q.draw
    { q.setFld (Reg.NET_TXDESC_EN s) 1 with net := { q.net with tx := q.net.tx.setIfInBounds s { seq := v.setWidth 16 } } }

/-- A receive stream changed. -/
def Quad.mapRxS (q : Quad) (s : Fin 32) (f : RxStream → RxStream) : Quad :=
  { q with net := { q.net with rx := q.net.rx.set s (f q.net.rx[s]) } }

/-- A transmit stream changed. -/
def Quad.mapTxS (q : Quad) (s : Fin 32) (f : TxStream → TxStream) : Quad :=
  { q with net := { q.net with tx := q.net.tx.set s (f q.net.tx[s]) } }

/-- The media count of the present time at a stream's rate (R324). -/
def Quad.mediaNow (q : Quad) (fs : Nat) : Nat := q.tim.ns.toNat * (if fs = 0 then 48000 else 96000) / 1000000000

/-- Whether the tick of the present has begun its last microsecond (R325). -/
def Quad.lastMicro (q : Quad) : Bool := decide ((q.cclk - q.bndCclk) + 1229 > cclkPerTick q.fi)

/-- A received slot sample stored to the exchange write view. -/
def Quad.rxStore (q : Quad) (s : Fin 32) (g ch : Nat) (v : W40) : Quad :=
  q.ioStore 4 (q.fld (Reg.NET_RXDESC_SLOT s.val) + ch) (g % 4) v

/-- A grid sample of a stream's channels placed: stored at once in its own tick, kept until then otherwise. -/
def Quad.rxPlace (q : Quad) (s : Fin 32) (g : Nat) (v : List W40) : Quad :=
  let q := q.mapRxS s fun r => { r with store := r.store.put g (v.zipIdx.map fun x => (x.2, x.1)) }
  if g / 4 = q.tick.toNat then (v.zipIdx).foldl (fun q x => q.rxStore s g x.2 x.1) q else q

/-- Whether a grid position is late (R325). -/
def Quad.gridLate (q : Quad) (g : Int) : Bool :=
  decide (g < 4 * (q.tick.toNat : Int)) || (decide (g / 4 = q.tick.toNat) && q.lastMicro)

/-- Whether a grid position is more than 1,024 samples ahead of the present one (R325). -/
def Quad.gridEarly (q : Quad) (g : Int) : Bool := decide (g > (4 * q.tick.toNat + (q.gridPassed - 1) + 1024 : Nat))

/-- A grid sample that the converter gives between received ones, placed where it is in time. -/
def Quad.rxGrid (q : Quad) (s : Fin 32) (g : Int) (v : List W40) : Quad :=
  if q.gridLate g || q.gridEarly g then q else q.rxPlace s g.toNat v

/-- The samples of one received sample time taken (R324): its grid samples, by Q. -/
def Quad.rxTake (q : Quad) (s : Fin 32) (qr : Nat × Nat) (m g : Int) (v : List W40) : Quad :=
  if qr = (1, 1) then q.rxPlace s g.toNat v
  else
    let q := q.mapRxS s fun r => { r with hist := pushHist r.hist v 64 }
    if qr.2 = 2 then
      if m % 2 ≠ 0 then q
      else let r := q.convertAll 4 q.net.rx[s].hist; r.2.rxPlace s g.toNat r.1
    else
      (List.range (qr.1 - 1)).foldl (fun (q : Quad) (i : Nat) =>
        let r := q.convertAll 4 q.net.rx[s].hist
        r.2.rxGrid s (g + 1 + (i : Int)) r.1) (q.rxPlace s g.toNat v)

/-- One sample time of a packet (R324, R325): late or early it is discarded and counted once. With Q = 1/2 a sample between two grid
samples goes by the one before it. -/
def Quad.rxSample (q : Quad) (s : Fin 32) (qr : Nat × Nat) (m : Int) (v : List W40) : Quad :=
  let g : Int := m * qr.1 / qr.2 + (q.fld (Reg.NET_RXDESC_OFS s.val) + cdly qr : Nat)
  if q.gridLate g then q.count (Reg.NET_RXSTAT_LATE s.val) 1
  else if q.gridEarly g then q.count (Reg.NET_RXSTAT_EARLY s.val) 1
  else q.rxTake s qr m g v

/-- STREAM_PACKET_RECEIVE (R322, R324, R325): a packet on a port of the stream, merged by sequence number. -/
def Quad.streamPacket (q : Quad) (p : Fin 2) (s : Fin 32) (k : RtpPacket) : Quad :=
  let n := s.val
  let pt := q.fld (Reg.NET_RXDESC_PT n)
  let ssrc := q.fld (Reg.NET_RXDESC_SSRC n)
  let spp := q.fld (Reg.NET_RXDESC_SPP n)
  let ch := q.fld (Reg.NET_RXDESC_CH n) + 1
  let valid := q.ethOn p && q.flag (Reg.NET_RXDESC_EN n) && bitN (q.fld (Reg.NET_RXDESC_PORTS n)) p.val &&
    (pt == 0 || pt == k.pt.toNat) && (ssrc == 0 || ssrc == k.ssrc.toNat) &&
    k.samples.length == spp && k.samples.all fun x => x.length == ch
  if !valid then q
  else
    let q := (q.mapRxS s fun r => { r with lost := false }).setFld (Reg.NET_RXSTAT_LOST n) 0
    if (q.net.rx[s].seqs).contains k.seq then q
    else
      let q := (q.mapRxS s fun r => { r with seqs := (k.seq :: r.seqs).take 512 }).setFld (Reg.NET_RXDESC_SEQ n) k.seq.toNat
      let fs := q.fld (Reg.NET_RXDESC_FS n)
      let now := q.mediaNow fs
      let m0 : Int := (now : Int) + sdiff32 (k.rtp - w32 (q.fld (Reg.NET_RXDESC_RTPOFS n))) (w32 now)
      k.samples.zipIdx.foldl (fun q x =>
        q.rxSample s (q.streamQ fs) (m0 + (x.2 : Int)) (x.1.map fun b => inWord 24 ((b.setWidth 32 : W32) <<< 8))) q

/-- The samples of a payload, big-endian and left-aligned in 24 bits (R322). -/
def payloadSamples (width : Nat) (l : List Byte) : List (BitVec 24) :=
  (List.range (l.length / width)).map fun i => BitVec.ofNat 24 (fbe l (i * width) width * (if width = 2 then 256 else 1))

/-- A list cut into pieces of `n`. -/
def pieces {α : Type} (n : Nat) (l : List α) : List (List α) := (List.range (l.length / n)).map fun i => (l.drop (i * n)).take n

/-- The RTP packet of a UDP frame (R322): version 2; CSRC list, header extension and padding skipped. -/
def rtpOf (l24 : Bool) (ch : Nat) (l : List Byte) : Option RtpPacket :=
  match udpAt l with
  | none => none
  | some (u, _) =>
    let r := (l.drop (u + 8)).take (fbe l (u + 4) 2 - 8)
    let b0 := fb r 0
    let fixed := 12 + 4 * (b0 % 16)
    let head := if bitN b0 4 then fixed + 4 + 4 * fbe r (fixed + 2) 2 else fixed
    let pad := if bitN b0 5 then fb r (r.length - 1) else 0
    let body := (r.drop head).take (r.length - head - pad)
    let width := if l24 then 3 else 2
    if b0 / 64 ≠ 2 ∨ r.length < head + pad ∨ body.length % (ch * width) ≠ 0 then none
    else some ⟨BitVec.ofNat 16 (fbe r 2 2), w32 (fbe r 4 4), w32 (fbe r 8 4), BitVec.ofNat 7 (fb r 1), pieces ch (payloadSamples width body)⟩

/-- ETH_FRAME_RECEIVE (R313, R314, R320). The packet of a stream's frame goes to the engine. -/
def Quad.ethReceive (q : Quad) (p : Fin 2) (f : EthFrame) : Quad :=
  let n := f.bytes.length
  if !q.ethOn p then q
  else if !f.fcsOk || decide (n < 60 ∨ n > 1518) then q.count (Reg.NET_PSTAT_BAD p.val) 1
  else if isPause f.bytes then q.count (Reg.NET_PSTAT_PAUSE p.val) 1
  else
    let l := f.bytes
    let ts := q.corrected315 (q.fld (Reg.NET_LAT_RX p.val))
    let mac := destMac l
    let toUs := decide (mac / 2 ^ 40 % 2 = 0) && q.macHit mac 3
    let o := otherEth p
    let q := if q.flag Reg.NET_CTL_BRIDGE && !toUs && q.ethOn o then
        q.egress o ⟨if ptpEvent l then .event else .other, l, if ptpEvent l then some ts else none, none, false, St.done⟩
      else q
    match q.rxStreamOf p l with
    | some s => (match rtpOf (q.flag (Reg.NET_RXDESC_L24 s)) (q.fld (Reg.NET_RXDESC_CH s) + 1) l with
      | some k => q.streamPacket p ⟨s % 32, by omega⟩ k
      | none => q)
    | none =>
      let pass := if mac = broadcast then bitN (q.fld Reg.NET_CTL_BCAST) p.val else q.macHit mac (2 ^ p.val)
      if pass then q.rxRing p (if (ptpAt l).isSome then 2 else 3) ts l else q.count (Reg.NET_PSTAT_FILT p.val) 1

/-- STREAM_SAMPLE_DEADLINE (R325): the samples of the present tick that were not received, written as zero and counted. -/
def Quad.streamDeadline (q : Quad) (s : Fin 32) : Quad :=
  if !q.flag (Reg.NET_RXDESC_EN s.val) || q.mode == .scour then q
  else
    let ch := q.fld (Reg.NET_RXDESC_CH s.val) + 1
    [0, 1, 2, 3].foldl (fun q j =>
      let g := 4 * q.tick.toNat + j
      if ((q.net.rx[s]).store.find g).isSome then q
      else (q.rxPlace s g (List.replicate ch 0)).count (Reg.NET_RXSTAT_MISS s.val) 1) q

/-- STREAM_LOST_TIMEOUT (R325). -/
def Quad.streamLost (q : Quad) (s : Fin 32) : Quad :=
  if q.flag (Reg.NET_RXDESC_EN s.val) then
    (q.mapRxS s fun r => { r with lost := true }).setFld (Reg.NET_RXSTAT_LOST s.val) 1
  else q

/-- The samples kept for the tick that begins, stored to the slots of every enabled receive stream; older ones dropped. -/
def Quad.streamsBegin (q : Quad) : Quad :=
  if q.mode == .scour then q
  else (List.finRange 32).foldl (fun q s =>
    if !q.flag (Reg.NET_RXDESC_EN s.val) then q
    else
      let q := q.mapRxS s fun r => { r with store := r.store.filter fun e => decide (e.1 ≥ 4 * q.tick.toNat) }
      ((q.net.rx[s]).store.filter fun e => e.1 / 4 == q.tick.toNat).foldl (fun q e =>
        e.2.foldl (fun q x => q.rxStore s e.1 x.1 x.2) q) q) q

/-- Whether a transmit stream takes and sends samples (R327, R273). -/
def Quad.txLive (q : Quad) (s : Nat) : Bool :=
  q.mode == .run || (q.mode == .hardpan &&
    (List.range (q.fld (Reg.NET_TXDESC_CH s) + 1)).any fun c => q.kind (q.fld (Reg.NET_TXDESC_SLOT s) + c) == 6)

/-- A stream sample that left the converter at grid position `num/den` kept for its packet (R326). -/
def Quad.txPush (q : Quad) (s : Fin 32) (media : Int) (v : List W40) : Quad :=
  q.mapTxS s fun t => { t with waiting := (t.waiting ++ [(media, v)]).drop (t.waiting.length + 1 - 1024) }

/-- The grid sample `g` taken by a transmit stream (R326). A stream sample of media count (p + OFS) / Q leaves at p = g + CDLY. -/
def Quad.txTake (q : Quad) (s : Fin 32) (g : Nat) (v : List W40) : Quad :=
  let qr := q.streamQ (q.fld (Reg.NET_TXDESC_FS s.val))
  let ofs := q.fld (Reg.NET_TXDESC_OFS s.val)
  let p := g + cdly qr
  if qr = (1, 1) then q.txPush s (p + ofs : Nat) v
  else
    let q := q.mapTxS s fun t => { t with hist := pushHist t.hist v 64 }
    if qr.2 = 2 then
      let a := q.convertAll 5 q.net.tx[s].hist
      let b := a.2.convertAll 5 a.2.net.tx[s].hist
      (b.2.txPush s (2 * (p + ofs) : Nat) a.1).txPush s (2 * (p + ofs) + 1 : Nat) b.1
    else if (p + ofs) % qr.1 = 0 then
      let a := q.convertAll 5 q.net.tx[s].hist
      a.2.txPush s ((p + ofs) / qr.1 : Nat) a.1
    else q

/-- The grid samples of the period that begins, written in the tick before, taken by every enabled transmit stream fed by slots that
sends in mode `m` (R326, R327, R273); one that does not send holds nothing, and what it holds of a muted slot, whatever the mode that it
was taken in, is zero. -/
def Quad.streamsTake (q : Quad) (m : Mode) : Quad :=
  (List.finRange 32).foldl (fun q s =>
    if !q.flag (Reg.NET_TXDESC_EN s.val) || q.flag (Reg.NET_TXDESC_SRC s.val) then q
    else if !({ q with mode := m } : Quad).txLive s.val then q.mapTxS s fun t => { t with waiting := [], hist := [] }
    else
      let slots := (List.range (q.fld (Reg.NET_TXDESC_CH s.val) + 1)).map fun c => q.fld (Reg.NET_TXDESC_SLOT s.val) + c
      let q := (slots.filter ({ q with mode := m } : Quad).live).foldl (fun q t => q.noteSlot t [0, 1, 2, 3]) q
      let q := [0, 1, 2, 3].foldl (fun q j =>
        q.txTake s (4 * q.tick.toNat + j) (slots.map fun t => ({ q with mode := m } : Quad).playSample t j)) q
      q.mapTxS s fun t => { t with waiting := t.waiting.map fun x => (x.1, ({ q with mode := m } : Quad).muted slots x.2) }) q

/-- A big-endian payload sample (R322). -/
def payloadBytes (l24 : Bool) (v : W40) : List Byte :=
  if l24 then bytesBE (BitVec.ofInt 24 (outBits 24 v)).toNat 3 else bytesBE (BitVec.ofInt 16 (outBits 16 v)).toNat 2

/-- STREAM_PACKET_SEND (R326, R327): the next packet, once all its samples have left the converter by this boundary. -/
def Quad.streamSend (q : Quad) (s : Fin 32) : Quad :=
  let n := s.val
  if !q.flag (Reg.NET_TXDESC_EN n) || q.flag (Reg.NET_TXDESC_SRC n) || !q.txLive n then q
  else
    let spp := q.fld (Reg.NET_TXDESC_SPP n)
    let qr := q.streamQ (q.fld (Reg.NET_TXDESC_FS n))
    let ofs := q.fld (Reg.NET_TXDESC_OFS n)
    let w := ((q.net.tx[s]).waiting).dropWhile fun x => decide (x.1 % (spp : Int) ≠ 0)
    let out := w.take spp
    let left (m : Int) : Bool := decide (m * (qr.1 : Int) ≤ ((4 * q.tick.toNat + ofs) * qr.2 : Nat))
    if out.length < spp || spp = 0 || !(out.all fun x => left x.1) then q
    else
      let t := q.net.tx[s]
      let media := match out.head? with | some x => x.1 | none => 0
      let ts := (BitVec.ofInt 32 (media + q.fld (Reg.NET_TXDESC_RTPOFS n))).toNat
      let l24 := q.flag (Reg.NET_TXDESC_L24 n)
      let payload := (out.map fun x => (x.2.map (payloadBytes l24)).flatten).flatten
      let (packet, q) := q.rtpPacket n t.seq ts payload
      let q := q.sendPacket n packet
      (q.setFld (Reg.NET_TXDESC_SEQ n) t.seq.toNat).mapTxS s fun t =>
        { t with seq := t.seq + 1, waiting := w.drop spp, sentTick := some q.tick }

end Sys2Proof.Machine
end

