-- ==== Sys2Proof/Machine/RegRead.lean ====
section
/-! DEFINITION. What a quadrant register reads: the stored word, joined by the fields that show state held elsewhere, and the effects
of reading (RC fields and latches, R12). -/

namespace Sys2Proof.Machine

/-! ### Codes -/

/-- The code of a mode (R40). -/
def Mode.code : Mode → Nat
  | .scour => 0 | .standby => 1 | .run => 2 | .hardpan => 3 | .service => 4 | .halt => 5

/-- The mode of a code (R40). -/
def modeOf : Nat → Option Mode
  | 0 => some .scour | 1 => some .standby | 2 => some .run | 3 => some .hardpan | 4 => some .service | 5 => some .halt
  | _ => none

/-- STATE of HPN_CTL (R276). -/
def HpnState.code : HpnState → Nat
  | .off => 0 | .verify => 1 | .proving => 2 | .live => 3

/-- STATE of CLK_STAT (R300). -/
def DpllState.code : DpllState → Nat
  | .freerun => 0 | .acquire => 1 | .locked => 2 | .holdover => 3

/-- QSTATE of CLK_REFSTATn (R300). -/
def QState.code : QState → Nat
  | .disabled => 0 | .inactive => 1 | .probing => 2 | .qualified => 3 | .rejected => 4

/-- PHASE of FLT_ROT (R485). -/
def RotPhase.code : RotPhase → Nat
  | .copy => 1 | .test => 2 | .back => 3

/-! ### Computed words -/

/-- A word from (field, value) pairs. -/
def fieldsWord (l : List (Field × Nat)) : W32 := l.foldl (fun w x => x.1.put w x.2) 0

/-- QCTL_MODE but for its stored bits. DESIGN CHOICE (log 66): a HARDPAN or HALT that the fault policy has due, and the entry of an emergency
input, are no pending change of R43. -/
def Quad.modeWord (q : Quad) : W32 :=
  fieldsWord [(Reg.QCTL_MODE_MODE, q.mode.code), (Reg.QCTL_MODE_PVLD, b2n q.change.isSome),
    (Reg.QCTL_MODE_PEND, match q.change with | some c => c.target.code | none => 0)]

/-- Positions that stall in `spawn` (R187). -/
def Quad.stalled (q : Quad) : List (Fin 17) :=
  physAll.filter fun c =>
    let k := q.core c
    match (if k.act then k.evWait else k.wait) with | .spawn _ => true | _ => false

/-- SCH_BP (R187). -/
def Quad.bpWord (q : Quad) : W32 :=
  let dly := (q.sch.tickList ++ q.sch.timeList).any fun e => e.expired
  let flow := q.sch.flows.toList.any fun f => f.hold
  let mbox := match q.sch.mbox.head? with | some t => !q.refused165 t && !q.room168 t | none => false
  fieldsWord [(Reg.SCH_BP_DLY, b2n dly), (Reg.SCH_BP_FLOWR, b2n flow), (Reg.SCH_BP_CORE, b2n (!q.stalled.isEmpty)),
    (Reg.SCH_BP_DMA, b2n (q.dma.items.any fun i => i.held.isSome)), (Reg.SCH_BP_MBOX, b2n mbox),
    (Reg.SCH_BP_NSTALL, q.stalled.length)]

/-- KLN_STAT (R251). -/
def Quad.klnStat (q : Quad) : W32 :=
  fieldsWord [(Reg.KLN_STAT_PREP, q.kln.prepared.length), (Reg.KLN_STAT_GBUSY, q.kln.fades.length),
    (Reg.KLN_STAT_GRES, (q.kln.prepared.filter fun p => p.gen.isSome).length), (Reg.KLN_STAT_PEND, q.kln.pend.length)]

/-- Word 1 of KLN_GENn (R251). -/
def Quad.klnGen1 (q : Quad) (g : Nat) : W32 :=
  let last := q.kln.lastGen.get g (0, 0, 0)
  let busy := q.kln.fades.any fun f => f.gen.val == g
  let res := q.kln.prepared.find? fun p => (p.gen.map Fin.val) == some g
  let idv := match res with | some p => if busy then last.2.2.toNat else p.id.toNat | none => last.2.2.toNat
  let len := match res with | some p => if busy then last.2.1 else p.len - 1 | none => last.2.1
  fieldsWord [(⟨0, 11, 0⟩, len), (⟨0, 12, 12⟩, b2n busy), (⟨0, 13, 13⟩, b2n res.isSome), (⟨0, 29, 14⟩, idv)]

/-- Word 0 of KLN_GENn: the tick its crossfade starts at. -/
def Quad.klnGen0 (q : Quad) (g : Nat) : W32 :=
  match q.kln.prepared.find? fun p => (p.gen.map Fin.val) == some g with
  | some p => if q.kln.fades.any (fun f => f.gen.val == g) then (q.kln.lastGen.get g (0, 1, 0)).1 else p.t.setWidth 32
  | none => (q.kln.lastGen.get g (0, 1, 0)).1

/-- CLK_STAT but for its sticky bits (R300). -/
def Quad.clkStat (q : Quad) : W32 :=
  fieldsWord [(Reg.CLK_STAT_STATE, q.clk.state.code), (Reg.CLK_STAT_SEL, q.clk.sel.val),
    (Reg.CLK_STAT_SWITCHING, b2n q.clk.switch.isSome), (Reg.CLK_STAT_DISAGREE, b2n q.disagreeNow),
    (Reg.CLK_STAT_HSHORT, b2n q.clk.hshort), (Reg.CLK_STAT_REALIGNING, b2n q.realigning)]

/-- TIM_GPCAP0 (R330): the oldest capture. -/
def Quad.gpcap0 (q : Quad) : W32 :=
  match q.tim.caps.head? with
  | some c => fieldsWord [(Reg.TIM_GPCAP0_PIN, c.pin.val), (Reg.TIM_GPCAP0_RISE, b2n c.rise), (Reg.TIM_GPCAP0_VLD, 1)]
  | none => 0

/-- DMA_STAT (R430). -/
def Quad.dmaStat (q : Quad) : W32 :=
  fieldsWord [(Reg.DMA_STAT_ACC, q.dma.items.length), (Reg.DMA_STAT_ISS, (q.dma.items.filter fun i => i.issued).length),
    (Reg.DMA_STAT_HOLD, b2n (q.dma.items.any fun i => i.held.isSome))]

/-- FLT_SPARE but for its stored bits (R485). -/
def Quad.spareWord (q : Quad) : W32 :=
  let testing := match q.flt.test with | some t => t.code == 1 | none => false
  fieldsWord [(Reg.FLT_SPARE_PHYS, match q.coreAt 16 with | some c => c.val | none => 31),
    (Reg.FLT_SPARE_ROTBUSY, b2n (q.flt.rot.isSome || testing))]

/-- FLT_ROT but for its count (R485). -/
def Quad.rotWord (q : Quad) : W32 :=
  match q.flt.rot with
  | some r => if r.repair then 0 else fieldsWord [(Reg.FLT_ROT_POS, r.pos), (Reg.FLT_ROT_PHASE, r.phase.code)]
  | none => 0

/-- The role code of a position (spec/03, core window registers). -/
def roleCode (pos : Nat) : Nat := if pos < 4 then 0 else if pos < 16 then 1 else if pos = 16 then 2 else 3

/-- Whether an event is pending at a core (R85). -/
def Core.evPend (k : Core) : Bool := k.pendEvt.isSome || k.pendTick || k.pendDbg

/-- QCTL_CORE_STAT of a core. -/
def Core.statWord (k : Core) : W32 :=
  fieldsWord [(Reg.QCTL_CORE_STAT_POS, k.pos.val), (Reg.QCTL_CORE_STAT_ROLE, roleCode k.pos.val),
    (Reg.QCTL_CORE_STAT_SET, b2n k.act), (Reg.QCTL_CORE_STAT_RUN, b2n k.run.isSome),
    (Reg.QCTL_CORE_STAT_BLOCKED, b2n (k.wait == .req)), (Reg.QCTL_CORE_STAT_PARKED, b2n k.parked),
    (Reg.QCTL_CORE_STAT_LOCK, b2n k.lock), (Reg.QCTL_CORE_STAT_EVPEND, b2n k.evPend),
    (Reg.QCTL_CORE_STAT_BOOTF, b2n k.bootFetch),
    (Reg.QCTL_CORE_STAT_TASK, match k.run with | some r => r.inst.task | none => 0),
    (Reg.QCTL_CORE_STAT_TVLD, b2n k.run.isSome)]

/-- Index of a register in an array, if the offset lies there. -/
def inArr (base stride count off : Nat) : Option Nat :=
  if base ≤ off ∧ off < base + stride * count ∧ (off - base) % stride = 0 then some ((off - base) / stride) else none

/-- The registers that each reader or writer has an own copy of (R425), and the channel-status words behind the latch. -/
def hasCopy (off : Nat) : Bool :=
  [Reg.SCH_KEY_LO, Reg.SCH_KEY_HI, Reg.SCH_ARM_STAT, Reg.TIM_NOW_HI, Reg.TIM_NOW_FR, Reg.TIM_ADJ_LO, Reg.TIM_ADJ_HI,
    Reg.DMA_SUBMIT_STAT].contains off ||
  (decide (Reg.PRT_CS 0 ≤ off ∧ off < Reg.PRT_CS 4) && (off - Reg.PRT_CS 0) % 64 / 4 != 12)

/-- The registers of R425, which the DMA engine has no copy of. -/
def perWriter (off : Nat) : Bool :=
  [Reg.SCH_KEY_LO, Reg.SCH_KEY_HI, Reg.SCH_ARM, Reg.SCH_ARM_STAT, Reg.TIM_NOW_LO, Reg.TIM_NOW_HI, Reg.TIM_NOW_FR,
    Reg.TIM_ADJ_LO, Reg.TIM_ADJ_HI, Reg.TIM_ADJ_CTL, Reg.DMA_SUBMIT, Reg.DMA_SUBMIT_STAT].contains off ||
  decide (Reg.PRT_CS 0 ≤ off ∧ off < Reg.PRT_CS 4)

/-- What the registers that stand alone show beside their stored word; none where nothing is added. -/
def Quad.computedOne (q : Quad) (off : Nat) : Option W32 :=
  if off = Reg.QCTL_MODE then some q.modeWord
  else if off = Reg.QCTL_SCOUR then some (if q.rst = .past then 0x1FF else if q.rst = .scouring then w32 (Config.scourProg q.tim.ns.toNat % 255) else 0)
  else if off = Reg.QCTL_TICK_LO then some (q.tick.setWidth 32)
  else if off = Reg.QCTL_GRID then some (Reg.QCTL_GRID_RUNNING.put 0 (b2n q.running))
  else if off = Reg.SCH_STAT then
    some (fieldsWord [(Reg.SCH_STAT_READY, q.sch.queue.length), (Reg.SCH_STAT_BOUND, q.reservation)])
  else if off = Reg.SCH_BP then some q.bpWord
  else if off = Reg.SCH_MBOX_STAT then some (Reg.SCH_MBOX_STAT_FREE.put 0 (64 - q.sch.mbox.length))
  else if off = Reg.RTE_LOAD then some (w32 q.rteLoad)
  else if off = Reg.RTE_STAT then
    some (fieldsWord [(Reg.RTE_STAT_PASS, b2n (!q.fab.retry.isEmpty)), (Reg.RTE_STAT_OVLD, b2n (decide (q.rteLoad > q.rteLimit))),
      (Reg.RTE_STAT_OVLDS, b2n (decide (q.rteLoad > q.rteLimit))), (Reg.RTE_STAT_RQ, q.fab.retry.length)])
  else if off = Reg.RTE_DWQ then some (Reg.RTE_DWQ_FREE.put 0 (1024 - q.fab.dwq.length))
  else if off = Reg.KLN_STAT then some q.klnStat
  else if off = Reg.KLN_HOLD then some (Reg.KLN_HOLD_FREE.put 0 (4096 - q.kln.hold.length))
  else if off = Reg.HPN_CTL then
    some (fieldsWord [(Reg.HPN_CTL_EN, b2n q.hpnOn), (Reg.HPN_CTL_STATE, q.hpn.state.code)])
  else if off = Reg.HPN_MISM then some (Reg.HPN_MISM_RUN.put 0 q.hpn.run)
  else if off = Reg.HPN_EMG then some (Reg.HPN_EMG_LVL.put 0 q.hpn.lvl.toNat)
  else if off = Reg.CLK_STAT then some q.clkStat
  else if off = Reg.CLK_FREQ then some q.clk.freq
  else if off = Reg.CLK_HOFREQ then some q.clk.hofreq
  else if off = Reg.CLK_PHASE then some (sat32 q.clk.phase)
  else if off = Reg.CLK_BIAS then some (sat32 q.clk.bias)
  else if off = Reg.TIM_STAT then some (Reg.TIM_STAT_LOCK.put 0 (b2n q.tim.started))
  else if off = Reg.TIM_NOW_LO then some (q.tim.ns.setWidth 32)
  else if off = Reg.TIM_INCR_FR then some (q.tim.heldFr.getD q.tim.incrFr)
  else if off = Reg.TIM_INCR_NS then some (q.tim.incrNs.setWidth 32)
  else if off = Reg.TIM_SLEWN then some q.tim.slewLeft
  else if off = Reg.TIM_GPCAP0 then some q.gpcap0
  else if off = Reg.TIM_GPCAP1 then some (match q.tim.caps.head? with | some c => c.ts | none => 0)
  else if off = Reg.DMA_STAT then some q.dmaStat
  else if off = Reg.FLT_SPARE then some q.spareWord
  else if off = Reg.FLT_ROT then some q.rotWord
  else none

/-- What a register of an array shows beside its stored word. -/
def Quad.computedArr (q : Quad) (off : Nat) : Option W32 :=
  match inArr (Reg.SCH_LVL_DEP 0) 4 8 off with
  | some l => some (Reg.SCH_LVL_DEP_DEPTH 0 |>.put 0 (q.depth l true))
  | none =>
  match inArr (Reg.SCH_FLOW_STAT 0) 4 64 off with
  | some f =>
    let s := q.flow f
    some (fieldsWord [(Reg.SCH_FLOW_STAT_OUT 0, s.out), (Reg.SCH_FLOW_STAT_HOLD 0, b2n s.hold), (Reg.SCH_FLOW_STAT_REL 0, s.rel)])
  | none =>
  match inArr (Reg.DEC_GDNS 0) 4 64 off with
  | some n => if q.flag (Reg.DEC_CH_EN n) then some (w32 (q.decGdns n)) else none
  | none =>
  match inArr (Reg.KLN_GEN 0) 4 32 off with
  | some i => some (if i % 2 = 0 then q.klnGen0 (i / 2) else q.klnGen1 (i / 2))
  | none =>
  match inArr (Reg.CLK_REFSTAT 0) 4 10 off with
  | some n => some (Reg.CLK_REFSTAT_QSTATE 0 |>.put 0 (q.candQ ⟨n % 10, by omega⟩).code)
  | none =>
  match inArr (Reg.TIM_GPL 0) 8 8 (off - 4) with
  | some n => if off < 4 then none else some (w32 (256 * (16 - (q.tim.launches.toList.getD n []).length)))
  | none =>
  match inArr (Reg.BUS_QOS 0) 4 1 off with
  | some _ => if q.locked then some 15 else none
  | none => none

/-- A register whose stored field is replaced by a computed one: PDIV of candidates 6 to 8 (R278); the largest load with the present
one (R229); an owner written that awaits its
boundary is the value held, with PEND (R11, R206). -/
def Quad.overlay (q : Quad) (off : Nat) (w : W32) : W32 :=
  match inArr (Reg.CLK_REFCFG 6) 4 3 off with
  | some _ => (Reg.CLK_REFCFG_PDIV 0).put w (masterPerTick q.fi)
  | none =>
    if off = Reg.RTE_LOADPK then Reg.RTE_LOADPK_LOAD.put w (max (Reg.RTE_LOADPK_LOAD.get w) q.rteLoad)
    else match inArr (Reg.XCH_OWN 0) 4 4096 off with
    | some s => (match q.fab.ownPend.find s with | some v => (Reg.XCH_OWN_PEND 0).put v 1 | none => w)
    | none => w

/-- The stored bits that a computed word does not replace: the bits software keeps (RW, W1C, RC, RS) and, where nothing is computed,
the whole word. -/
def Quad.keptBits (q : Quad) (off : Nat) : W32 :=
  match rowOf quadRows off with
  | some r => q.rd off &&& (r.w1c ||| r.rc ||| r.rs)
  | none => 0

/-- Stored RO fields that stand beside computed ones. -/
def storedRO (off : Nat) : W32 :=
  if off = Reg.QCTL_MODE then 0x200
  else if off = Reg.QCTL_GRID then 2
  else if off = Reg.FLT_SPARE then 0x700
  else if off = Reg.FLT_ROT then 0xFFFF0000
  else if off = Reg.HPN_EMG then 0xFFF
  else if off = Reg.TIM_STAT then 0xF02
  else if Reg.CLK_REFSTAT 0 ≤ off ∧ off < Reg.CLK_REFSTAT 10 then 0x18
  else 0

/-- The value of a quadrant register to a reader (R11, R13): an offset with no register reads zero. -/
def Quad.regValue (q : Quad) (w : Writer) (off : Nat) : W32 :=
  match rowOf quadRows off with
  | none => 0
  | some row =>
    if off = Reg.QCTL_TICK_HI then q.tickHi
    else if hasCopy off then q.rdCopy w off
    else
      let c := match q.computedOne off with | some v => some v | none => q.computedArr off
      match c with
      | some v => v ||| q.keptBits off ||| (q.rd off &&& storedRO off)
      | none => q.overlay off (q.rd off) &&& ~~~row.wo

/-! ### Effects of reading (R12) -/

/-- The RC bits of a register cleared. -/
def Quad.clearRC (q : Quad) (off : Nat) : Quad :=
  match rowOf quadRows off with
  | some r => if r.rc = 0 then q else q.wr off (q.rd off &&& ~~~r.rc)
  | none => q

/-- A read of a register by a reader: the value and what reading it changes (R12, R30, R303, R321, R372). -/
def Quad.regRead (q : Quad) (w : Writer) (off : Nat) : W32 × Quad :=
  let v := q.regValue w off
  if off = Reg.QCTL_TICK_LO then (v, { q with tickHi := (q.tick >>> 32).setWidth 32 })
  else if off = Reg.TIM_NOW_LO then (v, q.nowRead w)
  else if off = Reg.TIM_GPCAP1 then (v, q.gpioPop)
  else match inArr (Reg.PRT_CS 0) 64 4 (off - 48) with
    | some r => if off < 48 then (v, q.clearRC off) else (v, q.csLatch w ⟨r % 4, by omega⟩)
    | none => (v, q.clearRC off)

/-- The lowest RC field of each register that has one: base, stride, count, highest and lowest bit. -/
def rcFields : List (Nat × Nat × Nat × Nat × Nat) :=
  [(0x200C, 0, 1, 15, 0), (0x2040, 4, 8, 28, 16), (0x2140, 4, 16, 16, 0), (0x2200, 4, 32, 31, 0), (0x2314, 0, 1, 23, 8),
   (0x2330, 0, 1, 31, 0), (0x3004, 0, 1, 15, 0), (0x3008, 0, 1, 15, 0), (0x300C, 0, 1, 15, 0), (0x3010, 0, 1, 15, 0),
   (0x3014, 0, 1, 15, 0), (0x3408, 0, 1, 16, 0), (0x3410, 0, 1, 15, 0), (0x3414, 0, 1, 15, 0), (0x3418, 0, 1, 15, 0),
   (0x3424, 0, 1, 15, 0), (0x3428, 0, 1, 7, 0), (0x342C, 0, 1, 31, 16), (0x3430, 0, 1, 15, 0), (0x3808, 0, 1, 31, 16),
   (0x380C, 0, 1, 15, 0), (0x3810, 0, 1, 15, 0), (0x3830, 0, 1, 31, 0), (0x400C, 0, 1, 15, 0), (0x4010, 0, 1, 15, 0),
   (0x4014, 0, 1, 15, 0), (0x4018, 0, 1, 15, 0), (0x5080, 4, 10, 31, 16), (0x6280, 0, 1, 31, 16), (0x6820, 8, 2, 15, 0),
   (0x6824, 8, 2, 15, 0), (0x7800, 8, 32, 15, 0), (0x7804, 8, 32, 15, 0), (0x7900, 8, 32, 15, 0), (0xC0A0, 0, 1, 15, 0)] ++
  [(0xC0A4, 0, 1, 15, 0), (0xC0A8, 0, 1, 15, 0), (0xD204, 16, 8, 31, 16), (0xD20C, 16, 8, 15, 0), (0xD380, 4, 4, 31, 16),
   (0xD634, 64, 4, 15, 0), (0xE010, 32, 12, 31, 16), (0xF604, 16, 64, 31, 0), (0x20200, 4, 23, 31, 0),
   (0x20300, 4, 23, 31, 0), (0x20400, 8, 4, 15, 0), (0x21030, 0, 1, 31, 0), (0x30084, 4, 6, 31, 0), (0x30110, 0, 1, 31, 0)]

/-- The lowest RC field of a register. -/
def rcField (off : Nat) : Option Field :=
  (rcFields.find? fun r =>
    if r.2.1 = 0 then decide (off = r.1) else decide (r.1 ≤ off ∧ off < r.1 + r.2.1 * r.2.2.1 ∧ (off - r.1) % r.2.1 = 0)).map
    fun r => ⟨off, r.2.2.2.1, r.2.2.2.2⟩

/-- The RC fields of a register, lowest first: those above the lowest are of its width and lie one behind the other. -/
def rcAll (off : Nat) : List Field :=
  match rcField off, rowOf quadRows off with
  | some f, some r =>
    ((List.range 4).map fun k => (⟨off, f.hi + k * (f.hi - f.lo + 1), f.lo + k * (f.hi - f.lo + 1)⟩ : Field)).filter fun g =>
      decide (g.hi < 32) && g.get r.rc == g.max
  | _, _ => []

/-- RC_REGISTER_READ (R12): the read clears the RC fields, and the events that the hardware counts in the same cycle, one number for each
field from the lowest, stay in them. -/
def Quad.rcRead (q : Quad) (w : Writer) (off : Nat) (counted : List Nat) : Quad :=
  ((rcAll off).zip counted).foldl (fun q e => q.count e.1 e.2) (q.regRead w off).2

end Sys2Proof.Machine
end

