-- ==== Sys2Proof/Machine/RegWrite.lean ====
section
/-! DEFINITION. Writes of quadrant registers (R11, R13): access codes, byte enables, each block's rules for what it refuses, and
the operations that a write starts. The writes of SRST and of DMA_CTL.RST, which reach beyond registers, are made in HostOps.lean. -/

namespace Sys2Proof.Machine

/-- The bits of a 32-bit word that byte enables cover. -/
def beMask (be : BitVec 4) : W32 :=
  w32 (0xFF * b2n (be.getLsbD 0) + 0xFF00 * b2n (be.getLsbD 1) + 0xFF0000 * b2n (be.getLsbD 2) + 0xFF000000 * b2n (be.getLsbD 3))

/-- The word with its RW bits written under a mask (R11). -/
def RegRow.merge (r : RegRow) (old v m : W32) : W32 := (old &&& ~~~(r.rw &&& m)) ||| (v &&& r.rw &&& m)

/-- A write on its way: row, offset, mask of the bits written, value. -/
structure RegW where
  row : RegRow
  off : Nat
  m : W32
  v : W32
  deriving DecidableEq, Repr

/-- The bits that act (WO) or clear (W1C): those written. -/
def RegW.act (x : RegW) : W32 := x.v &&& x.m

/-- The word after the write of the RW bits. -/
def RegW.next (x : RegW) (q : Quad) : W32 := x.row.merge (q.rd x.off) x.v x.m

/-- Whether the write reaches a field. -/
def RegW.reaches (x : RegW) (f : Field) : Bool := (f.get x.m) != 0

/-- The W1C bits cleared. -/
def Quad.w1c (q : Quad) (x : RegW) : Quad :=
  if x.act &&& x.row.w1c = 0 then q else q.wr x.off (q.rd x.off &&& ~~~(x.act &&& x.row.w1c))

/-- A write by the access codes alone. -/
def Quad.plain (q : Quad) (x : RegW) : Quad := (q.wr x.off (x.next q)).w1c x

/-- A write that a register takes only under a condition; refused, it leaves the register as it is and raises the block's WERR
(R13). -/
def Quad.guarded (q : Quad) (werr : Field) (x : RegW) (ok : Bool) : Quad := if ok then q.plain x else q.raise werr

/-- A write that a block may refuse, and whether it did: its WERR rises (R13). -/
def Quad.tryWrite (q : Quad) (werr : Field) (x : RegW) (f : Quad → Quad) : Quad × Bool :=
  let clear := x.off == werr.off && werr.get x.act != 0
  let was := q.fld werr != 0 && !clear
  let q' := f (q.setFld werr 0)
  let refused := q'.flag werr
  (if was || refused then q'.raise werr else q', refused)

/-! ### Quadrant control (R26, R56) -/

/-- QCTL_RATE_WRITE (R26). -/
def Quad.rateWrite (q : Quad) (fi : Nat) : Quad :=
  if q.mode != .standby || (q.sch.bound.any fun b => b.last.isNone) || fi == 3 then q.raise Reg.QCTL_RATE_WERR
  else { q.noteLoad.setFld Reg.QCTL_RATE_FI fi with running := false, gridDue := true }

/-- Whether every core other than C0 is parked (R56). -/
def Quad.othersParked (q : Quad) : Bool := physAll.all fun c => c.val == 0 || (q.core c).parked

/-- REMAP_WRITE (R56). -/
def Quad.remapWrite (q : Quad) (remap : Bool) : Quad :=
  if (q.mode == .standby || q.mode == .service) && q.othersParked && q.dma.items.isEmpty && q.dma.copying.isEmpty then
    q.setFld Reg.QCTL_CTL_REMAP (b2n remap)
  else q.raise Reg.QCTL_CTL_WERR

/-- The QCTL_ registers. -/
def Quad.writeQctl (q : Quad) (x : RegW) : Quad × Bool :=
  if x.off = Reg.QCTL_RATE then
    q.tryWrite Reg.QCTL_RATE_WERR x fun q => if x.reaches Reg.QCTL_RATE_FI then q.rateWrite (Reg.QCTL_RATE_FI.get x.v) else q
  else if x.off = Reg.QCTL_CTL then
    q.tryWrite Reg.QCTL_CTL_WERR x fun q => if x.reaches Reg.QCTL_CTL_REMAP then q.remapWrite (x.v.getLsbD 0) else q
  else (q.plain x, false)

/-! ### Scheduler (R174, R186, R196) -/

/-- The SCH_ registers. -/
def Quad.writeSch (q : Quad) (w : Writer) (x : RegW) : Quad × Bool :=
  if x.off = Reg.SCH_KEY_LO ∨ x.off = Reg.SCH_KEY_HI then
    (q.wrCopy w x.off (x.row.merge (q.rdCopy w x.off) x.v x.m), false)
  else if x.off = Reg.SCH_ARM then
    let q := q.armWrite w x.act
    (q, false)
  else if x.off = Reg.SCH_MBOX then q.mailboxWrite (w == Writer.host) x.act
  else
    q.tryWrite Reg.SCH_CTL_WERR x fun q =>
      let nv := x.next q
      if Reg.SCH_LVL_LIM 0 ≤ x.off ∧ x.off < Reg.SCH_LVL_LIM 8 then q.guarded Reg.SCH_CTL_WERR x (decide (nv.toNat ≤ 4096))
      else if x.off = Reg.SCH_CR_BASE then
        q.guarded Reg.SCH_CTL_WERR x (q.mode == .standby && !q.anyInstance && q.scratch (16 * nv.toNat) 16)
      else if x.off = Reg.SCH_CR_LEN then
        q.guarded Reg.SCH_CTL_WERR x (q.mode == .standby && !q.anyInstance && decide (8 ≤ nv.toNat ∧ nv.toNat ≤ 16))
      else match inArr (Reg.SCH_FLOW_CFG 0) 4 64 x.off with
        | some f => q.flowCfgWrite f nv
        | none => q.plain x

/-! ### Exchange memory, fabric, Kiln (R206, R215, R227, R229, R251) -/

/-- The XCH_ and RTE_ registers. -/
def Quad.writeXch (q : Quad) (x : RegW) : Quad × Bool :=
  q.tryWrite Reg.XCH_CTL_WERR x fun q =>
    let nv := x.next q
    if x.off = Reg.XCH_CTL then
      let q := q.w1c x
      if x.reaches Reg.XCH_CTL_MPER then q.mperWrite (Reg.XCH_CTL_MPER.get nv) else q
    else if x.off = Reg.RTE_LIM then q.noteLoad.guarded Reg.XCH_CTL_WERR x (decide (nv.toNat ≤ 0x10000))
    else match inArr (Reg.XCH_OWN 0) 4 4096 x.off with
      | some s => q.ownWrite s (x.row.merge (q.fab.ownPend.get s (q.rd x.off)) x.v x.m)
      | none => q.plain x

/-- Whether a ring of a block may lie at a base (R413). -/
def Quad.ringBase (q : Quad) (base : W32) : Bool := q.sysRange (16 * base.toNat) 16

/-- The KLN_ registers. -/
def Quad.writeKln (q : Quad) (x : RegW) : Quad × Bool :=
  q.tryWrite Reg.KLN_CTL_WERR x fun q =>
    let nv := x.next q
    let idle := q.mode == .standby && q.kln.prepared.isEmpty && q.rd Reg.KLN_RG_WP == q.rd Reg.KLN_RG_RP
    if x.off = Reg.KLN_RG_BASE then q.guarded Reg.KLN_CTL_WERR x (idle && q.ringBase nv)
    else if x.off = Reg.KLN_RG_LEN then q.guarded Reg.KLN_CTL_WERR x (idle && decide (6 ≤ nv.toNat ∧ nv.toNat ≤ 12))
    else q.plain x

/-! ### Hardpan (R254, R255) -/

/-- What waits at positions 0 and 1 put back in its queue: with Hardpan enabled no queued instance reaches them (R181). -/
def Quad.returnPair (q : Quad) : Quad :=
  [0, 1].foldl (fun q p =>
    let q := match q.prefAt p with | some i => (q.emptyPref p).enqueue i | none => q
    match q.coreAt p with
    | some c =>
      match (q.core c).pendEvt with
      | some i => (q.setCore c { q.core c with pendEvt := none }).enqueue i
      | none => q
    | none => q) q

/-- HPN_ENABLE (R255): EN written 1. -/
def Quad.hpnEnable (q : Quad) : Quad :=
  if q.hpnOn then q
  else if q.mode == .standby then
    let q := q.returnPair
    { q with hpn := { q.hpn with state := .verify, since := q.tick, verified := none, verr := 0 } }
  else q.raise Reg.HPN_CTL_WERR

/-- HPN_DISABLE (R254): EN written 0; lockstep ends (R93), and the two positions wait for work of their own (R181). -/
def Quad.hpnDisable (q : Quad) : Quad :=
  if q.mode != .standby then q.raise Reg.HPN_CTL_WERR
  else if !q.hpnOn then q
  else
    let q := q.mapCores fun _ k => if k.lock then { k with lock := false, wait := .req } else k
    let q := { q with
      hpn := { q.hpn with state := .off, verified := none, next := none, mism := false, journal := [], run := 0, aborted := [] } }
    [0, 1].foldl (fun q p => match q.coreAt p with
      | some c => if (q.core c).wait == .req then q.waitForWork c else q
      | none => q) q

/-- The HPN_ registers: outside STANDBY a write is refused but of EN, the control words and bits that a 1 clears (R254). -/
def Quad.writeHpn (q : Quad) (x : RegW) : Quad × Bool :=
  q.tryWrite Reg.HPN_CTL_WERR x fun q =>
    if x.off = Reg.HPN_CTL then
      let q := q.w1c x
      if !x.reaches Reg.HPN_CTL_EN then q else if x.v.getLsbD 0 then q.hpnEnable else q.hpnDisable
    else if Reg.HPN_CW 0 ≤ x.off ∧ x.off < Reg.HPN_CW 16 then q.plain x
    else if Reg.HPN_SCH 0 ≤ x.off ∧ x.off < Reg.HPN_SCH 16 then
      q.guarded Reg.HPN_CTL_WERR x (q.mode == .standby && !q.hpnOn)
    else
      let clears := x.act &&& x.row.w1c != 0 && x.m &&& x.row.rw == 0
      (q.w1c x).guarded Reg.HPN_CTL_WERR x (q.mode == .standby || clears)

/-! ### Sample clock (R278, R286, R300) -/

/-- The CLK_ registers. -/
def Quad.writeClk (q : Quad) (x : RegW) : Quad × Bool :=
  q.tryWrite Reg.CLK_CTL_WERR x fun q =>
    let nv := x.next q
    let g (f : Field) : Nat := f.get nv
    let inR (n lo hi : Nat) : Bool := decide (lo ≤ n ∧ n ≤ hi)
    if x.off = Reg.CLK_CTL then (q.plain x).revert
    else if x.off = Reg.CLK_SEL then q.selWrite nv
    else if x.off = Reg.CLK_DPLL then
      q.guarded Reg.CLK_CTL_WERR x (decide (g Reg.CLK_DPLL_BW < 0x13 ∧ g Reg.CLK_DPLL_ABW < 0x13 ∧ g Reg.CLK_DPLL_HAVG ≤ 9))
    else if x.off = Reg.CLK_QUAL then
      (q.guarded Reg.CLK_CTL_WERR x (inR (g Reg.CLK_QUAL_ACCEPT) 1 1000 && inR (g Reg.CLK_QUAL_REJECT) (g Reg.CLK_QUAL_ACCEPT) 1000 &&
        inR (g Reg.CLK_QUAL_AGREE) 1 1000)).leaveFreerun.noteDisagree
    else if x.off = Reg.CLK_TIMES then (q.guarded Reg.CLK_CTL_WERR x (g Reg.CLK_TIMES_ACCT != 0)).wtrSet (q.fld Reg.CLK_TIMES_WTR)
    else match inArr (Reg.CLK_REFCFG 0) 4 10 x.off with
      | some n =>
        let nv := if 6 ≤ n ∧ n ≤ 8 then (Reg.CLK_REFCFG_PDIV n).put nv (q.fld (Reg.CLK_REFCFG_PDIV n)) else nv
        if (Reg.CLK_REFCFG_PDIV n).get nv < 2 ∧ ¬ (6 ≤ n ∧ n ≤ 8) then q.raise Reg.CLK_CTL_WERR
        else
          let rank := (Reg.CLK_REFCFG_RANK n).get nv
          let old := q.fld (Reg.CLK_REFCFG_RANK n)
          let q := q.wr x.off ((Reg.CLK_REFCFG_RANK n).put nv old)
          if rank = old ∧ ¬ (n = 8 ∧ q.flag Reg.TIM_STAT_SUSPECT) then q
          else if x.reaches (Reg.CLK_REFCFG_RANK n) then q.rankWrite ⟨n % 10, by omega⟩ rank else q
      | none => q.plain x

/-! ### Time counter and GPIO (R302 to R309, R321, R330) -/

/-- The TIM_ registers. -/
def Quad.writeTim (q : Quad) (w : Writer) (x : RegW) : Quad × Bool :=
  if x.off = Reg.TIM_ADJ_LO ∨ x.off = Reg.TIM_ADJ_HI then
    (q.wrCopy w x.off (x.row.merge (q.rdCopy w x.off) x.v x.m), false)
  else
    q.tryWrite Reg.TIM_CTL_WERR x fun q =>
      let nv := x.next q
      if x.off = Reg.TIM_CTL then q.guarded Reg.TIM_CTL_WERR x (Reg.TIM_CTL_STEPTH.get nv != 0)
      else if x.off = Reg.TIM_STAT then
        if Reg.TIM_STAT_SUSPECT.get x.act != 0 then q.suspectClear.w1c x else q.w1c x
      else if x.off = Reg.TIM_INCR_FR then q.incrFrWrite ((q.tim.heldFr.getD q.tim.incrFr &&& ~~~x.m) ||| x.act)
      else if x.off = Reg.TIM_INCR_NS then if x.reaches Reg.TIM_INCR_NS_NS then q.incrNsWrite (x.v.setWidth 4) else q
      else if x.off = Reg.TIM_SLEWN then q.slewStart ((q.tim.slewLeft &&& ~~~x.m) ||| x.act)
      else if x.off = Reg.TIM_ADJ_CTL then q.adjWrite w x.act
      else match inArr (Reg.TIM_GPCFG 0) 4 16 x.off with
        | some n => if n < 8 then q.plain x else (q.plain x).setFld (Reg.TIM_GPCFG_OUT n) 0
        | none =>
          if Reg.TIM_GPL 0 ≤ x.off ∧ x.off < Reg.TIM_GPL 8 then
            if (x.off - Reg.TIM_GPL 0) % 8 = 0 then q.wr x.off ((q.rd x.off &&& ~~~x.m) ||| x.act)
            else q.gpioQueue (fin8 ((x.off - Reg.TIM_GPL 0) / 8)) (x.act.getLsbD 0)
          else q.plain x

/-! ### Network (R318, R323, R330, R429) -/

/-- A port taken out of use: its frames are given up (R429). -/
def Quad.portOff (q : Quad) (p : Fin 2) : Quad :=
  q.txAbort p

/-- A stream disabled: what it holds is given up. -/
def Quad.streamOff (q : Quad) (rx : Bool) (s : Nat) : Quad :=
  if rx then { q with net := { q.net with rx := q.net.rx.setIfInBounds s {} } }
  else { q with net := { q.net with tx := q.net.tx.setIfInBounds s {} } }

/-- A stream descriptor's word written (R323). -/
def Quad.writeStream (q : Quad) (x : RegW) (rx : Bool) (s word : Nat) : Quad :=
  let en : Field := if rx then rxD s 0 0 0 else txD s 0 0 0
  let nv := x.next q
  let onNow := q.flag en
  if word ≠ 0 then
    let okAddr := rx || word != 5 || q.ringBase nv
    q.guarded Reg.NET_CTL_WERR x (!onNow && okAddr)
  else
    let want := en.get nv != 0
    let cfg := en.put nv 0
    if onNow then
      if cfg = en.put (q.rd x.off) 0 then (if want then q else (q.wr x.off cfg).streamOff rx s)
      else q.raise Reg.NET_CTL_WERR
    else if want then
      let q' := (q.wr x.off cfg).streamEnable rx s
      if q'.flag Reg.NET_CTL_WERR then q.raise Reg.NET_CTL_WERR else q'
    else q.wr x.off cfg

/-- The NET_ registers. -/
def Quad.writeNet (q : Quad) (x : RegW) : Quad × Bool :=
  q.tryWrite Reg.NET_CTL_WERR x fun q =>
    let nv := x.next q
    if Reg.NET_RXDESC 0 ≤ x.off ∧ x.off < Reg.NET_RXDESC 32 then
      q.writeStream x true ((x.off - Reg.NET_RXDESC 0) / 32) ((x.off - Reg.NET_RXDESC 0) % 32 / 4)
    else if Reg.NET_TXDESC 0 ≤ x.off ∧ x.off < Reg.NET_TXDESC 32 then
      q.writeStream x false ((x.off - Reg.NET_TXDESC 0) / 32) ((x.off - Reg.NET_TXDESC 0) % 32 / 4)
    else match inArr (Reg.NET_PCFG 0) 4 2 x.off with
      | some p =>
        let q' := q.guarded Reg.NET_CTL_WERR x ((Reg.NET_PCFG_MODE p).get nv != 3)
        if q.fld (Reg.NET_PCFG_MODE p) ≠ 0 ∧ q'.fld (Reg.NET_PCFG_MODE p) = 0 then q'.portOff ⟨p % 2, by omega⟩
        else if q.fld (Reg.NET_PCFG_MODE p) = 0 ∧ q'.fld (Reg.NET_PCFG_MODE p) ≠ 0 then q'.headCheck ⟨p % 2, by omega⟩ else q'
      | none =>
        if Reg.NET_TRB 0 ≤ x.off ∧ x.off < Reg.NET_TRB 0 + 64 then
          let tx := decide (x.off < Reg.NET_RRB 0)
          let p : Fin 2 := ⟨(x.off - Reg.NET_TRB 0) % 32 / 16 % 2, by omega⟩
          let off := q.fld (Reg.NET_PCFG_MODE p.val) == 0
          match x.off % 16 / 4 with
          | 0 => q.guarded Reg.NET_CTL_WERR x (off && q.ringBase nv)
          | 1 => q.guarded Reg.NET_CTL_WERR x (off && decide (4 ≤ nv.toNat ∧ nv.toNat ≤ 12))
          | 2 => if tx then q.txPost p nv else q
          | _ => q.plain x
        else q.plain x

/-! ### Stanex (R358) -/

/-- Whether two ranges of transmit channels meet. -/
def rangesMeet (a b : Nat × Nat) : Bool := decide (a.1 < b.1 + b.2 ∧ b.1 < a.1 + a.2)

/-- A map word as it will stand: pending, else stored. -/
def Quad.mapWord (q : Quad) (off : Nat) : W32 := q.snx.mapPend.get off (q.rd off)

/-- Whether a map may take a word (R358, Table: SNX_TXMAPn): a count within 2,048, its channels within those of Fi while enabled,
usable slots, and no overlap of transmit ranges. -/
def Quad.mapOk (q : Quad) (off : Nat) (nv : W32) : Bool :=
  let tx := decide (off < Reg.SNX_RXMAP 0)
  let base := if tx then Reg.SNX_TXMAP 0 else Reg.SNX_RXMAP 0
  let n := (off - base) / 8
  let w0 := if (off - base) % 8 = 0 then nv else q.mapWord (base + 8 * n)
  let w1 := if (off - base) % 8 = 0 then q.mapWord (base + 8 * n + 4) else nv
  let first := w0.toNat % 2048
  let count := w0.toNat / 4096 % 4096
  let others := (List.range 4).filterMap fun i =>
    if i = n then none
    else some ((q.mapWord (Reg.SNX_TXMAP i)).toNat % 2048, (q.mapWord (Reg.SNX_TXMAP i)).toNat / 4096 % 4096)
  count == 0 || (decide (count ≤ 2048) && decide (w1.toNat % 4096 + count ≤ slotLimit q.fi) &&
    (!q.flag Reg.SNX_CFG_EN || decide (first + count ≤ chanLimit q.fi)) &&
    (!tx || !(others.any fun o => o.2 != 0 && rangesMeet (first, count) o)))

/-- The SNX_ registers. -/
def Quad.writeSnx (q : Quad) (x : RegW) : Quad × Bool :=
  q.tryWrite Reg.SNX_CTL_WERR x fun q =>
    let nv := x.next q
    let en := q.flag Reg.SNX_CFG_EN
    if x.off = Reg.SNX_CFG then
      let want := Reg.SNX_CFG_EN.get nv != 0
      let cfg := Reg.SNX_CFG_EN.put nv 0
      if en then
        if cfg = Reg.SNX_CFG_EN.put (q.rd x.off) 0 then (if want then q else q.snxOffAll) else q.raise Reg.SNX_CTL_WERR
      else if Reg.SNX_CFG_ROLE.get nv = 3 then q.raise Reg.SNX_CTL_WERR
      else if want then (q.wr x.off cfg).snxOn else q.wr x.off cfg
    else if x.off = Reg.SNX_CTL then
      let q := q.w1c x
      let q := if x.act.getLsbD 0 then q.snxJoin else q
      let q := if x.act.getLsbD 1 then q.snxLeave else q
      if x.act.getLsbD 2 then q.snxYield (Reg.SNX_CTL_YMID.get x.act) else q
    else if x.off = Reg.SNX_FWL then q.guarded Reg.SNX_CTL_WERR x (!en)
    else if Reg.SNX_TXMAP 0 ≤ x.off ∧ x.off < Reg.SNX_RXMAP 8 then
      let nv := x.row.merge (q.mapWord x.off) x.v x.m
      if !q.mapOk x.off nv then q.raise Reg.SNX_CTL_WERR
      else if en then q.mapSnx fun s => { s with mapPend := s.mapPend.put x.off nv }
      else q.wr x.off nv
    else q.plain x

/-! ### Ports and rate converters (R384) -/

/-- A port block disabled (R384, R429). -/
def Quad.portDisable (q : Quad) : PortBlock → Quad
  | .tdm p =>
    let q := (q.setFld (Reg.PRT_TDMCFG_EN p.val) 0).setFld (Reg.PRT_TDMSTAT_LOST p.val) 0
    q.mapTdm p fun t => { ({} : Tdm) with inp := { t.inp with chgJ := none }, out := { t.out with chgJ := none } }
  | .rx r =>
    ((q.setFld (Reg.PRT_AESRXCFG_EN r.val) 0).setFld (Reg.PRT_AESRXSTAT_LOCK r.val) 0).mapRx r fun x => { ({} : AesRx) with cap := x.cap }
  | .tx t => (q.setFld (Reg.PRT_AESTXCFG_EN t.val) 0).mapTx t fun x => { x with count := 0, j := 0, hist := [], sent := none }

/-- A word 0 that holds an EN bit beside configuration (R384): configuration changes only while EN is 0; `on` enables with the new
configuration in place and `off` disables. -/
def Quad.enWord (q : Quad) (werr en : Field) (x : RegW) (nv : W32) (on off : Quad → Quad) : Quad :=
  let want := en.get nv != 0
  let cfg := en.put nv 0
  if q.flag en then
    if cfg = en.put (q.rd x.off) 0 then (if want then q else off q) else q.raise werr
  else if want then
    let q' := on (q.wr x.off cfg)
    if q'.flag werr then q.raise werr else q'
  else q.wr x.off cfg

/-- The PRT_ registers. -/
def Quad.writePrt (q : Quad) (x : RegW) : Quad × Bool :=
  q.tryWrite Reg.PRT_CTL_WERR x fun q =>
    let nv := x.next q
    let werr := Reg.PRT_CTL_WERR
    if Reg.PRT_TDMCFG 0 ≤ x.off ∧ x.off < Reg.PRT_TDMCFG 8 then
      let p : Fin 8 := fin8 ((x.off - Reg.PRT_TDMCFG 0) / 32)
      let en := Reg.PRT_TDMCFG_EN p.val
      match (x.off - Reg.PRT_TDMCFG 0) % 32 / 4 with
      | 0 =>
        if ((Reg.PRT_TDMCFG_RDIV p.val).get nv = 3 ∨ (Reg.PRT_TDMCFG_WIDTH p.val).get nv < 15) ∧ !q.flag en then q.raise werr
        else q.enWord werr en x nv (fun q => q.portEnable (.tdm p)) (fun q => q.portDisable (.tdm p))
      | 1 =>
        let n := (Reg.PRT_TDMCFG_FLEN p.val).get nv
        q.guarded werr x (!q.flag en && decide (32 ≤ n ∧ n ≤ 512))
      | 2 => q.guarded werr x (!q.flag en && decide ((Reg.PRT_TDMCFG_INLEN p.val).get nv ≤ 32))
      | 3 => q.guarded werr x (!q.flag en && decide ((Reg.PRT_TDMCFG_OUTLEN p.val).get nv ≤ 32))
      | 4 => q.maskWrite p true nv
      | 5 => q.maskWrite p false nv
      | _ => q.guarded werr x (!q.flag en)
    else if Reg.PRT_AESRXCFG 0 ≤ x.off ∧ x.off < Reg.PRT_AESRXCFG 4 then
      let r : Fin 4 := fin4 ((x.off - Reg.PRT_AESRXCFG 0) / 32)
      let en := Reg.PRT_AESRXCFG_EN r.val
      match (x.off - Reg.PRT_AESRXCFG 0) % 32 / 4 with
      | 0 => q.enWord werr en x nv (fun q => q.portEnable (.rx r)) (fun q => q.portDisable (.rx r))
      | 1 => q.guarded werr x (!q.flag en && q.ringBase nv)
      | 2 => q.guarded werr x (!q.flag en && decide (8 ≤ nv.toNat ∧ nv.toNat ≤ 20))
      | _ => q.plain x
    else if Reg.PRT_AESTXCFG 0 ≤ x.off ∧ x.off < Reg.PRT_AESTXCFG 4 then
      let t : Fin 4 := fin4 ((x.off - Reg.PRT_AESTXCFG 0) / 32)
      let en := Reg.PRT_AESTXCFG_EN t.val
      match (x.off - Reg.PRT_AESTXCFG 0) % 32 / 4 with
      | 0 =>
        if (Reg.PRT_AESTXCFG_RDIV t.val).get nv = 3 ∧ !q.flag en then q.raise werr
        else q.enWord werr en x nv (fun q => q.portEnable (.tx t)) (fun q => q.portDisable (.tx t))
      | 1 => q.guarded werr x (!q.flag en && (nv == 0 || q.ringBase nv))
      | 2 => q.guarded werr x (!q.flag en && decide (8 ≤ nv.toNat ∧ nv.toNat ≤ 20))
      | _ => q.plain x
    else if Reg.PRT_TXCS 0 ≤ x.off ∧ x.off < Reg.PRT_TXCS 4 then
      let k := (x.off - Reg.PRT_TXCS 0) % 64 / 4
      if k < 12 then q.txcsWrite (fin4 ((x.off - Reg.PRT_TXCS 0) / 64)) k nv else q.plain x
    else q.plain x

/-- The ASR_ registers. -/
def Quad.writeAsr (q : Quad) (x : RegW) : Quad × Bool :=
  q.tryWrite Reg.ASR_CTL_WERR x fun q =>
    let nv := x.next q
    let werr := Reg.ASR_CTL_WERR
    if Reg.ASR_GRP 0 ≤ x.off ∧ x.off < Reg.ASR_GRP 12 then
      let g : Fin 12 := ⟨(x.off - Reg.ASR_GRP 0) / 32 % 12, by omega⟩
      let en := Reg.ASR_GRP_EN g.val
      match (x.off - Reg.ASR_GRP 0) % 32 / 4 with
      | 0 =>
        let nv := if g.val < 8 then nv else (Reg.ASR_GRP_COUNT g.val).put nv 2
        if 32 < (Reg.ASR_GRP_COUNT g.val).get nv ∧ !q.flag en then q.raise werr
        else q.enWord werr en x nv (fun q => q.asrcEnable g) (fun q => q.asrcDisable g)
      | 1 => q.guarded werr x (!q.flag en)
      | _ => q.plain x
    else q.plain x

/-! ### Decimators (R401) -/

/-- The DEC_ registers. -/
def Quad.writeDec (q : Quad) (x : RegW) : Quad × Bool :=
  q.tryWrite Reg.DEC_CTL_WERR x fun q =>
    let nv := x.next q
    let werr := Reg.DEC_CTL_WERR
    if x.off = Reg.DEC_SYNCT then q.syncArm nv
    else match inArr (Reg.DEC_CLK 0) 4 8 x.off with
      | some c =>
        let osr := (Reg.DEC_CLK_OSR c).get nv
        if osr = 3 ∨ osr = 2 ∧ q.fi = 2 ∧ !q.flag (Reg.DEC_CLK_EN c) then q.raise werr
        else q.enWord werr (Reg.DEC_CLK_EN c) x nv (fun q => q.modClock (fin8 c) true) (fun q => q.modClock (fin8 c) false)
      | none =>
        if Reg.DEC_CH 0 ≤ x.off ∧ x.off < Reg.DEC_CH 64 then
          let n : Fin 64 := ⟨(x.off - Reg.DEC_CH 0) / 16 % 64, by omega⟩
          let en := Reg.DEC_CH_EN n.val
          match (x.off - Reg.DEC_CH 0) % 16 / 4 with
          | 0 =>
            let g (f : Field) : Nat := f.get nv
            if g (Reg.DEC_CH_ORD n.val) = 3 ∨ g (Reg.DEC_CH_RCIC n.val) = 3 ∨ g (Reg.DEC_CH_D n.val) = 3 ∨ g (Reg.DEC_CH_RESP n.val) ≥ 12 then
              q.raise werr
            else q.enWord werr en x nv (fun q => q.decEnable n true) (fun q => q.decEnable n false)
          | 1 => q.guarded werr x (!q.flag en)
          | 2 =>
            let codes := [Reg.DEC_CH_RMST n.val, Reg.DEC_CH_ATK n.val, Reg.DEC_CH_REL n.val]
            q.guarded werr x (codes.all fun f => decide (f.get nv ≤ 9))
          | _ => q.plain x
        else q.plain x

/-! ### Bus, DMA, faults (R411, R422, R430, R485) -/

/-- The BUS_ registers. -/
def Quad.writeBus (q : Quad) (x : RegW) : Quad × Bool :=
  q.tryWrite Reg.BUS_CTL_WERR x fun q =>
    match inArr (Reg.BUS_QOS 0) 4 23 x.off with
    | some m => if 17 ≤ m ∧ m ≤ 19 then q else q.guarded Reg.BUS_CTL_WERR x ((Reg.BUS_QOS_QOS m).get (x.next q) != 15)
    | none => q.plain x

/-- DMA_SUBMIT (R422, R428): refused while the writer's last one is being copied, in SCOUR and in HALT. -/
def Quad.dmaSubmit (q : Quad) (w : Writer) (desc : W32) : Quad :=
  if (q.dma.copying.find w.val).isSome || q.mode == .scour || q.mode == .halt then q.raise Reg.DMA_CTL_WERR
  else
    { q with dma := { q.dma with copying := q.dma.copying.put w.val (16 * desc.toNat) } }.wrCopy w Reg.DMA_SUBMIT_STAT
      (Reg.DMA_SUBMIT_STAT_BUSY.put 0 1)

/-- The DMA_ registers. -/
def Quad.writeDma (q : Quad) (w : Writer) (x : RegW) : Quad × Bool :=
  q.tryWrite Reg.DMA_CTL_WERR x fun q =>
    let nv := x.next q
    let idle := q.mode == .standby && q.dma.items.isEmpty
    if x.off = Reg.DMA_SUBMIT then q.dmaSubmit w x.act
    else if x.off = Reg.DMA_CR_BASE then q.guarded Reg.DMA_CTL_WERR x idle
    else if x.off = Reg.DMA_CR_LEN then q.guarded Reg.DMA_CTL_WERR x (idle && decide (6 ≤ nv.toNat ∧ nv.toNat ≤ 12))
    else q.plain x

/-- The FLT_ registers. -/
def Quad.writeFlt (q : Quad) (x : RegW) : Quad × Bool :=
  q.tryWrite Reg.FLT_CTL_WERR x fun q =>
    let nv := x.next q
    let werr := Reg.FLT_CTL_WERR
    if x.off = Reg.FLT_CTL then q.guarded werr x (Reg.FLT_CTL_AUTOINT.get nv != 0)
    else if x.off = Reg.FLT_RG_BASE then q.guarded werr x (q.mode == .standby)
    else if x.off = Reg.FLT_RG_LEN then q.guarded werr x (q.mode == .standby && decide (6 ≤ nv.toNat ∧ nv.toNat ≤ 12))
    else match inArr (Reg.FLT_POL 0) 4 7 x.off with
      | some c => q.guarded werr x ((Reg.FLT_POL_ACT c).get nv != 3)
      | none => q.plain x

/-! ### All registers -/

/-- A write of a quadrant register by a writer, of the bits that a mask covers, and whether it was refused (R13, R63). -/
def Quad.regWrite0 (q : Quad) (w : Writer) (off : Nat) (m v : W32) : Quad × Bool :=
  match rowOf quadRows off with
  | none => (q, false)
  | some r =>
    let x : RegW := ⟨r, off, m, v⟩
    if off < 0x2000 then q.writeQctl x
    else if off < 0x3000 then q.writeSch w x
    else if off < 0x3800 ∨ (0x8000 ≤ off ∧ off < 0xC000) then q.writeXch x
    else if off < 0x4000 then q.writeKln x
    else if off < 0x5000 then q.writeHpn x
    else if off < 0x6000 then q.writeClk x
    else if off < 0x6800 then q.writeTim w x
    else if off < 0x8000 then q.writeNet x
    else if off < 0xD000 then q.writeSnx x
    else if off < 0xE000 then q.writePrt x
    else if off < 0xF000 then q.writeAsr x
    else if off < 0x10000 then q.writeDec x
    else if off < 0x21000 then q.writeBus x
    else if off < 0x30000 then q.writeDma w x
    else if off < 0x40000 then q.writeFlt x
    else (q, false)

end Sys2Proof.Machine
end

