-- ==== Sys2Proof/Machine/Bus.lean ====
section
/-! DEFINITION. The bus matrix (spec/16 R402 to R415): the address map and its targets, and the reads and writes of a master. -/

namespace Sys2Proof.Machine

/-- A target of the address map (R402, R107). -/
inductive Target where
  | low | remapped | scratch | views | headers | route | tasks | objects | scenes | program
  | window (c : Fin 17)
  | registers | dram
  deriving DecidableEq, Repr

/-- A number for each target, by which a request remembers it (R108). -/
def Target.code : Target → Nat
  | .low => 0 | .remapped => 1 | .scratch => 2 | .views => 3 | .headers => 4 | .route => 5 | .tasks => 6 | .objects => 7
  | .scenes => 8 | .program => 9 | .registers => 10 | .dram => 11
  | .window c => 12 + c.val

/-- The target at an address; none where nothing is mapped (R402, R404, R418). -/
def Quad.target (q : Quad) (a : Nat) : Option Target :=
  if a < 0x40000 then some .low
  else if 0x10000000 ≤ a ∧ a < 0x10800000 then some (if q.remap ∧ a < 0x10040000 then .remapped else .scratch)
  else if 0x20000000 ≤ a ∧ a < 0x200A0000 then some .views
  else if 0x200A0000 ≤ a ∧ a < 0x200A1000 then some .headers
  else if 0x21000000 ≤ a ∧ a < 0x21080000 then some .route
  else if 0x22000000 ≤ a ∧ a < 0x22020000 then some .tasks
  else if 0x23000000 ≤ a ∧ a < 0x23010000 then some .objects
  else if 0x23010000 ≤ a ∧ a < 0x23011000 then some .scenes
  else if 0x30000000 ≤ a ∧ a < 0x30200000 then some .program
  else if 0x40000000 ≤ a ∧ a < 0x41100000 then some (.window ⟨(a - 0x40000000) / 0x100000 % 17, by omega⟩)
  else if 0xF0000000 ≤ a ∧ a < 0xF0100000 then some .registers
  else if 0x800000000 ≤ a ∧ a < 0x800000000 + q.dramBytes then some .dram
  else none

/-- Whether a target's bytes are the boot ROM's (R404). -/
def Quad.isRom (q : Quad) : Target → Bool
  | .low => !q.remap
  | .remapped => true
  | _ => false

/-- The target of an access of `n` bytes, which must lie in one (R107). -/
def Quad.access (q : Quad) (a n : Nat) : Option Target :=
  if q.target a = q.target (a + n - 1) then q.target a else none

/-- Whether a write of the target is a bus error (R403). -/
def Quad.readOnly (q : Quad) (t : Target) : Bool := q.isRom t || t == .headers

/-- Whether a window belongs to the enabled lockstep pair (R79). -/
def Quad.lockedWindow (q : Quad) : Target → Bool
  | .window c => (q.core c).lock
  | _ => false

/-! ### Reads -/

/-- The bytes of 40-bit words in the .q layout from a memory (R76, R106): bytes 5 to 7 copy bit 39. -/
def Memory.word40Bytes (m : Memory) (a n : Nat) : List Byte :=
  (List.range n).map fun i =>
    let b := a + i
    if b % 8 < 5 then m.read b else if (m.read (b / 8 * 8 + 4)).getLsbD 7 then 0xFF else 0

/-- A read of a core's window (R76); the count of dropped writes clears as it is read, and an uncorrectable X or Y word is recorded
(R472). -/
def Quad.windowRead (q : Quad) (c : Fin 17) (a n : Nat) : List Byte × Ecc × Quad :=
  let o := a % 0x100000
  let l := (q.eccIn a n).filter fun x => decide (x.1 % 0x100000 < 0x50000)
  let e := worstEcc l
  let k := q.core c
  let byte (i : Nat) : Byte :=
    let p := o + i
    if p < 0x40000 then (q.mem.word40Bytes (a + i) 1).headD 0
    else if p < 0x50000 then q.mem.read (a + i)
    else if 0xF0000 ≤ p ∧ p < 0xF0004 then BitVec.ofNat 8 (k.statWord.toNat >>> (8 * (p % 4)))
    else if 0xF0004 ≤ p ∧ p < 0xF0008 then BitVec.ofNat 8 (k.coll.toNat >>> (8 * (p % 4)))
    else 0
  let hit := decide (o < 0xF0008 ∧ 0xF0004 < o + n)
  let q := { q with eccBack := q.eccBack ++ (l.filter fun x => x.2 == .corr).map fun x => x.1 }
  let bad := l.filter fun x => x.2 == .uncorr && decide (x.1 % 0x100000 < 0x40000)
  let q := bad.foldl (fun q x => q.fault 4 6 c.val k.pos.val (w32 (x.1 % 0x20000 / 8))) q
  (if e == .uncorr then List.replicate n 0 else (List.range n).map byte, e, if hit then q.setCore c { k with coll := 0 } else q)

/-- A read of the register region: registers word by word, coefficient sets in the .q layout (R390). -/
def Quad.regionRead (q : Quad) (w : Writer) (a n : Nat) : List Byte × Quad :=
  let words := (List.range ((a % 4 + n + 3) / 4)).map fun i => a / 4 * 4 + 4 * i
  let r := words.foldl (fun (r : List Byte × Quad) wa =>
    if inCoef wa then (r.1 ++ r.2.mem.word40Bytes wa 4, r.2)
    else
      let v := r.2.regRead w (wa - 0xF0000000)
      (r.1 ++ bytesLE v.1.toNat 4, v.2)) ([], q)
  ((r.1.drop (a % 4)).take n, r.2)

/-- A read of `n` bytes by a reader from a target that it may reach. -/
def Quad.busRead (q : Quad) (w : Writer) (t : Target) (a n : Nat) : List Byte × Ecc × Quad :=
  if q.isRom t then ((List.range n).map fun i => Config.bootRom ((a + i) % 0x40000), .clean, q)
  else
    match t with
    | .low => q.memRead (0x10000000 + a) n
    | .views => q.viewRead (a - 0x20000000) n
    | .headers => (q.mem.bytesAt a n, .clean, q)
    | .tasks =>
      let r := q.memRead a n
      (if r.2.1 == .uncorr then r.1 else (List.range n).map fun i => q.tableByte (a + i), r.2.1, r.2.2)
    | .window c => q.windowRead c a n
    | .registers => let r := q.regionRead w a n; (r.1, .clean, r.2)
    | _ => q.memRead a n

/-! ### Writes -/

/-- A write to one of the three tables, of the bits that take it. -/
def Quad.tableWrite (q : Quad) (bytes : List (Nat × Byte)) : Quad × Nat :=
  q.memWriteAt (bytes.map fun b => (b.1, (q.mem.read b.1 &&& ~~~tableMask b.1) ||| (b.2 &&& tableMask b.1)))

/-- A write through a core's window (R76 to R78): bytes 5 to 7 of an X or Y word, and what lies above program memory, are ignored; what
meets a word that the core stored in the same cycle is dropped and counted (log 29). -/
def Quad.windowWrite (q : Quad) (c : Fin 17) (bytes : List (Nat × Byte)) : Quad × Nat :=
  let l := bytes.filter fun b => let o := b.1 % 0x100000; decide (o < 0x40000 ∧ o % 8 < 5) || decide (0x40000 ≤ o ∧ o < 0x50000)
  let k := q.core c
  let lost := k.wrote.filter fun a => l.any fun b => b.1 / 8 * 8 == a
  let kept := l.filter fun b => !(lost.contains (b.1 / 8 * 8))
  let r := (q.mirrored kept).memWriteAt kept
  if lost.isEmpty then r
  else (r.1.setCore c { k with coll := w32 (satTo 0xFFFF (k.coll.toNat + lost.eraseDups.length)) }, worse St.collided r.2)

/-- A write to the coefficient sets (R390). -/
def Quad.coefWrite (q : Quad) (m : Master) (bytes : List (Nat × Byte)) : Quad × Nat :=
  if bytes.any fun b => q.coefLocked b.1 then
    match m with
    | .core _ => (q.raise Reg.DEC_CTL_WERR, St.done)
    | _ => (q.raise Reg.DEC_CTL_WERR, St.refused)
  else
    ({ q with mem := bytes.foldl (fun m b => if b.1 % 8 < 5 then m.write b.1 b.2 else m) q.mem }, St.done)

/-- Whether a master is the DMA engine. -/
def Master.isDma : Master → Bool
  | .dma .. => true
  | _ => false

/-- A beat's bytes that reach a bank past the other port (R407): those of the cores go through port A. -/
def Quad.portsMeet (q : Quad) (m : Master) (l : List (Nat × Byte)) : Quad × Option (List (Nat × Byte)) :=
  match m with
  | .core _ => (q, some l)
  | .host => q.portB 20 (q.fld (Reg.BUS_QOS_QOS 20)) l
  | .dma n _ => q.portB 19 n l

/-- Bytes with their addresses. -/
def addressed (a : Nat) (bytes : List Byte) : List (Nat × Byte) :=
  (List.range bytes.length).map fun i => (a + i, bytes.getD i 0)

/-- A register word's mask and value from addressed bytes. -/
def wordParts (wa : Nat) (bytes : List (Nat × Byte)) : W32 × W32 :=
  bytes.foldl (fun r b =>
    if b.1 / 4 * 4 = wa then (r.1 ||| w32 (0xFF <<< (8 * (b.1 % 4))), r.2 ||| w32 (b.2.toNat <<< (8 * (b.1 % 4)))) else r) (0, 0)

/-- The words that addressed bytes touch, in rising order. -/
def touchedWords (bytes : List (Nat × Byte)) : List Nat := (bytes.map fun b => b.1 / 4 * 4).eraseDups

/-- A write of the register region: each word by `regW` (writer, offset, mask, value), coefficient sets apart. -/
def Quad.regionWrite (regW : Quad → Writer → Nat → W32 → W32 → Quad × Bool) (q : Quad) (m : Master) (w : Writer)
    (bytes : List (Nat × Byte)) : Quad × Nat :=
  let coef := bytes.filter fun b => inCoef b.1
  let regs := bytes.filter fun b => !inCoef b.1
  let r := if coef.isEmpty then (q, St.done) else q.coefWrite m coef
  (touchedWords regs).foldl (fun r wa =>
    let p := wordParts wa regs
    if m.isDma && wa == 0xF0000000 + Reg.SCH_MBOX && decide (r.1.sch.mbox.length ≥ 64) then (r.1.mboxRef, r.2)
    else
    let t := regW r.1 w (wa - 0xF0000000) p.1 p.2
    (t.1, if t.2 then worse r.2 St.refused else r.2)) r

/-- A write of bytes of one target by a master, in rising order, and the status it gives its item: REFUSED where a rule of the
target refuses it, COLLIDED where it lost to a core's store (R407), what a partial write met of an error. The caller
has checked R403. -/
def Quad.busWriteL (regW : Quad → Writer → Nat → W32 → W32 → Quad × Bool) (q : Quad) (m : Master) (w : Writer) (t : Target)
    (l : List (Nat × Byte)) : Quad × Nat :=
  let mem (l : List (Nat × Byte)) : Quad × Nat :=
    if l.any fun b => q.hpnKept b.1 then (q, St.refused)
    else
      match q.kilnWrite l with
      | (q, none) => (q, St.refused)
      | (q, some rest) =>
        match q.portsMeet m rest with
        | (q, none) => (q, St.collided)
        | (q, some l) => q.memWriteAt l
  match t with
  | .low => mem (l.map fun b => (0x10000000 + b.1, b.2))
  | .views =>
    match gather l with
    | [(a, bytes)] => q.viewWrite m (a - 0x20000000) bytes
    | (a, _) :: _ => (q.badWrite (viewSlot (a - 0x20000000)), St.refused)
    | [] => (q, St.done)
  | .route => q.routeWriteL m.beat l
  | .tasks | .objects | .scenes =>
    if (l.any fun b => q.hpnKept b.1) || (l.any fun b => q.touchesEntry b.1) then (q, St.refused) else q.tableWrite l
  | .window c => if q.lockedWindow t then (q, St.refused) else q.windowWrite c l
  | .registers => q.regionWrite regW m w l
  | .headers | .remapped => (q, St.refused)
  | _ => mem l

/-- A write of consecutive bytes. -/
def Quad.busWriteAt (regW : Quad → Writer → Nat → W32 → W32 → Quad × Bool) (q : Quad) (m : Master) (w : Writer) (t : Target)
    (a : Nat) (bytes : List Byte) : Quad × Nat := q.busWriteL regW m w t (addressed a bytes)

/-- A write with the registers of RegWrite.lean. -/
def Quad.busWrite0 (q : Quad) (m : Master) (w : Writer) (t : Target) (a : Nat) (bytes : List Byte) : Quad × Nat :=
  q.busWriteAt Quad.regWrite0 m w t a bytes

/-- Whether a range touches a register that each writer has an own copy of (R425). -/
def touchesPerWriter (a n : Nat) : Bool :=
  decide (0xF0000000 ≤ a + n ∧ a < 0xF0100000) &&
    (List.range ((a % 4 + n + 3) / 4)).any fun i => perWriter (a / 4 * 4 + 4 * i - 0xF0000000)

end Sys2Proof.Machine
end

