-- ==== Sys2Proof/Machine/DmaOps.lean ====
section
/-! DEFINITION. The DMA engine (spec/16 R422 to R429): descriptors, issue, transfer, records, resets. -/

namespace Sys2Proof.Machine

/-! ### Descriptors (R423) -/

/-- Bits `hi` to `lo` of a descriptor's word. -/
def dmaBits (words : List Nat) (w hi lo : Nat) : Nat := (words.getD w 0 >>> lo) % 2 ^ (hi - lo + 1)

/-- A signed 32-bit word of a descriptor. -/
def dmaSigned (words : List Nat) (w : Nat) : Int := (w32 (words.getD w 0)).toInt

/-- Bits of an item's descriptor. -/
def DmaItem.f (i : DmaItem) (w hi lo : Nat) : Nat := dmaBits i.words w hi lo
/-- QOS. -/
def DmaItem.qos (i : DmaItem) : Nat := i.f 1 11 8
/-- FILL. -/
def DmaItem.fill (i : DmaItem) : Bool := i.f 1 12 12 == 1
/-- TASKR. -/
def DmaItem.taskr (i : DmaItem) : Bool := i.f 1 13 13 == 1
/-- FENCE. -/
def DmaItem.fence (i : DmaItem) : Bool := i.f 1 14 14 == 1
/-- Bytes of a row. -/
def DmaItem.len (i : DmaItem) : Nat := i.f 3 23 0 + 1
/-- Number of rows. -/
def DmaItem.rows (i : DmaItem) : Nat := i.f 4 15 0 + 1
/-- Bytes of the whole item. -/
def DmaItem.total (i : DmaItem) : Nat := i.len * i.rows

/-- A row's start: base plus the signed offset for each row before it, modulo 2³⁶. -/
def rowStart (base : Nat) (stride : Int) (r : Nat) : Nat := (((base : Int) + stride * (r : Int)) % (2 ^ 36 : Int)).toNat

/-- Where source row `r` starts. -/
def DmaItem.src (i : DmaItem) (r : Nat) : Nat := rowStart (i.f 0 31 0 + 2 ^ 32 * i.f 1 3 0) (dmaSigned i.words 5) r
/-- Where destination row `r` starts. -/
def DmaItem.dst (i : DmaItem) (r : Nat) : Nat := rowStart (i.f 2 31 0 + 2 ^ 32 * i.f 1 7 4) (dmaSigned i.words 6) r

/-- Whether a descriptor keeps the layout (R423, R411). -/
def dmaLayoutOk (words : List Nat) : Bool :=
  dmaBits words 1 11 8 != 15 && dmaBits words 1 15 15 == 0 && dmaBits words 3 31 24 == 0 && dmaBits words 4 31 28 == 0

/-- A quadrant with its DMA engine changed. -/
def Quad.mapDma (q : Quad) (f : Dma → Dma) : Quad := { q with dma := f q.dma }

/-- The result of a submission shown to its writer (R422). -/
def Quad.submitStat (q : Quad) (w : Writer) (status : Nat) : Quad :=
  (q.mapDma fun d => { d with copying := d.copying.del w.val }).wrCopy w Reg.DMA_SUBMIT_STAT (w32 status)

/-- DMA_DESCRIPTOR_COPIED (R422): a descriptor at an address the engine cannot read in one piece is refused. -/
def Quad.dmaCopied (q : Quad) (w : Writer) : Quad :=
  match q.dma.copying.find w.val with
  | none => q
  | some a =>
    match q.access a 32 with
    | none => q.submitStat w St.refused
    | some t =>
      if a % 32 ≠ 0 ∨ touchesPerWriter a 32 ∨ q.mode = .halt then q.submitStat w St.refused
      else
        let r := q.busRead Writer.host t a 32
        let words := (List.range 8).map fun i => ofBytesLE ((r.1.drop (4 * i)).take 4)
        let q := r.2.2
        if r.2.1 == .uncorr || !dmaLayoutOk words then q.submitStat w St.refused
        else if q.dma.items.length ≥ 256 then q.submitStat w St.held
        else
          (q.mapDma fun d => { d with items := d.items ++ [⟨w, words, d.order, false, none, none⟩], order := d.order + 1 }).submitStat w St.done

/-! ### Records (R427) -/

/-- An item's record, which ends it. -/
def Quad.dmaRecord (q : Quad) (i : DmaItem) (status bytes : Nat) : Quad :=
  let q := q.mapDma fun d => { d with items := d.items.filter fun x => x.order != i.order }
  let w3 := if i.taskr then i.f 4 27 16 + 4096 else 0
  let a := q.ringPlace Reg.DMA_CR_BASE_BASE Reg.DMA_CR_LEN_LOG2 Reg.DMA_CR_WP_WP
  let words := [w32 (status + 256 * i.sub.val + 65536 * i.f 1 31 16), w32 (satTo 0xFFFFFFFF bytes), q.tim.ns.setWidth 32, w32 w3]
  let q := match q.access a 16 with
    | some t => if q.readOnly t then q else (q.busWrite0 (.dma i.qos i.order) Writer.host t a (recordBytes words)).1
    | none => q
  q.ringStep Reg.DMA_CR_LEN_LOG2 Reg.DMA_CR_WP_WP Reg.DMA_CR_RP_RP Reg.DMA_CR_OVWR_OVWR

/-! ### Issue (R424, R425) -/

/-- Whether a row may be moved: mapped, in one target, reachable, and free of per-writer registers. -/
def Quad.rowOk (q : Quad) (a n : Nat) (write : Bool) : Bool :=
  match q.access a n with
  | none => false
  | some t => !(write && q.readOnly t) && !touchesPerWriter a n

/-- Whether every row of an item passes the check of R424. -/
def Quad.rowsOk (q : Quad) (i : DmaItem) : Bool :=
  (List.range i.rows).all fun r => (i.fill || q.rowOk (i.src r) i.len false) && q.rowOk (i.dst r) i.len true

/-- Whether FENCE lets an item be issued. -/
def Quad.fenceOk (q : Quad) (i : DmaItem) : Bool :=
  !i.fence || !(q.dma.items.any fun x => x.sub == i.sub && decide (x.order < i.order))

/-- The waiting item that is issued next: highest QOS, then earliest acceptance. -/
def Quad.nextItem (q : Quad) : Option DmaItem :=
  (q.dma.items.filter fun i => !i.issued && q.fenceOk i).foldl (fun b i =>
    match b with
    | some j => if i.qos > j.qos then some i else some j
    | none => some i) none

/-- Whether the engine may issue: the mode (R428), fewer than 16 issued, no completion held (R187). -/
def Quad.mayIssue (q : Quad) : Bool :=
  (q.mode == .standby || q.mode == .run || q.mode == .service) &&
    decide ((q.dma.items.filter fun i => i.issued).length < 16) && !(q.dma.items.any fun i => i.held.isSome)

/-- DMA_ISSUE (R424, R425). -/
def Quad.dmaIssue (q : Quad) : Quad :=
  if !q.mayIssue then q
  else
    match q.nextItem with
    | none => q
    | some i =>
      if q.rowsOk i then
        q.mapDma fun d => { d with items := d.items.map fun x => if x.order = i.order then { x with issued := true } else x }
      else q.dmaRecord i St.refused 0

/-! ### Transfer (R426) -/

/-- The unit in which the engine reads or writes a target: a register, a slot word, a checked word. -/
def Target.unit : Target → Nat
  | .registers => 4
  | .views => 8
  | .window _ => 8
  | .route => 8
  | .dram => 8
  | _ => 4

/-- The most bytes of a write beat: one register, one word of a slot or of a core's window, 16 bytes elsewhere. -/
def Target.beat : Target → Nat
  | .registers => 4
  | .views => 8
  | .window _ => 8
  | _ => 16

/-- `n` source bytes read word by word, an uncorrectable word giving zeros, and the status of the errors met. -/
def Quad.readPieces (q : Quad) (t : Target) : Nat → Nat → Nat → List Byte × Nat × Quad
  | 0, _, _ => ([], St.done, q)
  | f + 1, a, n =>
    if n = 0 then ([], St.done, q)
    else
      let k := min n (t.unit - a % t.unit)
      let r := q.busRead Writer.host t a k
      let s := r.2.2.readPieces t f (a + k) (n - k)
      (r.1 ++ s.1, worse r.2.1.status s.2.1, s.2.2)

/-- The bytes of a fill (R423). -/
def fillBytes (pat o n : Nat) : List Byte := (List.range n).map fun i => BitVec.ofNat 8 (pat >>> (8 * ((o + i) % 4)))

/-- An item changed, by its order of acceptance. -/
def Quad.setItem (q : Quad) (order : Nat) (f : DmaItem → DmaItem) : Quad :=
  q.mapDma fun d => { d with items := d.items.map fun x => if x.order = order then f x else x }

/-- Whether an item is still accepted and not completed. -/
def Quad.hasItem (q : Quad) (order : Nat) : Bool := q.dma.items.any fun x => x.order == order

/-- One beat of an item written, with the registers by `regW`. While a register is written, the item stands at what it has moved with
that beat, in case the register resets the engine (R425, R429). -/
def Quad.dmaBeat (regW : Quad → Writer → Nat → W32 → W32 → Quad × Bool) (q : Quad) (i : DmaItem) (t : Target) (d : Nat)
    (data : List Byte) (st bytes : Nat) : Quad × Nat :=
  let m : Master := .dma i.qos i.order
  if t == .registers then
    let r := (q.setItem i.order fun x => { x with held := some (st, bytes + data.length) }).busWriteAt regW m Writer.host t d data
    (r.1.setItem i.order fun x => { x with held := none }, r.2)
  else q.busWriteAt regW m Writer.host t d data

/-- The bytes of an item from byte `p` up to byte `stop` moved beat by beat, as long as the item stands: the status so far and the bytes
written. -/
def Quad.dmaMove (regW : Quad → Writer → Nat → W32 → W32 → Quad × Bool) (q : Quad) (i : DmaItem) (stop : Nat) :
    Nat → Nat → Nat → Nat → Quad × Nat × Nat
  | 0, _, st, bytes => (q, st, bytes)
  | f + 1, p, st, bytes =>
    if p ≥ stop ∨ !q.hasItem i.order then (q, st, bytes)
    else
      let r := p / i.len
      let o := p % i.len
      let d := i.dst r + o
      match q.target d with
      | none => (q, worse st St.refused, bytes)
      | some t =>
        let n := min (min (i.len - o) (t.beat - d % t.beat)) (stop - p)
        let data : List Byte × Nat × Quad :=
          if i.fill then (fillBytes (i.f 7 31 0) o n, St.done, q)
          else match q.target (i.src r + o) with
            | some s => q.readPieces s n (i.src r + o) n
            | none => (List.replicate n 0, St.done, q)
        let w := data.2.2.dmaBeat regW i t d data.1 (worse st data.2.1) bytes
        let st := worse (worse st w.2) data.2.1
        w.1.dmaMove regW i stop f (p + n) st (if w.2 = St.refused ∨ w.2 = St.collided then bytes else bytes + n)

/-- A whole item moved. -/
def Quad.dmaRun (regW : Quad → Writer → Nat → W32 → W32 → Quad × Bool) (q : Quad) (i : DmaItem) (stop : Nat) : Quad × Nat × Nat :=
  q.dmaMove regW i stop stop 0 St.done 0

/-- The end of an item whose last beat is written: its make-ready offered; held, it waits (R187). -/
def Quad.dmaFinish (q : Quad) (i : DmaItem) (st bytes : Nat) : Quad :=
  if !i.taskr then q.dmaRecord i st bytes
  else
    match q.makeReady (i.f 4 27 16) with
    | (q, .accepted) => q.dmaRecord i st bytes
    | (q, .refused) => q.dmaRecord i (worse st St.refused) bytes
    | (q, .held) =>
      q.mapDma fun d => { d with items := d.items.map fun x => if x.order = i.order then { x with held := some (st, bytes) } else x }

/-- DMA_COMPLETE (R424, R426, R427): the `k`-th issued item, in order of acceptance; it ends once the last of its beats that wait for the
direct-write buffer is accepted (R224). -/
def Quad.dmaCompleteBy (regW : Quad → Writer → Nat → W32 → W32 → Quad × Bool) (q : Quad) (k : Nat) : Quad :=
  match (q.dma.items.filter fun i => i.issued && i.held.isNone && i.tail.isNone)[k]? with
  | none => q
  | some i =>
    let r := q.dmaRun regW i i.total
    if !r.1.hasItem i.order then r.1
    else if r.1.waits (.dma i.order) then r.1.setItem i.order fun x => { x with tail := some r.2 }
    else r.1.dmaFinish i r.2.1 r.2.2

/-- The items whose beats waited, once some of them are accepted, those in `bad` refused (R224). -/
def Quad.dmaTails (q : Quad) (bad : List Beat) : Quad :=
  q.dma.items.foldl (fun q i =>
    match i.tail with
    | none => q
    | some (st, bytes) =>
      let mine := bad.filter fun b => b.by_ == .dma i.order
      let st := if mine.isEmpty then st else worse st St.refused
      let bytes := bytes - beatBytes mine
      if q.waits (.dma i.order) then q.setItem i.order fun x => { x with tail := some (st, bytes) }
      else (q.setItem i.order fun x => { x with tail := none }).dmaFinish i st bytes) q

/-- The first item whose make-ready is held, offered again where it would be answered (R188). -/
def Quad.dmaHeld (q : Quad) : Option Quad :=
  match q.dma.items.find? fun i => i.held.isSome with
  | some i =>
    match i.held with
    | some (st, bytes) => if q.answerable (i.f 4 27 16) then some (q.dmaFinish i st bytes) else none
    | none => none
  | none => none

/-! ### Resets (R428, R429) -/

/-- What an item has moved when it is cut short: the bytes of the beats already accepted, a number the spec leaves open, and for one that
waits for its make-ready, or whose last beats stand at the direct-write buffer, all but those that wait there, which are masked. -/
def Quad.dmaCut (q : Quad) (i : DmaItem) : Quad × Nat × Nat :=
  let r : Quad × Nat × Nat :=
    match i.held, i.tail with
    | some (st, bytes), _ | none, some (st, bytes) => (q, st, bytes)
    | none, none =>
      if i.issued then
        let r := q.draw
        r.2.dmaRun Quad.regWrite0 i (r.1.toNat % (i.total + 1))
      else (q, St.done, 0)
  let m := r.1.maskBeats (.dma i.order)
  (m.1, r.2.1, r.2.2 - m.2)

/-- Every accepted item ended with a status, and the copies given up. -/
def Quad.dmaAbort (q : Quad) (status : Nat) : Quad :=
  let q := q.dma.items.foldl (fun q i => let r := q.dmaCut i; r.1.dmaRecord i (worse r.2.1 status) r.2.2) q
  q.dma.copying.foldl (fun q e => q.submitStat ⟨e.1 % 17, by omega⟩ St.refused) q

/-- DMA_RESET (R429). -/
def Quad.dmaReset (q : Quad) : Quad := q.dmaAbort St.abortedReset

end Sys2Proof.Machine
end

