-- ==== Sys2Proof/Machine/PageOps.lean ====
section
/-! DEFINITION. The pages of the window file (spec/17 R436, R451; spec/19 R484): status page, scheduler page, Auger image, and the
AUGER commands that a rewrite completes (R450). -/

namespace Sys2Proof.Machine

/-- A page from (word number, value) pairs. -/
def page (l : List (Nat × W32)) : SMap W32 := l.foldl (fun p e => if e.2 = 0 then p else SMap.put p e.1 e.2) []

/-- Consecutive words from a word number. -/
def wordsAt (w : Nat) (l : List W32) : List (Nat × W32) := (List.range l.length).map fun i => (w + i, l.getD i 0)

/-- A register's value as the pages show it: nothing is cleared. -/
def Quad.shown (q : Quad) (off : Nat) : W32 := q.regValue Writer.host off

/-- The low and high words of a 64-bit count. -/
def loHi (v : W64) : List W32 := [v.setWidth 32, (v >>> 32).setWidth 32]

/-- The status page (R436). -/
def Quad.statusPage (q : Quad) (gen : W32) : SMap W32 :=
  page ([(0, gen), (1023, gen)] ++ wordsAt 1 ([q.shown Reg.QCTL_MODE, q.shown Reg.QCTL_SCOUR, q.shown Reg.QCTL_GRID,
    q.shown Reg.QCTL_GRID_OFS] ++ loHi q.tick ++ [q.shown Reg.CLK_STAT, q.shown Reg.TIM_STAT, q.shown Reg.KLN_STAT,
    q.shown Reg.HPN_CTL, q.shown Reg.SNX_STAT, q.shown Reg.RTE_STAT, q.shown Reg.SCH_MBOX_STAT]))

/-- SCH_BUSYn.LAST of positions 0 to 15. -/
def Quad.busyWords (q : Quad) : List W32 := (List.range 16).map fun n => w32 (q.fld (Reg.SCH_BUSY_LAST n))

/-- The scheduler page (R436). -/
def Quad.schedulerPage (q : Quad) (gen : W32) : SMap W32 :=
  page ([(0, gen), (1023, gen)] ++ wordsAt 1 [q.shown Reg.SCH_STAT, q.shown Reg.SCH_BP] ++ wordsAt 16 q.busyWords ++
    wordsAt 32 ((List.range 8).map fun l => w32 (q.depth l true)) ++
    wordsAt 64 ((List.range 32).map fun n => q.shown (Reg.SCH_HIST n)))

/-- The physical core of each position, 5 bits each, 31 where lost (R484). -/
def Quad.positionMap (q : Quad) : Nat :=
  ((List.range 17).map fun n => (match q.coreAt n with | some c => c.val | none => 31) * 2 ^ (5 * n)).sum

/-- A digest slot in the Auger image (R451). -/
def digestWords : Option Digest → List W32
  | none => []
  | some d => d.sha ++ [w32 d.addr, w32 (d.addr / 2 ^ 32), w32 d.len, 1]

/-- A prepared commit in the Auger image (R451). -/
def Prepared.words (p : Prepared) : List W32 :=
  [w32 (p.id.toNat + 65536 * (p.scene % 256) + 16777216 * b2n p.dom + 33554432 * b2n p.committed)] ++ loHi p.t ++ [p.acc]

/-- The Auger image (R451, R484). -/
def Quad.augerPage (q : Quad) (gen : W32) : SMap W32 :=
  let hp := q.hp
  page ([(0, gen), (1023, gen)] ++ wordsAt 1 (loHi q.tick ++ [1]) ++
    wordsAt 4 [q.shown Reg.QCTL_MODE, q.shown Reg.QCTL_RST_CAUSE, q.shown Reg.QCTL_RATE, q.shown Reg.QCTL_GRID,
      q.shown Reg.QCTL_GRID_OFS] ++
    wordsAt 9 ([q.shown Reg.CLK_STAT, q.shown Reg.CLK_FREQ, q.shown Reg.CLK_BIAS, q.shown Reg.CLK_HOFREQ, q.shown Reg.TIM_STAT] ++
      loHi q.tim.ns) ++
    wordsAt 16 [hp.lastSeq.getD 0, w32 (b2n hp.lastSeq.isSome), w32 hp.open_.length, w32 hp.kept.length, hp.cmdWp, hp.cplWp, hp.cplRp,
      w32 hp.seqrefTotal] ++
    wordsAt 24 [q.shown Reg.SNX_STAT, q.shown Reg.SNX_DLVL, q.shown Reg.SNX_FWL, q.shown Reg.SNX_CFG] ++
    wordsAt 32 ([q.shown Reg.HPN_CTL, q.shown Reg.HPN_MISM] ++ (List.range 8).map fun n => q.shown (Reg.HPN_DIGEST n)) ++
    ((List.range 8).map fun n => wordsAt (48 + 12 * n) (digestWords (hp.digests.find n))).flatten ++
    wordsAt 144 ([q.shown Reg.KLN_STAT, q.shown Reg.KLN_CNT] ++ (q.kln.prepared.map Prepared.words).flatten) ++
    wordsAt 180 ([q.shown Reg.SCH_STAT, q.shown Reg.SCH_BP, q.shown Reg.SCH_HELDCNT] ++ q.busyWords ++
      [q.shown Reg.SCH_CR_WP, q.shown Reg.SCH_CR_OVWR]) ++
    wordsAt 208 ([q.shown Reg.FLT_RETIRED, q.shown Reg.FLT_SPARE, q.shown Reg.FLT_LOST] ++
      (let m := q.positionMap; [w32 m, w32 (m / 2 ^ 32), w32 (m / 2 ^ 64)]) ++ [w32 q.flt.rotDone] ++
      (List.range 6).map fun n => w32 (q.flt.totals.toList.getD (n + 1) 0)) ++
    wordsAt 240 hp.hostFlags)

/-- The pages rebuilt with a generation. -/
def Quad.showPages (q : Quad) : Quad :=
  let g := q.hp.gen
  { q with hp := { q.hp with status := q.statusPage g, schedPage := q.schedulerPage g, auger := q.augerPage g } }

/-- The pages rewritten (R436), which completes the AUGER commands accepted so far with the image's generation (R450). -/
def Quad.rewritePages (q : Quad) : Quad :=
  let q := ({ q with hp := { q.hp with gen := q.hp.gen + 1 } }).showPages
  let l := q.hp.augers
  l.foldl (fun q seq => q.complete seq 0x0C St.done 0 q.hp.gen) { q with hp := { q.hp with augers := [] } }

/-- WINDOW_REFRESH (R436): while no grid runs. -/
def Quad.windowRefresh (q : Quad) : Quad := if q.running then q else q.rewritePages

end Sys2Proof.Machine
end

