-- ==== Sys2Proof/Machine/Sha256.lean ====
section
/-! DEFINITION. SHA-256 (FIPS 180-4), which R255, R446 and R451 name: the constants, the schedule, the compression, the digest. -/

namespace Sys2Proof.Machine

/-- Round constants 0 to 7. -/
def shaK0 : List W32 := [0x428A2F98, 0x71374491, 0xB5C0FBCF, 0xE9B5DBA5, 0x3956C25B, 0x59F111F1, 0x923F82A4, 0xAB1C5ED5]
/-- Round constants 8 to 15. -/
def shaK1 : List W32 := [0xD807AA98, 0x12835B01, 0x243185BE, 0x550C7DC3, 0x72BE5D74, 0x80DEB1FE, 0x9BDC06A7, 0xC19BF174]
/-- Round constants 16 to 23. -/
def shaK2 : List W32 := [0xE49B69C1, 0xEFBE4786, 0x0FC19DC6, 0x240CA1CC, 0x2DE92C6F, 0x4A7484AA, 0x5CB0A9DC, 0x76F988DA]
/-- Round constants 24 to 31. -/
def shaK3 : List W32 := [0x983E5152, 0xA831C66D, 0xB00327C8, 0xBF597FC7, 0xC6E00BF3, 0xD5A79147, 0x06CA6351, 0x14292967]
/-- Round constants 32 to 39. -/
def shaK4 : List W32 := [0x27B70A85, 0x2E1B2138, 0x4D2C6DFC, 0x53380D13, 0x650A7354, 0x766A0ABB, 0x81C2C92E, 0x92722C85]
/-- Round constants 40 to 47. -/
def shaK5 : List W32 := [0xA2BFE8A1, 0xA81A664B, 0xC24B8B70, 0xC76C51A3, 0xD192E819, 0xD6990624, 0xF40E3585, 0x106AA070]
/-- Round constants 48 to 55. -/
def shaK6 : List W32 := [0x19A4C116, 0x1E376C08, 0x2748774C, 0x34B0BCB5, 0x391C0CB3, 0x4ED8AA4A, 0x5B9CCA4F, 0x682E6FF3]
/-- Round constants 56 to 63. -/
def shaK7 : List W32 := [0x748F82EE, 0x78A5636F, 0x84C87814, 0x8CC70208, 0x90BEFFFA, 0xA4506CEB, 0xBEF9A3F7, 0xC67178F2]
/-- The round constants. -/
def shaK : List W32 := shaK0 ++ shaK1 ++ shaK2 ++ shaK3 ++ shaK4 ++ shaK5 ++ shaK6 ++ shaK7

/-- The initial hash value. -/
def shaH0 : List W32 :=
  [0x6A09E667, 0xBB67AE85, 0x3C6EF372, 0xA54FF53A, 0x510E527F, 0x9B05688C, 0x1F83D9AB, 0x5BE0CD19]

/-- Rotation right of a word. -/
def ror (x : W32) (n : Nat) : W32 := x.rotateRight n

/-- The next `n` words of the message schedule; the words so far, newest first. -/
def shaExtend : Nat → List W32 → List W32
  | 0, w => w
  | n + 1, w =>
    let g (i : Nat) : W32 := w.getD i 0
    let s0 := ror (g 14) 7 ^^^ ror (g 14) 18 ^^^ (g 14 >>> 3)
    let s1 := ror (g 1) 17 ^^^ ror (g 1) 19 ^^^ (g 1 >>> 10)
    shaExtend n ((s1 + g 6 + s0 + g 15) :: w)

/-- One round on the eight working words. -/
def shaRound (v : List W32) (k w : W32) : List W32 :=
  let g (i : Nat) : W32 := v.getD i 0
  let s1 := ror (g 4) 6 ^^^ ror (g 4) 11 ^^^ ror (g 4) 25
  let ch := (g 4 &&& g 5) ^^^ (~~~(g 4) &&& g 6)
  let t1 := g 7 + s1 + ch + k + w
  let s0 := ror (g 0) 2 ^^^ ror (g 0) 13 ^^^ ror (g 0) 22
  let maj := (g 0 &&& g 1) ^^^ (g 0 &&& g 2) ^^^ (g 1 &&& g 2)
  [t1 + (s0 + maj), g 0, g 1, g 2, g 3 + t1, g 4, g 5, g 6]

/-- The hash after one block of 64 bytes. -/
def shaBlock (h : List W32) (block : List Byte) : List W32 :=
  let word (i : Nat) : W32 := (block.getD (4 * i) 0) ++ (block.getD (4 * i + 1) 0) ++ (block.getD (4 * i + 2) 0) ++ (block.getD (4 * i + 3) 0)
  let w := (shaExtend 48 ((List.range 16).map word).reverse).reverse
  let v := (shaK.zip w).foldl (fun v x => shaRound v x.1 x.2) h
  (h.zip v).map fun x => x.1 + x.2

/-- The hash of a padded message, in at most `n` blocks. -/
def shaBlocks : Nat → List W32 → List Byte → List W32
  | 0, h, _ => h
  | n + 1, h, m => if m.isEmpty then h else shaBlocks n (shaBlock h (m.take 64)) (m.drop 64)

/-- The digest of a message: eight words, word 0 most significant. -/
def sha256 (m : List Byte) : List W32 :=
  let n := m.length
  let pad := m ++ [0x80] ++ List.replicate ((119 - n % 64) % 64) 0 ++
    (List.range 8).map fun i : Nat => (BitVec.ofNat 8 ((8 * n) >>> (8 * (7 - i))) : Byte)
  shaBlocks (pad.length / 64 + 1) shaH0 pad

end Sys2Proof.Machine
end

