-- ==== Sys2Proof/Machine/ModeOps.lean ====
section
/-! DEFINITION. Modes and resets (spec/02 R40 to R60): MODE commands, entry to HALT, the quadrant reset, SCOUR, the start of the
grid. -/

namespace Sys2Proof.Machine

/-! ### Commands that end with an event -/

/-- A pending mode change given up; a commanded one completes with REFUSED (R44). -/
def Quad.dropChange (q : Quad) : Quad :=
  match q.change with
  | none => q
  | some c =>
    let q := { q with change := none }
    match c.by_ with
    | .command seq acc => q.complete seq 0x04 St.refused 0 acc
    | _ => q

/-- The end of a TEST (R483): its command and FLT_TRES. -/
def Quad.endTest (q : Quad) (status detail : Nat) : Quad :=
  match q.flt.test with
  | none => q
  | some t =>
    let q := { q with flt := { q.flt with test := none } }
    let q := ((q.setFld Reg.FLT_TRES_TEST t.code).setFld Reg.FLT_TRES_STATUS status).setFld Reg.FLT_TRES_DETAIL detail
    q.complete t.seq 0x0B status 0 0

/-- The end of a rotation or repair (R477, R478): the command that asked for it. -/
def Quad.endRotation (q : Quad) (status : Nat) : Quad :=
  match q.flt.rot with
  | none => q
  | some r =>
    let q := { q with flt := { q.flt with rot := none } }
    let q := if status = St.done ∧ !r.repair then { q.count Reg.FLT_ROT_DONE 1 with flt := { q.flt with rot := none, rotDone := q.flt.rotDone + 1 } } else q
    match r.cmd with
    | some seq => q.complete seq 0x0A status 0 0
    | none => q

/-- The end of a LOAD (R446): its bytes counted in the record. -/
def Quad.endLoad (q : Quad) (status : Nat) : Quad :=
  match q.hp.load with
  | none => q
  | some l =>
    let s := worse l.status status
    let q := { q with hp := { q.hp with load := none } }
    let q := match l.dig with
      | some d =>
        if s = St.abortedFault ∨ s = St.abortedReset then q
        else { q with hp := { q.hp with digests := q.hp.digests.put d.val ⟨sha256 l.bytes, l.start, l.bytes.length⟩ } }
      | none => q
    q.complete l.seq 0x01 s 0 (w32 l.done)

/-- The end of a READ that fills the bulk FIFO (R447): the words placed counted in the record. -/
def Quad.endRead (q : Quad) (status : Nat) : Quad :=
  match q.hp.read with
  | none => q
  | some r => { q with hp := { q.hp with read := none } }.complete r.seq 0x03 (worse r.status status) 0 (w32 r.placed)

/-! ### HALT (R41, R193, R250, R428, R475) -/

/-- Every waiting instance and one-shot entry removed with CANCELLED (R193). -/
def Quad.cancelWaiting (q : Quad) : Quad :=
  let (q, a) := q.takeQueue fun _ => true
  let (q, b) := q.takePref fun _ => true
  let shots := (q.sch.tickList ++ q.sch.timeList).filter fun e => e.period.isNone
  let keep (l : List DelayEntry) := l.filter fun e => e.period.isSome
  let q := q.mapSch fun s => { s with tickList := keep s.tickList, timeList := keep s.timeList }
  shots.foldl (fun q e => q.cancelEntry e) (q.cancelAll false (a ++ b))

/-- Entry to HALT: `cause` is that of Table: unrecoverable faults, zero for MODE HALT. -/
def Quad.enterHalt (q : Quad) (cause : Nat) : Quad :=
  if q.mode == .halt || q.mode == .scour then q
  else
    let q := q.dropChange
    let q := q.endTest St.abortedFault 0
    let q := physAll.foldl (fun q c => q.abortCore c St.abortedFault) q
    let q := q.cancelWaiting
    let q := q.kilnHalt
    let q := q.dmaAbort St.abortedFault
    let q := q.endRotation St.abortedFault
    let q := (q.endLoad St.abortedFault).endRead St.abortedFault
    let q := if q.mode = .standby then q.gpioRelease else q
    let q := { q with mode := .halt, hpn := { q.hpn with next := none, entry := none }, autoHpn := false }
    let q := (q.setFld Reg.QCTL_MODE_AUTO 0).irq (irqMode ||| irqHalt)
    let q := if cause = 0 then q else q.fault 6 cause 31 31 0
    q.log 0x0011 2 (if cause = 0 then 0 else 6) 0

/-! ### MODE commands (R41 to R45, R57) -/

/-- Whether a Kiln commit is prepared or pending (R45). -/
def Quad.kilnWaits (q : Quad) : Bool := !q.kln.prepared.isEmpty || !q.kln.pend.isEmpty

/-- Whether RUN may be entered from STANDBY (R57). -/
def Quad.runOk (q : Quad) : Bool := q.running && (q.hpnOn || q.sch.bound.any fun b => b.last.isNone)

/-- The boundaries up to a commanded change, where the table of R41 lists it and nothing refuses it. -/
def Quad.modeLeft (q : Quad) (m : Mode) : Option Nat :=
  match q.mode, m with
  | .standby, .run => if q.runOk then some 2 else none
  | .standby, .service => if q.kilnWaits then none else some 1
  | .standby, .halt => some 1
  | .run, .standby => if q.kilnWaits then none else some 1
  | .run, .hardpan => if q.hpnOn then some 1 else none
  | .run, .halt => some 1
  | .hardpan, .run => some 2
  | .hardpan, .standby => if q.kilnWaits then none else some 1
  | .hardpan, .halt => some 1
  | .service, .standby => if q.kilnWaits || q.flt.test.isSome then none else some 1
  | .service, .halt => some 1
  | _, _ => none

/-- A MODE command (R41 to R45, R449). -/
def Quad.modeCmd (q : Quad) (seq : W32) (m : Mode) : Quad :=
  let acc : W32 := q.tick.setWidth 32
  if q.mode = .halt ∧ m = .halt then q.complete seq 0x04 St.done 0 acc
  else if q.change.isSome then q.complete seq 0x04 St.refused 0 acc
  else
    match q.modeLeft m with
    | some n => { q with change := some ⟨m, n, .command seq acc⟩ }
    | none => q.complete seq 0x04 St.refused 0 acc

/-! ### Resets (R49 to R51) -/

/-- The words of the entry that stands at a place of the command ring. -/
def HostPort.entry (h : HostPort) (i : W32) : List W32 := (List.range 4).map fun k => h.ring.get (4 * (i.toNat % 256) + k) 0

/-- Whether an instance runs on a core: in set 0, or in an EVT handler. -/
def Core.runs (k : Core) : Nat := b2n k.run.isSome + b2n k.evtRun.isSome

/-- ARG0 of the log record of a reset (R50, R459): cause, instances running, commits prepared, DMA items. -/
def Quad.resetArg (q : Quad) (cause : Nat) : W32 :=
  w32 (cause + 16 * satTo 255 ((physAll.map fun c => (q.core c).runs).sum) + 4096 * satTo 15 q.kln.prepared.length +
    65536 * satTo 511 q.dma.items.length)

/-- Instances still queued or listed (R193). -/
def Quad.resetLeft (q : Quad) : Nat :=
  q.sch.queue.length + (q.sch.pref.toList.filter Option.isSome).length + q.sch.tickList.length + q.sch.timeList.length +
    (physAll.map fun c => b2n (q.core c).assigned.isSome + b2n (q.core c).pendEvt.isSome).sum

/-- What the record of a command that a reset ends tells in RESA (R444). -/
def Quad.abortRes (q : Quad) (seq : W32) (op : Nat) : W32 :=
  match op with
  | 1 => (match q.hp.load with | some l => w32 l.done | none => 0)
  | 3 => (match q.hp.read with | some r => w32 r.placed | none => 0)
  | 4 => (match q.change with | some ⟨_, _, .command _ a⟩ => a | _ => 0)
  | 5 => (match q.snx.coll with | some c => if c.seq = seq then c.a.setWidth 32 else 0 | none => 0)
  | _ => 0

/-- The status of a command that a reset ends, with what it had met before (R15). -/
def Quad.abortStatus (q : Quad) (seq : W32) (op : Nat) : Nat :=
  worse St.abortedReset (match op with
    | 1 => (match q.hp.load with | some l => l.status | none => St.done)
    | 2 => (match q.hp.writeWait with | some w => if w.1 = seq then w.2 else St.done | none => St.done)
    | 3 => (match q.hp.read with | some r => r.status | none => St.done)
    | _ => St.done)

/-- Every command in the ring, accepted or not, completed with ABORTED_RESET in sequence order (R50). -/
def Quad.abortCommands (q : Quad) : Quad :=
  let was := q
  let q := { q with hp := { q.hp with load := none, read := none, writeWait := none, augers := [] } }
  let q := q.hp.open_.foldl (fun q o => q.complete o.1 o.2 (was.abortStatus o.1 o.2) 0 (was.abortRes o.1 o.2)) q
  let n := (q.hp.cmdWp - q.hp.cmdRp).toNat
  let q := (List.range n).foldl (fun q i =>
    let e := q.hp.entry (q.hp.cmdRp + w32 i)
    let op := (e.getD 0 0).toNat % 64
    q.complete (e.getD 1 0) op St.abortedReset (if op = 6 ∨ op = 7 then (e.getD 0 0).toNat / 256 % 65536 else 0) 0) q
  { q with hp := { q.hp with cmdRp := q.hp.cmdWp, lastSeq := none } }

/-- A quadrant reset with its cause bit; `held` where the reset is still asserted. The host window's state stays, memory keeps its
contents until SCOUR zeroes it. -/
def Quad.doReset (q : Quad) (cause : Nat) (held : Bool) : Quad :=
  let q := q.log 0x0010 1 (q.resetArg cause) (BitVec.ofNat 16 (satTo 65535 q.resetLeft))
  let q := (q.abortCommands).irq (if q.mode = .scour then 0 else irqMode)
  let q : Quad := { Quad.reset with
      regs := [(Reg.QCTL_RST_CAUSE, w32 cause)], mem := q.mem, ecc := q.ecc, hp := q.hp, freeCtr := q.freeCtr
      pinLow := q.pinLow
      rst := if held then .held else .released }
  q.rewritePages

/-- POR_N low (R49, R453): the host window is reset too; what is left is the event for the log. -/
def Quad.porReset (q : Quad) : Quad :=
  let e : QEvent := ⟨0x0010, 1, q.resetArg 1, BitVec.ofNat 16 (satTo 65535 q.resetLeft), q.tim.ns⟩
  { Quad.reset with
      regs := [(Reg.QCTL_RST_CAUSE, 1)], mem := q.mem, ecc := q.ecc, freeCtr := q.freeCtr, pinLow := q.pinLow, rst := .held
      hp := { ({} : HostPort) with events := [e], retiring := q.hp.retiring } }

/-- A reset released (R49), but while Q_RST_N is low. -/
def Quad.release (q : Quad) : Quad := if q.rst = .held ∧ !q.pinLow then { q with rst := .released } else q

/-! ### SCOUR (R53 to R55) -/

/-- SCOUR_START (R53, R54, R420): memory zeroed, the time counter started from zero, the DRAM that answers shown. `rate` is the data
rate code of the board record. -/
def Quad.scourStart (q : Quad) (d : DramBoard) (rate : BitVec 2) : Quad :=
  if q.rst ≠ .released then q
  else
    let size := if d.size.toNat ≤ 4 then d.size.toNat else 0
    let q := { q with mem := [], ecc := [], eccBack := [], rst := .scouring, tim := { q.tim with started := true } }
    let q := (((q.setFld Reg.BUS_DDRSTAT_PRESENT (b2n (size != 0))).setFld Reg.BUS_DDRSTAT_SIZE size).setFld Reg.BUS_DDRSTAT_TRAINED
      (b2n (size != 0 && d.trained))).setFld Reg.BUS_DDRSTAT_RATE rate.toNat
    q

/-- Positions given to the healthy cores in ascending order, what is left without a core lost (R55, R480). -/
def Quad.assignCores (q : Quad) (retired : BitVec 17) : Quad :=
  let healthy := physAll.filter fun c => !retired.getLsbD c.val
  let q := q.mapCores fun c k =>
    { k with pos := if retired.getLsbD c.val then 31 else ⟨(healthy.idxOf c) % 32, by omega⟩ }
  let lost := ((List.range 16).filter fun n => decide (healthy.length ≤ n)).foldl (fun m n => m + 2 ^ n) 0
  let used := b2n (decide (healthy.length < 17))
  let q := (q.wr Reg.FLT_RETIRED (retired.setWidth 32)).wr Reg.FLT_LOST (w32 lost)
  ((q.setFld Reg.FLT_SPARE_USED used).setFld Reg.FLT_SPARE_CAPLOST (b2n (lost != 0))).setFld Reg.FLT_SPARE_ROTREF used

/-- SCOUR_COMPLETE (R54, R55, R46): STANDBY; the boot ROM's work: retirements applied, every core parked but the one that holds
position 0. `emg` are the levels at EMG_IN. -/
def Quad.scourComplete (q : Quad) (retired : BitVec 17) (emg : BitVec 4) : Quad :=
  if q.rst ≠ .scouring then q
  else
    let q := { q with rst := .past, mode := .standby, gridDue := true, hpn := { q.hpn with pins := emg } }
    let q := q.assignCores retired
    let q := q.mapCores fun _ k => { k with parked := k.pos.val != 0 }
    let q := q.mapSch fun s => { s with asks := prefPositions }
    let q := if emg = 0 then q else q.raise Reg.QCTL_MODE_EMG_PEND
    q.irq irqMode

/-! ### The grid (R26 to R29, R54) -/

/-- The grid offset measured at a boundary (R29, R30). DESIGN CHOICE (log 48): OFS is rounded down to whole nanoseconds. -/
def Quad.measureGrid (q : Quad) : Quad :=
  let num : Int := (3 * q.tim.ns.toNat : Int) * 4294967296 + 3 * q.tim.fr.toNat
  let ideal : Int := (q.tick.toNat * t3 q.fi : Int) * 4294967296
  let ofs : Int := (num - ideal) / (3 * 4294967296)
  let ok := decide ((num - ideal).natAbs ≤ 60 * 4294967296)
  let was := q.flag Reg.QCTL_GRID_ALIGNED
  let q := (q.wr Reg.QCTL_GRID_OFS (sat32 ofs)).setFld Reg.QCTL_GRID_ALIGNED (b2n ok)
  if was && !ok then q.raise Reg.QCTL_GRID_UNALIGN else q

end Sys2Proof.Machine
end

