-- ==== Sys2Proof/Machine/HpnOps.lean ====
section
/-! DEFINITION. Hardpan (spec/10): the verifier (R258 to R260), enabling (R255), the static schedule (R261 to R263), the journal
(R265, R266), mismatches (R267, R268), the emergency inputs (R270, R271). -/

namespace Sys2Proof.Machine

/-! ### The code of a task (R258) -/

/-- The instruction at a program-memory address of a core. -/
def Quad.pmWord (q : Quad) (c : Fin 17) (i : Nat) : W64 := BitVec.ofNat 64 (q.mem.readLE (pmAddr c i) 8)

/-- A place of a walk: an address, and whether it is reached as a delay slot. -/
abbrev Spot := Nat × Bool

/-- What follows a place, the fall-through path first. -/
def nextSpots (code : Nat → W64) (s : Spot) : List Spot :=
  if s.2 || decide (s.1 ≥ 8192) then []
  else
    let pc := s.1
    let slots : List Spot := [(pc + 1, true), (pc + 2, true)]
    match wFlow (code pc) with
    | .done => []
    | .forbidden => []
    | .br cond t => slots ++ (if cond then [(pc + 3, false)] else []) ++ [(t, false)]
    | .dbnz _ t => slots ++ [(pc + 3, false), (t, false)]
    | _ => [(pc + 1, false)]

/-- The walk from a list of places, in the order they are met; `seen` is newest first. A place is met once, and 16,386 are all. -/
def walk (code : Nat → W64) : Nat → List Spot → List Spot → List Spot
  | 0, _, seen => seen.reverse
  | _ + 1, [], seen => seen.reverse
  | n + 1, s :: todo, seen =>
    if seen.contains s then walk code n todo seen else walk code n (nextSpots code s ++ todo) (s :: seen)

/-- The places of a task's code. -/
def codeSpots (code : Nat → W64) (entry : Nat) : List Spot := walk code 131072 [(entry, false)] []

/-- A counted loop: the first instruction of its body, its closing `dbnz`, its register, its count. -/
structure VLoop where
  start : Nat
  close : Nat
  dx : Nat
  count : Nat
  deriving DecidableEq, Repr

/-- The loop that a backward `dbnz` closes: an `ldi` into its register stands before the body. -/
def loopAt (code : Nat → W64) (pc : Nat) : Option VLoop :=
  match wFlow (code pc) with
  | .dbnz dx t =>
    if t = 0 ∨ pc < t then none
    else
      match wLdi (code (t - 1)) with
      | some (d, imm) => if d = dx then some ⟨t, pc, dx, imm⟩ else none
      | none => none
  | _ => none

/-- The addresses of a body and the delay slots of its `dbnz`. -/
def VLoop.range (l : VLoop) : List Nat := (List.range (l.close + 3 - l.start)).map fun i => l.start + i

/-- Where a branch of a body goes outside it. -/
def leaves (code : Nat → W64) (l : VLoop) (pc : Nat) : Bool :=
  let out (t : Nat) : Bool := decide (t < l.start ∨ l.close < t)
  match wFlow (code pc) with
  | .br _ t => out t
  | .dbnz _ t => out t
  | _ => false

/-- Whether a loop breaks a rule of R258, among the loops of the code. -/
def badLoop (code : Nat → W64) (loops : List VLoop) (l : VLoop) : Bool :=
  decide (l.count < 1 ∨ 65536 < l.count) ||
    (l.range.any fun pc => pc != l.close && (wWritesD (code pc)).contains l.dx) ||
    (l.range.any fun pc => decide (pc < l.close) && leaves code l pc) ||
    decide (4 < (loops.filter fun m => decide (m.start ≤ l.start ∧ l.close ≤ m.close)).length)

/-- Whether a branch goes backward and closes no counted loop. -/
def badBack (code : Nat → W64) (pc : Nat) : Bool :=
  match wFlow (code pc) with
  | .br _ t => decide (t ≤ pc)
  | .dbnz _ t => decide (t ≤ pc) && (loopAt code pc).isNone
  | _ => false

/-! ### Worst case (R259) -/

/-- Worst cycles, X stores and Y stores from a place on. -/
structure Cost where
  cyc : Nat := 0
  x : Nat := 0
  y : Nat := 0
  deriving DecidableEq, Repr

/-- Costs added. -/
def Cost.add (a b : Cost) : Cost := ⟨a.cyc + b.cyc, a.x + b.x, a.y + b.y⟩
/-- Costs multiplied. -/
def Cost.times (n : Nat) (a : Cost) : Cost := ⟨n * a.cyc, n * a.x, n * a.y⟩
/-- The worse of two costs, each count by itself. -/
def Cost.max (a b : Cost) : Cost := ⟨Nat.max a.cyc b.cyc, Nat.max a.x b.x, Nat.max a.y b.y⟩

/-- The cost of one instruction. -/
def instrCost (w : W64) : Cost := let s := wStores w; ⟨wCycles w, s.1, s.2⟩

/-- How often an address is executed for each entry of the code around its loops. -/
def weightOf (loops : List VLoop) (pc : Nat) : Nat :=
  loops.foldl (fun n l => if l.start ≤ pc ∧ pc ≤ l.close + 2 then n * l.count else n) 1

/-- The cost from an address on, from the costs of the addresses behind it (`rest` starts at `pc + 1`). -/
def costAt (code : Nat → W64) (loops : List VLoop) (pc : Nat) (rest : List Cost) : Cost :=
  let at_ (t : Nat) : Cost := if pc < t then rest.getD (t - pc - 1) {} else {}
  let own (i : Nat) : Cost := (instrCost (code i)).times (weightOf loops pc)
  let br := (own pc).add ((own (pc + 1)).add (own (pc + 2)))
  match wFlow (code pc) with
  | .done => own pc
  | .forbidden => own pc
  | .br cond t => br.add (if cond then (at_ (pc + 3)).max (at_ t) else at_ t)
  | .dbnz _ t => br.add (if t ≤ pc then at_ (pc + 3) else (at_ (pc + 3)).max (at_ t))
  | .rep n =>
    let i := instrCost (code (pc + 1))
    (Cost.times (weightOf loops pc) ⟨n + 1, n * i.x, n * i.y⟩).add (at_ (pc + 2))
  | .plain => (own pc).add (at_ (pc + 1))

/-- The costs of the last `n` addresses of program memory. -/
def costs (code : Nat → W64) (loops : List VLoop) : Nat → List Cost
  | 0 => []
  | n + 1 => let rest := costs code loops n; costAt code loops (8191 - n) rest :: rest

/-! ### Verification (R258 to R260) -/

/-- The enabled entries of the schedule. -/
def Quad.hpnEntries (q : Quad) : List Nat := (List.range 16).filter fun n => q.flag (Reg.HPN_SCH_EN n)

/-- HPN_VERR of a failure. -/
def verrWord (code entry addr : Nat) : W32 := w32 (code + 256 * entry + 8192 * addr)

/-- The first failure of an entry and its costs. -/
def Quad.verifyEntry (q : Quad) (code : Nat → W64) (written n : Nat) : Option W32 × Cost :=
  let t := q.fld (Reg.HPN_SCH_TASK n)
  let e := q.tEntry t
  if !q.tValid t || !q.tHpn t || decide (written ≤ e) then (some (verrWord 1 n e), {})
  else
    let spots := codeSpots code e
    let inside := spots.filter fun s => decide (s.1 < 8192)
    let loops := (inside.filterMap fun s => loopAt code s.1).eraseDups
    match inside.find? fun s => wFlow (code s.1) == .forbidden with
    | some s => (some (verrWord 2 n s.1), {})
    | none =>
    match inside.find? fun s => badBack code s.1 with
    | some s => (some (verrWord 3 n s.1), {})
    | none =>
    match inside.find? fun s => match loopAt code s.1 with | some l => badLoop code loops l | none => false with
    | some s => (some (verrWord 4 n s.1), {})
    | none =>
    if spots.any fun s => decide (8192 ≤ s.1) then (some (verrWord 5 n 8191), {})
    else
      let c := (costs code loops (8192 - e)).headD {}
      (if c.cyc > 16 * q.fld (Reg.HPN_SCH_ALLOT n) then some (verrWord 6 n e) else none, c)

/-- The entries checked in order: the first failure, and the costs found. -/
def Quad.verifyEntries (q : Quad) (code : Nat → W64) (written : Nat) : List Nat → Option W32 × List (Nat × Cost)
  | [] => (none, [])
  | n :: t =>
    match q.verifyEntry code written n with
    | (some f, c) => (some f, if c = {} then [] else [(n, c)])
    | (none, c) => let r := q.verifyEntries code written t; (r.1, (n, c) :: r.2)

/-- The largest budget at a rate (R260). -/
def budgetLimit (fi : Nat) : Nat := cclkPerTick fi - 4224

/-- The schedule-wide checks (R260): the code of the first failure, zero where there is none. -/
def Quad.verifyWide (q : Quad) (l : List (Nat × Cost)) : Nat :=
  let es := q.hpnEntries
  let budget := q.fld Reg.HPN_BUDGET_CYC
  let base := 16 * q.fld Reg.HPN_CLIPB_BASE
  let len := 16 * q.fld Reg.HPN_CLIPL_LEN
  if (es.map fun n => 16 * q.fld (Reg.HPN_SCH_ALLOT n)).sum > budget ∨ budget > budgetLimit q.fi then 7
  else if (l.map fun e => e.2.x).sum > 2048 ∨ (l.map fun e => e.2.y).sum > 2048 then 8
  else if q.ownedSlots.any fun s => q.kind s == 6 && !(es.any fun n => q.fld (Reg.HPN_SCH_TASK n) == q.ownIdx s) then 9
  else if len ≠ 0 ∧ !q.scratch base len ∧ !q.inDram base len then 10
  else 0

/-- HPN_VERIFY (R255, R258 to R260): from boundary a + 1. -/
def Quad.hpnVerify (q : Quad) : Quad :=
  match q.hpn.state, q.hpn.verified, q.coreAt 0 with
  | .verify, none, some c =>
    if q.tick < q.hpn.since + 1 then q
    else
      let all := (List.range 8192).map fun i => q.pmWord c i
      let code (i : Nat) : W64 := all.getD i 0
      let written := 8192 - (all.reverse.takeWhile fun w => w == 0).length
      let r := q.verifyEntries code written q.hpnEntries
      let q := r.2.foldl (fun q e =>
        ((q.setFld (Reg.HPN_WCET_CYC e.1) (satTo 0x1FFFF e.2.cyc)).setFld (Reg.HPN_WST_XST e.1) (satTo 0xFFF e.2.x)).setFld
          (Reg.HPN_WST_YST e.1) (satTo 0xFFF e.2.y)) q
      let f := match r.1 with
        | some f => f
        | none => verrWord (q.verifyWide r.2) 0 0
      { q with hpn := { q.hpn with verified := some (f == 0), verr := f } }
  | _, _, _ => q

/-- The memories of one core copied to another's window (R93, R477): words that were uncorrectable keep their marks. -/
def Quad.copyCore (q : Quad) (a b : Fin 17) : Quad :=
  let inWin (c : Fin 17) (x : Nat) : Bool := decide (winBase c ≤ x ∧ x < winBase c + 0x50000)
  let move (x : Nat) : Nat := x - winBase a + winBase b
  if a = b then q
  else
    { q with
        mem := Memory.normal ((q.mem.filter fun e => !inWin b e.1) ++ (q.mem.filter fun e => inWin a e.1).map fun e => (move e.1, e.2))
        ecc := (q.ecc.filter fun e => !inWin b e.1) ++ (q.ecc.filter fun e => inWin a e.1).map fun e => (move e.1, e.2) }

/-! ### Enabling (R255, R93) -/

/-- The bytes that the digest of R255 covers: position 0's program memory, then the clip area. -/
def Quad.hpnImage (q : Quad) (c : Fin 17) : List Byte :=
  q.mem.bytesAt (pmAddr c 0) 0x10000 ++ q.mem.bytesAt (q.phys (16 * q.fld Reg.HPN_CLIPB_BASE)) (16 * q.fld Reg.HPN_CLIPL_LEN)

/-- HPN_VERIFY_RESULT (R255): a failure disables Hardpan and names itself; a pass gives the digest and copies position 0. -/
def Quad.hpnResult (q : Quad) : Quad :=
  match q.hpn.state, q.hpn.verified, q.coreAt 0, q.coreAt 1 with
  | .verify, some true, some c0, some c1 =>
    let d := sha256 (q.hpnImage c0)
    let q := (List.range 8).foldl (fun q i => q.wr (Reg.HPN_DIGEST i) (d.getD i 0)) (q.wr Reg.HPN_VERR 0)
    q.copyCore c0 c1
  | .verify, some _, _, _ =>
    { q.wr Reg.HPN_VERR q.hpn.verr with hpn := { q.hpn with state := .off, verified := none } }
  | _, _, _, _ => q

/-- Position 1's core made a copy of position 0's (R93, R94): its own place, nothing that position 0 alone carries out. -/
def Core.mirror (k k1 : Core) : Core :=
  { k with pos := k1.pos, coll := k1.coll, run := none, evtRun := none, assigned := none, pendEvt := none, ask := none }

/-- Position 1's core at position 0's place in the stream (R94), with registers, results in flight and requests of its own. -/
def Core.beside (k k1 : Core) : Core :=
  { k.mirror k1 with set0 := k1.set0, set1 := k1.set1, flights := k1.flights, reqs := k1.reqs }

/-- Position 1's core brought to position 0's place. -/
def Quad.besidePair (q : Quad) : Quad :=
  match q.coreAt 0, q.coreAt 1 with
  | some c0, some c1 => q.setCore c1 ((q.core c0).beside (q.core c1))
  | _, _ => q

/-- Position 1's core as an instance starts on the pair (R262): all of set 0 as in position 0. -/
def Quad.startPair (q : Quad) : Quad :=
  match q.coreAt 0, q.coreAt 1 with
  | some c0, some c1 =>
    let k := q.core c0
    { q with hpn := { q.hpn with apart := false } }.setCore c1 { k.mirror (q.core c1) with set1 := (q.core c1).set1 }
  | _, _ => q

/-- A core as lockstep takes it (R262): bound, EVM zero, no event pending. -/
def Core.bind (k : Core) : Core := { k with lock := true, evm := 0, pendTick := false, pendDbg := false, pendEvt := none }

/-- LOCKSTEP_ENABLE (R255, R93): at boundary a + 2; the memories and registers of position 0 are copied to position 1. DESIGN CHOICE
(log 138): what position 1 still ran or was given is dropped with its registers, with no record; what position 0 runs goes on, on the pair. -/
def Quad.lockstepEnable (q : Quad) : Quad :=
  match q.hpn.state, q.hpn.verified, q.coreAt 0, q.coreAt 1 with
  | .verify, some true, some c0, some c1 =>
    if q.tick < q.hpn.since + 2 then q
    else
      let q := q.copyCore c0 c1
      let q := q.setCore c0 (q.core c0).bind
      let q := q.setCore c1 ((q.core c0).mirror (q.core c1))
      { q with hpn := { q.hpn with state := .proving, verified := none } }
  | _, _, _, _ => q

/-! ### The schedule (R261, R262) -/

/-- An instance of a Hardpan task: the schedule starts it, so it is never made ready and waits for nothing (R195, R261). -/
def Quad.hpnInst (q : Quad) (t : Nat) : Inst := ⟨t, q.tLevel t, q.cclk / 2, q.tick, false, false, none⟩

/-- The next enabled entry started on the pair (R261, R262): registers of set 0 cleared, R166 applied, EVM zero. -/
def Quad.hpnNext (q : Quad) : Quad :=
  match q.hpn.next, q.coreAt 0 with
  | some m, some c0 =>
    match q.hpnEntries.find? fun n => decide (m ≤ n) with
    | none => { q with hpn := { q.hpn with next := some 16 } }
    | some n =>
      let t := q.fld (Reg.HPN_SCH_TASK n)
      let q := q.noteTask t
      let i := q.hpnInst t
      let k := { q.core c0 with set0 := {}, act := false, evm := 0, parked := false, bootFetch := false, flights := [], reqs := [] }
      let k := k.startInst i (q.tEntry t) (q.tCtx t) 0
      let q := q.setCore c0 { k with run := some ⟨i, 0, false, false, St.done, some n, q.tCtx t⟩ }
      { q with hpn := { q.hpn with next := some (n + 1) } }.startPair
  | _, _ => q

/-- Whether the schedule runs in this tick. -/
def Quad.hpnRuns (q : Quad) : Bool := q.locked && (q.mode == .run || q.mode == .hardpan) && !q.flt.pairRepair

/-- HPN_SCHEDULE_START (R261): once in each tick, at CYC 128. -/
def Quad.hpnStart (q : Quad) : Quad :=
  if q.hpnRuns && q.running && q.hpn.next.isNone && !q.hpn.mism then { q with hpn := { q.hpn with next := some 0 } }.hpnNext else q

/-- The Hardpan instance that runs on the pair: its core, run and entry. -/
def Quad.hpnRun (q : Quad) : Option (Fin 17 × Run × Nat) :=
  match q.coreAt 0 with
  | some c => match (q.core c).run with
    | some r => match r.entry with
      | some n => some (c, r, n)
      | none => none
    | none => none
  | none => none

/-- The end of the Hardpan instance (R158, R261): record, then the next entry. -/
def Quad.hpnEndRun (q : Quad) (status : Nat) : Quad :=
  match q.hpnRun with
  | none => q
  | some (c, r, _) =>
    let q := q.endRun 0 r status (q.core c).set0.st false
    let q := q.setCore c { q.core c with run := none, wait := .none }
    q.besidePair.hpnNext

/-! ### Journal (R265, R266) -/

/-- A journal entry undone in its member. -/
def Quad.undoOne (q : Quad) (e : JEntry) : Quad :=
  match q.coreAt (b2n e.one) with
  | some c => q.store (if e.y then yAddr c e.word else xAddr c e.word) (bytesLE e.old.toNat 5)
  | none => q

/-- The journal entries of a schedule entry, or all of them, undone in reverse order. -/
def Quad.undo (q : Quad) (entry : Option Nat) : Quad :=
  let mine (e : JEntry) : Bool := match entry with | some n => e.entry == n | none => true
  let q := (q.hpn.journal.filter mine).foldl (fun q e => q.undoOne e) q
  { q with hpn := { q.hpn with journal := q.hpn.journal.filter fun e => !mine e } }

/-- The Hardpan instance ended with ABORTED_FAULT (R262, R263, R266): its stores undone, its slots substituted, a fault record. -/
def Quad.hpnAbort (q : Quad) (cause : Nat) : Quad :=
  match q.hpnRun with
  | none => q
  | some (c, r, n) =>
    let q := q.undo (some n)
    let q := q.fault 3 cause c.val 0 (w32 r.inst.task)
    let q := { q with hpn := { q.hpn with aborted := r.inst.task :: q.hpn.aborted } }
    q.hpnEndRun St.abortedFault

/-- HPN_WATCHDOG (R263). -/
def Quad.hpnWatchdog (q : Quad) : Quad :=
  match q.hpnRun with
  | none => q
  | some (_, r, _) => ((q.count Reg.HPN_WDOG_COUNT 1).setFld Reg.HPN_WDOG_IDX r.inst.task).hpnAbort 2

/-- A lockstep mismatch (R267, R268), in any tick in which the pair is bound and compared (R94): of a tick in which the schedule runs, the
entries not yet started end, all of them before its start. -/
def Quad.mismatch (q : Quad) : Quad :=
  if !q.locked || q.flt.pairRepair || q.hpn.mism then q
  else
    let task := match q.hpnRun with | some (_, r, _) => r.inst.task | none => 0
    let left := if q.hpnRuns then q.hpnEntries.filter fun n => decide (q.hpn.next.getD 0 ≤ n) else []
    let q := { q with hpn := { q.hpn with next := some 16, mism := true } }
    let q := q.hpnEndRun St.abortedFault
    let q := left.foldl (fun q n => q.cancelled (q.hpnInst (q.fld (Reg.HPN_SCH_TASK n))) false) q
    let q := q.undo none
    let q := q.count Reg.HPN_MISM_COUNT 1
    let q : Quad := { q with hpn := { q.hpn with run := q.hpn.run + 1 } }
    let q : Quad := q.fault 3 1 (match q.coreAt 0 with | some c => c.val | none => 31) 0 (w32 task)
    if q.hpn.run ≥ 3 then q.enterHalt 4 else q

/-! ### Boundaries (R256, R265, R268, R270, R271, R275) -/

/-- The pins sampled and debounced (R270): the quadrant, and the inputs that rose. -/
def Quad.emgSample (q : Quad) (emg : BitVec 4) : Quad × BitVec 4 :=
  let pol := q.fld Reg.HPN_EMG_POL
  let deb := q.fld Reg.HPN_EMG_DEB
  let one (p : Nat) : Bool × Nat × Bool :=
    let s := emg.getLsbD p != bitN pol p
    let l := q.hpn.lvl.getLsbD p
    let n := q.hpn.deb.getD p 0
    if s == l then (l, 0, false) else if n + 1 ≥ deb + 1 then (s, 0, s) else (l, n + 1, false)
  let r := (List.range 4).map one
  let bits (f : Bool × Nat × Bool → Bool) : BitVec 4 :=
    BitVec.ofNat 4 (((List.range 4).map fun p => b2n (f (r.getD p (false, 0, false))) * 2 ^ p).sum)
  let rise := bits fun (x : Bool × Nat × Bool) => x.2.2
  let q := { q with hpn := { q.hpn with pins := emg, lvl := bits fun (x : Bool × Nat × Bool) => x.1, deb := r.map fun (x : Bool × Nat × Bool) => x.2.1 } }
  (q.setFld Reg.HPN_EMG_RISE (q.fld Reg.HPN_EMG_RISE ||| rise.toNat), rise)

/-- What a rise brings (R271, R46): entry to HARDPAN at the next boundary, or EMG_PEND. `mode` is that of the tick in which the level
rose. -/
def Quad.emgRise (q : Quad) (mode : Mode) (rise : BitVec 4) : Quad :=
  if rise = 0 then q
  else if mode = .standby ∨ mode = .service then q.raise Reg.QCTL_MODE_EMG_PEND
  else if mode = .run ∧ q.locked ∧ rise.toNat &&& q.fld Reg.HPN_EMG_ENTER ≠ 0 then { q with hpn := { q.hpn with entry := some 1 } }
  else q

/-- What Hardpan does as a tick ends (R256, R265, R268): a tick in which the schedule ran with no mismatch ends the proving, and any
with no mismatch the run of mismatches. -/
def Quad.hpnTickEnd (q : Quad) : Quad :=
  let h := q.hpn
  let clean := !h.mism
  { q with
      hpn := { h with
        state := if q.hpnRuns && clean && h.state == .proving then .live else h.state
        run := if clean && !q.flt.pairRepair then 0 else h.run
        journal := if clean then [] else h.journal
        mism := false, next := none, aborted := [] } }

/-- The control words copied (R275). -/
def Quad.snapControl (q : Quad) : Quad :=
  (List.range 16).foldl (fun q n => q.wr (Reg.HPN_CWS n) (q.rd (Reg.HPN_CW n))) q

end Sys2Proof.Machine
end

