-- ==== Sys2Proof/Machine/FltOps.lean ====
section
/-! DEFINITION. Faults at work (spec/19): mode entries, the fault policy (R474), rotations (R477, R478), stopped cores and repair
(R479 to R482), tests (R483). -/

namespace Sys2Proof.Machine

/-! ### Entry to a mode (R41, R193, R272, R321) -/

/-- Queued and prefetched tick-bound instances removed at leaving RUN (R193). -/
def Quad.leaveRun (q : Quad) : Quad :=
  let (q, a) := q.takeWaiting fun i => i.bound
  q.cancelAll false a

/-- A mode other than HALT taken: what leaving the old one brings, AUTO, and the host's cause. -/
def Quad.setMode (q : Quad) (m : Mode) (auto : Bool) : Quad :=
  let q := if q.mode = .run then q.leaveRun else q
  let q := if q.mode = .standby ∨ m = .run then q.gpioRelease else q
  (({ q with mode := m }.setFld Reg.QCTL_MODE_AUTO (b2n auto)).irq irqMode).startSlots

/-! ### Fault policy (R474) -/

/-- Whether HALT is due once `n` more boundaries have passed, by a command or by the policy: it goes before HARDPAN entry (R44). -/
def Quad.haltAt (q : Quad) (n : Nat) : Bool :=
  (match q.change with | some c => c.target == .halt && decide (c.left ≤ n) | none => false) ||
    q.flt.due.any fun c => q.fld (Reg.FLT_POL_ACT c) == 2

/-- Whether HALT is due at this boundary. -/
def Quad.haltDue (q : Quad) : Bool := q.haltAt 0

/-- HARDPAN entered from RUN by the policy or an emergency input (R44, R272): a commanded change that is pending completes with REFUSED;
MODE HARDPAN due at the same boundary has reached its mode. -/
def Quad.hardpanEntry (q : Quad) : Quad :=
  match q.change with
  | some ⟨.hardpan, 0, .command seq acc⟩ => ({ q with change := none }.setMode .hardpan false).complete seq 0x04 St.done 0 acc
  | _ => q.dropChange.setMode .hardpan false

/-- FAULT_POLICY_ACTION of a class whose action is due. -/
def Quad.policyAction (q : Quad) (cls : Nat) : Quad :=
  if !q.flt.due.contains cls then q
  else
    let q := { q with flt := { q.flt with due := q.flt.due.filter fun c => c != cls } }
    match q.fld (Reg.FLT_POL_ACT cls) with
    | 1 =>
      if q.mode = .run ∧ q.locked then (if q.haltDue then q else q.hardpanEntry)
      else q.raise Reg.FLT_STAT_POLSKIP
    | 2 => q.enterHalt 5
    | _ => q

/-- A new window of a class where one begins at this boundary. -/
def Quad.policyWindow (q : Quad) (cls : Nat) : Quad :=
  if q.tick.toNat % 2 ^ q.fld (Reg.FLT_POL_WIN cls) = 0 then
    { q with flt := { q.flt with win := q.flt.win.setIfInBounds cls 0, acted := q.flt.acted.filter fun c => c != cls } }
  else q

/-- The windows of all classes at a boundary. -/
def Quad.policyWindows (q : Quad) : Quad := [1, 2, 3, 4, 5].foldl (fun q c => q.policyWindow c) q

/-! ### Copies and moves (R477) -/

/-- CCLK cycles that the copy of a core's memories takes: 14,336 FCLK cycles. -/
def copyCycles : Nat := 28672

/-- Ticks in which it ends. -/
def copyTicks (fi : Nat) : Nat := if fi = 2 then 2 else 1

/-- Whether the copy begun in the tick after `since` has ended. -/
def Quad.copied (q : Quad) (r : Rotation) : Bool := decide (q.tick.toNat ≥ r.since.toNat + 1 + copyTicks q.fi)

/-- Whether the copy of a rotation or repair has been carried to its end, from boundary a + 1 on. -/
def Quad.copyEnded (q : Quad) (r : Rotation) : Bool :=
  decide (r.since.toNat + 1 ≤ q.tick.toNat) &&
    decide (copyCycles ≤ (q.tick.toNat - r.since.toNat - 1) * cclkPerTick q.fi + (q.cclk - q.bndCclk))

/-- The copy made, as it ends. -/
def Quad.makeCopy (q : Quad) : Quad :=
  match q.flt.rot with
  | none => q
  | some r =>
    if r.made || !q.copyEnded r then q
    else
      match q.copyEnds r with
      | some (a, b) => { q.copyCore a b with flt := { q.flt with rot := some { r with made := true } } }
      | none => q

/-- Whether a core runs neither an instance nor an event handler. -/
def Core.idle (k : Core) : Bool := k.run.isNone && k.evtRun.isNone && !k.act && k.assigned.isNone

/-- A core that holds the spare position and runs nothing. -/
def Core.asSpare (k : Core) : Core := { ({} : Core) with pos := 16, coll := k.coll, parked := true, bootFetch := false, stopped := k.stopped }

/-- A position moved with its state from one core to another, which holds the copy of its memories. -/
def Quad.movePos (q : Quad) (a b : Fin 17) : Quad :=
  let k := q.core a
  (q.setCore b { k with coll := (q.core b).coll, stopped := false }).setCore a k.asSpare

/-! ### Retirement and loss (R480 to R482) -/

/-- A core out of every position, its bus port reset (R429), with its retirement record on its way to Mladcel (R480). -/
def Quad.outOfUse (q : Quad) (c : Fin 17) : Quad :=
  let q := (q.maskBeats (.core c)).1
  let q := q.setCore c { (q.core c).asSpare with pos := 31 }
  let q : Quad := { q with hp := { q.hp with retiring := q.hp.retiring ||| BitVec.ofNat 17 (2 ^ c.val) } }
  q.wr Reg.FLT_RETIRED (q.rd Reg.FLT_RETIRED ||| w32 (2 ^ c.val))

/-- A core retired: out of every position, the spare consumed, logged. -/
def Quad.retire (q : Quad) (c : Fin 17) (pos : Nat) : Quad :=
  let q := q.outOfUse c
  let q := (q.raise Reg.FLT_SPARE_USED).raise Reg.FLT_SPARE_ROTREF
  q.log 0x0012 2 (w32 c.val) (BitVec.ofNat 16 pos)

/-- A position lost with the core that held it (R481): queued instances that no position may run end (R475). -/
def Quad.losePos (q : Quad) (c : Fin 17) (pos : Nat) : Quad :=
  let q := q.outOfUse c
  let q := (q.wr Reg.FLT_LOST (q.rd Reg.FLT_LOST ||| w32 (2 ^ pos))).raise Reg.FLT_SPARE_CAPLOST
  let q := (q.fault 1 4 c.val pos 0).log 0x0012 2 (w32 c.val) (BitVec.ofNat 16 (pos + 0x8000))
  let q := q.mapSch fun s => { s with asks := s.asks.filter fun p => p != pos }
  let (q, l) := q.takeQueue fun i => q.effMask i.task == 0
  q.cancelAll false l

/-- The core that can replace one that stopped: the spare, unless it is consumed. -/
def Quad.spareCore (q : Quad) : Option (Fin 17) := if q.flag Reg.FLT_SPARE_USED then none else q.coreAt 16

/-! ### Rotation (R477, R478) -/

/-- Whether a core test by TEST is in progress. -/
def Quad.coreTesting (q : Quad) : Bool := match q.flt.test with | some t => t.code == 1 | none => false

/-- Whether a position may be rotated now. -/
def Quad.rotOk (q : Quad) (p : Nat) : Bool :=
  (q.mode == .standby || q.mode == .run || q.mode == .service) && decide (p < 16) && !(decide (p ≤ 1) && q.hpnOn) &&
    !bitN (q.fld Reg.FLT_LOST_POS) p && q.spareCore.isSome && q.flt.rot.isNone && !q.coreTesting && (q.coreAt p).isSome

/-- A rotation started. -/
def Quad.startRot (q : Quad) (p : Nat) (cmd : Option W32) : Quad :=
  match q.coreAt p, q.spareCore with
  | some c, some s => { q with flt := { q.flt with rot := some ⟨p, c.val, s.val, .copy, q.tick, cmd, false, 0, false⟩ } }
  | _, _ => q

/-- ROTATE (R477). -/
def Quad.cmdRotate (q : Quad) (seq : W32) (p : Nat) : Quad :=
  if q.rotOk p then q.startRot p (some seq) else q.complete seq 0x0A St.refused 0 0

/-- AUTO_ROTATE (R478): the next eligible position in ascending order. -/
def Quad.autoRotate (q : Quad) : Quad :=
  if !q.flag Reg.FLT_CTL_AUTO then q
  else
    match ((List.range 16).map fun i => (q.flt.autoNext + i) % 16).find? q.rotOk with
    | some p => { q.startRot p none with flt := { (q.startRot p none).flt with autoNext := (p + 1) % 16 } }
    | none => q

/-- A core's number. -/
def coreNum (n : Nat) : Fin 17 := ⟨n % 17, by omega⟩

/-- ROTATE_MOVE (R477): the position moves to the spare core, or back, at a boundary at which it is idle. -/
def Quad.rotateMove (q : Quad) : Quad :=
  let q := q.makeCopy
  match q.flt.rot with
  | none => q
  | some r =>
    let c := coreNum r.src
    let s := coreNum r.dst
    if r.repair ∨ !q.copied r then q
    else
      match r.phase with
      | .copy =>
        if (q.core c).idle then
          let q := q.movePos c s
          { q with flt := { q.flt with rot := some { r with phase := .test, since := q.tick } } }
        else q
      | .back => if (q.core s).idle then (q.movePos s c).endRotation St.done else q
      | .test => q

/-- ROTATE_ABANDON (R477): after 16 boundaries without a move. -/
def Quad.rotateAbandon (q : Quad) : Quad :=
  match q.flt.rot with
  | some r => if !r.repair ∧ r.phase = .copy ∧ r.waited ≥ 16 then q.endRotation St.refused else q
  | none => q

/-- A boundary at which a rotation could have moved and has not. -/
def Quad.rotWaits (q : Quad) : Quad :=
  match q.flt.rot with
  | some r => if q.copied r then { q with flt := { q.flt with rot := some { r with waited := r.waited + 1 } } } else q
  | none => q

/-! ### A core that stops (R80, R89, R475, R478, R479, R481) -/

/-- The repair of a stopped core begun: what used the spare ends, and the spare is to take the position; without a spare the position
is lost. While another repair is in progress, the core waits for its end. -/
def Quad.startRepair (q : Quad) (c : Fin 17) (pos : Nat) : Quad :=
  match q.spareCore with
  | none => q.losePos c pos
  | some _ =>
    if (match q.flt.rot with | some r => r.repair | none => false) then q
    else
      let q := q.endRotation St.abortedFault
      let q := if q.coreTesting then q.endTest St.abortedFault 0 else q
      match q.coreAt 16 with
      | some s => { q with flt := { q.flt with rot := some ⟨pos, c.val, s.val, .copy, q.tick, none, true, 0, false⟩ } }
      | none => q

/-- Whether the other member of the pair has stopped too, so that none is left to copy. -/
def Quad.otherStopped (q : Quad) (pos : Nat) : Bool :=
  match q.coreAt (1 - pos) with | some c => (q.core c).stopped | none => true

/-- A lockstep member that stopped (R479): the tick counts as a mismatch, and the pair waits for the spare; where none can replace the
member, HALT (R473). -/
def Quad.pairStop (q : Quad) (c : Fin 17) (pos : Nat) : Quad :=
  let q := q.mismatch
  if q.mode = .halt then q
  else if q.spareCore.isNone || q.otherStopped pos then q.enterHalt 3
  else { q with flt := { q.flt with pairRepair := true } }.startRepair c pos

/-- A core stops: its bus port is reset (R429), its instances end, the instance of its prefetch slot returns to its level, a fault record is written, and it offers
itself to test. -/
def Quad.coreStop (q : Quad) (c : Fin 17) (cause : Nat) (detail : W32) : Quad :=
  let pos := (q.core c).pos.val
  let paired := q.locked && decide (pos ≤ 1)
  let q := q.fault 1 cause c.val pos detail
  let q := if paired then q else q.abortCore c St.abortedFault
  let q := match q.prefAt pos with
    | some i => { q with sch := { q.sch with pref := q.sch.pref.setIfInBounds pos none } }.enqueue i
    | none => q
  let q := q.mapSch fun s => { s with asks := s.asks.filter fun p => p != pos }
  let q := q.setCore c { q.core c with
    stopped := true, act := false, wait := .none, evWait := .none, flights := [], reqs := [], ask := none, slots := 0, target := none, rep := 0 }
  let q := (q.maskBeats (.core c)).1
  if pos ≥ 16 then q else if paired then q.pairStop c pos else q.startRepair c pos

/-- CORE_REPAIR_MOVE (R479): the position moves to the spare core at the first boundary after the copy. A lockstep member's
replacement is a copy of the healthy member, and the pair resumes with a proving tick. -/
def Quad.repairMove (q : Quad) : Quad :=
  let q := q.makeCopy
  match q.flt.rot with
  | none => q
  | some r =>
    let c := coreNum r.src
    let s := coreNum r.dst
    if !r.repair ∨ r.phase ≠ .copy ∨ !q.copied r then q
    else
      let next (q : Quad) : Quad := { q with flt := { q.flt with rot := some { r with phase := .test, since := q.tick } } }
      if q.flt.pairRepair ∧ r.pos ≤ 1 then
        match q.coreAt (1 - r.pos) with
        | some h =>
          let k := q.core h
          let q := q.setCore s { k.mirror (q.core s) with pos := ⟨r.pos % 32, by omega⟩, lock := true }
          let q := next (q.setCore c (q.core c).asSpare)
          { q with hpn := { q.hpn with state := .proving }, flt := { q.flt with pairRepair := false } }.fault 3 4 s.val r.pos 0
        | none => q
      else
        let q := q.movePos c s
        (next q).waitForWork s

/-- What becomes of cores that stopped while a repair was in progress: the next one's repair, or its position is lost; a lockstep member
that no core can replace brings HALT (R473). -/
def Quad.nextRepair (q : Quad) : Quad :=
  match physAll.find? fun c => (q.core c).stopped && decide ((q.core c).pos.val < 16) with
  | some c =>
    if q.flt.pairRepair && decide ((q.core c).pos.val ≤ 1) && q.spareCore.isNone then q.enterHalt 3
    else q.startRepair c (q.core c).pos.val
  | none => q

/-- The test of the core that a rotation or a repair took out ends (R477, R479). -/
def Quad.rotTested (q : Quad) (r : Rotation) (pass : Bool) (phase : BitVec 16) : Quad :=
  let c := coreNum r.src
  if pass then
    if r.repair then
      ({ q with flt := { q.flt with rot := none } }.setCore c { q.core c with stopped := false }).nextRepair
    else { q with flt := { q.flt with rot := some { r with phase := .back, since := q.tick, waited := 0, made := false } } }
  else
    let q := (q.fault 1 3 c.val r.pos (phase.setWidth 32)).retire c r.pos
    if r.repair then { q with flt := { q.flt with rot := none } }.nextRepair else q.endRotation St.abortedFault

/-- TEST 0x01 of the spare ends (R483). -/
def Quad.spareTested (q : Quad) (t : TestRun) (pass : Bool) (phase : BitVec 16) : Quad :=
  if pass then q.endTest St.done 0
  else
    let c := coreNum t.b.toNat
    ((q.fault 1 3 c.val 16 (phase.setWidth 32)).retire c 16).endTest St.abortedFault phase.toNat

/-- CORE_TEST_DONE (R477 to R480, R483): the core test in progress ends, that of a rotation or repair, or TEST 0x01; there is one at a
time. -/
def Quad.coreTestDone (q : Quad) (pass : Bool) (phase : BitVec 16) : Quad :=
  match q.flt.rot.filter (fun r => r.phase == .test), q.flt.test.filter (fun t => t.code == 1) with
  | some r, _ => q.rotTested r pass phase
  | none, some t => q.spareTested t pass phase
  | none, none => q

/-! ### TEST (R483) -/

/-- Whether an ASRC channel lies in an enabled group. -/
def Quad.inAsrcGroup (q : Quad) (ch : Nat) : Bool :=
  (List.range 12).any fun g =>
    q.flag (Reg.ASR_GRP_EN g) && (let r := q.grpRange g; decide (r.1 ≤ ch ∧ ch < r.1 + r.2))

/-- Whether a test other than the core test and the customer's may run: its target and parameters. -/
def Quad.testOk (q : Quad) (code b c : Nat) : Bool :=
  let service := q.mode == .service
  match code with
  | 2 => service && decide (b ≤ 34 ∧ c = 0)
  | 3 => service && decide (c ≥ 1 ∧ 2 ^ 20 * (b + c) ≤ q.dramBytes)
  | 4 =>
    let p : Fin 2 := if b = 1 then 1 else 0
    decide (b ≤ 1 ∧ c ≤ 1) && (decide (q.link p ≠ 3) || (decide (c = 1) && !q.wrapped))
  | 5 => decide (b < 64 ∧ c = 0) && !q.flag (Reg.DEC_CH_EN b)
  | 6 => decide (b < 128 ∧ c = 0) && !q.inAsrcGroup b
  | 7 => service && decide (b ≤ 1 ∧ c = 0)
  | 8 => service && decide (b = 0 ∧ c = 0)
  | _ => false

/-- Whether TEST is accepted at all: no test and no rotation in progress, and a mode that takes the command. -/
def Quad.testFree (q : Quad) : Bool :=
  q.flt.test.isNone && q.flt.rot.isNone && q.mode != .halt && q.mode != .scour

/-- The record of a TEST that is not run. -/
def Quad.testRefused (q : Quad) (seq : W32) : Quad := q.complete seq 0x0B St.refused 0 0

/-- A test put in progress. -/
def Quad.testRun (q : Quad) (code : Nat) (seq b c : W32) : Quad := { q with flt := { q.flt with test := some ⟨code, b, c, seq⟩ } }

/-- TEST 0x01. -/
def Quad.testCore (q : Quad) (seq b c : W32) : Quad :=
  if q.testFree ∧ q.mode ≠ .hardpan ∧ q.spareCore.map Fin.val = some b.toNat ∧ c = 0 then q.testRun 1 seq b c else q.testRefused seq

/-- TESTs 0x02 to 0x08: test 0x04 with DIVERT forces its port DOWN. -/
def Quad.testUnit (q : Quad) (code : Nat) (seq b c : W32) : Quad :=
  if q.testFree && q.testOk code b.toNat c.toNat then
    let p : Fin 2 := if b = 1 then 1 else 0
    let q := if code = 4 ∧ c = 1 ∧ q.link p = 3 then q.linkDown p else q
    q.testRun code seq b c
  else q.testRefused seq

/-- TEST 0x10: an instance of the task made ready (R192). -/
def Quad.testCustomer (q : Quad) (seq b c : W32) : Quad :=
  if q.testFree ∧ q.mode = .service ∧ b.toNat < 4096 ∧ c = 0 then
    match q.makeReady b.toNat with
    | (q, .accepted) =>
      let q := q.testRun 0x10 seq b c
      { q with flt := { q.flt with testInst := q.sch.queue.getLast? } }
    | (q, .held) => q.complete seq 0x0B St.held 0 0
    | (q, .refused) => q.testRefused seq
  else q.testRefused seq

/-- A memory left zero with correct check bits. -/
def Quad.zeroRange (q : Quad) (a n : Nat) : Quad :=
  { q with
      mem := q.mem.filter fun x => !decide (a ≤ x.1 ∧ x.1 < a + n)
      ecc := q.ecc.filter fun x => !decide (a ≤ x.1 ∧ x.1 < a + n)
      eccBack := q.eccBack.filter fun x => !decide (a ≤ x ∧ x < a + n) }

/-- The memory that a BIST leaves zero. -/
def Quad.bistZero (q : Quad) (t : TestRun) : Quad :=
  let b := t.b.toNat
  if t.code = 3 then q.zeroRange (0x800000000 + 2 ^ 20 * b) (2 ^ 20 * t.c.toNat)
  else if t.code ≠ 2 then q
  else if b < 32 then q.zeroRange (0x10000000 + 0x40000 * b) 0x40000
  else if b = 32 then q.zeroRange 0x30000000 0x200000
  else if b = 33 then (q.zeroRange 0x22000000 0x20000).zeroRange 0x23000000 0x11000
  else (q.zeroRange 0x20040000 0x40000).mapFab fun f => { f with masks := [] }

/-- TEST_DONE (R483): a test other than the core test and the customer's ends. -/
def Quad.testDone (q : Quad) (pass : Bool) (detail : BitVec 16) : Quad :=
  match q.flt.test with
  | none => q
  | some t =>
    if t.code = 1 ∨ t.code = 0x10 then q
    else
      let q := q.bistZero t
      if pass then q.endTest St.done 0
      else (q.fault 5 1 31 31 (w32 t.code)).endTest St.abortedFault detail.toNat

end Sys2Proof.Machine
end

