-- ==== Sys2Proof/Machine/BoundaryOps.lean ====
section
/-! DEFINITION. The tick boundary (R28 to R31 and what the chapters attach to it), the start of the grid (R26, R54), and the effect of
a pending mode change (R41 to R47). -/

namespace Sys2Proof.Machine

/-! ### The end of a tick -/

/-- Whether HARDPAN is entered from RUN by the policy or an emergency input once `n` more boundaries have passed (R44, R271, R474). -/
def Quad.hardpanAt (q : Quad) (n : Nat) : Bool :=
  q.mode == .run && q.locked && ((q.flt.due.any fun c => q.fld (Reg.FLT_POL_ACT c) == 1) ||
    match q.hpn.entry with | some k => decide (k ≤ n) | none => false)

/-- The mode of the tick that the next boundary begins, once the mode changes due there are made (R44). -/
def Quad.comingMode (q : Quad) : Mode :=
  if q.haltAt 1 then .halt
  else if q.hardpanAt 1 then .hardpan
  else match q.change with
    | some ⟨m, n, by_⟩ =>
      if 1 < n then q.mode
      else match m, by_ with
        | .run, .auto _ => if q.runOk then .run else q.mode
        | m, _ => m
    | none => q.mode

/-- Whether a binding covers a tick (R175). -/
def Binding.covers (b : Binding) (t : W64) : Bool :=
  decide (b.first.toNat ≤ t.toNat) && (match b.last with | none => true | some l => decide (t.toNat ≤ l.toNat))

/-- Whether a task is bound in the present tick. -/
def Quad.boundNow (q : Quad) (t : Nat) : Bool := q.sch.bound.any fun b => b.task == t && b.covers q.tick

/-- The bound instances of the tick that ends that have not started. -/
def Quad.unstarted (q : Quad) : List Inst :=
  (q.sch.queue ++ q.sch.pref.toList.filterMap id ++ physAll.filterMap fun c => (q.core c).assigned).filter fun i => i.bound

/-- Unstarted bound instances removed with SKIP, each an overrun (R171). -/
def Quad.skipUnstarted (q : Quad) : Quad :=
  let (q, a) := q.takeWaiting fun i => i.bound
  a.foldl (fun q i => (q.countTf i.task 5 15 0 1).cancelled i true) q

/-- Whether a core runs the instance of a bound task that was made ready in the tick that ends. -/
def Quad.runsBound (q : Quad) (t : Nat) (k : Core) : Bool :=
  match k.run with | some r => r.inst.task == t && r.inst.bound && r.inst.tick == q.tick | none => false

/-- An overrun charged to a bound task's instance of the tick that ends (R170, R205): a running one is marked, and its end counts it;
one that has ended is counted now. -/
def Quad.chargeTask (q : Quad) (t : Nat) : Quad :=
  if physAll.any fun c => q.runsBound t (q.core c) then
    q.mapCores fun _ k => if q.runsBound t k then { k with run := k.run.map fun r => { r with charged := true } } else k
  else q.countTf t 5 15 0 1

/-- An incomplete slot without a tick-bound owner counted (R205). -/
def Quad.countIncomplete (q : Quad) (s : Nat) : Quad := (q.count Reg.XCH_INCMPL_COUNT 1).setFld Reg.XCH_INCMPL_SLOT s

/-- Whether the slots of a Hardpan task are substituted without a charge in the tick that ends (R256, R266, R267, R479). -/
def Quad.hpnForced (q : Quad) (t : Nat) : Bool :=
  q.hpn.mism || q.hpn.state == .proving || q.flt.pairRepair || q.hpn.aborted.contains t

/-- The owner of an incomplete slot charged (R205, R219, R269); `spared` are bound tasks already charged, or whose instance did not
start. -/
def Quad.chargeSlot (r : Quad × List Nat) (s : Nat) : Quad × List Nat :=
  let q := r.1
  let t := q.ownIdx s
  match q.kind s with
  | 2 =>
    if q.boundNow t then
      if q.mode == .run && !r.2.contains t && !q.refused165 t then (q.chargeTask t, t :: r.2) else r
    else (q.countIncomplete s, r.2)
  | 3 =>
    if q.mode == .run && !q.fab.unwritten.contains s then ((q.count Reg.RTE_FAIL_UNFIN 1).fabFault s 2, r.2) else r
  | 6 =>
    if q.hpnForced t || !q.hpnOn || !(q.mode == .run || q.mode == .hardpan) then r
    else ((q.count Reg.HPN_INCMPL_COUNT 1).setFld Reg.HPN_INCMPL_IDX s, r.2)
  | 7 => r
  | _ => (q.countIncomplete s, r.2)

/-- Whether a slot's buffer leaves write duty complete (R204). -/
def Quad.complete? (q : Quad) (s : Nat) : Bool :=
  q.fab.masks.get s 0 == 15 && !(q.kind s == 6 && q.hpnForced (q.ownIdx s))

/-- The check of R204 and the exchange of the buffers (R197). -/
def Quad.exchange (q : Quad) (spared : List Nat) : Quad :=
  let owned := q.ownedSlots.filter fun s => decide (s < slotLimit q.fi)
  let full := (q.fab.masks.map fun e => e.1).filter q.complete?
  let q := ((owned.filter fun s => q.fab.masks.get s 0 != 15).foldl Quad.chargeSlot (q, spared)).1
  q.mapFab fun f => { f with
    wbuf := !f.wbuf, masks := [], full := some full, satR := f.satW, satW := [], retry := [], unwritten := [], passed := false }

/-- The busy cycles of the tick shown (R194). -/
def Quad.showBusy (q : Quad) : Quad :=
  let q := (List.range 16).foldl (fun q p =>
    let n := satTo 0x1FFFF (match q.coreAt p with | some c => (q.core c).busy | none => 0)
    (q.setFld (Reg.SCH_BUSY_LAST p) n).setFld (Reg.SCH_BUSYPK_PEAK p) (max (q.fld (Reg.SCH_BUSYPK_PEAK p)) n)) q
  q.mapCores fun _ k => { k with busy := 0 }

/-- The meter period in progress (R225, R227): the tick added, or the period discarded after a change of MPER. -/
def Quad.meterTickEnd (q : Quad) : Quad :=
  let q := q.meterAdd
  match q.fab.mperPend with
  | some 1 => q.mapFab fun f => { f with acc := [], accTicks := 0, mperPend := some 0 }
  | some _ => q.mapFab fun f => { f with mperPend := none }
  | none => q

/-- All that ends with a tick. -/
def Quad.tickEnd (q : Quad) (bits : List (Fin 64 × List Bool)) : Quad :=
  let q := ((q.snxEnd).portsEnd).decEnd bits
  let q := q.meterTickEnd
  let spared := q.unstarted.map fun i => i.task
  let q := if q.mode == .run && q.comingMode == .run then q.skipUnstarted else q
  let q := q.exchange spared
  q.hpnTickEnd.showBusy

/-! ### The start of a tick -/

/-- An instance of a bound task made ready (R164, R169). DESIGN CHOICE (log 131): nothing holds it (R187), a full flow neither. -/
def Quad.boundOne (q : Quad) (t : Nat) : Quad :=
  let q := q.noteTask t
  if q.refused165 t then q
  else
    let r := q.joinFlow t
    r.1.enqueue ⟨t, q.tLevel t, q.cclk / 2, q.tick, true, false, r.2⟩

/-- An instance of every bound task made ready (R169). -/
def Quad.boundReady (q : Quad) : Quad :=
  (q.sch.bound.filter fun b => b.covers q.tick).foldl (fun q b => q.boundOne b.task) q

/-- TICK events and CYC (R68, R84, R85). -/
def Core.boundary (k : Core) : Core :=
  let k := { k with cyc := 0, wrote := [], dual := [] }
  if !k.evm.getLsbD 0 || k.stopped || k.parked then k
  else if k.pendTick then { k with evs := k.evs ||| 0x100 } else { k with pendTick := true }

/-- The bindings whose last instance lies in a past tick dropped (R175). -/
def Quad.dropBindings (q : Quad) : Quad :=
  let keep (b : Binding) : Bool := match b.last with | none => true | some l => decide (q.tick.toNat ≤ l.toNat)
  q.mapSch fun s => { s with bound := s.bound.filter keep }

/-- Fades one boundary further (R250). -/
def Quad.stepFades (q : Quad) : Quad :=
  if q.mode == .halt || q.mode == .scour then q
  else q.mapKln fun k => { k with fades := k.fades.map fun f => { f with i := f.i + 1 } }

/-- All that begins with a tick: its mode `coming`, the levels `emg` at EMG_IN. -/
def Quad.tickStart (q : Quad) (coming : Mode) (emg : BitVec 4) : Quad :=
  let later (c : ModeChange) : ModeChange := { c with left := c.left - 1 }
  let q := { q with bndCclk := q.cclk, bndNs := q.tim.ns, bndFr := q.tim.fr, bndFine := q.nsFine, change := q.change.map later
                    hpn := { q.hpn with entry := q.hpn.entry.map fun n => n - 1 } }
  let q := q.measureGrid
  let q := q.mapCores fun _ k => k.boundary
  let q := q.dropBindings
  let q := if q.mode == .run && coming == .run then q.boundReady else q
  let q := q.applyOwners.applyDirect.fixTaps
  let q := q.mapKln fun k => { k with freed := [], served := false }
  let q := (q.noteEcc (q.eccIn 0x23000000 0x10000)).kilnWords
  let q := ((q.snxBegin).streamsBegin).streamsTake coming
  let q := q.freerunDrift.mapClk fun s => { s with havg := q.fld Reg.CLK_DPLL_HAVG }
  let r := q.emgSample emg
  let q := (r.1.emgRise coming r.2).snapControl
  ((q.policyWindows.makeCopy).rotWaits).rewritePages

/-- TICK_BOUNDARY (R28): of a running grid. -/
def Quad.tickBoundary (q : Quad) (env : BoundaryEnv) : Quad :=
  if !q.running then q
  else
    let q := if env.mism then q.mismatch else q
    let coming := q.comingMode
    let q := (q.tickEnd env.bits).stepFades
    { q with tick := q.tick + 1 }.tickStart coming env.emg

/-- Whether boundary `k` falls in this TCLK cycle (R27): the first one at which the time counter, with its fraction, is at least
k·T3 / 3; at the cycle before it read less, or it did not run. -/
def Quad.boundaryOf (q : Quad) (k : Nat) : Bool :=
  let at_ : Nat := k * t3 q.fi * 2 ^ 32
  decide (at_ ≤ 3 * (q.tim.ns.toNat * 2 ^ 32 + q.tim.fr.toNat)) &&
    (match q.tim.prev with | some v => decide (3 * v < at_) | none => true)

/-- GRID_START (R26, R28, R54): the first boundary of a grid, at a whole multiple of 250,000 ns. On a restart the write buffer of the
stopped grid changes duty under R204, fades count the boundary, and their shown start ticks follow the numbering (R197, R250). DESIGN
CHOICE (log 140): the first tick of a BIND accepted while the grid stood keeps the number it took then. -/
def Quad.gridStart (q : Quad) : Quad :=
  let k := epochTick q.fi q.tim.ns.toNat
  if q.running || !q.gridDue || q.rst != .past || k * t3 q.fi % 750000 != 0 || !q.boundaryOf k then q
  else
    let n : W64 := BitVec.ofNat 64 k
    let again := q.gridRan
    let shift : W32 := n.setWidth 32 - (q.tick + 1).setWidth 32
    let q := if again then (q.tickEnd []).stepFades else q.mapCores fun _ k => { k with busy := 0 }
    let q := if again then
        q.kln.fades.foldl (fun q f => q.noteGen f.gen ((q.kln.lastGen.get f.gen.val (0, 0, 0)).1 + shift) f.len f.id) q
      else q
    let q := (q.mapSch fun s => { s with bound := s.bound.filter fun b => b.last.isNone }).mapDec fun s => s.renumber n
    { q with running := true, gridRan := true, gridDue := false, tick := n }.tickStart q.mode q.hpn.pins

/-! ### A mode change (R41 to R47, R59) -/

/-- Whether a pin of EMG_IN is asserted (R270). -/
def Quad.emgAsserted (q : Quad) : Bool := q.hpn.pins ^^^ BitVec.ofNat 4 (q.fld Reg.HPN_EMG_POL) != 0

/-- Entry to RUN: bound instances of its first tick, and what brings HARDPAN at the next boundary (R46, R59, R169, R271). -/
def Quad.enterRun (q : Quad) (auto : Bool) : Quad :=
  let pend := q.mode == .standby && q.hpnOn && q.emgAsserted
  let next := q.autoHpn
  let q := { q.setMode .run auto with autoHpn := false }.boundReady
  if auto && next then { q with change := some ⟨.hardpan, 1, .auto false⟩ }
  else if pend then { q with hpn := { q.hpn with entry := some 1 } }
  else q

/-- The entry to HARDPAN that an emergency input brought, at its boundary (R44, R46, R271): HALT due there goes before it. -/
def Quad.emgEntry (q : Quad) : Quad :=
  if q.hpn.entry = some 0 then
    let q := { q with hpn := { q.hpn with entry := none } }
    if q.mode = .run ∧ q.locked ∧ !q.haltDue then q.hardpanEntry.rewritePages else q
  else q

/-- MODE_CHANGE_EFFECT: the policy's actions and the emergency entry first (R44), then the change that is due. `n` is the quadrant's
number. -/
def Quad.modeChangeEffect (q : Quad) (n : Nat) : Quad :=
  let q := (q.flt.due.foldl (fun q c => q.policyAction c) q).emgEntry
  match q.change with
  | none => q
  | some c =>
    if c.left ≠ 0 then q
    else
      let q := { q with change := none }
      let q :=
        match c.by_ with
        | .auto slot =>
          let log (q : Quad) (m : Nat) : Quad := q.log 0x0031 0 (w32 (n + 1 + 256 * b2n slot)) (BitVec.ofNat 16 m)
          match c.target with
          | .standby => log ((q.raise Reg.QCTL_MODE_AUTO).irq irqMode) 1
          | .hardpan => q.setMode .hardpan true
          | _ =>
            if q.runOk then log (q.enterRun true) (if q.autoHpn then 3 else 2) else log { q with autoHpn := false } 1
        | .command seq acc =>
          let q := match c.target with
            | .halt => q.enterHalt 0
            | .run => q.enterRun false
            | m => q.setMode m false
          q.complete seq 0x04 St.done 0 acc
      q.rewritePages

end Sys2Proof.Machine
end

