-- ==== Sys2Proof/Machine/HostOps.lean ====
section
/-! DEFINITION. The host port of a quadrant (spec/17): register writes in full, refusals (R437, R438), the command ring (R440 to
R443), the commands (R446 to R450), completion records (R444), interrupts (R452). -/

namespace Sys2Proof.Machine

/-! ### Register writes in full -/

/-- A register write with what SRST (R49) and DMA_CTL.RST (R429) bring. -/
def Quad.regWrite (q : Quad) (w : Writer) (off : Nat) (m v : W32) : Quad × Bool :=
  let r := q.regWrite0 w off m v
  if off = Reg.QCTL_CTL ∧ Reg.QCTL_CTL_SRST.get (v &&& m) ≠ 0 then (r.1.doReset 4 false, r.2)
  else if off = Reg.DMA_CTL ∧ Reg.DMA_CTL_RST.get (v &&& m) ≠ 0 then (r.1.dmaReset, r.2)
  else r

/-- A write of bytes by a core or by the host, in one target. -/
def Quad.busWrite (q : Quad) (m : Master) (w : Writer) (t : Target) (l : List (Nat × Byte)) : Quad × Nat :=
  q.busWriteL Quad.regWrite m w t l

/-- DMA_COMPLETE with the registers written in full (R425). -/
def Quad.dmaComplete (q : Quad) (k : Nat) : Quad := q.dmaCompleteBy Quad.regWrite k

/-- A write of the host bridge (R403): an address that is mapped nowhere, or that takes no writes, gives REFUSED. -/
def Quad.hostStore (q : Quad) (l : List (Nat × Byte)) : Quad × Nat :=
  match l with
  | [] => (q, St.done)
  | (a, _) :: _ =>
    match q.target a with
    | none => (q, St.refused)
    | some t => if q.readOnly t then (q, St.refused) else q.busWrite .host Writer.host t l

/-! ### Counts and refusals (R437, R438, R441, R452) -/

/-- Entries posted and not yet accepted. -/
def HostPort.waiting (h : HostPort) : Nat := (h.cmdWp - h.cmdRp).toNat

/-- CMDFREE (R441). -/
def HostPort.cmdFree (h : HostPort) : Nat :=
  min (256 - h.waiting) (512 - h.kept.length - h.waiting - h.open_.length)

/-- Whether a place of the ring holds an entry posted and not yet accepted (R441). -/
def HostPort.slotBusy (h : HostPort) (slot : Nat) : Bool := decide ((slot + 256 - h.cmdRp.toNat % 256) % 256 < h.waiting)

/-- A quadrant with its host window changed. -/
def Quad.mapHp (q : Quad) (f : HostPort → HostPort) : Quad := { q with hp := f q.hp }

/-- A refused write counted (R437, R452). -/
def Quad.refuseWrite (q : Quad) : Quad := (q.mapHp fun h => { h with wref := satTo 0xFFFF (h.wref + 1) }).irq irqRef

/-- A refused write to the ring area (R438). -/
def Quad.refuseRing (q : Quad) : Quad := (q.mapHp fun h => { h with cref := true }).refuseWrite

/-- A refused bulk write (R438): BREF, and the LOAD that took bulk data ends. -/
def Quad.refuseBulk (q : Quad) : Quad := ((q.mapHp fun h => { h with bref := true }).refuseWrite).endLoad St.refused

/-- A word written to the ring area (R438, R441). -/
def Quad.ringWrite (q : Quad) (word : Nat) (m v : W32) : Quad :=
  if q.hp.slotBusy (word / 4) then q.refuseRing
  else q.mapHp fun h => { h with ring := h.ring.put word ((h.ring.get word 0 &&& ~~~m) ||| (v &&& m)) }

/-- CMD_WP written (R438, R441). -/
def Quad.cmdWpWrite (q : Quad) (v : W32) : Quad :=
  if q.hp.cref || decide ((v - q.hp.cmdWp).toNat > q.hp.cmdFree) then q.refuseWrite
  else q.mapHp fun h => { h with cmdWp := v }

/-- CPL_RP written (R444): beyond CPL_WP, or backward, refused. The records consumed are kept no longer (R445). -/
def Quad.cplRpWrite (q : Quad) (v : W32) : Quad :=
  let n := (v - q.hp.cplRp).toNat
  if n > (q.hp.cplWp - q.hp.cplRp).toNat then q.refuseWrite
  else q.mapHp fun h => { h with cplRp := v, kept := h.kept.drop n }

/-- A word written to the bulk port (R438, R439). -/
def Quad.bulkWrite (q : Quad) (v : W32) : Quad :=
  if q.hp.bref || decide (q.hp.bulkW.length ≥ 1024) then q.refuseBulk
  else q.mapHp fun h => { h with bulkW := h.bulkW ++ [v] }

/-- A word read from the bulk port (R439): nothing leaves it in SCOUR (R52). -/
def Quad.bulkRead (q : Quad) : Quad :=
  if q.mode = .scour then q
  else
    match q.hp.bulkR with
    | _ :: t => q.mapHp fun h => { h with bulkR := t }
    | [] => (q.mapHp fun h => { h with runder := true }).irq irqRef

/-- The mailbox word written by the host: a full mailbox refuses it (R187). -/
def Quad.hostMailbox (q : Quad) (v : W32) : Quad :=
  let r := q.mailboxWrite true v
  if r.2 then r.1.refuseWrite else r.1

/-- A posted write carried into the quadrant's window (R435). -/
def Quad.windowPut (q : Quad) (off : Nat) (be : BitVec 4) (v : W32) : Quad :=
  let m := beMask be
  if 0x10000 ≤ off ∧ off < 0x11000 then q.ringWrite ((off - 0x10000) / 4) m v
  else if off = 0x11000 then q.cmdWpWrite ((q.hp.cmdWp &&& ~~~m) ||| (v &&& m))
  else if off = 0x11004 then q.cplRpWrite ((q.hp.cplRp &&& ~~~m) ||| (v &&& m))
  else if off = 0x11008 then q.hostMailbox (v &&& m)
  else if 0x30000 ≤ off ∧ off < 0x40000 then q.bulkWrite (v &&& m)
  else q

/-- The oldest posted write of a quadrant drained (R437): while the quadrant is out of reset. -/
def Quad.drain (q : Quad) : Quad :=
  match q.hp.posted with
  | [] => q
  | p :: t => if q.rst = .held then q else (q.mapHp fun h => { h with posted := t }).windowPut p.addr p.be p.v

/-- CPL of HST_IRQSTq (R452): unread records exist. -/
def HostPort.cplIrq (h : HostPort) : Bool := h.cplWp != h.cplRp

/-- HST_IRQSTq. -/
def HostPort.irqWord (h : HostPort) : BitVec 5 := h.irqSt ||| (if h.cplIrq then 1 else 0)

/-- Whether HP_IRQ_N[q] is low (R452, R48). -/
def Quad.irqLow (q : Quad) : Bool :=
  q.mode != .scour && (q.hp.irqWord &&& q.hp.irqEn != 0 || q.hp.irqSt &&& irqHalt != 0)

/-- STATUS_MODE_READ (R452): the host reads word 1 of the status page. -/
def Quad.statusModeRead (q : Quad) : Quad := q.mapHp fun h => { h with irqSt := h.irqSt &&& ~~~irqHalt }

/-! ### Acceptance (R442, R443, R476) -/

/-- Whether a command may be taken now (R442, R52). -/
def Quad.takesCommand (q : Quad) : Bool :=
  q.mode != .scour && q.hp.load.isNone && q.hp.read.isNone && q.hp.writeWait.isNone

/-- The record of a command refused as it is accepted: commits name their identifier, and what acts at a tick its tick. -/
def Quad.refuseCmd (q : Quad) (seq : W32) (op aux : Nat) : Quad :=
  q.complete seq op St.refused aux (if 4 ≤ op ∧ op ≤ 7 then q.tick.setWidth 32 else 0)

/-- Whether a command's SEQ is valid (R443). -/
def Quad.seqOk (q : Quad) (seq : W32) : Bool := match q.hp.lastSeq with | some l => seq == l + 1 | none => true

/-- The record of a command whose SEQ is not valid (R443): it has no effect. -/
def Quad.seqError (q : Quad) (seq : W32) (op aux : Nat) : Quad :=
  let r : CplRec := ⟨St.refused, op, true, aux, seq, if 4 ≤ op ∧ op ≤ 7 then q.tick.setWidth 32 else 0, q.tim.ns.setWidth 32⟩
  let was := q.hp.open_
  (q.completeRec r).mapHp fun h => { h with
    open_ := was, seqref := satTo 0xFFFF (h.seqref + 1), seqrefTotal := h.seqrefTotal + 1 }

/-- A command taken: refused for its SEQ (R443), else accepted under it, refused in HALT unless `halt` lets it pass (R476), else
carried out. -/
def Quad.hostCmd (q : Quad) (seq : W32) (op aux : Nat) (halt : Bool) (f : Quad → Quad) : Quad :=
  if !q.takesCommand then q
  else if !q.seqOk seq then q.seqError seq op aux
  else
    let q := q.mapHp fun h => { h with lastSeq := some seq, open_ := h.open_ ++ [(seq, op)] }
    if q.mode = .halt ∧ !halt then q.refuseCmd seq op aux else f q

/-! ### LOAD (R446) -/

/-- The bytes of the next piece of a LOAD: up to the end of a beat of its target (R199, R415). -/
def Quad.loadPiece (q : Quad) (l : LoadRun) : Nat :=
  let beat := match q.target l.pos with | some t => t.beat | none => 16
  min l.left (beat - l.pos % beat)

/-- One piece of a LOAD written. -/
def Quad.loadWrite (q : Quad) (l : LoadRun) (n : Nat) : Quad :=
  let data := l.buf.take n
  let r := q.hostStore (addressed l.pos data)
  let ok := r.2 != St.refused && r.2 != St.collided
  r.1.mapHp fun h => { h with load := h.load.map fun _ =>
    { l with pos := l.pos + n, left := l.left - n, buf := l.buf.drop n, status := worse l.status r.2
             done := if ok then l.done + n else l.done
             bytes := if ok && l.dig.isSome then l.bytes ++ data else l.bytes } }

/-- A LOAD going on, at most `f` words and pieces: it ends with its last byte, and waits for bulk data (R446) or behind a full
direct-write buffer (R224). -/
def Quad.loadGo (q : Quad) : Nat → Quad
  | 0 => q
  | f + 1 =>
    match q.hp.load with
    | none => q
    | some l =>
      if q.waits .host then q
      else if l.left = 0 then q.endLoad St.done
      else
        let n := q.loadPiece l
        if n ≤ l.buf.length then (q.loadWrite l n).loadGo f
        else
          match q.hp.bulkW with
          | [] => q
          | w :: t =>
            (q.mapHp fun h => { h with bulkW := t, load := some { l with buf := l.buf ++ bytesLE w.toNat 4 } }).loadGo f

/-- LOAD_CONTINUE (R446): the words that arrived, each at most one word and four pieces. -/
def Quad.loadContinue (q : Quad) : Quad := q.loadGo (5 * q.hp.bulkW.length + 32)

/-- The largest length of a LOAD (R440). -/
def loadMax : Nat := 67108864

/-- LOAD (R446). -/
def Quad.cmdLoad (q : Quad) (seq : W32) (addr len : Nat) (dig : Option (Fin 8)) : Quad :=
  if len = 0 ∨ len > loadMax then q.refuseCmd seq 1 0
  else
    (q.mapHp fun h => { h with load := some ⟨seq, addr, addr, len, 0, dig, [], [], St.done⟩ }).loadContinue

/-! ### READ (R447) -/

/-- A word read by the host bridge, and the status it gives: none where it is a bus error (R403). -/
def Quad.hostWord (q : Quad) (a : Nat) : Option (W32 × Nat × Quad) :=
  match q.target a with
  | none => none
  | some t => let r := q.busRead Writer.host t a 4; some (w32 (ofBytesLE r.1), r.2.1.status, r.2.2)

/-- A long READ going on: words placed while the bulk read FIFO has room. -/
def Quad.readGo (q : Quad) : Nat → Quad
  | 0 => q
  | f + 1 =>
    match q.hp.read with
    | none => q
    | some r =>
      if r.left = 0 then q.endRead St.done
      else if q.hp.bulkR.length ≥ 1024 then q
      else
        match q.hostWord r.addr with
        | none => q.endRead St.refused
        | some (v, st, q) =>
          (q.mapHp fun h => { h with
            bulkR := h.bulkR ++ [v]
            read := some { r with addr := r.addr + 4, left := r.left - 1, placed := r.placed + 1
                                  status := worse r.status st } }).readGo f

/-- READ_CONTINUE (R447). -/
def Quad.readContinue (q : Quad) : Quad := q.readGo 1026

/-- A READ of one or two words: its data in the record. -/
def Quad.readShort (q : Quad) (seq : W32) (addr n : Nat) : Quad :=
  match q.hostWord addr with
  | none => q.refuseCmd seq 3 0
  | some (a, st, q) =>
    if n = 1 then q.complete seq 3 st 0 a
    else
      match q.hostWord (addr + 4) with
      | none => q.complete seq 3 (worse st St.refused) 0 0
      | some (b, st', q) => q.completeRec ⟨worse st st', 3, false, 0, seq, a, b⟩

/-- READ (R447). -/
def Quad.cmdRead (q : Quad) (seq : W32) (addr n : Nat) : Quad :=
  if n = 0 ∨ addr % 4 ≠ 0 then q.refuseCmd seq 3 0
  else if n ≤ 2 then q.readShort seq addr n
  else (q.mapHp fun h => { h with read := some ⟨seq, addr, n, 0, St.done⟩ }).readContinue

/-! ### WRITE (R448) -/

/-- The enabled bytes of a word. -/
def enabled (a : Nat) (be : BitVec 4) (v : W32) : List (Nat × Byte) :=
  (addressed a (bytesLE v.toNat 4)).filter fun b => be.getLsbD (b.1 - a)

/-- A command completed unless something it did has ended it already. -/
def Quad.completeOpen (q : Quad) (seq : W32) (op status : Nat) : Quad :=
  if q.hp.open_.any fun o => o.1 == seq then q.complete seq op status 0 0 else q

/-- The record of a WRITE that the registers answered: its timestamp is from before a step of the counter that the WRITE made
(R310(3)). -/
def Quad.completeWrite (q : Quad) (seq : W32) (status : Nat) (before : W32) : Quad :=
  if q.hp.open_.any fun o => o.1 == seq then q.completeRec ⟨status, 2, false, 0, seq, 0, before⟩ else q

/-- Whether a WRITE is of QCTL_CTL. -/
def ofCtl (addr : Nat) : Bool := addr == 0xF0000000 + Reg.QCTL_CTL

/-- Whether a WRITE is put to its target in HALT: of QCTL_CTL (R476), and of a slot's owner, which refuses it by itself (R206). -/
def haltWrite (addr : Nat) (be : BitVec 4) : Bool :=
  ofCtl addr || (decide (0xF0000000 + Reg.XCH_OWN 0 ≤ addr ∧ addr < 0xF0000000 + Reg.XCH_OWN 4096) && be != 0)

/-- Whether a WRITE sets QCTL_CTL.SRST (R49). -/
def writesSrst (addr : Nat) (be : BitVec 4) (v : W32) : Bool := ofCtl addr && be.getLsbD 0 && v.getLsbD 1

/-- WRITE (R448): one that waits for the direct-write buffer completes when it is accepted there (R224); one that resets the quadrant
has been performed when the reset begins (DEDUCED), so its record stands before those of R50. -/
def Quad.cmdWrite (q : Quad) (seq : W32) (addr : Nat) (be : BitVec 4) (v : W32) : Quad :=
  if addr % 4 ≠ 0 then q.refuseCmd seq 2 0
  else if writesSrst addr be v then ((q.complete seq 2 St.done 0 0).hostStore (enabled addr be v)).1
  else
    let r := q.hostStore (enabled addr be v)
    if r.1.waits .host then r.1.mapHp fun h => { h with writeWait := some (seq, r.2) }
    else r.1.completeWrite seq r.2 (q.tim.ns.setWidth 32)

/-- What a LOAD or a WRITE that waits learns of its beats that were refused (R224, R448). -/
def Quad.hostTail (q : Quad) (bad : List Beat) : Quad :=
  let mine := bad.filter fun b => b.by_ == .host
  if mine.isEmpty then q
  else q.mapHp fun h => { h with
    writeWait := h.writeWait.map fun w => (w.1, worse w.2 St.refused)
    load := h.load.map fun l => { l with status := worse l.status St.refused, done := l.done - beatBytes mine } }

/-- DIRECT_WRITE_RESUME (R224): the beats that waited; then the DMA items, and the WRITE or the LOAD, whose last beat was accepted or
refused. -/
def Quad.directResume (q : Quad) : Quad :=
  let r := q.resumeDirect q.fab.dwWait.length
  let q := (r.1.dmaTails r.2).hostTail r.2
  if q.waits .host then q
  else
    match q.hp.writeWait with
    | some (seq, st) => (q.mapHp fun h => { h with writeWait := none }).completeOpen seq 2 st
    | none => q.loadContinue

/-! ### Kiln commands (R236 to R241) -/

/-- PREPARE (R236); an error that its reads met bears on its status (R15). -/
def Quad.cmdPrepare (q : Quad) (seq : W32) (id : BitVec 16) (scene : Nat) (t : W64) : Quad :=
  let r := q.prepare id scene t (q.tick.toNat + 3) false
  r.1.complete seq 5 (worse (worstEcc (q.sceneEcc scene)).status (if r.2 = 0 then St.done else St.notReady)) r.2 (q.tick.setWidth 32)

/-- PREPARE with DOM (R240, R353): by a manager that collects no reports and repeats fewer than four decisions. -/
def Quad.cmdDomain (q : Quad) (seq : W32) (id : BitVec 16) (scene : BitVec 8) (t : W64) : Quad :=
  let repeated := (q.snx.decided.filter fun d => decide (q.tick.toNat + 3 ≤ d.t.toNat)).length
  if q.snxState ≠ snxManager ∨ q.snx.coll.isSome ∨ repeated ≥ 4 then q.refuseCmd seq 5 0
  else q.mapSnx fun s => { s with coll := some ⟨id, scene, q.tick, t, seq, 0, 0, 0, false, false⟩ }

/-- COMMIT (R237). -/
def Quad.cmdCommit (q : Quad) (seq : W32) (id : BitVec 16) : Quad :=
  let r := q.commitId id
  r.1.complete seq 6 r.2 id.toNat (q.tick.setWidth 32)

/-- ABORT (R238). -/
def Quad.cmdAbort (q : Quad) (seq : W32) (id : BitVec 16) : Quad :=
  let r := q.abortId id
  r.1.complete seq 7 r.2 id.toNat (q.tick.setWidth 32)

/-! ### Other commands -/

/-- CANCEL (R189, R449). -/
def Quad.cmdCancel (q : Quad) (seq : W32) (task : Nat) : Quad :=
  let r := q.cancelTask task
  r.1.complete seq 8 r.2 0 0

/-- REFSEL (R286, R449): a FORCE that CLK_SEL refuses refuses the command. -/
def Quad.cmdRefsel (q : Quad) (seq : W32) (ranks sel mode : Bool) (force : Nat) (r07 : W32) (r89 : BitVec 8) : Quad :=
  if sel ∧ force > 9 then (q.raise Reg.CLK_CTL_WERR).refuseCmd seq 9 0
  else (q.refsel ranks sel mode force r07 r89).complete seq 9 St.done 0 0

/-- AUGER (R450). -/
def Quad.cmdAuger (q : Quad) (seq : W32) : Quad := q.mapHp fun h => { h with augers := h.augers ++ [seq] }

/-- TEST by its code (R483). -/
def Quad.cmdTest (q : Quad) (seq : W32) (code : Nat) (b c : W32) : Quad :=
  if code = 1 then q.testCore seq b c
  else if 2 ≤ code ∧ code ≤ 8 then q.testUnit code seq b c
  else if code = 0x10 then q.testCustomer seq b c
  else q.refuseCmd seq 0x0B 0

/-! ### The commands of Table: command set, each with its acceptance -/

namespace Cmd

/-- LOAD. -/
def load (q : Quad) (seq : W32) (addr len : Nat) (dig : Option (Fin 8)) : Quad :=
  q.hostCmd seq 1 0 false fun q => q.cmdLoad seq addr len dig
/-- WRITE. -/
def write (q : Quad) (seq : W32) (addr : Nat) (be : BitVec 4) (v : W32) : Quad :=
  q.hostCmd seq 2 0 (haltWrite addr be) fun q => q.cmdWrite seq addr be v
/-- READ. -/
def read (q : Quad) (seq : W32) (addr n : Nat) : Quad := q.hostCmd seq 3 0 true fun q => q.cmdRead seq addr n
/-- MODE. -/
def mode (q : Quad) (seq : W32) (m : Mode) : Quad := q.hostCmd seq 4 0 (m == .halt) fun q => q.modeCmd seq m
/-- PREPARE. -/
def prepare (q : Quad) (seq : W32) (id : BitVec 16) (scene : BitVec 8) (t : W64) : Quad :=
  q.hostCmd seq 5 0 false fun q => q.cmdPrepare seq id scene.toNat t
/-- PREPARE with DOM. -/
def domain (q : Quad) (seq : W32) (id : BitVec 16) (scene : BitVec 8) (t : W64) : Quad :=
  q.hostCmd seq 5 0 false fun q => q.cmdDomain seq id scene t
/-- COMMIT. -/
def commit (q : Quad) (seq : W32) (id : BitVec 16) : Quad := q.hostCmd seq 6 id.toNat false fun q => q.cmdCommit seq id
/-- ABORT. -/
def abort (q : Quad) (seq : W32) (id : BitVec 16) : Quad := q.hostCmd seq 7 id.toNat false fun q => q.cmdAbort seq id
/-- CANCEL. -/
def cancel (q : Quad) (seq : W32) (task : Nat) : Quad := q.hostCmd seq 8 0 false fun q => q.cmdCancel seq task
/-- REFSEL. -/
def refsel (q : Quad) (seq : W32) (ranks sel mode : Bool) (force : Nat) (r07 : W32) (r89 : BitVec 8) : Quad :=
  q.hostCmd seq 9 0 false fun q => q.cmdRefsel seq ranks sel mode force r07 r89
/-- ROTATE. -/
def rotate (q : Quad) (seq : W32) (pos : Nat) : Quad := q.hostCmd seq 10 0 false fun q => q.cmdRotate seq pos
/-- TEST. -/
def test (q : Quad) (seq : W32) (code : Nat) (b c : W32) : Quad := q.hostCmd seq 11 0 false fun q => q.cmdTest seq code b c
/-- AUGER. -/
def auger (q : Quad) (seq : W32) : Quad := q.hostCmd seq 12 0 true fun q => q.cmdAuger seq
/-- An entry that R440 refuses. -/
def bad (q : Quad) (seq : W32) (op aux : Nat) : Quad := q.hostCmd seq op aux true fun q => q.refuseCmd seq op aux

end Cmd

/-! ### COMMAND_ACCEPT (R440, R442, R443) -/

/-- The entry taken as its command: any other OP, or a field that must be zero and is not, is refused. -/
def Quad.runEntry (q : Quad) (e : List W32) : Quad :=
  let w := (e.getD 0 0).toNat
  let seq := e.getD 1 0
  let b := e.getD 2 0
  let c := e.getD 3 0
  let op := w % 64
  let f6 := bitN w 6
  let f7 := bitN w 7
  let a := w / 256
  let addr := a % 16 * 2 ^ 32 + b.toNat
  let bc0 := b == 0 && c == 0
  let id : BitVec 16 := BitVec.ofNat 16 a
  let t : W64 := BitVec.ofNat 64 (b.toNat + 2 ^ 32 * c.toNat)
  match op with
  | 1 =>
    if f7 || decide (a ≥ 128) || (!f6 && decide (a / 16 ≠ 0)) then Cmd.bad q seq 1 0
    else Cmd.load q seq addr c.toNat (if f6 then some (fin8 (a / 16)) else none)
  | 2 => if f6 || f7 || decide (a ≥ 256) then Cmd.bad q seq 2 0 else Cmd.write q seq addr (BitVec.ofNat 4 (a / 16)) c
  | 3 =>
    if f6 || f7 || decide (a / 16 % 16 ≠ 0) || c != 0 then Cmd.bad q seq 3 0 else Cmd.read q seq addr (a / 256)
  | 4 =>
    match modeOf a with
    | some m => if f6 || f7 || !bc0 then Cmd.bad q seq 4 0 else Cmd.mode q seq m
    | none => Cmd.bad q seq 4 0
  | 5 =>
    if f7 then Cmd.bad q seq 5 0
    else if f6 then Cmd.domain q seq id (BitVec.ofNat 8 (a / 65536)) t
    else Cmd.prepare q seq id (BitVec.ofNat 8 (a / 65536)) t
  | 6 => if f6 || f7 || decide (a ≥ 65536) || !bc0 then Cmd.bad q seq 6 id.toNat else Cmd.commit q seq id
  | 7 => if f6 || f7 || decide (a ≥ 65536) || !bc0 then Cmd.bad q seq 7 id.toNat else Cmd.abort q seq id
  | 8 => if f6 || f7 || decide (a ≥ 4096) || !bc0 then Cmd.bad q seq 8 0 else Cmd.cancel q seq a
  | 9 =>
    if decide (a / 2 % 8 ≠ 0 ∨ a ≥ 256 ∨ c.toNat ≥ 256) || (!f6 && !bc0) || (!f7 && decide (a ≠ 0)) then Cmd.bad q seq 9 0
    else Cmd.refsel q seq f6 f7 (bitN a 0) (a / 16) b (c.setWidth 8)
  | 10 => if f6 || f7 || decide (a ≥ 32) || !bc0 then Cmd.bad q seq 10 0 else Cmd.rotate q seq a
  | 11 => if f6 || f7 || decide (a ≥ 256) then Cmd.bad q seq 11 0 else Cmd.test q seq a b c
  | 12 => if f6 || f7 || decide (a ≠ 0) || !bc0 then Cmd.bad q seq 12 0 else Cmd.auger q seq
  | n => Cmd.bad q seq n 0

/-- COMMAND_ACCEPT (R442, R443). -/
def Quad.commandAccept (q : Quad) : Quad :=
  if !q.takesCommand || q.hp.waiting == 0 then q
  else
    (q.mapHp fun h => { h with cmdRp := h.cmdRp + 1 }).runEntry (q.hp.entry q.hp.cmdRp)

/-! ### The host domain away (R445, R429) -/

/-- A host-domain reset as the quadrant's window meets it: the LOAD, the READ and the WRITE whose data were in flight end, rings,
FIFOs, pointers, flags and enables clear; commands accepted go on, and what Auger shows stays. -/
def Quad.hostLost (q : Quad) : Quad :=
  let m := q.maskBeats .host
  let q := m.1.mapHp fun h => { h with load := h.load.map fun l => { l with done := l.done - m.2 } }
  let q := (q.endLoad St.abortedReset).endRead St.abortedReset
  let q := match q.hp.writeWait with
    | some (seq, st) => q.completeOpen seq 2 (worse st St.abortedReset)
    | none => q
  q.mapHp fun h => { h with
    posted := [], ring := [], cmdWp := 0, cmdRp := 0, bulkW := [], bulkR := [], cplRing := [], cplWp := 0, cplRp := 0,
    writeWait := none, irqEn := 0, irqSt := 0, cref := false, bref := false, runder := false, wref := 0, seqref := 0, mgen := 0, away := true }

/-- COMPLETION_REPLAY (R445): the records not consumed, from place 0. -/
def Quad.replay (q : Quad) : Quad :=
  if !q.hp.away then q
  else
    let l := q.hp.kept
    q.mapHp fun h => { h with
      away := false, cplWp := w32 l.length, cplRp := 0
      cplRing := (List.range l.length).foldl (fun r i => match l[i]? with | some c => r.put (i % 512) c | none => r) [] }

end Sys2Proof.Machine
end

