-- ==== Sys2Proof/Machine/Pipe.lean ====
section
/-! DEFINITION. One issue of a Ronene instruction (spec/03 R80 to R92, spec/04 R116 to R118, spec/06 R146 to R153): the cycle that
passes, what stalls, the fetch, the traps, the moves and results, and what lockstep adds. Each instruction gives a `Plan`. -/

namespace Sys2Proof.Machine

/-! ### Upsets and fetch (R66, R78, R80) -/

/-- A memory upset of a word. -/
def Quad.strikeOne (q : Quad) (u : Upset) : Quad :=
  match u.inside with
  | some kiln => if u.uncorr then q.enterHalt (if kiln then 2 else 1) else q
  | none =>
    let a := eccWord u.addr
    { q with ecc := q.ecc.put a (if u.uncorr || q.ecc.find a == some .uncorr then .uncorr else .corr) }

/-- The upset that an issue brings. -/
def Quad.strike (q : Quad) (u : Option Upset) : Quad := match u with | some u => q.strikeOne u | none => q

/-- The instruction word that a core fetches: from program memory, or in boot fetch from the bus. -/
def Quad.codeWord (q : Quad) (c : Fin 17) (a : PAddr) : W64 :=
  if (q.core c).bootFetch then BitVec.ofNat 64 (ofBytesLE (q.busRead 0 .low (8 * a.toNat) 8).1) else q.pmWord c a.toNat

/-- The command of the issue that the core makes next: what the word at its program counter spells (R119, R121). -/
def Quad.wordAtPc (q : Quad) (i : Issue) : Instr := wordCommand i (q.codeWord i.c (q.core i.c).pc)

/-- A store bound by R264, and a core beside which another runs (R94): the pair's position 0, while lockstep is enabled. -/
def Quad.pairStore (q : Quad) (c : Fin 17) : Bool := q.locked && (q.core c).pos == 0

/-- What happens to position 1's core as well where it happens to position 0's (R94). -/
def Quad.pairMap (q : Quad) (c : Fin 17) (f : Core → Core) : Quad :=
  if q.pairStore c then match q.coreAt 1 with | some c1 => q.setCore c1 (f (q.core c1)) | none => q else q

/-- What position 1 meets where position 0 reads a word of its own memory (R80, R94): the same word of its own. -/
def Quad.followRead (q : Quad) (c : Fin 17) (addr : Fin 17 → Nat) : Option (Fin 17) × Ecc :=
  if q.pairStore c then match q.coreAt 1 with | some c1 => (some c1, q.eccAt (addr c1)) | none => (none, .clean) else (none, .clean)

/-- A corrected error of position 1's own word: EC of its ST, and the write-back (R80). -/
def Quad.followCorr (q : Quad) (c1 : Fin 17) (a : Nat) : Quad :=
  { q with eccBack := q.eccBack ++ [a] }.setCore c1 ((q.core c1).mapSt (q.core c1).act fun st => st ||| stEC)

/-- The error that a fetch meets (R80): a corrected one sets EC. -/
def Quad.fetch (q : Quad) (c : Fin 17) (a : PAddr) : Ecc × Quad :=
  let k := q.core c
  let r : Ecc × Quad :=
    if k.bootFetch then
      let r := q.busRead 0 .low (8 * a.toNat) 8
      (r.2.1, r.2.2)
    else
      match q.eccAt (pmAddr c a.toNat) with
      | .corr => (.corr, { q with eccBack := q.eccBack ++ [pmAddr c a.toNat] })
      | e => (e, q)
  match r.1 with
  | .corr => (.corr, r.2.setCore c ((r.2.core c).put k.act 4 (.sticky stEC)))
  | e => (e, r.2)

/-! ### X and Y memory (R75, R80, R265) -/

/-- A word of X or Y memory read by its core. -/
def Quad.xyLoad (q : Quad) (c : Fin 17) (y : Bool) (i : Nat) : W40 × Quad :=
  let a := if y then yAddr c i else xAddr c i
  let k := q.core c
  match q.eccAt a with
  | .clean => (q.mem.word40 a, q)
  | .corr => (q.mem.word40 a, { q with eccBack := q.eccBack ++ [a] }.setCore c (k.put k.act 4 (.sticky stEC)))
  | .uncorr => (0, (q.setCore c (k.put k.act 4 (.sticky stEU))).fault 4 6 c.val k.pos.val (w32 i))

/-- The schedule entry of the Hardpan instance that a core of the bound pair runs. -/
def Quad.hpnEntryOf (q : Quad) (c : Fin 17) : Option Nat :=
  if q.locked && (q.core c).pos == 0 then (match (q.core c).run with | some r => r.entry | none => none) else none

/-- A word of X or Y memory written by its core; the store of a Hardpan instance, of schedule entry `entry`, is journalled (R265). -/
def Quad.xyPut (q : Quad) (c : Fin 17) (y : Bool) (i : Nat) (v : W40) (entry : Option Nat) : Quad :=
  let a := if y then yAddr c i else xAddr c i
  let q := match entry with
    | some n => { q with hpn := { q.hpn with journal := ⟨(q.core c).pos == 1, y, i, q.mem.word40 a, n⟩ :: q.hpn.journal } }
    | none => q
  let q := (q.store a (bytesLE v.toNat 5)).mirrored (addressed a (bytesLE v.toNat 5))
  q.setCore c { q.core c with wrote := a :: (q.core c).wrote }

/-- A store of a core that issues. -/
def Quad.xyStore (q : Quad) (c : Fin 17) (y : Bool) (i : Nat) (v : W40) : Quad := q.xyPut c y i v (q.hpnEntryOf c)

/-! ### Bus accesses of a core (R106 to R108, R152, R264) -/

/-- The bytes of a width (R106). -/
def widthBytes (w : BitVec 2) : Nat := match w.toNat with | 0 => 1 | 1 => 4 | 2 => 5 | _ => 8

/-- The value that a load of a width gives (R106). -/
def loadValue (w : BitVec 2) (b : List Byte) : W40 :=
  match w.toNat with
  | 0 => BitVec.ofNat 40 (ofBytesLE (b.take 1))
  | 1 => (BitVec.ofNat 32 (ofBytesLE (b.take 4))).signExtend 40
  | _ => BitVec.ofNat 40 (ofBytesLE (b.take 5))

/-- The value that a store of width .w fits to 32 bits (R106, R72). -/
def storeFit (v : W40) (s : Bool) : Fit 32 := fit 32 v.toInt s

/-- The bytes that a store of a width gives (R106). -/
def storeBytes (w : BitVec 2) (v : W40) (s : Bool) : List Byte :=
  match w.toNat with
  | 0 => bytesLE v.toNat 1
  | 1 => bytesLE (storeFit v s).val.toNat 4
  | 2 => bytesLE v.toNat 5
  | _ => bytesLE (v.signExtend 64).toNat 8

/-- Whether a store lies in the write views of Hardpan-owned slots (R264). -/
def Quad.hpnView (q : Quad) (a n : Nat) : Bool :=
  decide (0x20000000 ≤ a ∧ a + n ≤ 0x20020000) &&
    q.kind ((a - 0x20000000) / 32) == 6 && q.kind ((a + n - 1 - 0x20000000) / 32) == 6

/-- The causes that a bus access raises at issue (R152, R63); a store that spans two route entries is a bus error in RUN and HARDPAN. -/
def Quad.busTraps (q : Quad) (c : Fin 17) (store : Bool) (a n : Nat) : List Nat :=
  if store && q.pairStore c then []
  else
    match q.access a n with
    | none => [Cause.busErr]
    | some t =>
      if !store then []
      else if q.readOnly t || q.lockedWindow t || (t == .route && q.buffered && a / 16 != (a + n - 1) / 16) then [Cause.busErr]
      else if t == .registers && !privPos (q.core c).pos.val then [Cause.privWrite]
      else []

/-- The writer that a core is at the registers. -/
def Core.writer (k : Core) : Writer := ⟨k.pos.val % 16, by omega⟩

/-- A request that a bus load into a register adds: older results on their way to it are superseded (R116). -/
def Core.request (k : Core) (r : Rg) (x : BusReq) : Core :=
  { k with
    flights := k.flights.filterMap fun f => f.after x.set (.reg r 0)
    reqs := (k.reqs.map fun y => if y.set = x.set ∧ y.dst = some r then { y with dst := none } else y) ++ [x]
    ask := k.ask.map fun y => if y.set = x.set ∧ y.dd.map Rg.d = some r then { y with dd := none } else y }

/-- A bus load issued (R82, R108): its data is that of its issue; older results on their way to the register, and an answer of
the scheduler, are superseded (R116). -/
def Quad.busLoad (q : Quad) (c : Fin 17) (r : Rg) (w : BitVec 2) (a : Nat) : Quad :=
  let set := (q.core c).act
  let n := widthBytes w
  let tgt := match q.access a n with | some t => t.code | none => 0
  let (bytes, e, q) := match q.access a n with
    | some t => q.busRead (q.core c).writer t a n
    | none => ([], .clean, q)
  q.setCore c ((q.core c).request r ⟨false, set, some r, loadValue w bytes, e, tgt⟩)

/-- A bus store issued: what R264 forbids is discarded and counted. Its request stays outstanding (R108). -/
def Quad.busStore (q : Quad) (c : Fin 17) (a : Nat) (bytes : List Byte) : Quad :=
  let k := q.core c
  let tgt := match q.access a bytes.length with | some t => t.code | none => 0
  let q := q.setCore c { k with reqs := k.reqs ++ [⟨true, k.act, none, 0, .clean, tgt⟩] }
  if q.pairStore c && !q.hpnView a bytes.length then
    let q := q.count Reg.HPN_BADWR_COUNT 1
    match k.instance? with
    | some r => q.setFld Reg.HPN_BADWR_IDX r.inst.task
    | none => q
  else
    match q.access a bytes.length with
    | some t => (q.busWrite (.core c) k.writer t (addressed a bytes)).1.noteDual c q.mem (addressed a bytes)
    | none => q

/-! ### Moves (R146, R147) -/

/-- Where an access goes. -/
inductive Space where
  | x | y
  | bus (w : BitVec 2)
  deriving DecidableEq, Repr

/-- An access of an instruction. -/
structure MemAcc where
  space : Space
  store : Bool
  reg : Rg
  p : Fin 8
  mode : AMode
  deriving DecidableEq, Repr

/-- The accesses of moves. -/
def PMove.accs (m : PMove) : List MemAcc :=
  (match m.x with | some a => [⟨.x, a.store, a.reg, a.p, a.mode⟩] | none => []) ++
  (match m.y with | some a => [⟨.y, a.store, a.reg, a.p, a.mode⟩] | none => []) ++
  (match m.bus with | some a => [⟨.bus a.w, a.store, a.reg, a.p, a.mode⟩] | none => [])

/-- The causes of one access (R96, R99, R105, R152). -/
def Quad.accTraps (q : Quad) (c : Fin 17) (s : RegSet) (a : MemAcc) : List Nat :=
  let r := addrOf s a.p a.mode
  r.traps ++ (match a.space with
    | .bus w => q.busTraps c a.store r.ea (widthBytes w)
    | _ => if r.ea ≥ 16384 then [Cause.xyRange] else [])

/-- The pointer step of an access, in the set its core issues from; a step is a write of its pointer (R116). -/
def Core.stepPtr (k : Core) (a : MemAcc) : Core :=
  if a.mode.steps then
    let s := (addrOf k.cur a.p a.mode).set
    (k.setSet k.act s).landNow k.act (.reg (.p a.p) (s.p[a.p].setWidth 40))
  else k

/-- What the fit of a store of width .w tells (R106). -/
def Core.fitFlags (k : Core) (w : BitVec 2) (v : W40) (sat : Bool) : Core :=
  let f := storeFit v sat
  if w.toNat = 1 ∧ f.v then (k.put k.act 3 (.flags mV mV)).put k.act 4 (.sticky (if f.sa then stSA else stOV)) else k

/-- One access carried out: addresses and data from the set `s` as it was at issue. -/
def Quad.doAcc (q : Quad) (c : Fin 17) (sat : Bool) (s : RegSet) (a : MemAcc) : Quad :=
  let ea := (addrOf s a.p a.mode).ea
  let v := s.read a.reg
  match a.space with
  | .bus w =>
    if a.store then
      let q := q.busStore c ea (storeBytes w v sat)
      q.setCore c ((q.core c).fitFlags w v sat)
    else q.busLoad c a.reg w ea
  | sp =>
    let y := sp == .y
    if a.store then q.xyStore c y ea v
    else
      let r := q.xyLoad c y ea
      let k := r.2.core c
      r.2.setCore c (k.put k.act 2 (.reg a.reg r.1))

/-- The moves of an instruction, after its pointer steps, with the set `s` as it was at issue; a transfer is a register move. -/
def Quad.doMoves (q : Quad) (c : Fin 17) (sat : Bool) (s : RegSet) (m : PMove) : Quad :=
  let q := q.setCore c (m.accs.foldl (fun k a => k.stepPtr a) (q.core c))
  let q := m.accs.foldl (fun q a => q.doAcc c sat s a) q
  match m.xfer with
  | some (d, r) => q.setCore c ((q.core c).put (q.core c).act 1 (.reg d (s.read r)))
  | none => q

/-! ### Plans -/

/-- What an instruction asks for: causes of its own, registers it reads and writes, moves (none where its PMOVE field is not allowed),
whether it puts a question to the scheduler, results with their latencies, and what it does besides: by default the program counter goes
on. -/
structure Plan where
  traps : List Nat := []
  reads : List Rg := []
  writes : List Rg := []
  moves : Option PMove := some {}
  asks : Bool := false
  puts : List (Nat × Dst) := []
  act : Quad → Fin 17 → Quad := fun q c => q.setCore c (q.core c).advance

/-- A PMOVE field that must hold no move (R148). -/
def noMoves (i : Issue) : Option PMove := if i.pm = 0 then some {} else none

/-- A cause, if a condition holds. -/
def causeIf (b : Bool) (c : Nat) : List Nat := if b then [c] else []

/-- Whether a core issues nothing: in SCOUR and HALT, stopped, without a position that runs work, or while its set waits. -/
def Quad.closed (q : Quad) (c : Fin 17) : Bool :=
  let k := q.core c
  q.mode == .scour || q.mode == .halt || k.stopped || decide (k.pos.val ≥ 16) ||
    (if k.act then k.evWait else k.wait) != .none

/-- Whether an instruction stalls (R82, R108, R157): it reads what a bus load or the scheduler still owes, needs a ninth bus request, or
puts a question while one is open. DESIGN CHOICE (log 135): so too a repeated instruction at its first repetition, no event entering
meanwhile. -/
def Core.stalls (k : Core) (p : Plan) (m : PMove) : Bool :=
  ((p.reads ++ m.reads).any fun r => k.awaited k.act r) || (m.bus.isSome && decide (k.reqs.length ≥ 8)) ||
    (p.asks && k.ask.isSome)

/-- The causes of an instruction (R118, R162). -/
def Quad.issueTraps (q : Quad) (i : Issue) (p : Plan) (m : PMove) : List Nat :=
  causeIf i.rsv Cause.illegalOp ++ p.traps ++ (m.accs.map fun a => q.accTraps i.c (q.core i.c).cur a).flatten ++
    dupTraps (p.writes ++ m.writes) m.stepped

/-- The lowest of some causes. -/
def lowest (l : List Nat) : Nat := l.foldl min 63

/-- A TRAP (R85, R89, R262): a Hardpan instance ends, a trap from set 1 stops the core, any other enters the handler with EPC at the
first instruction that has not issued. -/
def Quad.trap (q : Quad) (c : Fin 17) (cause : Nat) : Quad :=
  let k := q.core c
  if (q.hpnEntryOf c).isSome then q.hpnAbort 3
  else if k.act then (q.setCore c { k with evs := w32 (4 * cause) ||| (k.evs &&& 0x100) }).coreStop c 2 (w32 cause)
  else q.setCore c (k.enter (cclkPerTick q.fi) 0 cause (if k.rep > 1 then k.pc else k.nextPc))

/-- The results of an instruction put in flight. -/
def Core.putAll (k : Core) (l : List (Nat × Dst)) : Core := l.foldl (fun k d => k.put k.act d.1 d.2) k

/-- An instruction that neither stalls nor traps carried out: its results, its moves, and what it does besides. -/
def Quad.perform (q : Quad) (i : Issue) (p : Plan) (m : PMove) : Quad :=
  let s := (q.core i.c).cur
  let q := q.setCore i.c ((q.core i.c).putAll p.puts)
  p.act (q.doMoves i.c i.sat s m) i.c

/-- What position 1 meets as position 0 fetches (R80): an uncorrectable word stops it. -/
def Quad.followFetch (q : Quad) (c : Fin 17) (a : PAddr) : Option (Fin 17) × Quad :=
  if (q.core c).bootFetch then (none, q)
  else
    match q.followRead c fun c => pmAddr c a.toNat with
    | (some c1, .corr) => (none, q.followCorr c1 (pmAddr c1 a.toNat))
    | (some c1, .uncorr) => (some c1, q)
    | _ => (none, q)

/-- An instruction put to a core that may issue. -/
def Quad.attempt (q : Quad) (i : Issue) (p : Plan) : Quad :=
  let k := q.core i.c
  let g := if k.rep = 0 then q.followFetch i.c k.pc else (none, q)
  let f := if k.rep = 0 then g.2.fetch i.c k.pc else (.clean, q)
  if f.1 == .uncorr then f.2.coreStop i.c 1 0
  else if g.1.isSome then f.2.coreStop (g.1.getD i.c) 1 0
  else
    match p.moves with
    | none => f.2.trap i.c Cause.illegalOp
    | some m =>
      if k.stalls p m then q
      else
        match f.2.issueTraps i p m with
        | [] => f.2.perform i p m
        | t => f.2.trap i.c (lowest t)

/-- Whether a core issues by itself: position 1 of the bound pair follows position 0 (R94). -/
def Quad.follows (q : Quad) (c : Fin 17) : Bool := q.locked && (q.core c).pos == 1

/-- What lockstep adds as a core enters a handler: position 1 enters it with position 0 (R94). -/
def Quad.pairEnter (q : Quad) (c : Fin 17) : Quad :=
  if (q.core c).act then q.pairMap c fun k => (q.core c).beside (k.enter (cclkPerTick q.fi) 0 0 0) else q

/-! ### Lockstep at an issue (R94) -/

/-- What stage RT compares of an instruction: its bus requests and its stores, with their addresses and data. -/
def comparedItems (sat : Bool) (s : RegSet) (m : PMove) : List (Space × Bool × Nat × List Byte) :=
  m.accs.filterMap fun a =>
    let ea := (addrOf s a.p a.mode).ea
    let v := s.read a.reg
    match a.space, a.store with
    | .bus w, true => some (a.space, true, ea, storeBytes w v sat)
    | .bus _, false => some (a.space, false, ea, [])
    | _, true => some (a.space, true, ea, bytesLE v.toNat 5)
    | _, false => none

/-- The moves of an instruction that position 0 carries out now; none where it stalls, traps or stops. -/
def Quad.performs (q : Quad) (i : Issue) (p : Plan) : Option PMove :=
  let k := q.core i.c
  let clean := k.rep != 0 || ((q.fetch i.c k.pc).1 != .uncorr && (q.followFetch i.c k.pc).1.isNone)
  p.moves.filter fun m => clean && !k.stalls p m && (q.issueTraps i p m).isEmpty

/-- One access of position 1: its own X and Y memory; of the bus, the request of position 0 with what it delivers. -/
def Quad.followAcc (q : Quad) (c c1 : Fin 17) (sat : Bool) (s : RegSet) (a : MemAcc) : Quad :=
  let ea := (addrOf s a.p a.mode).ea
  let v := s.read a.reg
  match a.space, (q.core c).reqs.getLast? with
  | .bus w, some x =>
    q.setCore c1 (if a.store then { q.core c1 with reqs := (q.core c1).reqs ++ [x] }.fitFlags w v sat else (q.core c1).request a.reg x)
  | .bus _, none => q
  | sp, _ =>
    let y := sp == .y
    if a.store then q.xyPut c1 y ea v (q.hpnEntryOf c)
    else
      let r := q.xyLoad c1 y ea
      let k := r.2.core c1
      r.2.setCore c1 (k.put k.act 2 (.reg a.reg r.1))

/-- The traps that an instruction would raise in position 1 by its own registers. -/
def followTraps (s : RegSet) (p : Plan) (m : PMove) : List Nat :=
  p.traps ++ (m.accs.map fun a =>
    let r := addrOf s a.p a.mode
    r.traps ++ (match a.space with | .bus _ => [] | _ => causeIf (decide (r.ea ≥ 16384)) Cause.xyRange)).flatten

/-- Position 1 carries out the instruction that position 0 has carried out (R94), from its own registers and memories; `was` is the
quadrant before. Where it would go another way, the members are apart, and position 1 issues no more of this instance. -/
def Quad.followPerform (was q : Quad) (i : Issue) (c1 : Fin 17) (p1 : Plan) (m : PMove) : Quad :=
  let s := (was.core c1).cur
  let q := q.setCore c1 ((q.core c1).putAll p1.puts)
  let q := q.setCore c1 (m.accs.foldl (fun k a => k.stepPtr a) (q.core c1))
  let q := m.accs.foldl (fun q a => q.followAcc i.c c1 i.sat s a) q
  let q := match m.xfer with
    | some (d, r) => q.setCore c1 ((q.core c1).put (q.core c1).act 1 (.reg d (s.read r)))
    | none => q
  let k1 := (p1.act (was.setCore c1 (q.core c1)) c1).core c1
  let k := q.core i.c
  { q with hpn := { q.hpn with apart := q.hpn.apart || k1.pc != k.pc || k1.target != k.target } }.setCore c1 (k.beside k1)

/-- Which instance a core runs in set 0. -/
def Core.runId (k : Core) : Option (Inst × Option Nat) := k.run.map fun r => (r.inst, r.entry)

/-- Position 1 beside position 0 in an issue: `was` is the quadrant before the instruction was put to position 0, `q` after. It makes the
same instruction two cycles later; the comparison of that stage is made here (log 34). -/
def Quad.followIssue (was q : Quad) (i : Issue) (plan : Quad → Core → Plan) : Quad :=
  match was.coreAt 1 with
  | none => q
  | some c1 =>
    let k1 := was.core c1
    let k := q.core i.c
    let ended := k.runId != (was.core i.c).runId
    if (q.core c1).stopped || k.stopped then q
    else
      match was.performs i (plan was (was.core i.c)) with
      | none =>
        if ended then q
        else if (was.core i.c).act then q
        else q.pairEnter i.c
      | some m =>
        let p1 := plan was k1
        let items := comparedItems i.sat (was.core i.c).cur m
        let same := items == comparedItems i.sat k1.cur m && (followTraps k1.cur p1 m).isEmpty
        if was.hpn.apart then (if !items.isEmpty || ended then q.mismatch else q)
        else
          let q := if ended then q else was.followPerform q i c1 p1 m
          if same then q else q.mismatch

/-- One issue of an instruction: a cycle passes, and the core takes it unless it waits. -/
def Quad.issue (i : Issue) (plan : Quad → Core → Plan) (q : Quad) : Quad :=
  let q := q.strike i.upset
  if q.follows i.c then q
  else
    let q := (q.setCore i.c ((q.core i.c).cycle (cclkPerTick q.fi))).pairMap i.c fun k => k.cycle (cclkPerTick q.fi)
    let q :=
      if q.closed i.c then q
      else
        let q := q.setCore i.c { q.core i.c with parked := false }
        let r := q.attempt i (plan q (q.core i.c))
        if q.pairStore i.c then q.followIssue r i plan else r
    if i.mism && q.pairStore i.c then q.mismatch else q

end Sys2Proof.Machine
end

