-- ==== Sys2Proof/Machine/Arith.lean ====
section
/-! DEFINITION. The arithmetic instructions of a core (spec/05): multiply family, accumulator arithmetic, extract group, data ALU and
shifts, logic. Each gives a plan; the latencies are those of Table: arithmetic latency classes (R125). -/

namespace Sys2Proof.Machine

/-! ### Shared plans -/

/-- A data register of the active set. -/
def Core.dr (k : Core) (n : Fin 16) : W40 := k.cur.d[n]

/-- A data register as an integer. -/
def Core.di (k : Core) (n : Fin 16) : Int := (k.dr n).toInt

/-- An accumulator of the active set as an integer. -/
def Core.ai (k : Core) (n : Fin 4) : Int := (k.cur.a[n]).toInt

/-- Sticky flags put in flight (R117). -/
def stickyPut (b : W32) : List (Nat × Dst) := if b = 0 then [] else [(4, .sticky b)]

/-- V as the multiply family and accumulator arithmetic write it. -/
def vPut (v : Bool) : Nat × Dst := (3, .flags mV (nib false false v false))

/-- The plan of a multiply into accumulator `n` with exact result `e` (R126, R127). -/
def mulPlan (i : Issue) (n : Fin 4) (e : Int) (ds : List (Fin 16)) : Plan :=
  let f := fit 96 e i.sat
  { reads := ds.map Rg.d, writes := [.a n], moves := pmOf i.pm
    puts := [(3, .acc n f.val true), vPut f.v] ++ stickyPut (sticky96 n f) }

/-- The plan of accumulator arithmetic with exact result `e` (R130). -/
def accPlan (i : Issue) (n : Fin 4) (e : Int) : Plan :=
  let f := fit 96 e i.sat
  { writes := [.a n], moves := pmOf i.pm
    puts := [(3, .acc n f.val false), vPut f.v] ++ stickyPut (sticky96 n f) }

/-- The plan of an accumulator write without flags (`clr`, `amov`). -/
def accSetPlan (i : Issue) (n : Fin 4) (v : W96) (ds : List (Fin 16)) : Plan :=
  { reads := ds.map Rg.d, writes := [.a n], moves := pmOf i.pm, puts := [(3, .acc n v false)] }

/-- The plan of an extract into Dd: value, flags under Z, N, V, sticky flags (R125, R512). -/
def extPlan (i : Issue) (dd : Fin 16) (v : W40) (flags : BitVec 4) (sticky : W32) : Plan :=
  { writes := [.d dd], moves := pmOf i.pm
    puts := [(2, .reg (.d dd) v), (3, .flags mZNV flags)] ++ stickyPut sticky }

/-- The plan of a data-ALU operation (R125, R139). -/
def aluPlan (i : Issue) (dd : Option (Fin 16)) (reads : List Rg) (r : AluRes) : Plan :=
  { reads := reads
    writes := match dd with | some n => [.d n] | none => []
    moves := pmOf i.pm
    puts := (match dd, r.val with | some n, some v => [(1, .reg (.d n) v)] | _, _ => []) ++ [(1, .flags r.mask r.flags)] ++
      stickyPut r.sticky }

/-- The operand y (R139): a register, or the immediate sign-extended. -/
def Core.src (k : Core) : Src → W40
  | .reg d => k.dr d
  | .imm n => n.signExtend 40

/-- The registers that operand y reads. -/
def srcReads : Src → List Rg
  | .reg d => [.d d]
  | .imm _ => []

/-- The count of a shift (R142): none where an immediate is above 39. -/
def Core.count (k : Core) : Src → Option Nat
  | .reg d => some ((k.dr d).toNat % 128)
  | .imm n => if n.toNat ≤ 39 then some n.toNat else none

/-- The signed count of `ash` (R142). -/
def Core.scount (k : Core) : Src → Option Int
  | .reg d => some ((k.dr d).setWidth 7).toInt
  | .imm n => if n.toNat ≤ 39 then some n.toNat else none

/-- The plan of an instruction that is ILLEGAL_OP. -/
def illegalPlan (i : Issue) : Plan := { traps := [Cause.illegalOp], moves := pmOf i.pm }

/-! ### Multiply family (R126 to R129) -/

/-- MPY (R126). -/
def execMpy (i : Issue) (an : Fin 4) (dx dy : Fin 16) (s : State) : Out :=
  onQ i.q (Quad.issue i fun _ k =>
    mulPlan i an (MulOp.mpy.exact (k.accMul an).toInt (k.di dx * k.di dy)) [dx, dy]) s

/-- MAC (R126). -/
def execMac (i : Issue) (an : Fin 4) (dx dy : Fin 16) (s : State) : Out :=
  onQ i.q (Quad.issue i fun _ k =>
    mulPlan i an (MulOp.mac.exact (k.accMul an).toInt (k.di dx * k.di dy)) [dx, dy]) s

/-- MSU (R126). -/
def execMsu (i : Issue) (an : Fin 4) (dx dy : Fin 16) (s : State) : Out :=
  onQ i.q (Quad.issue i fun _ k =>
    mulPlan i an (MulOp.msu.exact (k.accMul an).toInt (k.di dx * k.di dy)) [dx, dy]) s

/-- MPY2 (R126, R127). -/
def execMpy2 (i : Issue) (an : Fin 4) (dx dy du dv : Fin 16) (s : State) : Out :=
  onQ i.q (Quad.issue i fun _ k => mulPlan i an (k.di dx * k.di dy + k.di du * k.di dv) [dx, dy, du, dv]) s

/-- MAC2 (R126, R127). -/
def execMac2 (i : Issue) (an : Fin 4) (dx dy du dv : Fin 16) (s : State) : Out :=
  onQ i.q (Quad.issue i fun _ k => mulPlan i an ((k.accMul an).toInt + k.di dx * k.di dy + k.di du * k.di dv) [dx, dy, du, dv]) s

/-- MSU2 (R126, R127). -/
def execMsu2 (i : Issue) (an : Fin 4) (dx dy du dv : Fin 16) (s : State) : Out :=
  onQ i.q (Quad.issue i fun _ k => mulPlan i an ((k.accMul an).toInt - k.di dx * k.di dy - k.di du * k.di dv) [dx, dy, du, dv]) s

/-- MAS2 (R126, R127). -/
def execMas2 (i : Issue) (an : Fin 4) (dx dy du dv : Fin 16) (s : State) : Out :=
  onQ i.q (Quad.issue i fun _ k => mulPlan i an ((k.accMul an).toInt + k.di dx * k.di dy - k.di du * k.di dv) [dx, dy, du, dv]) s

/-- Two plans of one instruction, V set if either sets it (R128): an accumulator named twice is DUP_DEST. -/
def dualPlan (i : Issue) (op1 op2 : MulOp) (an : Fin 4) (dx dy : Fin 16) (am : Fin 4) (du dv : Fin 16) (k : Core) : Plan :=
  let f := fit 96 (op1.exact (k.accMul an).toInt (k.di dx * k.di dy)) i.sat
  let g := fit 96 (op2.exact (k.accMul am).toInt (k.di du * k.di dv)) i.sat
  { reads := [.d dx, .d dy, .d du, .d dv], writes := [.a an, .a am], moves := pmOf i.pm
    puts := [(3, .acc an f.val true), (3, .acc am g.val true), vPut (f.v || g.v)] ++
      stickyPut (sticky96 an f ||| sticky96 am g) }

/-- DUAL_MULTIPLY (R126, R128). -/
def execDualMultiply (i : Issue) (op1 op2 : BitVec 2) (an : Fin 4) (dx dy : Fin 16) (am : Fin 4) (du dv : Fin 16) (s : State) : Out :=
  onQ i.q (Quad.issue i fun _ k =>
    match mulOpOf op1, mulOpOf op2 with
    | some a, some b => dualPlan i a b an dx dy am du dv k
    | _, _ => illegalPlan i) s

/-! ### Accumulator arithmetic (R130 to R133) -/

/-- CLR_ACC (R130). -/
def execClrAcc (i : Issue) (an : Fin 4) (s : State) : Out := onQ i.q (Quad.issue i fun _ _ => accSetPlan i an 0 []) s

/-- AMOV_D (R130, R70): Dx at bits [70:31], its sign extended. -/
def execAmovD (i : Issue) (an : Fin 4) (dx : Fin 16) (s : State) : Out :=
  onQ i.q (Quad.issue i fun _ k => accSetPlan i an ((k.dr dx).signExtend 96 <<< 31) [dx]) s

/-- AMOV_ACC (R130). -/
def execAmovAcc (i : Issue) (an am : Fin 4) (s : State) : Out :=
  onQ i.q (Quad.issue i fun _ k => accSetPlan i an (k.cur.a[am]) []) s

/-- AADD (R130). -/
def execAadd (i : Issue) (an am ak : Fin 4) (s : State) : Out := onQ i.q (Quad.issue i fun _ k => accPlan i an (k.ai am + k.ai ak)) s

/-- ASUB (R130). -/
def execAsub (i : Issue) (an am ak : Fin 4) (s : State) : Out := onQ i.q (Quad.issue i fun _ k => accPlan i an (k.ai am - k.ai ak)) s

/-- ANEG (R130). -/
def execAneg (i : Issue) (an am : Fin 4) (s : State) : Out := onQ i.q (Quad.issue i fun _ k => accPlan i an (-k.ai am)) s

/-- AABS (R130). -/
def execAabs (i : Issue) (an am : Fin 4) (s : State) : Out := onQ i.q (Quad.issue i fun _ k => accPlan i an (mag (k.ai am))) s

/-- An accumulator shifted (R131): left exactly, right with the bits shifted out discarded. -/
def ashExact (a : Int) (k : Int) : Int := if k ≥ 0 then a * 2 ^ k.toNat else a / 2 ^ (-k).toNat

/-- ASH_ACC (R131). -/
def execAshAcc (i : Issue) (an am : Fin 4) (n : BitVec 7) (s : State) : Out :=
  onQ i.q (Quad.issue i fun _ k => accPlan i an (ashExact (k.ai am) n.toInt)) s

/-- The plan of `ex2` (R132). -/
def ex2Plan (i : Issue) (an : Fin 4) (dx : Fin 16) (k : Core) : Plan :=
  let x := k.di dx
  let past := decide (x ≥ 33 * 2 ^ 31)
  let v : W96 :=
    if past then (if i.sat then BitVec.ofInt 96 (2 ^ 95 - 1) else 0)
    else if x < -62 * 2 ^ 31 then 0
    else BitVec.ofInt 96 (ex2Value (k.dr dx))
  { reads := [.d dx], writes := [.a an], moves := pmOf i.pm
    puts := [(3, .acc an v false), vPut past] ++
      stickyPut (if past then (if i.sat then stSA else stOV) ||| stAV ||| stAVA an else 0) }

/-- EX2 (R132). -/
def execEx2 (i : Issue) (an : Fin 4) (dx : Fin 16) (s : State) : Out := onQ i.q (Quad.issue i fun _ k => ex2Plan i an dx k) s

/-- TSTA (R133): a compare, its flags readable at +1 (R125). -/
def execTsta (i : Issue) (am : Fin 4) (s : State) : Out :=
  onQ i.q (Quad.issue i fun _ k =>
    { moves := pmOf i.pm, puts := [(1, .flags mZNV (nib (decide (k.ai am = 0)) (decide (k.ai am < 0)) false false))] }) s

/-! ### Extract group (R512, R134 to R138) -/

/-- The rounded extract of `ext` and `bqs` before its fit (R134). -/
def extExact (a : Int) (rnd : BitVec 2) (n : BitVec 6) : Int := roundShift a (31 - n.toInt).toNat rnd.toNat

/-- EXT (R134). -/
def execExt (i : Issue) (dd : Fin 16) (an : Fin 4) (rnd : BitVec 2) (n : BitVec 6) (s : State) : Out :=
  onQ i.q (Quad.issue i fun _ k =>
    if rnd.toNat = 3 then illegalPlan i
    else
      let r := extExact (k.ai an) rnd n
      let f := fit 40 r i.sat
      extPlan i dd f.val (nib (decide (r = 0)) (decide (r < 0)) f.v false) (sticky40 f)) s

/-- EXTL (R135). -/
def execExtl (i : Issue) (dd : Fin 16) (an : Fin 4) (s : State) : Out :=
  onQ i.q (Quad.issue i fun _ k =>
    let v : W40 := ((k.cur.a[an]).setWidth 31).setWidth 40
    extPlan i dd v (nib (decide (v = 0)) false false false) 0) s

/-- NRMA (R136). -/
def execNrma (i : Issue) (dd : Fin 16) (an : Fin 4) (s : State) : Out :=
  onQ i.q (Quad.issue i fun _ k =>
    let a : W96 := k.cur.a[an]
    extPlan i dd (BitVec.ofInt 40 (nrmaValue a)) (nib (decide (a = 0)) false false false) 0) s

/-- LG2 (R137). -/
def execLg2 (i : Issue) (dd : Fin 16) (an : Fin 4) (s : State) : Out :=
  onQ i.q (Quad.issue i fun _ k =>
    let a : W96 := k.cur.a[an]
    if a.toInt ≤ 0 then
      extPlan i dd (BitVec.ofInt 40 (-2 ^ 39)) (nib false true true false) (if i.sat then stSA else stOV)
    else
      let v : W40 := BitVec.ofInt 40 (lg2Value a)
      extPlan i dd v (nib (decide (v = 0)) v.msb false false) 0) s

/-- The register of a state group at an offset from Dq. -/
def groupReg (dq : Fin 16) (n : Nat) : Fin 16 := fin16 (dq.val + n)

/-- The plan of `bqs` (R138). -/
def bqsPlan (i : Issue) (dq : Fin 16) (an : Fin 4) (dx : Fin 16) (rnd : BitVec 2) (n : BitVec 6) (k : Core) : Plan :=
  if rnd.toNat = 3 ∨ dq.val % 4 ≠ 0 then illegalPlan i
  else
    let r := extExact (k.ai an) rnd n
    let f := fit 40 r i.sat
    { reads := [.d dq, .d (groupReg dq 2), .d dx]
      writes := [.d dq, .d (groupReg dq 1), .d (groupReg dq 2), .d (groupReg dq 3)]
      moves := pmOf i.pm
      puts := [(2, .reg (.d (groupReg dq 1)) (k.dr dq)), (2, .reg (.d dq) (k.dr dx)),
          (2, .reg (.d (groupReg dq 3)) (k.dr (groupReg dq 2))), (2, .reg (.d (groupReg dq 2)) f.val),
          (3, .flags mZNV (nib (decide (r = 0)) (decide (r < 0)) f.v false))] ++ stickyPut (sticky40 f) }

/-- BQS (R138). -/
def execBqs (i : Issue) (dq : Fin 16) (an : Fin 4) (dx : Fin 16) (rnd : BitVec 2) (n : BitVec 6) (s : State) : Out :=
  onQ i.q (Quad.issue i fun _ k => bqsPlan i dq an dx rnd n k) s

/-! ### Data ALU (R139 to R141) -/

/-- ADD (R139, R140). -/
def execAdd (i : Issue) (dd dx : Fin 16) (y : Src) (s : State) : Out :=
  onQ i.q (Quad.issue i fun _ k => aluPlan i (some dd) (.d dx :: srcReads y) (aluAdd (k.dr dx) (k.src y) false i.sat)) s

/-- SUB (R139, R140). -/
def execSub (i : Issue) (dd dx : Fin 16) (y : Src) (s : State) : Out :=
  onQ i.q (Quad.issue i fun _ k => aluPlan i (some dd) (.d dx :: srcReads y) (aluSub (k.dr dx) (k.src y) false i.sat)) s

/-- ADC (R139, R140). -/
def execAdc (i : Issue) (dd dx : Fin 16) (y : Src) (s : State) : Out :=
  onQ i.q (Quad.issue i fun _ k => aluPlan i (some dd) (.d dx :: srcReads y) (aluAdd (k.dr dx) (k.src y) (stC k.cur.st) i.sat)) s

/-- SBC (R139, R140). -/
def execSbc (i : Issue) (dd dx : Fin 16) (y : Src) (s : State) : Out :=
  onQ i.q (Quad.issue i fun _ k => aluPlan i (some dd) (.d dx :: srcReads y) (aluSub (k.dr dx) (k.src y) (stC k.cur.st) i.sat)) s

/-- NEG (R139). -/
def execNeg (i : Issue) (dd dx : Fin 16) (s : State) : Out :=
  onQ i.q (Quad.issue i fun _ k => aluPlan i (some dd) [.d dx] (aluFit (-k.di dx) i.sat none)) s

/-- ABS (R139). -/
def execAbs (i : Issue) (dd dx : Fin 16) (s : State) : Out :=
  onQ i.q (Quad.issue i fun _ k => aluPlan i (some dd) [.d dx] (aluFit (mag (k.di dx)) i.sat none)) s

/-- MIN (R139). -/
def execMin (i : Issue) (dd dx : Fin 16) (y : Src) (s : State) : Out :=
  onQ i.q (Quad.issue i fun _ k => aluPlan i (some dd) (.d dx :: srcReads y) (aluPlain (min (k.di dx) (k.src y).toInt))) s

/-- MAX (R139). -/
def execMax (i : Issue) (dd dx : Fin 16) (y : Src) (s : State) : Out :=
  onQ i.q (Quad.issue i fun _ k => aluPlan i (some dd) (.d dx :: srcReads y) (aluPlain (max (k.di dx) (k.src y).toInt))) s

/-- CLIP (R139). -/
def execClip (i : Issue) (dd dx : Fin 16) (y : Src) (s : State) : Out :=
  onQ i.q (Quad.issue i fun _ k => aluPlan i (some dd) (.d dx :: srcReads y) (aluClip (k.dr dx) (k.src y))) s

/-- CLR_D (R139): no flags. -/
def execClrD (i : Issue) (dd : Fin 16) (s : State) : Out :=
  onQ i.q (Quad.issue i fun _ _ => { writes := [.d dd], moves := pmOf i.pm, puts := [(1, .reg (.d dd) 0)] }) s

/-- CMP (R139). -/
def execCmp (i : Issue) (dx : Fin 16) (y : Src) (s : State) : Out :=
  onQ i.q (Quad.issue i fun _ k => aluPlan i none (.d dx :: srcReads y) (aluCmp (k.dr dx) (k.src y))) s

/-- TST (R139). -/
def execTst (i : Issue) (dx : Fin 16) (s : State) : Out :=
  onQ i.q (Quad.issue i fun _ k => aluPlan i none [.d dx] (aluTst (k.dr dx))) s

/-- SEL (R139, R124): flags as they stand at its issue; none written. -/
def execSel (i : Issue) (dd dx dy : Fin 16) (cc : BitVec 4) (s : State) : Out :=
  onQ i.q (Quad.issue i fun _ k =>
    if condOk cc then
      { reads := [.d dx, .d dy], writes := [.d dd], moves := pmOf i.pm
        puts := [(1, .reg (.d dd) (if cond cc k.cur.st then k.dr dx else k.dr dy))] }
    else illegalPlan i) s

/-- NRM (R141): Z; N and V cleared. -/
def execNrm (i : Issue) (dd dx : Fin 16) (s : State) : Out :=
  onQ i.q (Quad.issue i fun _ k =>
    aluPlan i (some dd) [.d dx]
      ⟨some (BitVec.ofInt 40 (nrmValue (k.dr dx))), mZNV, nib (decide (k.dr dx = 0)) false false false, 0⟩) s

/-! ### Shifts (R142) -/

/-- ASL (R142). -/
def execAsl (i : Issue) (dd dx : Fin 16) (y : Src) (s : State) : Out :=
  onQ i.q (Quad.issue i fun _ k =>
    match k.count y with
    | some n => aluPlan i (some dd) (.d dx :: srcReads y) (aluAsl (k.dr dx) n i.sat)
    | none => illegalPlan i) s

/-- ASR (R142). -/
def execAsr (i : Issue) (dd dx : Fin 16) (y : Src) (s : State) : Out :=
  onQ i.q (Quad.issue i fun _ k =>
    match k.count y with
    | some n => aluPlan i (some dd) (.d dx :: srcReads y) (aluAsr (k.dr dx) n)
    | none => illegalPlan i) s

/-- LSL (R142). -/
def execLsl (i : Issue) (dd dx : Fin 16) (y : Src) (s : State) : Out :=
  onQ i.q (Quad.issue i fun _ k =>
    match k.count y with
    | some n => aluPlan i (some dd) (.d dx :: srcReads y) (aluLsl (k.dr dx) n)
    | none => illegalPlan i) s

/-- LSR (R142). -/
def execLsr (i : Issue) (dd dx : Fin 16) (y : Src) (s : State) : Out :=
  onQ i.q (Quad.issue i fun _ k =>
    match k.count y with
    | some n => aluPlan i (some dd) (.d dx :: srcReads y) (aluLsr (k.dr dx) n)
    | none => illegalPlan i) s

/-- ASH_D (R142). -/
def execAshD (i : Issue) (dd dx : Fin 16) (y : Src) (s : State) : Out :=
  onQ i.q (Quad.issue i fun _ k =>
    match k.scount y with
    | some n => aluPlan i (some dd) (.d dx :: srcReads y) (aluAsh (k.dr dx) n i.sat)
    | none => illegalPlan i) s

/-! ### Logic (R143) -/

/-- AND (R143). -/
def execAnd (i : Issue) (dd dx dy : Fin 16) (s : State) : Out :=
  onQ i.q (Quad.issue i fun _ k => aluPlan i (some dd) [.d dx, .d dy] (aluLogic (k.dr dx &&& k.dr dy) false)) s

/-- OR (R143). -/
def execOr (i : Issue) (dd dx dy : Fin 16) (s : State) : Out :=
  onQ i.q (Quad.issue i fun _ k => aluPlan i (some dd) [.d dx, .d dy] (aluLogic (k.dr dx ||| k.dr dy) false)) s

/-- XOR (R143). -/
def execXor (i : Issue) (dd dx dy : Fin 16) (s : State) : Out :=
  onQ i.q (Quad.issue i fun _ k => aluPlan i (some dd) [.d dx, .d dy] (aluLogic (k.dr dx ^^^ k.dr dy) false)) s

/-- ANDN (R143). -/
def execAndn (i : Issue) (dd dx dy : Fin 16) (s : State) : Out :=
  onQ i.q (Quad.issue i fun _ k => aluPlan i (some dd) [.d dx, .d dy] (aluLogic (k.dr dx &&& ~~~(k.dr dy)) false)) s

/-- NOT (R143). -/
def execNot (i : Issue) (dd dx : Fin 16) (s : State) : Out :=
  onQ i.q (Quad.issue i fun _ k => aluPlan i (some dd) [.d dx] (aluLogic (~~~(k.dr dx)) false)) s

end Sys2Proof.Machine
end

