-- ==== Sys2Proof/Machine/CtlOps.lean ====
section
/-! DEFINITION. What the commands that are register writes share, and the small operations of single commands: rows of
spec/opcode_table.json that start an operation by a write, that fall due at a tick, or that the memory makes by itself. -/

namespace Sys2Proof.Machine

/-! ### Register writes as commands (R11, R13, R63, R52, R476) -/

/-- Who may write registers: the privileged positions and the host (R63). -/
def mayWrite (w : Writer) : Bool := decide (w.val < 4) || w == Writer.host

/-- Whether an offset is that of a slot's owner. -/
def ownOff (off : Nat) : Bool := decide (Reg.XCH_OWN 0 ≤ off ∧ off < Reg.XCH_OWN 4096)

/-- Whether a write of a register by a writer is put to the register: in SCOUR none (R52) and in HALT only the host's of QCTL_CTL (R476);
but XCH_OWNs refuses those by itself (R206). -/
def Quad.regOpen (q : Quad) (w : Writer) (off : Nat) : Bool :=
  mayWrite w && (ownOff off || q.mode != .scour && (q.mode != .halt || (w == Writer.host && off == Reg.QCTL_CTL)))

/-- A whole word written to a register by a writer. -/
def Quad.regPut (q : Quad) (w : Writer) (off : Nat) (v : W32) : Quad :=
  if q.regOpen w off then (q.regWrite w off 0xFFFFFFFF v).1 else q

/-- A field of a register written by position 0, its other bits as they are; bits that act or clear on a 1 are written 0. -/
def Quad.fieldPut (q : Quad) (f : Field) (n : Nat) : Quad :=
  match rowOf quadRows f.off with
  | some r => q.regPut 0 f.off (f.put (q.rd f.off &&& r.rw) n)
  | none => q

/-- A write whose row has its own operation, made by a privileged position or the host. -/
def Quad.whenOpen (q : Quad) (w : Writer) (off : Nat) (f : Quad → Quad) : Quad := if q.regOpen w off then f q else q

/-- The bus master that a writer is: the core that holds its position, or the host bridge. -/
def Quad.masterOf (q : Quad) (w : Writer) : Master :=
  if w == Writer.host then .host else match q.coreAt w.val with | some c => .core c | none => .host

/-- REGISTER_WRITE (R11, R13): the enabled bytes of a register, or of a word of the coefficient sets (R390). -/
def Quad.registerWrite (q : Quad) (w : Writer) (off : Nat) (be : BitVec 4) (v : W32) : Quad :=
  if !q.regOpen w off then q
  else if 0x10000 ≤ off ∧ off < 0x14000 then
    (q.regionWrite Quad.regWrite (q.masterOf w) w (enabled (0xF0000000 + off / 4 * 4) be v)).1
  else (q.regWrite w off (beMask be) v).1

/-! ### Scheduler (R188) -/

/-- HELD_MAKE_READY_ACCEPT (R188): the first held make-ready that would now be answered, in the order of R188. -/
def Quad.heldNext (q : Quad) : Quad :=
  match q.heldAccept with
  | some q' => q'
  | none =>
    match q.dmaHeld with
    | some q' => q'
    | none => if q.sch.mboxHeld && (match q.sch.mbox.head? with | some t => q.answerable t | none => false) then q.mailboxOffer else q

/-! ### Fabric (R218, R222) -/

/-- FABRIC_VOTE (R218): after the main pass. -/
def Quad.fabricVote (q : Quad) : Quad :=
  if q.fab.passed && !q.fab.retry.isEmpty then q.votes q.fab.mainEnd q.fab.retry else q

/-- ROUTE_TABLE_WRITE (R222): consecutive bytes from an offset of the table, by any position or the host (R413); while writes are
buffered, a core's store that spans two entries is a bus error (R152). -/
def Quad.tableBytes (q : Quad) (w : Writer) (offset : Nat) (data : List Byte) : Quad :=
  let data := data.take (0x80000 - offset)
  if q.mode == .scour || q.mode == .halt then q
  else if w != Writer.host && q.buffered && !data.isEmpty && offset / 16 != (offset + data.length - 1) / 16 then
    match q.coreAt w.val with
    | some c => q.trap c Cause.busErr
    | none => q
  else
    (q.routeWrite (if w == Writer.host then .host else match q.coreAt w.val with | some c => .core c | none => .host)
      (0x21000000 + offset) data).1

/-- METER_PERIOD_END (R227): the meter page is rewritten with a new generation when a period ended. -/
def Quad.meterPeriodEnd (q : Quad) : Quad :=
  let q' := q.meterEnd
  if q.fab.accTicks ≠ 0 ∧ q'.fab.accTicks = 0 then q'.mapHp fun h => { h with mgen := h.mgen + 1 } else q'

/-! ### Kiln (R237, R242, R248) -/

/-- Whether Kiln acts: not in SCOUR, and frozen in HALT (R250). -/
def Quad.kilnActs (q : Quad) : Bool := q.mode != .scour && q.mode != .halt

/-- The prepared commit of an identifier. -/
def Quad.preparedOf (q : Quad) (id : BitVec 16) : Option Prepared := q.kln.prepared.find? fun p => p.id == id

/-- COMMIT_MISSED (R237): abandoned with reason MISSED once tick T - 2 has ended without COMMIT or GO. -/
def Quad.commitMissed (q : Quad) (id : BitVec 16) : Quad :=
  match q.preparedOf id with
  | some p => if q.kilnActs && !p.committed && decide (p.t.toNat ≤ q.tick.toNat + 1) then q.abandon p St.commitAborted 9 else q
  | none => q

/-- COMMIT_STAGE (R237): in tick T - 1; no reader sees anything of it. -/
def Quad.commitStage (q : Quad) (id : BitVec 16) : Quad :=
  match q.preparedOf id with
  | some p =>
    if q.kilnActs && p.committed && p.t.toNat == q.tick.toNat + 1 then
      q.mapKln fun k => { k with prepared := k.prepared.map fun x => if x.id == id then { x with staged := true } else x }
    else q
  | none => q

/-- COMMIT_TAKE_EFFECT (R242): at boundary T. -/
def Quad.commitEffect (q : Quad) (id : BitVec 16) : Quad :=
  match q.preparedOf id with
  | some p => if q.kilnActs && p.committed && p.t == q.tick then q.takeEffect p else q
  | none => q

/-- CROSSFADE_END (R242, R250): at the boundary that ends the crossfade of a generator. -/
def Quad.crossfadeEnd (q : Quad) (g : Fin 16) : Quad :=
  match q.kln.fades.find? fun f => f.gen == g with
  | some f => if q.kilnActs && decide (f.i ≥ f.len) then q.endFade f else q
  | none => q

/-- GENERATOR_WAIT_RETRY (R248): the groups that are due, once at each boundary. -/
def Quad.generatorRetry (q : Quad) : Quad :=
  if q.kilnActs && !q.kln.served then q.serveGroups.kilnWords else q

/-- The changes of Kiln that are due at the boundary that began this tick (R211): fades that end, commits with T here, groups. -/
def Quad.kilnDue (q : Quad) : Quad :=
  if !q.kilnActs then q
  else
    let q := (q.kln.fades.filter fun f => decide (f.i ≥ f.len)).foldl (fun q f => q.endFade f) q
    let q := (q.kln.prepared.filter fun p => p.committed && p.t == q.tick).foldl (fun q p => q.takeEffect p) q
    q.generatorRetry

/-- FABRIC_PASS (R211): once in a tick, in RUN, over the table as the Kiln changes due at the boundary left it. -/
def Quad.fabricPass (q : Quad) (upsets : List RunUpset) : Quad :=
  if q.mode == .run && q.running && !q.fab.passed then q.kilnDue.pass upsets else q

/-! ### Bus aging (R411) -/

/-- The QoS of a master's waiting beats; none where no beat of it waits. Beats of the scheduler, Kiln, the network and the audio blocks wait
within the commands that put them, and the next of them is the one that QOS_AGE_PROMOTE names. -/
def Quad.waitingQos (q : Quad) (m : Nat) : Option Nat :=
  if m ≤ 16 then
    match q.coreAt m with
    | some c => if (q.core c).reqs.isEmpty then none else some (if q.locked && m == 0 then 15 else q.fld (Reg.BUS_QOS_QOS m))
    | none => none
  else if m = 19 then ((q.dma.items.filter fun i => i.issued).map DmaItem.qos).min?
  else if m = 20 then (if q.hp.load.isSome || q.hp.read.isSome then some (q.fld (Reg.BUS_QOS_QOS 20)) else none)
  else some (q.sysQos m)

/-- QOS_AGE_PROMOTE (R411, R414): a beat of a QoS below 14 that has waited LIM cycles, which are counted, takes QoS 14 until it is
granted; LIM 0 disables aging. -/
def Quad.agePromote (q : Quad) (m : Nat) : Quad :=
  match q.waitingQos m with
  | some n =>
    if q.fld Reg.BUS_AGE_LIM ≠ 0 ∧ n < 14 ∧ !q.aged.contains m then
      { q with aged := insertOnce m q.aged }.count (Reg.BUS_CONF_COUNT m) (q.fld Reg.BUS_AGE_LIM)
    else q
  | none => q

/-! ### Patrol and refresh (R421) -/

/-- Whether the patrol reads a word: scratch and usable DRAM. -/
def Quad.patrolled (q : Quad) (a : Nat) : Bool := inScratch a 1 || q.inDram a 1

/-- PATROL_SCRUB (R421, R416): one whole period; `found` are the upsets of the period. -/
def Quad.patrol (q : Quad) (found : List Upset) : Quad :=
  if q.fld Reg.BUS_SCRUB_HOURS = 0 ∨ q.rst == .held ∨ q.rst == .released then q
  else
    let q := (found.filter fun u => u.inside.isSome || q.patrolled u.addr).foldl (fun q u => q.strikeOne u) q
    let met := q.ecc.filter fun e => q.patrolled e.1
    let q := q.noteEcc met
    let fixed := (met.filter fun e => e.2 == .corr).map fun e => e.1
    ({ q with ecc := q.ecc.filter fun e => !(fixed.contains e.1)
              eccBack := q.eccBack.filter fun a => !(fixed.contains a) }).setFld Reg.BUS_SCRUB_PASSES
      (satTo Reg.BUS_SCRUB_PASSES.max (q.fld Reg.BUS_SCRUB_PASSES + 1))

/-- DRAM_REFRESH (R421): MR4 read. -/
def Quad.dramRefresh (q : Quad) (refr : BitVec 3) (hot : Bool) : Quad :=
  if q.rst == .held || q.rst == .released || !q.flag Reg.BUS_DDRSTAT_PRESENT then q
  else
    let q := q.setFld Reg.BUS_DDRSTAT_REFR refr.toNat
    if hot then q.raise Reg.BUS_DDRSTAT_HOT else q

/-! ### Resets and reads -/

/-- QUADRANT_RESET_PIN (R49): Q_RST_N low for 100 ns or longer. In a reset that POR_N or the pin already holds, the level alone is
new: the cause stays the first of the table. -/
def Quad.resetPin (q : Quad) (ns : Nat) : Quad :=
  if ns < 100 then q
  else if q.rst = .held then { q with pinLow := true }
  else { q.doReset 2 true with pinLow := true }

/-- SOFT_RESET (R49): QCTL_CTL.SRST written 1. -/
def Quad.softReset (q : Quad) : Quad := if q.mode == .scour then q else q.doReset 4 false

/-! ### A CCLK cycle with no command (log 4) -/

/-- Whether TCLK ticks in a CCLK cycle (R24). -/
def Quad.tclkDue (q : Quad) : Bool := decide (q.phase + tclkGain ≥ q.tclkPeriod)

/-- One CCLK cycle of a quadrant (R24): results land, CYC and the cycle counts go on, the time counter steps at TCLK, a copy of a core's
memories may end (R477). Before SCOUR the PLLs have not locked, and nothing changes (R53). -/
def Quad.cclkCycle (q : Quad) : Quad :=
  if q.rst == .held || q.rst == .released then q
  else
    let q' := q.mapCores fun _ k => k.cycle (cclkPerTick q.fi)
    { q' with cclk := q.cclk + 1, phase := if q.tclkDue then q.phase + tclkGain - q.tclkPeriod else q.phase + tclkGain, tim := if q.tclkDue then q.tim.tclk else q.tim }.makeCopy

/-- One CCLK cycle of all quadrants. -/
def Device.cclkCycle (d : Device) : Device :=
  { d with q0 := d.q0.cclkCycle, q1 := d.q1.cclkCycle, q2 := d.q2.cclkCycle, q3 := d.q3.cclkCycle }

end Sys2Proof.Machine
end

