-- ==== Sys2Proof/Machine/ClockCmds.lean ====
section
/-! DEFINITION. Reference candidates, sample clock and time counter (spec/11, spec/12): the meanings of these commands, one definition for each, over the operations of the block. -/

namespace Sys2Proof.Machine

/-- REFERENCE_EDGE (R281): an edge of a candidate. -/
def execReferenceEdge (i : QId) (n : Fin 10) (dev : Int) (edge : EdgeAt) (s : State) : Out :=
  onQ i (fun q => q.refEdge n dev edge.at_.toInt edge.fall) s

/-- REFERENCE_EDGE_MISSING (R281): an expected edge that did not come. -/
def execReferenceEdgeMissing (i : QId) (n : Fin 10) (s : State) : Out := onQ i (fun q => q.refMissing n) s

/-- FREQ_GATE_END (R282): the measured offset of a gate. -/
def execFreqGateEnd (i : QId) (n : Fin 10) (ppm : W32) (s : State) : Out := onQ i (fun q => q.gateEnd n ppm) s

/-- WAIT_TO_RESTORE_EXPIRY (R285): a better candidate restored. -/
def execWaitToRestoreExpiry (i : QId) (n : Fin 10) (s : State) : Out := onQ i (fun q => q.wtrExpiry n) s

/-- CLK_SEL_WRITE (R286): a switch at once. -/
def execClkSelWrite (i : QId) (v : W32) (s : State) : Out := onQ i (fun q => q.regPut 0 Reg.CLK_SEL v) s

/-- REFCFG_RANK_WRITE (R283): the rank of a candidate. -/
def execRefcfgRankWrite (i : QId) (n : Fin 10) (rank : BitVec 4) (s : State) : Out :=
  onQ i (fun q => q.fieldPut (Reg.CLK_REFCFG_RANK n.val) rank.toNat) s

/-- CMD_REFSEL (R449): the REFSEL command. -/
def execCmdRefsel (i : QId) (seq : W32) (ranks sel mode : Bool) (force : BitVec 4) (rank07 : W32) (rank89 : BitVec 8) (s : State) : Out :=
  onQ i (fun q => Cmd.refsel q seq ranks sel mode force.toNat rank07 rank89) s

/-- TIM_INCR_FR_WRITE (R302): the fraction of INCR held. -/
def execTimIncrFrWrite (i : QId) (v : W32) (s : State) : Out := onQ i (fun q => q.regPut 0 Reg.TIM_INCR_FR v) s

/-- TIM_INCR_NS_WRITE (R302): the INCR pair applied. -/
def execTimIncrNsWrite (i : QId) (v : BitVec 4) (s : State) : Out :=
  onQ i (fun q => q.regPut 0 Reg.TIM_INCR_NS (v.setWidth 32)) s

/-- TIM_NOW_READ (R303): the count latched for a reader. -/
def execTimNowRead (i : QId) (w : Writer) (s : State) : Out := onQ i (fun q => (q.regRead w Reg.TIM_NOW_LO).2) s

/-- SLEW_START (R306): a slew started. -/
def execSlewStart (i : QId) (cyc : W32) (s : State) : Out := onQ i (fun q => q.regPut 0 Reg.TIM_SLEWN cyc) s

/-- SLEW_END (R306): the slew run out. -/
def execSlewEnd (i : QId) (s : State) : Out := onQ i (fun q => q.slewEnd) s

/-- TIME_STEP_ADD (R307): a signed step added. -/
def execTimeStepAdd (i : QId) (w : Writer) (permit : Bool) (s : State) : Out :=
  onQ i (fun q => q.whenOpen w Reg.TIM_ADJ_CTL fun q => q.timeStep w false permit) s

/-- TIME_STEP_SET (R308): the count set. -/
def execTimeStepSet (i : QId) (w : Writer) (permit : Bool) (s : State) : Out :=
  onQ i (fun q => q.whenOpen w Reg.TIM_ADJ_CTL fun q => q.timeStep w true permit) s

/-- SUSPECT_CLEAR (R309): SUSPECT cleared. -/
def execSuspectClear (i : QId) (s : State) : Out := onQ i (fun q => q.regPut 0 Reg.TIM_STAT (Reg.TIM_STAT_SUSPECT.put 0 1)) s

end Sys2Proof.Machine
end

