-- ==== Sys2Proof/Machine/Ecdsa.lean ====
section
/-! DEFINITION. ECDSA on the curve P-256, which image signatures use (R464), as FIPS 186 defines it. PRESUMED (log 10): the spec names the
standard and does not print its constants. -/

namespace Sys2Proof.Machine

/-- The prime of the field. -/
def p256P : Nat := 0xFFFFFFFF00000001000000000000000000000000FFFFFFFFFFFFFFFFFFFFFFFF
/-- The order of the base point. -/
def p256N : Nat := 0xFFFFFFFF00000000FFFFFFFFFFFFFFFFBCE6FAADA7179E84F3B9CAC2FC632551
/-- The constant of the curve y² = x³ - 3x + b. -/
def p256B : Nat := 0x5AC635D8AA3A93E7B3EBBD55769886BC651D06B0CC53B0F63BCE3C3E27D2604B
/-- The base point. -/
def p256G : Nat × Nat :=
  (0x6B17D1F2E12C4247F8BCE6E563A440F277037D812DEB33A0F4A13945D898C296, 0x4FE342E2FE1A7F9B8EE7EB4A7C0F9E162BCE33576B315ECECBB6406837BF51F5)

/-- A power modulo `m`, by the lowest `n` bits of the exponent. -/
def powMod (m b e : Nat) : Nat → Nat
  | 0 => 1 % m
  | n + 1 => let r := powMod m (b * b % m) (e / 2) n; if e % 2 = 1 then b * r % m else r

/-- The inverse modulo a prime of 256 bits. -/
def invMod (m a : Nat) : Nat := powMod m (a % m) (m - 2) 256

/-- A difference in the field. -/
def p256Sub (a b : Nat) : Nat := (a + p256P - b % p256P) % p256P

/-- Whether a point lies on the curve. -/
def p256On (q : Nat × Nat) : Bool :=
  decide (q.1 < p256P ∧ q.2 < p256P ∧ q.2 * q.2 % p256P = p256Sub (q.1 * q.1 % p256P * q.1 + p256B) (3 * q.1))

/-- The sum of two points; none is the point at infinity. -/
def p256Add : Option (Nat × Nat) → Option (Nat × Nat) → Option (Nat × Nat)
  | none, b => b
  | a, none => a
  | some (x1, y1), some (x2, y2) =>
    if x1 = x2 ∧ (y1 + y2) % p256P = 0 then none
    else
      let slope := if x1 = x2 then (3 * x1 * x1 + p256P - 3) * invMod p256P (2 * y1) % p256P
        else p256Sub y2 y1 * invMod p256P (p256Sub x2 x1) % p256P
      let x := p256Sub (slope * slope) (x1 + x2)
      some (x, p256Sub (slope * p256Sub x1 x) y1)

/-- A multiple of a point, by the lowest `n` bits of the factor. -/
def p256Mul (q : Option (Nat × Nat)) (k : Nat) : Nat → Option (Nat × Nat)
  | 0 => none
  | n + 1 => let r := p256Mul (p256Add q q) (k / 2) n; if k % 2 = 1 then p256Add q r else r

/-- Whether (r, s) is the signature of a digest under a public key. -/
def ecdsaP256 (key : Nat × Nat) (digest : List W32) (sig : Nat × Nat) : Bool :=
  let e := digest.foldl (fun v w => v * 2 ^ 32 + w.toNat) 0
  let w := invMod p256N sig.2
  p256On key && decide (0 < sig.1 ∧ sig.1 < p256N ∧ 0 < sig.2 ∧ sig.2 < p256N) &&
    match p256Add (p256Mul (some p256G) (e * w % p256N) 256) (p256Mul (some key) (sig.1 * w % p256N) 256) with
    | some q => q.1 % p256N == sig.1
    | none => false

end Sys2Proof.Machine
end

