-- ==== Sys2Proof/Machine/MgtOps.lean ====
section
/-! DEFINITION. Mladcel (spec/18): the log, records under the two-copy rule, sensors and alarms, images and updates, lifecycle, the
start of Mladcel, deliveries (spec/02 R58 to R60), and the resets that reach the host domain. -/

namespace Sys2Proof.Machine

/-! ### The device -/

/-- The quadrants' identifiers. -/
def qids : List QId := [.q0, .q1, .q2, .q3]

/-- The device with one quadrant changed. -/
def Device.mapQuad (d : Device) (i : QId) (f : Quad → Quad) : Device := d.setQuad i (f (d.quad i))

/-- The device with every quadrant changed. -/
def Device.mapQuads (d : Device) (f : Quad → Quad) : Device := qids.foldl (fun d i => d.mapQuad i f) d

/-- The device with its host domain changed. -/
def Device.mapHost (d : Device) (f : HostDom → HostDom) : Device := { d with host := f d.host }

/-- The time that a record of the host domain carries (R459). -/
def Device.hostTime (d : Device) : W64 :=
  match (qids.map d.quad).find? fun q => q.rst != .held with
  | some q => q.tim.ns
  | none => 0

/-! ### The two-copy rule (R465) -/

/-- The valid copy with the higher SEQ. -/
def newest {α : Type} (seq : α → Nat) (l : List (Option α)) : Option α :=
  l.foldl (fun b x =>
    match b, x with
    | some a, some c => if seq a < seq c then some c else some a
    | some a, none => some a
    | none, x => x) none

/-- A copy written: over an invalid copy, else over the one with the lower SEQ. -/
def writeCopy {α : Type} (seq : α → Nat) (l : List (Option α)) (x : α) : List (Option α) :=
  match l with
  | [none, b] => [some x, b]
  | [a, none] => [a, some x]
  | [some a, some b] => if seq a < seq b then [some x, some b] else [some a, some x]
  | l => l

/-- The copy that a write would go to made invalid: its erase or its program was cut short (R466). -/
def cutCopy {α : Type} (seq : α → Nat) (l : List (Option α)) : List (Option α) :=
  match l with
  | [some a, some b] => if seq a < seq b then [none, some b] else [some a, none]
  | l => l

/-- The boot record in force; with no valid copy slot A for every target and AUTO 0. -/
def HostDom.boot (h : HostDom) : BootRec := (newest BootRec.seq h.boots).getD ⟨0, 0, 0⟩

/-- The persistent record in force; without one ISZ is 1 MB, no record of the board stands in it, and the wipe marker is OPEN. -/
def HostDom.persRec (h : HostDom) : PersRec := (newest PersRec.seq h.pers).getD ⟨0, 1, none, [], [], .open_⟩

/-- The wipe marker (R470). -/
def HostDom.marker (h : HostDom) : Life := h.persRec.marker

/-- A new persistent record. -/
def HostDom.setPers (h : HostDom) (f : PersRec → PersRec) : HostDom :=
  let p := f h.persRec
  { h with pers := writeCopy PersRec.seq h.pers { p with seq := h.persRec.seq + 1 } }

/-- The retired cores of a quadrant (R55). -/
def HostDom.retired (h : HostDom) (i : QId) : BitVec 17 := h.persRec.retired.getD i.num 0

/-- The retirement of some cores recorded (R480). -/
def HostDom.recordRetired (h : HostDom) (i : QId) (cores : BitVec 17) : HostDom :=
  let all := h.retired i ||| cores
  if all = h.retired i then h
  else h.setPers fun p =>
    { p with retired := (List.range 4).map fun k => if k = i.num then all else p.retired.getD k 0 }

/-! ### Registers (R471) -/

/-- A cause of MGT_IRQST. -/
def HostDom.irq (h : HostDom) (bit : Nat) : HostDom := h.wr Reg.MGT_IRQST (h.rd Reg.MGT_IRQST ||| w32 (2 ^ bit))
/-- TEMP. -/
def irqTemp : Nat := 0
/-- RAIL. -/
def irqRail : Nat := 1
/-- CLK. -/
def irqClk : Nat := 2
/-- LOG. -/
def irqLog : Nat := 3
/-- CMD. -/
def irqCmd : Nat := 4
/-- SAG. -/
def irqSag : Nat := 5

/-- The code of a lifecycle state. -/
def Life.code : Life → Nat
  | .blank => 0 | .open_ => 1 | .sealed_ => 2 | .returned => 3 | .void_ => 4

/-- The lifecycle state of a code. -/
def lifeOf : Nat → Option Life
  | 0 => some .blank | 1 => some .open_ | 2 => some .sealed_ | 3 => some .returned | 4 => some .void_
  | _ => none

/-- Key of an image slot. -/
def imageKey (target : Nat) (slot : Bool) : Nat := 2 * target + b2n slot

/-- An image slot; an empty one holds nothing. -/
def HostDom.image (h : HostDom) (target : Nat) (slot : Bool) : Image :=
  (h.images.find (imageKey target slot)).getD ⟨[], 0, false⟩

/-- The records of the log in flash: those whose CRC checks (R460). -/
def HostDom.records (h : HostDom) : List LogRec := h.log.filterMap id

/-- SEQ of the last record written (R471). -/
def HostDom.lastLog (h : HostDom) : W32 :=
  match (if h.logDeg then h.ramLog else h.records).getLast? with
  | some r => r.seq
  | none => match h.records.getLast? with | some r => r.seq | none => 0

/-- The value a host-domain register reads (R453, R471); those of a quadrant's window stand in `Device.hstValue`. -/
def HostDom.value (h : HostDom) (off : Nat) : W32 :=
  if off = Reg.MGT_ID then
    fieldsWord [(Reg.MGT_ID_FWVER, if h.mladcel then (Config.imageView (h.image 0 h.slot).bytes).version.toNat else 0),
      (Reg.MGT_ID_SLOT, b2n h.slot), (Reg.MGT_ID_FALLBACK, b2n h.fallback)]
  else if off = Reg.MGT_STAT then
    fieldsWord [(Reg.MGT_STAT_BUSY, b2n h.run.isSome), (Reg.MGT_STAT_NVSTOP, b2n h.nvStop), (Reg.MGT_STAT_LOGDEG, b2n h.logDeg),
      (Reg.MGT_STAT_STAGED, b2n h.stage.isSome), (Reg.MGT_STAT_SPARES, h.spares)]
  else if off = Reg.MGT_LIFE then
    fieldsWord [(Reg.MGT_LIFE_STATE, h.life.code), (Reg.MGT_LIFE_KEYS, h.keys.toNat), (Reg.MGT_LIFE_REVOKED, h.revoked.toNat)]
  else if off = Reg.MGT_LOGSEQ then h.lastLog
  else if off = Reg.MGT_UPD then
    fieldsWord [(Reg.MGT_UPD_SEL, h.boot.sel.toNat), (Reg.MGT_UPD_AUTO, h.boot.auto.toNat), (Reg.MGT_UPD_BSEQ, h.boot.seq)]
  else
    match rowOf hostRows off with
    | some r => h.rd off &&& ~~~r.wo
    | none => 0

/-- The host-domain flags of the Auger image (R451, R471). -/
def HostDom.flags (h : HostDom) : List W32 :=
  let any (l : List Nat) (mask : W32) : Bool := l.any fun off => h.rd off &&& mask != 0
  let temps := (List.range 9).map Reg.MGT_TEMP
  let b := b2n h.logDeg + 2 * b2n h.nvStop + 4 * b2n h.stage.isSome + 8 * b2n (any temps 0x4000) + 16 * b2n (any temps 0x8000)
    + 32 * b2n (any ((List.range 9).map Reg.MGT_RAIL) 0xC000) + 64 * b2n (any ((List.range 5).map Reg.MGT_CLK) 0x1000000)
    + 128 * b2n h.fallback + 256 * h.life.code
  [w32 b, h.lastLog, w32 h.spares, h.starts]

/-- The flags passed to every quadrant's window. -/
def Device.share (d : Device) : Device :=
  let f := d.host.flags
  d.mapQuads fun q => q.mapHp fun h => { h with hostFlags := f }

/-! ### The log (R459 to R463) -/

/-- A record due to be written, with its SEQ (R459, R460). UP is a time, left free (log 2). -/
def HostDom.record (h : HostDom) (code : BitVec 16) (src sev : Nat) (time : W64) (arg0 : W32) (arg1 : BitVec 16) : HostDom :=
  let r : LogRec := ⟨h.logSeq + 1, code, BitVec.ofNat 8 src, BitVec.ofNat 8 sev, time, h.starts, Config.free32 h.freeCtr, arg0, arg1⟩
  { h with logSeq := h.logSeq + 1, logDue := h.logDue ++ [r], freeCtr := h.freeCtr + 1 }

/-- A record of Mladcel's own (SRC 5). -/
def Device.note (d : Device) (code : BitVec 16) (sev : Nat) (arg0 : W32) (arg1 : BitVec 16) : Device :=
  d.mapHost fun h => h.record code 5 sev d.hostTime arg0 arg1

/-- Records of the working blocks (R458): 2,048 a block. -/
def HostDom.logCap (h : HostDom) : Nat := 2048 * (Config.flashBlocks - 64 - 128 * h.persRec.isz - 64)

/-- The next place of the log taken; the block of the oldest records is erased where the working blocks are full (R460). -/
def HostDom.place (h : HostDom) (x : Option LogRec) : HostDom :=
  let l := if h.log.length ≥ h.logCap then h.log.drop 2048 else h.log
  { h with log := l ++ [x] }

/-- A record programmed into flash. -/
def HostDom.program (h : HostDom) (r : LogRec) : HostDom := h.place (some r)

/-- What a stop of non-volatile writes, or a reset, makes of the log (R460, R467): the record due may have been programmed in part, which is
left open; its place is then abandoned, and never programmed again. The record is still due, until a reset takes it. -/
def HostDom.tearLog (h : HostDom) : HostDom :=
  if h.logDue.isEmpty ∨ !h.mladcel ∨ h.logDeg ∨ h.nvStop then h
  else
    let h' := if (Config.free32 h.freeCtr).toNat % 2 = 0 then h else h.place none
    { h' with freeCtr := h.freeCtr + 1 }

/-- A record put in the RAM ring (R462). -/
def HostDom.ramWrite (h : HostDom) (r : LogRec) : HostDom :=
  let l := h.ramLog ++ [r]
  { h with ramLog := l.drop (l.length - 4096) }

/-- LOG_WRITE (R460, R462): the first record due; `worn` where its block fails verification twice. -/
def Device.logWrite (d : Device) (worn : Bool) : Device :=
  let h := d.host
  match h.logDue with
  | [] => d
  | r :: t =>
    let next (h : HostDom) : HostDom := { h with logDue := t }
    if !h.mladcel then d
    else if h.logDeg then d.mapHost fun h => (next h).ramWrite r
    else if h.nvStop then d
    else if !worn then d.mapHost fun h => (next h).program r
    else if h.spares = 0 then
      (d.mapHost fun h => { ((next h).irq irqLog).ramWrite r with logDeg := true }).note 0x0061 2 0 0
    else
      let block := Config.free32 h.freeCtr
      let d := d.mapHost fun h =>
        ({ ((next h).irq irqLog).program r with spares := h.spares - 1, freeCtr := h.freeCtr + 1 }).setPers
          fun p => { p with bad := p.bad ++ [block.toNat] }
      d.note 0x0060 1 block (BitVec.ofNat 16 d.host.spares)

/-- CRC-16/CCITT, most significant bit first (log 11): one bit more. -/
def crc16Bit (c : BitVec 16) (b : Bool) : BitVec 16 :=
  if c.getLsbD 15 != b then (c <<< 1) ^^^ 0x1021 else c <<< 1

/-- The CRC of some bytes (R459). -/
def crc16 (l : List Byte) : BitVec 16 :=
  l.foldl (fun c (b : Byte) => (List.range 8).foldl (fun c i => crc16Bit c (b.getLsbD (7 - i))) c) Config.crc16Start

/-- The 32 bytes of a log record (R459). -/
def LogRec.bytes (r : LogRec) : List Byte :=
  let l := bytesLE r.seq.toNat 4 ++ bytesLE r.code.toNat 2 ++ [r.src, r.sev] ++ bytesLE r.time.toNat 8 ++ bytesLE r.boot.toNat 4 ++
    bytesLE r.up.toNat 4 ++ bytesLE r.arg0.toNat 4 ++ bytesLE r.arg1.toNat 2
  l ++ bytesLE (crc16 l).toNat 2

/-- QUADRANT_EVENT_PASS (R461): the events a quadrant kept; the retirements that Mladcel does not know yet are recorded (R480), once
non-volatile writes may go on (R467). -/
def passEvents (i : QId) (q : Quad) (h : HostDom) : Quad × HostDom :=
  if !h.mladcel then (q, h)
  else
    let h := q.hp.events.foldl (fun h e => h.record e.code i.num e.sev.toNat e.time e.arg0 e.arg1) h
    let r := if h.nvStop then (q, h) else (q.mapHp fun p => { p with retiring := 0 }, h.recordRetired i q.hp.retiring)
    let q := r.1
    let h := r.2
    let h := if q.hp.eventsLost = 0 then h
      else h.record 0x0063 i.num 1 q.tim.ns (w32 i.num) (BitVec.ofNat 16 (satTo 65535 q.hp.eventsLost))
    (q.mapHp fun p => { p with events := [], eventsLost := 0 }, h)

/-! ### Sensors (R456, R457) -/

/-- The counts of consecutive samples beyond a limit and inside it by the hysteresis, with one more sample: the host domain, whether
the alarm is on after it, and whether it rose. -/
def HostDom.alarm (h : HostDom) (key : Nat) (on beyond inside : Bool) : HostDom × Bool × Bool :=
  let c := h.hist.get key (0, 0)
  let n := if beyond then min 4 (c.1 + 1) else 0
  let m := if inside then min 4 (c.2 + 1) else 0
  let on' := if n = 4 then true else if m = 4 then false else on
  ({ h with hist := h.hist.put key (n, m) }, on', on' && !on)

/-- A sticky alarm pair of a register: the state bit set or cleared, the sticky bit raised. -/
def HostDom.alarmBits (h : HostDom) (off bit sticky : Nat) (on rose : Bool) : HostDom :=
  let v := h.rd off
  let v := if on then v ||| w32 (2 ^ bit) else v &&& ~~~(w32 (2 ^ bit))
  h.wr off (if rose then v ||| w32 (2 ^ sticky) else v)

/-- One of the two alarms of a sensor: `key` its place among the histories, `off` its register, `bit` the state bit and `sticky` the
sticky one, `irq` its cause; a rise is logged. -/
def Device.sensorAlarm (d : Device) (key off bit sticky irq : Nat) (beyond inside : Bool) (code : BitVec 16) (arg0 : W32)
    (arg1 : BitVec 16) : Device :=
  let r := d.host.alarm key (bitN (d.host.rd off).toNat bit) beyond inside
  let d := d.mapHost fun _ => r.1.alarmBits off bit sticky r.2.1 r.2.2
  if r.2.2 then (d.mapHost fun h => h.irq irq).note code 1 arg0 arg1 else d

/-- A temperature sampled: hysteresis 2 °C. -/
def Device.tempSample (d : Device) (n : Nat) (t : BitVec 12) : Device :=
  let off := Reg.MGT_TEMP n
  let d := d.mapHost fun h => h.setFld (Reg.MGT_TEMP_T n) t.toNat
  let lim (f : Field) : Int := (BitVec.ofNat 12 (d.host.fld f)).toInt
  let one (d : Device) (level : Nat) (l : Int) : Device :=
    d.sensorAlarm (2 * n + level) off (12 + level) (14 + level) irqTemp (decide (t.toInt > l)) (decide (t.toInt ≤ l - 16)) 0x0020
      (w32 (n + 256 * level)) (t.setWidth 16)
  one (one d 0 (lim Reg.MGT_TLIM_WARN)) 1 (lim Reg.MGT_TLIM_CRIT)

/-- Nominal voltages of the monitored rails in mV; VDD_HP takes the level measured at POR_N. -/
def HostDom.nominal (h : HostDom) (r : Nat) : Nat :=
  if r = 7 then (if h.port33 then 3300 else 1800) else [750, 800, 850, 1200, 1050, 500, 1800, 0, 3300].getD r 0

/-- What the level of a rail decides apart from its alarms: VDD_CORE below its minimum of 0.728 V, VDD_HP below 1.5 V (R496), VDD_MGT no
longer above 3.15 V (R469). -/
def HostDom.railLevel (h : HostDom) (r mv : Nat) : HostDom :=
  { h with coreLow := if r = 0 then decide (mv < 728) else h.coreLow
           hpLow := if r = 7 then decide (mv < 1500) else h.hpLow
           mgtOk := h.mgtOk && !(r == 8 && decide (mv ≤ 3150)) }

/-- A rail sampled: 5 % either way, hysteresis 1 % of nominal. -/
def Device.railSample (d : Device) (r mv : Nat) : Device :=
  let off := Reg.MGT_RAIL r
  let n := d.host.nominal r
  let d := d.mapHost fun h => (h.railLevel r mv).setFld (Reg.MGT_RAIL_MV r) mv
  let d := d.sensorAlarm (100 + 2 * r) off 12 14 irqRail (decide (100 * mv < 95 * n)) (decide (100 * mv ≥ 96 * n)) 0x0021
    (w32 r) (BitVec.ofNat 16 mv)
  d.sensorAlarm (101 + 2 * r) off 13 15 irqRail (decide (100 * mv > 105 * n)) (decide (100 * mv ≤ 104 * n)) 0x0021
    (w32 (r + 256)) (BitVec.ofNat 16 mv)

/-- A clock alarm (R457): FAULTS, the log, the cause. -/
def Device.clockAlarm (d : Device) (c : Nat) : Device :=
  (d.mapHost fun h => (h.setFld (Reg.MGT_CLK_FAULTS c) 1).irq irqClk).note 0x0022 1 (w32 c) 0

/-- An oscillator input sampled. -/
def Device.oscSample (d : Device) (c : Nat) (ppm : BitVec 20) (absent : Bool) : Device :=
  let was := d.host.fld (Reg.MGT_CLK_ABSENT c) != 0 || d.host.fld (Reg.MGT_CLK_OFF c) != 0
  let ppm := if c = 4 then 0 else ppm
  let off := decide (ppm.toInt.natAbs > 25600)
  let d := d.mapHost fun h => ((h.setFld (Reg.MGT_CLK_PPM c) ppm.toNat).setFld (Reg.MGT_CLK_ABSENT c) (b2n absent)).setFld
    (Reg.MGT_CLK_OFF c) (b2n off)
  if (absent || off) && !was then d.clockAlarm c else d

/-- The PLLs of a clock sampled: any loss is an alarm. -/
def Device.pllSample (d : Device) (c : Nat) (root time : Bool) : Device :=
  let time := time && c != 4
  let lost := (d.host.fld (Reg.MGT_CLK_ROOT c) != 0 && !root) || (d.host.fld (Reg.MGT_CLK_TIME c) != 0 && !time)
  let d := d.mapHost fun h => (h.setFld (Reg.MGT_CLK_ROOT c) (b2n root)).setFld (Reg.MGT_CLK_TIME c) (b2n time)
  if lost then d.clockAlarm c else d

/-- SENSOR_SAMPLE. -/
def Device.sensor (d : Device) (r : Reading) : Device :=
  if !d.host.mladcel then d
  else
    match r with
    | .temp n t => d.tempSample n.val t
    | .rail r mv => d.railSample r.val mv.toNat
    | .osc c p a => d.oscSample c.val p a
    | .pll c a b => d.pllSample c.val a b

/-! ### Images and keys (R464 to R466, R468) -/

/-- Whether a lifecycle state allows autonomous start. -/
def Life.autoOk : Life → Bool
  | .open_ => true
  | .sealed_ => true
  | _ => false

/-- Whether a customer key slot is usable (R464). -/
def HostDom.keyOk (h : HostDom) (k : Fin 4) : Bool :=
  h.keys.getLsbD k.val && !h.revoked.getLsbD k.val && h.life.autoOk

/-- What an image's signature signs (R464): the SHA-256 of header bytes 0 to 191 and the payload. -/
def Image.digest (i : Image) : List W32 :=
  sha256 (i.bytes.bytesAt 0 192 ++ i.bytes.bytesAt 256 (Config.imageView i.bytes).length)

/-- Whether the signature of a slot, which ends its header, verifies (R464): of Mladcel's firmware against Yeman's key, of a quadrant image
against the key of its slot. -/
def HostDom.slotOk (h : HostDom) (target : Nat) (slot : Bool) : Bool :=
  let i := h.image target slot
  let k := (Config.imageView i.bytes).key
  let key := if target = 0 then Config.yemanKey else Config.keyView (h.keyStore.get k.val [])
  (target == 0 || h.keyOk k) && ecdsaP256 key i.digest (Config.sigView (i.bytes.bytesAt 192 64))

/-- The slot that the boot record selects for a target. -/
def HostDom.selected (h : HostDom) (target : Nat) : Bool := bitN h.boot.sel.toNat target

/-- The argument of the image codes: target, and its slot in bit 8. -/
def imageArg (target : Nat) (slot : Bool) : W32 := w32 (target + 256 * b2n slot)

/-- The size of a slot (R458). -/
def HostDom.slotSize (h : HostDom) (target : Nat) : Nat := if target = 0 then 1048576 else 1048576 * h.persRec.isz

/-- The quadrant of a target. -/
def targetQuad (target : Nat) : Option QId :=
  match target with | 1 => some .q0 | 2 => some .q1 | 3 => some .q2 | 4 => some .q3 | _ => none

/-- Whether a target quadrant is in SCOUR or takes delivery (R466). -/
def Device.taking (d : Device) (target : Nat) : Bool :=
  match targetQuad target with
  | none => false
  | some i => (d.quad i).mode == .scour || (match d.host.deliveries.find i.num with | some x => !x.done | none => false)

/-! ### Mladcel commands (R466, R463, R458, R468, R469): the effect, its status, the result for MGT_ARG1 -/

/-- What a Mladcel command answers. -/
structure MgtAns where
  dev : Device
  status : Nat
  res : Option W32 := none

/-- STAGE_OPEN. -/
def Device.stageOpen (d : Device) (target len : Nat) : MgtAns :=
  let h := d.host
  if target > 4 ∨ h.stage.isSome ∨ d.taking target ∨ len > h.slotSize target then ⟨d, St.refused, none⟩
  else
    let s := !h.selected target
    ⟨d.mapHost fun h => { h with stage := some ⟨target, s, false⟩, images := h.images.put (imageKey target s) ⟨[], len, false⟩ },
      St.done, none⟩

/-- STAGE_WRITE. -/
def Device.stageWrite (d : Device) (off n : Nat) : MgtAns :=
  match d.host.stage with
  | none => ⟨d, St.refused, none⟩
  | some s =>
    let i := d.host.image s.target s.slot
    if n > 32768 ∨ off + n > i.len then ⟨d, St.refused, none⟩
    else
      let bytes := d.host.staging.bytesAt 0 n
      ⟨d.mapHost fun h => { h with
          stage := some { s with verified := false }
          images := h.images.put (imageKey s.target s.slot) ⟨i.bytes.writeBytes off bytes, i.len, false⟩ }, St.done, none⟩

/-- STAGE_VERIFY. -/
def Device.stageVerify (d : Device) : MgtAns :=
  match d.host.stage with
  | none => ⟨d, St.refused, none⟩
  | some s =>
    if d.host.slotOk s.target s.slot then
      let i := d.host.image s.target s.slot
      let d := d.mapHost fun h => { h with
        stage := some { s with verified := true }
        images := h.images.put (imageKey s.target s.slot) { i with verified := true } }
      ⟨d.note 0x0040 0 (imageArg s.target s.slot) (Config.imageView i.bytes).version, St.done, none⟩
    else ⟨d.note 0x0030 2 (imageArg s.target s.slot) 0, St.refused, none⟩

/-- The boot record that an ACTIVATE writes (R465, R466): the other slot selected, and AUTO of a quadrant. -/
def HostDom.bootNext (h : HostDom) (target : Nat) (auto : Bool) : BootRec :=
  let b := h.boot
  let sel := if h.selected target then b.sel.toNat &&& (31 - 2 ^ target) else b.sel.toNat ||| 2 ^ target
  let a := if target = 0 then b.auto.toNat
    else if auto then b.auto.toNat ||| 2 ^ (target - 1) else b.auto.toNat &&& (15 - 2 ^ (target - 1))
  ⟨b.seq + 1, BitVec.ofNat 5 sel, BitVec.ofNat 4 a⟩

/-- ACTIVATE as it starts (R466): refused unless the slot that is not selected is verified. What it does stands in `activated`. -/
def Device.activate (d : Device) (target : Nat) : MgtAns :=
  if target > 4 ∨ !(d.host.image target (!d.host.selected target)).verified then ⟨d, St.refused, none⟩ else ⟨d, St.done, none⟩

/-- ACTIVATE at the moment its new boot record is programmed (R466). -/
def Device.activated (d : Device) (target : Nat) (auto : Bool) : Device :=
  let h := d.host
  let slot := !h.selected target
  let d := d.mapHost fun h => { h with
    boots := writeCopy BootRec.seq h.boots (h.bootNext target auto)
    stage := match h.stage with | some s => if s.target = target then none else some s | none => none }
  d.note 0x0040 0 (imageArg target slot) (Config.imageView (h.image target slot).bytes).version

/-- Whether a command that runs is an ACTIVATE whose record is still to be programmed. -/
def MgtRun.activating (r : MgtRun) : Bool := r.op == 4 && r.status == St.done && !r.todo

/-- LOG_READ (R463). -/
def Device.logRead (d : Device) (seq : W32) : MgtAns :=
  let l := ((if d.host.logDeg then d.host.ramLog else d.host.records).filter fun r => decide (seq.toNat ≤ r.seq.toNat)).take 1024
  let bytes := (l.map LogRec.bytes).flatten
  ⟨d.mapHost fun h => { h with staging := h.staging.writeBytes 0 bytes }, St.done, some (w32 l.length)⟩

/-- Whether a slot size is one of R458, and leaves the log its 128 blocks. -/
def iszOk (isz : Nat) : Bool := [1, 2, 4, 8, 16].contains isz && decide (64 + 128 * isz + 128 ≤ Config.flashBlocks)

/-- RECORD_WRITE (R458): ISZ changes only in BLANK or OPEN, and with it every quadrant image moves away. -/
def Device.recordWrite (d : Device) : MgtAns :=
  let v := Config.recordView d.host.staging
  let old := d.host.persRec.isz
  if !iszOk v.isz || (v.isz != old && d.host.life != .blank && d.host.life != .open_) then ⟨d, St.refused, none⟩
  else
    ⟨d.mapHost fun h =>
      let h := h.setPers fun p => { p with isz := v.isz, board := some v.board }
      if v.isz = old then h else { h with images := h.images.filter fun e => decide (e.1 < 2) }, St.done, none⟩

/-- KEY_PROGRAM (R468): the key stands in the staging buffer. -/
def Device.keyProgram (d : Device) (k : Fin 4) : MgtAns :=
  let h := d.host
  if (h.life == .blank || h.life == .open_) && !h.keys.getLsbD k.val then
    ⟨d.mapHost fun h => { h with
      keys := h.keys ||| BitVec.ofNat 4 (2 ^ k.val)
      keyFuse := h.keyFuse.put k.val (h.staging.filter fun c => decide (c.1 < 64))
      keyStore := h.keyStore.put k.val (h.staging.filter fun c => decide (c.1 < 64)) }, St.done, none⟩
  else ⟨d, St.refused, none⟩

/-- KEY_REVOKE (R468). -/
def Device.keyRevoke (d : Device) (k : Fin 4) : MgtAns :=
  let h := d.host
  if (h.life == .blank || h.life == .open_ || h.life == .sealed_) && h.keys.getLsbD k.val then
    ⟨d.mapHost fun h => { h with revoked := h.revoked ||| BitVec.ofNat 4 (2 ^ k.val) }, St.done, none⟩
  else ⟨d, St.refused, none⟩

/-! ### Resets of the host domain (R49, R429, R445, R453, R455) -/

/-- An ACTIVATE that a reset interrupts (R466, Table: interrupted ACTIVATE): its copy not yet touched, cut short and so invalid, or
programmed; which of them the reset meets is left open. -/
def HostDom.cutActivate (h : HostDom) : HostDom :=
  match h.run with
  | some r =>
    if r.activating then
      let c := (Config.free32 h.freeCtr).toNat % 3
      { h with
        freeCtr := h.freeCtr + 1
        boots := if c = 0 then h.boots
          else if c = 1 then cutCopy BootRec.seq h.boots
          else writeCopy BootRec.seq h.boots (h.bootNext r.a0.toNat (r.a1.getLsbD 0)) }
    else h
  | none => h

/-- Whether a LIFECYCLE is moving on: its fuses are still to be burned. -/
def MgtRun.moving (r : MgtRun) : Bool := r.op == 7 && r.status == St.done

/-- A LIFECYCLE that a reset interrupts (R470): whether the burn of its fuses had begun is left open; if so they are partly burned. -/
def HostDom.cutFuses (h : HostDom) : HostDom :=
  match h.run with
  | some r =>
    if r.moving then
      { h with freeCtr := h.freeCtr + 1, burn := if (Config.free32 h.freeCtr).toNat % 2 = 0 then h.burn else lifeOf r.a0.toNat }
    else h
  | none => h

/-- What a reset of the host domain keeps: flash, fuses, the key store, the levels of the supplies, POR_N. `cause` is for the log. -/
def HostDom.restart (h : HostDom) (cause : Nat) : HostDom :=
  let h := h.cutActivate.cutFuses.tearLog
  { ({} : HostDom) with
      log := h.log, spares := h.spares, boots := h.boots, pers := h.pers, images := h.images, keys := h.keys, keyFuse := h.keyFuse,
      keyStore := h.keyStore, revoked := h.revoked, life := h.life, burn := h.burn, mgtOk := h.mgtOk, hpLow := h.hpLow,
      coreLow := h.coreLow, starts := h.starts, porLow := h.porLow, held := h.held, port33 := h.port33, freeCtr := h.freeCtr,
      cause := cause }

/-- A host-domain reset (R445, R455): a command that ran reports ABORTED_RESET. -/
def Device.hostReset (d : Device) (cause : Nat) : Device :=
  let d := d.mapQuads fun q => q.hostLost
  d.mapHost fun h =>
    let n := { h.restart cause with deliveries := h.deliveries }
    match h.run with
    | some r => n.wr Reg.MGT_CMDSTAT (w32 (St.abortedReset + 256 * r.op))
    | none => n

/-- POR_N low, from the pin or from inside (R49, R494, R469). -/
def Device.powerReset (d : Device) : Device := (d.mapQuads fun q => q.porReset).mapHost fun h => h.restart 0

/-- Whether a reset that spans the device lasts: POR_N low, the supply hold (R494), or VOID (R468). -/
def HostDom.holds (h : HostDom) : Bool := h.porLow || h.held || h.life == .void_

/-- What the boot ROM does at a start, before any quadrant leaves reset (R470): fuses partly burned are burned again until they verify, and
a fused state that differs from the wipe marker wipes the host domain's memories and the key store. -/
def HostDom.bootCompare (h : HostDom) : HostDom :=
  let h := match h.burn with | some n => { h with life := n, burn := none } | none => h
  if h.life = h.marker then h else { h with staging := [], ramLog := [], keyStore := [] }

/-- A start after a reset of the device: the boot ROM's comparison, then the quadrants released where nothing holds them. -/
def Device.releaseAll (d : Device) : Device :=
  if d.host.porLow ∨ d.host.held then d
  else
    let d := d.mapHost fun h => h.bootCompare
    if d.host.holds then d else d.mapQuads fun q => q.release

/-- The wipe marker updated (R470), once every quadrant has run SCOUR and non-volatile writes may go on (R467). -/
def Device.markWiped (d : Device) : Device :=
  let h := d.host
  if h.nvStop ∨ h.life = h.marker ∨ !((qids.map d.quad).all fun q => q.rst == .past) then d
  else d.mapHost fun h => h.setPers fun p => { p with marker := h.life }

/-- Whether a lifecycle move is one of the table (R468, R469); RETURNED takes a token in the staging buffer. -/
def HostDom.moveOk (h : HostDom) (next : Life) : Bool :=
  match h.life, next with
  | .open_, .sealed_ => true
  | .open_, .returned => Config.tokenValid h.staging
  | .sealed_, .returned => Config.tokenValid h.staging
  | .void_, .void_ => false
  | _, .void_ => true
  | _, _ => false

/-- LIFECYCLE as it starts (R469): the record is written. The fuses follow in `lifeMoved`. -/
def Device.lifecycle (d : Device) (st confirm : Nat) : MgtAns :=
  let h := d.host
  match lifeOf st with
  | none => ⟨d, St.refused, none⟩
  | some next =>
    if confirm ≠ 0x5EA1 ∨ !h.moveOk next ∨ h.stage.isSome ∨ h.nvStop ∨ !h.mgtOk then ⟨d, St.refused, none⟩
    else
      let d := d.note 0x0050 1 (w32 (h.life.code + 256 * next.code)) 0
      ⟨d.mapHost fun h => h.logDue.foldl (fun h r => if h.logDeg then h.ramWrite r else h.program r) { h with logDue := [] }, St.done, none⟩

/-- LIFECYCLE as its fuses verify (R469): the state has moved, and an internal POR_N follows. -/
def Device.lifeMoved (d : Device) (st : Nat) : Device :=
  (d.mapHost fun h => { h with life := (lifeOf st).getD h.life, run := none }).powerReset.releaseAll

/-! ### Running a Mladcel command (R471, R467) -/

/-- Whether a command needs non-volatile writes, and so waits while they are stopped (R467). -/
def nvCommand (op : Nat) : Bool := [1, 2, 4, 6, 8, 9].contains op

/-- The effect of a command. -/
def Device.mgtEffect (d : Device) (op : Nat) (a0 a1 : W32) : MgtAns :=
  match op with
  | 1 => d.stageOpen a0.toNat a1.toNat
  | 2 => d.stageWrite a0.toNat a1.toNat
  | 3 => d.stageVerify
  | 4 => d.activate a0.toNat
  | 5 => d.logRead a0
  | 6 => d.recordWrite
  | 7 => d.lifecycle a0.toNat a1.toNat
  | 8 => if a0.toNat < 4 then d.keyProgram (fin4 a0.toNat) else ⟨d, St.refused, none⟩
  | 9 => if a0.toNat < 4 then d.keyRevoke (fin4 a0.toNat) else ⟨d, St.refused, none⟩
  | _ => ⟨d, St.refused, none⟩

/-- A command carried out: it stays BUSY until it completes. -/
def Device.mgtDo (d : Device) (op : Nat) (a0 a1 : W32) : Device :=
  let r := d.mgtEffect op a0 a1
  r.dev.mapHost fun h => { h with run := some ⟨op, r.status, r.res, a0, a1, false⟩ }

/-- A command started (R471): refused while one runs, which HST_STAT.WREF counts. -/
def Device.mgtStart (d : Device) (op : Nat) (a0 a1 : W32) : Device :=
  if d.host.run.isSome then d.mapHost fun h => h.count Reg.HST_STAT_WREF 1
  else if !d.host.mladcel then d
  else if nvCommand op && d.host.nvStop then d.mapHost fun h => { h with run := some ⟨op, St.done, none, a0, a1, true⟩ }
  else d.mgtDo op a0 a1

/-- A command given with its arguments: MGT_ARG0 and MGT_ARG1 written, then MGT_CMD. -/
def Device.mgtCommand (d : Device) (op : Nat) (a0 a1 : W32) : Device :=
  (d.mapHost fun h => (h.wr (Reg.MGT_ARG 0) a0).wr (Reg.MGT_ARG 1) a1).mgtStart op a0 a1

/-- MGT_COMMAND_COMPLETE (R471): a command that the stop of non-volatile writes interrupted completes once they have resumed (R467), an
image page programmed again and an erase repeated; a LIFECYCLE that moves on ends in an internal POR_N (R469). -/
def Device.mgtComplete (d : Device) : Device :=
  match d.host.run with
  | none => d
  | some r =>
    if r.todo ∨ (d.host.nvStop ∧ (nvCommand r.op ∨ r.op = 7) ∧ r.status = St.done) then d
    else if r.moving then d.lifeMoved r.a0.toNat
    else (if r.activating then d.activated r.a0.toNat (r.a1.getLsbD 0) else d).mapHost fun h =>
      let h := { (h.wr Reg.MGT_CMDSTAT (w32 (r.status + 256 * r.op))).irq irqCmd with run := none }
      match r.arg1 with
      | some v => h.wr (Reg.MGT_ARG 1) v
      | none => h

/-- SUPPLY_SAG (R467): VDD_MGT below 3.05 V. -/
def Device.sag (d : Device) (mv : Nat) : Device :=
  let d := d.mapHost fun h => h.railLevel 8 mv
  if mv < 3050 ∧ !d.host.nvStop then d.mapHost fun h => { h.tearLog.irq irqSag with nvStop := true } else d

/-- NV_WRITE_RESUME (R467): VDD_MGT above 3.15 V for 10 ms; the command that waited is carried out, and a wipe marker that waited written. -/
def Device.nvResume (d : Device) (mv : Nat) : Device :=
  if mv ≤ 3150 then d.mapHost fun h => h.railLevel 8 mv
  else if !d.host.nvStop then d.mapHost fun h => { h with mgtOk := true }
  else
    let d := (d.mapHost fun h => { h.irq irqSag with nvStop := false, mgtOk := true }).markWiped
    let d := if d.host.mladcel then (d.note 0x0062 1 0 0).note 0x0062 0 1 0 else d
    match d.host.run with
    | some r => if r.todo then d.mgtDo r.op r.a0 r.a1 else d
    | none => d

/-! ### The start of Mladcel (R465, R460, R470) -/

/-- Deliveries that a reset of Mladcel interrupted (R60): logged, and made again. -/
def Device.redeliver (d : Device) : Device :=
  qids.foldl (fun d i =>
    match d.host.deliveries.find i.num with
    | some x =>
      if x.delivered && !x.done then
        (d.mapHost fun h => { h with deliveries := h.deliveries.put i.num { x with delivered := false } }).note 0x0030 2
          (imageArg (i.num + 1) x.slot) 3
      else d
    | none => d) d

/-- MLADCEL_START: after a reset of the host domain alone, fuses found partly burned end in an internal POR_N (R469, R470); the keys are
loaded from the fuses. -/
def Device.mladcelStart (d : Device) : Device :=
  let h := d.host
  if h.mladcel || h.porLow || h.held then d
  else if h.burn.isSome then ((d.mapHost fun h => h.bootCompare).powerReset).releaseAll
  else
    let h := { h.bootCompare with keyStore := h.keyFuse }
    let sel := h.selected 0
    let ok := h.slotOk 0 sel
    let slot := if ok then sel else !sel
    let top := h.records.foldl (fun m r => max m r.seq.toNat) 0
    let d := { d with host := { h with mladcel := true, slot := slot, fallback := !ok, starts := h.starts + 1, logSeq := w32 top } }
    (d.note 0x0001 0 (w32 (b2n slot + 256 * b2n (!ok))) (BitVec.ofNat 16 h.cause)).redeliver

/-! ### Autonomous start (R58 to R60) -/

/-- AUTOSTART_DELIVERY: the signature verified, the image delivered; `corrupt` where the quadrant receives other bytes; `now` is the
time of Mladcel's records (R459). -/
def deliver (i : QId) (corrupt : Bool) (now : W64) (q : Quad) (h : HostDom) : Quad × HostDom :=
  let target := i.num + 1
  let e := (h.deliveries.find i.num).getD ⟨h.selected target, false, false, none, 0, false⟩
  let img := h.image target e.slot
  let put (h : HostDom) (e : Delivery) : HostDom := { h with deliveries := h.deliveries.put i.num e }
  if !h.mladcel || q.rst != .past || q.mode != .standby || e.done || e.delivered || !bitN h.boot.auto.toNat i.num ||
      !h.life.autoOk || img.len == 0 then (q, h)
  else if h.slotOk target e.slot then
    let v := Config.imageView img.bytes
    let m : Mode := if v.mode = 1 then .run else if v.mode = 2 then .hardpan else .standby
    (q, put h { e with delivered := true, mode := if corrupt then none else some m, version := v.version })
  else
    (q, put (h.record 0x0030 5 2 now (imageArg target e.slot) 1) { e with done := true })

/-- A section of the image written into the quadrant, beat by beat. -/
def Quad.writeSection (q : Quad) (a : Nat) : List Byte → Nat → Quad
  | _, 0 => q
  | [], _ => q
  | bytes, n + 1 =>
    let k := (match q.target a with | some t => t.beat | none => 16) - a % (match q.target a with | some t => t.beat | none => 16)
    let r := q.hostStore (addressed a (bytes.take k))
    r.1.writeSection (a + k) (bytes.drop k) n

/-- AUTOSTART_DIGEST_CHECK (R59, R60); a quadrant that a reset took meanwhile discarded what it had received. DESIGN CHOICE (log 70): in a
quadrant that the host has taken to RUN, SERVICE or HARDPAN since, the image's sections are written, and no mode is taken. -/
def digestCheck (i : QId) (now : W64) (q : Quad) (h : HostDom) : Quad × HostDom :=
  let target := i.num + 1
  match h.deliveries.find i.num with
  | none => (q, h)
  | some e =>
    let put (h : HostDom) (e : Delivery) : HostDom := { h with deliveries := h.deliveries.put i.num e }
    if !h.mladcel || !e.delivered || e.done || q.rst != .past || q.mode == .halt then (q, h)
    else
      match e.mode with
      | none =>
        let h := h.record 0x0030 5 2 now (imageArg target e.slot) 2
        (q, put h (if e.second then { e with done := true } else { e with slot := !e.slot, second := true, delivered := false }))
      | some m =>
        let img := h.image target e.slot
        let v := Config.imageView img.bytes
        let payload := img.bytes.bytesAt 256 v.length
        let q := v.sections.foldl (fun q s => q.writeSection s.1 s.2 s.2.length) q
        let q := q.mapHp fun p => { p with digests := p.digests.put 0 ⟨sha256 payload, 0, v.length⟩ }
        let q := if q.change.isSome ∨ q.mode ≠ .standby then q
          else
            let aim : Mode := if m = .standby then .standby else .run
            { q with change := some ⟨aim, 2, .auto e.slot⟩, autoHpn := m == .hardpan }
        (q, put h { e with done := true })

/-- HPN_VERIFY_RESULT (R255), and what a failure brings to an autonomous start (R257): STANDBY, logged, and the other image once. -/
def verifyResult (i : QId) (q : Quad) (h : HostDom) : Quad × HostDom :=
  let failed := q.hpn.state == .verify && q.hpn.verified == some false
  let q' := q.hpnResult
  match q.change, h.deliveries.find i.num with
  | some ⟨_, _, .auto slot⟩, some e =>
    if !failed then (q', h)
    else
      ({ q' with change := none, autoHpn := false }.log 0x0030 2 (imageArg (i.num + 1) slot) 4,
        if e.second then h
        else { h with deliveries := h.deliveries.put i.num { e with slot := !slot, second := true, delivered := false, done := false } })
  | _, _ => (q', h)

/-- SCOUR_START (R53, R54, R420) at the data rate of the board record; a training that fails is logged. A new start of the quadrant
takes its delivery anew (R60). -/
def scourBegin (i : QId) (board : DramBoard) (q : Quad) (h : HostDom) : Quad × HostDom :=
  if q.rst ≠ .released then (q, h)
  else
    let q := q.scourStart board ((h.persRec.board.map Config.boardRate).getD 3)
    let fail := decide (1 ≤ board.size.toNat ∧ board.size.toNat ≤ 4) && !board.trained
    (if fail then q.log 0x0032 2 (w32 i.num) 0 else q, { h with deliveries := h.deliveries.del i.num })

/-- SCOUR_COMPLETE: the retirements on record apply, and those on their way to Mladcel (R480); once every quadrant has scoured, the wipe
marker is updated (R470). -/
def Device.scourDone (d : Device) (i : QId) (emg : BitVec 4) : Device :=
  (d.mapQuad i fun q => q.scourComplete (d.host.retired i ||| q.hp.retiring) emg).markWiped

/-! ### Resets of the device (R49, R493 to R495) -/

/-- POR_ASSERT. -/
def Device.porAssert (d : Device) : Device := (d.mapHost fun h => { h with porLow := true }).powerReset

/-- POR_RELEASE (R495): the Nonor port takes its level. -/
def Device.porRelease (d : Device) (mv : Nat) : Device :=
  if !d.host.porLow then d
  else (d.mapHost fun h => { h.railLevel 7 mv with porLow := false, port33 := decide (mv > 2500) }).releaseAll

/-- SUPPLY_POR_HOLD (R494). -/
def Device.supplyHold (d : Device) (core mgt : Nat) : Device :=
  let d := d.mapHost fun h => (h.railLevel 0 core).railLevel 8 mgt
  if core < 620 ∨ mgt < 2800 then (d.mapHost fun h => { h with held := true }).powerReset else d

/-- SUPPLY_HOLD_RELEASE (R494). -/
def Device.supplyRelease (d : Device) (core mgt : Nat) : Device :=
  let d := d.mapHost fun h => (h.railLevel 0 core).railLevel 8 mgt
  if d.host.held ∧ core > 620 ∧ mgt > 2800 then (d.mapHost fun h => { h with held := false }).releaseAll else d

/-- CLOCK_LOSS_RESET (R49, R457): a loss of lock for more than 10 µs is a reset. A shorter one that has ended leaves of the time PLL
candidate 8 inactive and active again (R281). -/
def Device.clockLoss (d : Device) (i : QId) (ns : Nat) (time : Bool) : Device :=
  if ns ≤ 10000 then
    if time then d.mapQuad i fun q => if q.rst = .past then (q.timeLockSet false).timeLockSet true else q else d
  else
    let d := d.mapQuad i fun q => if q.rst = .held then q else q.doReset 8 false
    if d.host.mladcel then d.clockAlarm i.num else d

end Sys2Proof.Machine
end

