-- ==== Sys2Proof/Machine/Control.lean ====
section
/-! DEFINITION. Tick, rate, modes, resets and start-up (spec/01, spec/02): the meanings of these commands, one definition for each, over the operations of the block. -/

namespace Sys2Proof.Machine

/-- RESET_RELEASE (R49): the pin high for 1 µs; the quadrant leaves its reset unless one that spans the device lasts. -/
def releaseQuad (q : Quad) (h : HostDom) : Quad × HostDom :=
  let q := { q with pinLow := false }
  (if h.holds then q else q.release, h)

/-- TICK_BOUNDARY (R28): every action of a boundary of the running grid. -/
def execTickBoundary (i : QId) (env : BoundaryEnv) (s : State) : Out := onQ i (fun q => q.tickBoundary env) s

/-- QCTL_RATE_WRITE (R26): Fi changes in STANDBY with no task bound, and the grid stops. -/
def execQctlRateWrite (i : QId) (v : W32) (s : State) : Out := onQ i (fun q => q.regPut 0 Reg.QCTL_RATE v) s

/-- QCTL_TICK_READ (R30): the high bits of the tick number latched. -/
def execQctlTickRead (i : QId) (s : State) : Out := onQ i (fun q => (q.regRead 0 Reg.QCTL_TICK_LO).2) s

/-- GRID_START (R54): the first boundary of a grid. -/
def execGridStart (i : QId) (s : State) : Out := onQ i (fun q => q.gridStart) s

/-- MODE_RUN (R41): the MODE command for RUN. -/
def execModeRun (i : QId) (seq : W32) (s : State) : Out := onQ i (fun q => Cmd.mode q seq .run) s

/-- MODE_STANDBY (R41): the MODE command for STANDBY. -/
def execModeStandby (i : QId) (seq : W32) (s : State) : Out := onQ i (fun q => Cmd.mode q seq .standby) s

/-- MODE_SERVICE (R41): the MODE command for SERVICE. -/
def execModeService (i : QId) (seq : W32) (s : State) : Out := onQ i (fun q => Cmd.mode q seq .service) s

/-- MODE_HARDPAN (R41): the MODE command for HARDPAN. -/
def execModeHardpan (i : QId) (seq : W32) (s : State) : Out := onQ i (fun q => Cmd.mode q seq .hardpan) s

/-- MODE_HALT (R41): the MODE command for HALT. -/
def execModeHalt (i : QId) (seq : W32) (s : State) : Out := onQ i (fun q => Cmd.mode q seq .halt) s

/-- MODE_CHANGE_EFFECT (R41): the changes due at a boundary. -/
def execModeChangeEffect (i : QId) (s : State) : Out := onQ i (fun q => q.modeChangeEffect i.num) s

/-- POR_ASSERT (R49): POR_N low: every domain is reset. -/
def execPorAssert (s : State) : Out := onAll (fun d => d.porAssert.share) s

/-- QUADRANT_RESET_PIN (R49): Q_RST_N low for 100 ns or longer. -/
def execQuadrantResetPin (i : QId) (lowNs : Nat) (s : State) : Out := onQ i (fun q => q.resetPin lowNs) s

/-- SOFT_RESET (R49): SRST written 1. -/
def execSoftReset (i : QId) (s : State) : Out := onQ i (fun q => q.softReset) s

/-- CLOCK_LOSS_RESET (R49): a loss of lock of more than 10 µs. -/
def execClockLossReset (i : QId) (lost : ClockLoss) (s : State) : Out :=
  onAll (fun d => (d.clockLoss i lost.ns lost.time).share) s

/-- RESET_RELEASE (R49): Q_RST_N high for 1 µs. -/
def execResetRelease (i : QId) (s : State) : Out := onQH i (fun q h => releaseQuad q h) s

/-- POR_RELEASE (R495): the level of the Nonor port fixed, the device started. -/
def execPorRelease (vddHpMv : Nat) (s : State) : Out := onAll (fun d => (d.porRelease vddHpMv).share) s

/-- SUPPLY_POR_HOLD (R494): a supply below its threshold. -/
def execSupplyPorHold (coreMv mgtMv : Nat) (s : State) : Out := onAll (fun d => (d.supplyHold coreMv mgtMv).share) s

/-- SUPPLY_HOLD_RELEASE (R494): both supplies back for 1 ms. -/
def execSupplyHoldRelease (coreMv mgtMv : Nat) (s : State) : Out := onAll (fun d => (d.supplyRelease coreMv mgtMv).share) s

/-- SCOUR_START (R53): SRAM and DRAM zeroed. -/
def execScourStart (i : QId) (dram : DramBoard) (s : State) : Out := onQH i (fun q h => scourBegin i dram q h) s

/-- SCOUR_COMPLETE (R54): STANDBY entered, positions given to the healthy cores. -/
def execScourComplete (i : QId) (emg : BitVec 4) (s : State) : Out := onAll (fun d => (d.scourDone i emg).share) s

/-- REMAP_WRITE (R56): the boot ROM and scratch bank 0 change places. -/
def execRemapWrite (i : QId) (remap : Bool) (s : State) : Out :=
  onQ i (fun q => q.whenOpen 0 Reg.QCTL_CTL fun q => q.remapWrite remap) s

/-- AUTOSTART_DELIVERY (R58): the image delivered after SCOUR. -/
def execAutostartDelivery (i : QId) (corrupt : Bool) (s : State) : Out := onQH i (fun q h => deliver i corrupt s.dev.hostTime q h) s

/-- AUTOSTART_DIGEST_CHECK (R59): the digest compared and the start mode taken. -/
def execAutostartDigestCheck (i : QId) (s : State) : Out := onQH i (fun q h => digestCheck i s.dev.hostTime q h) s

end Sys2Proof.Machine
end

