-- ==== Sys2Proof/Machine/FabricCmds.lean ====
section
/-! DEFINITION. Exchange memory, fabric, route table and meters (spec/08): the meanings of these commands, one definition for each, over the operations of the block. -/

namespace Sys2Proof.Machine

/-- FABRIC_PASS (R211): the main pass of a tick. -/
def execFabricPass (i : QId) (upsets : List RunUpset) (s : State) : Out := onQ i (fun q => q.fabricPass upsets) s

/-- FABRIC_VOTE (R218): the votes of the queued runs. -/
def execFabricVote (i : QId) (s : State) : Out := onQ i (fun q => q.fabricVote) s

/-- XCH_OWN_WRITE (R206): the owner of a slot. -/
def execXchOwnWrite (i : QId) (slot : BitVec 12) (v : W32) (s : State) : Out :=
  onQ i (fun q => q.regPut 0 (Reg.XCH_OWN slot.toNat) v) s

/-- ROUTE_TABLE_WRITE (R222): a write of consecutive bytes of the table. -/
def execRouteTableWrite (i : QId) (w : Writer) (offset : BitVec 19) (data : List Byte) (s : State) : Out :=
  onQ i (fun q => q.tableBytes w offset.toNat data) s

/-- DIRECT_WRITE_RESUME (R224): the writes that waited for the direct-write buffer. -/
def execDirectWriteResume (i : QId) (s : State) : Out := onQ i (fun q => q.directResume) s

/-- METER_PERIOD_END (R227): the values of the period shown. -/
def execMeterPeriodEnd (i : QId) (s : State) : Out := onQ i (fun q => q.meterPeriodEnd) s

/-- METER_PERIOD_WRITE (R227): MPER written. -/
def execMeterPeriodWrite (i : QId) (mper : BitVec 4) (s : State) : Out :=
  onQ i (fun q => q.fieldPut Reg.XCH_CTL_MPER mper.toNat) s

end Sys2Proof.Machine
end

