-- ==== Sys2Proof/Machine/FaultCmds.lean ====
section
/-! DEFINITION. Fault policy, spare cores and tests (spec/19): the meanings of these commands, one definition for each, over the operations of the block. -/

namespace Sys2Proof.Machine

/-- FAULT_POLICY_ACTION (R474): the action of a class whose count reached LIMIT. -/
def execFaultPolicyAction (i : QId) (cls : Fin 6) (s : State) : Out := onQ i (fun q => q.policyAction cls.val) s

/-- ROTATE_MOVE (R477): the position moved. -/
def execRotateMove (i : QId) (s : State) : Out := onQ i (fun q => q.rotateMove) s

/-- ROTATE_ABANDON (R477): sixteen boundaries without a move. -/
def execRotateAbandon (i : QId) (s : State) : Out := onQ i (fun q => q.rotateAbandon) s

/-- CORE_TEST_DONE (R477): the core test ended. -/
def execCoreTestDone (i : QId) (pass : Bool) (phase : BitVec 16) (s : State) : Out :=
  onQ i (fun q => q.coreTestDone pass phase) s

/-- AUTO_ROTATE (R478): every AUTOINT minutes. -/
def execAutoRotate (i : QId) (s : State) : Out := onQ i (fun q => q.autoRotate) s

/-- CORE_REPAIR_MOVE (R479): a stopped core replaced. -/
def execCoreRepairMove (i : QId) (s : State) : Out := onQ i (fun q => q.repairMove) s

/-- TEST_CORE (R483): TEST 0x01. -/
def execTestCore (i : QId) (seq : W32) (b c : W32) (s : State) : Out := onQ i (fun q => Cmd.test q seq 1 b c) s

/-- TEST_SRAM_BIST (R483): TEST 0x02. -/
def execTestSramBist (i : QId) (seq : W32) (b c : W32) (s : State) : Out := onQ i (fun q => Cmd.test q seq 2 b c) s

/-- TEST_DRAM_BIST (R483): TEST 0x03. -/
def execTestDramBist (i : QId) (seq : W32) (b c : W32) (s : State) : Out := onQ i (fun q => Cmd.test q seq 3 b c) s

/-- TEST_SERDES_RECAL (R483): TEST 0x04. -/
def execTestSerdesRecal (i : QId) (seq : W32) (b c : W32) (s : State) : Out := onQ i (fun q => Cmd.test q seq 4 b c) s

/-- TEST_DECIMATOR (R483): TEST 0x05. -/
def execTestDecimator (i : QId) (seq : W32) (b c : W32) (s : State) : Out := onQ i (fun q => Cmd.test q seq 5 b c) s

/-- TEST_ASRC (R483): TEST 0x06. -/
def execTestAsrc (i : QId) (seq : W32) (b c : W32) (s : State) : Out := onQ i (fun q => Cmd.test q seq 6 b c) s

/-- TEST_ETH_LOOPBACK (R483): TEST 0x07. -/
def execTestEthLoopback (i : QId) (seq : W32) (b c : W32) (s : State) : Out := onQ i (fun q => Cmd.test q seq 7 b c) s

/-- TEST_FABRIC (R483): TEST 0x08. -/
def execTestFabric (i : QId) (seq : W32) (b c : W32) (s : State) : Out := onQ i (fun q => Cmd.test q seq 8 b c) s

/-- TEST_CUSTOMER (R483): TEST 0x10. -/
def execTestCustomer (i : QId) (seq : W32) (b c : W32) (s : State) : Out := onQ i (fun q => Cmd.test q seq 16 b c) s

/-- TEST_DONE (R483): a test ended. -/
def execTestDone (i : QId) (pass : Bool) (detail : BitVec 16) (s : State) : Out := onQ i (fun q => q.testDone pass detail) s

end Sys2Proof.Machine
end

