-- ==== Sys2Proof/Machine/Moves.lean ====
section
/-! DEFINITION. Moves, loads and stores, register moves (spec/06 R146 to R153, spec/03 R67, R88, spec/04 R104). -/

namespace Sys2Proof.Machine

/-- NOP: any other word of MAJOR 0x00 is ILLEGAL_OP. -/
def execNop (i : Issue) (s : State) : Out :=
  onQ i.q (Quad.issue i fun _ _ => { traps := causeIf i.sat Cause.illegalOp, moves := noMoves i }) s

/-- MOVES_ALONE (R149). -/
def execMovesAlone (i : Issue) (s : State) : Out := onQ i.q (Quad.issue i fun _ _ => { moves := pmOf i.pm }) s

/-- The moves that may stand beside a stand-alone bus access (R148): X and Y alone. -/
def xyMoves (i : Issue) : Option PMove :=
  match pmOf i.pm with
  | some m => if m.xfer.isNone && m.bus.isNone then some m else none
  | none => none

/-- The plan of a stand-alone bus access (R148, R149). -/
def busPlan (i : Issue) (store : Bool) (reg : BitVec 6) (p : Fin 8) (w : BitVec 2) (mode : BitVec 3) (val : BitVec 8) : Plan :=
  match gprOf reg, amodeOf mode val, xyMoves i with
  | some r, some a, some m => { moves := some { m with bus := some ⟨store, r, p, w, a⟩ } }
  | _, _, _ => { moves := none }

/-- BUS_ACCESS (R149, R152). -/
def execBusAccess (i : Issue) (store : Bool) (reg : BitVec 6) (p : Fin 8) (w : BitVec 2) (mode : BitVec 3) (val : BitVec 8)
    (s : State) : Out :=
  onQ i.q (Quad.issue i fun _ _ => busPlan i store reg p w mode val) s

/-- The plan of a stand-alone X or Y access: at most one access on the other bank beside it (R148, R149). -/
def xyPlan (i : Issue) (store : Bool) (reg : BitVec 6) (p : Fin 8) (mode : BitVec 3) (val : BitVec 8) : Plan :=
  match gprOf reg, amodeOf mode val, xyMoves i with
  | some r, some a, some m =>
    if p.val < 4 then
      if m.x.isSome then { moves := none } else { moves := some { m with x := some ⟨store, r, p, a⟩ } }
    else if m.y.isSome then { moves := none } else { moves := some { m with y := some ⟨store, r, p, a⟩ } }
  | _, _, _ => { moves := none }

/-- XY_ACCESS (R149). -/
def execXyAccess (i : Issue) (store : Bool) (reg : BitVec 6) (p : Fin 8) (mode : BitVec 3) (val : BitVec 8) (s : State) : Out :=
  onQ i.q (Quad.issue i fun _ _ => xyPlan i store reg p mode val) s

/-- FENCE (R153): issued again until every bus request has completed. -/
def execFence (i : Issue) (s : State) : Out :=
  onQ i.q (Quad.issue i fun _ _ =>
    { moves := noMoves i
      act := fun q c => if (q.core c).reqs.isEmpty then q.setCore c (q.core c).advance else q }) s

/-- MOV (R151). -/
def execMov (i : Issue) (rd rs : BitVec 6) (s : State) : Out :=
  onQ i.q (Quad.issue i fun _ k =>
    match gprOf rd, gprOf rs with
    | some d, some r => { reads := [r], writes := [d], moves := noMoves i, puts := [(1, .reg d (k.cur.read r))] }
    | _, _ => { moves := none }) s

/-- LDI (R151): bits [23:0] of its word are its immediate's. -/
def execLdi (i : Issue) (rd : BitVec 6) (imm : W40) (s : State) : Out :=
  onQ i.q (Quad.issue i fun _ _ =>
    match gprOf rd with
    | some d => { writes := [d], puts := [(1, .reg d imm)] }
    | none => { moves := none }) s

/-- CID (spec/03). -/
def Core.cid (k : Core) (q : QId) (c : Fin 17) : W32 :=
  w32 (k.pos.val + 32 * c.val + 1024 * b2n (privPos k.pos.val) + 2048 * b2n k.lock + 4096 * q.num)

/-- A system register as `mfs` reads it, zero-extended (R151); codes 8 to 15 are reserved. -/
def Quad.sysRead (q : Quad) (i : QId) (c : Fin 17) (sys : BitVec 4) : Option W40 :=
  let k := q.core c
  match sys.toNat with
  | 0 => some (k.cur.st.setWidth 40)
  | 1 => some (k.epc.setWidth 40)
  | 2 => some (k.evs.setWidth 40)
  | 3 => some (k.evb.setWidth 40)
  | 4 => some (k.evm.setWidth 40)
  | 5 => some ((k.cid i c).setWidth 40)
  | 6 => some ((k.cyc - (if k.cyc = 0 then 0 else 1)).setWidth 40)
  | 7 => some ((q.tick.setWidth 32).setWidth 40)
  | _ => none

/-- MFS (R151). -/
def execMfs (i : Issue) (dd : Fin 16) (sys : BitVec 4) (s : State) : Out :=
  onQ i.q (Quad.issue i fun q _ =>
    match q.sysRead i.q i.c sys with
    | some v => { writes := [.d dd], moves := noMoves i, puts := [(1, .reg (.d dd) v)] }
    | none => { moves := none }) s

/-- MTS (R151): CID, CYC and TKL take no write. Z, N, V and C of ST are flags like any other (R116). -/
def execMts (i : Issue) (sys : BitVec 4) (dx : Fin 16) (s : State) : Out :=
  onQ i.q (Quad.issue i fun _ k =>
    let v : W32 := (k.dr dx).setWidth 32
    if sys.toNat ≤ 4 then
      { reads := [.d dx], moves := noMoves i
        puts := (if sys = 0 then [(2, .flags mZNVC (v.setWidth 4))] else []) ++ [(2, .sys sys v)] }
    else { moves := none }) s

/-- Whether a set-0 result is still in flight (R88). -/
def Core.pending0 (k : Core) : Bool :=
  (k.flights.any fun f => !f.set) || (k.reqs.any fun x => !x.store && !x.set) ||
    (match k.ask with | some a => !a.set | none => false)

/-- The registers of an `xmov`: two accumulators, or two others (R150). -/
def xmovRegs (rd rs : BitVec 6) : Option (Rg × Rg) :=
  match regOf rd, regOf rs with
  | some (.a d), some (.a s) => some (.a d, .a s)
  | some (.a _), _ => none
  | _, some (.a _) => none
  | some d, some s => some (d, s)
  | _, _ => none

/-- The result of an `xmov` of `r` from a set into `d`. -/
def RegSet.xval (s : RegSet) (d r : Rg) : Dst :=
  match d, r with
  | .a n, .a m => .acc n s.a[m] false
  | _, _ => .reg d (s.read r)

/-- XMOV (R88, R151): it waits for the set-0 results in flight, then reads one set and writes the other. -/
def execXmov (i : Issue) (rd rs : BitVec 6) (dir : Bool) (s : State) : Out :=
  onQ i.q (Quad.issue i fun _ k =>
    match xmovRegs rd rs with
    | some (d, r) =>
      { traps := causeIf (!k.act) Cause.illegalOp
        reads := if dir then [r] else []
        moves := noMoves i
        act := fun q c =>
          let k := q.core c
          if k.pending0 then q
          else q.setCore c ((k.put (!dir) 1 ((k.getSet dir).xval d r)).advance) }
    | none => { moves := none }) s

/-- CLRC (R104): Ln zero and the held pair discarded; older results on their way to Ln are superseded (R116). -/
def Core.clrc (k : Core) (p : Fin 8) : Core :=
  let s := k.cur
  let k := k.setSet k.act { s with l := s.l.set p 0, heldB := s.heldB.set p none, heldL := s.heldL.set p none }
  { k with
    flights := k.flights.filterMap fun f => f.after k.act (.reg (.l p) 0)
    reqs := k.reqs.map fun x => if x.set = k.act ∧ x.dst = some (.l p) then { x with dst := none } else x }

/-- CLRC. -/
def execClrc (i : Issue) (p : Fin 8) (s : State) : Out :=
  onQ i.q (Quad.issue i fun _ _ => { moves := noMoves i, act := fun q c => q.setCore c ((q.core c).clrc p).advance }) s

end Sys2Proof.Machine
end

