-- ==== Sys2Proof/Machine/Flow.lean ====
section
/-! DEFINITION. Control flow (spec/06 R154 to R156, spec/03 R66, R87, spec/04 R109 to R115). -/

namespace Sys2Proof.Machine

/-- The cause of an instruction that may not stand in a delay slot (R118). -/
def Core.slotTrap (k : Core) : List Nat := causeIf (decide (k.slots > 0)) Cause.slotIllegal

/-- The program counter after a branch (R155). -/
def Quad.goTo (target : Option PAddr) (q : Quad) (c : Fin 17) : Quad := q.setCore c ((q.core c).branch target)

/-- The plan of a branch with its condition (R154, R155). -/
def brPlan (i : Issue) (cc : BitVec 4) (k : Core) (target : PAddr) (reads : List Rg) : Plan :=
  { traps := causeIf (!condOk cc) Cause.illegalOp ++ k.slotTrap
    reads := reads, moves := noMoves i
    act := Quad.goTo (if cond cc k.cur.st then some target else none) }

/-- BR_TARGET (R154). -/
def execBrTarget (i : Issue) (cc : BitVec 4) (target : PAddr) (s : State) : Out :=
  onQ i.q (Quad.issue i fun _ k => brPlan i cc k target []) s

/-- BR_REG (R154). -/
def execBrReg (i : Issue) (cc : BitVec 4) (dx : Fin 16) (s : State) : Out :=
  onQ i.q (Quad.issue i fun _ k => brPlan i cc k ((k.dr dx).setWidth 13) [.d dx]) s

/-- A return address pushed on the active set's stack (R156): the call plus 3. -/
def Core.push (k : Core) : Core := k.setSet k.act { k.cur with stack := (k.pc + 3) :: k.cur.stack }

/-- The plan of a call (R156). -/
def callPlan (i : Issue) (k : Core) (target : PAddr) (reads : List Rg) : Plan :=
  { traps := k.slotTrap ++ causeIf (decide (k.cur.stack.length ≥ 8)) Cause.stack
    reads := reads, moves := noMoves i
    act := fun q c => (q.setCore c (q.core c).push).goTo (some target) c }

/-- CALL_TARGET (R154, R156). -/
def execCallTarget (i : Issue) (target : PAddr) (s : State) : Out := onQ i.q (Quad.issue i fun _ k => callPlan i k target []) s

/-- CALL_REG (R154, R156). -/
def execCallReg (i : Issue) (dx : Fin 16) (s : State) : Out :=
  onQ i.q (Quad.issue i fun _ k => callPlan i k ((k.dr dx).setWidth 13) [.d dx]) s

/-- RET (R156). -/
def execRet (i : Issue) (s : State) : Out :=
  onQ i.q (Quad.issue i fun _ k =>
    match k.cur.stack with
    | [] => { traps := k.slotTrap ++ [Cause.stack], moves := noMoves i }
    | a :: rest =>
      { traps := k.slotTrap, moves := noMoves i
        act := fun q c =>
          let k := q.core c
          (q.setCore c (k.setSet k.act { k.cur with stack := rest })).goTo (some a) c }) s

/-- A handler has returned (R87, R90): the instance assigned while it ran starts, or that of the prefetch slot. -/
def Quad.returned (q : Quad) (c : Fin 17) : Quad :=
  let q := q.setCore c (q.core c).leave
  match (q.core c).assigned with
  | some i => q.startAssigned c i
  | none => q.startFromSlot c

/-- The end of an EVT handler: the event task's record, then as `rte` (R87, R190). -/
def Quad.endEvent (q : Quad) (c : Fin 17) : Quad :=
  let k := q.core c
  let q := match k.evtRun with | some r => q.endRun k.pos.val r St.done k.set1.st false | none => q
  q.returned c

/-- RTE (R87, R155, R160): `rte` in set 0 is ILLEGAL_OP, in a TRAP handler RTE_TRAP; it too ends an event instance (log 118). -/
def execRte (i : Issue) (s : State) : Out :=
  onQ i.q (Quad.issue i fun _ k =>
    { traps := causeIf (!k.act) Cause.illegalOp ++ k.slotTrap ++ causeIf (k.act && k.cls == 0) Cause.rteTrap
      moves := noMoves i
      act := fun q c => q.endEvent c }) s

/-- JPM (R66): boot fetch ends; a branch. -/
def execJpm (i : Issue) (target : PAddr) (s : State) : Out :=
  onQ i.q (Quad.issue i fun _ k =>
    { traps := k.slotTrap, moves := noMoves i
      act := fun q c => (q.setCore c { q.core c with bootFetch := false }).goTo (some target) c }) s

/-- DBNZ (R114, R115): no flags. -/
def execDbnz (i : Issue) (dx : Fin 16) (target : PAddr) (s : State) : Out :=
  onQ i.q (Quad.issue i fun _ k =>
    let v := k.dr dx - 1
    { traps := k.slotTrap, reads := [.d dx], writes := [.d dx], moves := noMoves i
      puts := [(1, .reg (.d dx) v)]
      act := Quad.goTo (if v ≠ 0 then some target else none) }) s

/-- The plan of a repeat by count `n` (R109 to R113): the instruction after it must be one that may be repeated, and is fetched with it
(R110), by both members of a pair (R94). A count of zero skips it. -/
def repPlan (i : Issue) (q : Quad) (k : Core) (n : Int) (reads : List Rg) : Plan :=
  { traps := causeIf (!wRepOk (q.codeWord i.c (k.pc + 1))) Cause.repIllegal ++
      causeIf (decide (n < 0 ∨ n > 1024)) Cause.repCount ++ k.slotTrap
    reads := reads, moves := noMoves i
    act := fun q c =>
      let g := q.followFetch c (k.pc + 1)
      let f := g.2.fetch c (k.pc + 1)
      if f.1 == .uncorr then f.2.coreStop c 1 0
      else if g.1.isSome then f.2.coreStop (g.1.getD c) 1 0
      else
        let k := f.2.core c
        f.2.setCore c (if n = 0 then k.advance.advance else { k.advance with rep := n.toNat }) }

/-- REP_IMM (R109): n is one more than the field. -/
def execRepImm (i : Issue) (n1 : BitVec 10) (s : State) : Out :=
  onQ i.q (Quad.issue i fun q k => repPlan i q k (n1.toNat + 1) []) s

/-- REP_REG (R109). -/
def execRepReg (i : Issue) (dx : Fin 16) (s : State) : Out :=
  onQ i.q (Quad.issue i fun q k => repPlan i q k (k.di dx) [.d dx]) s

/-- BRK (R154): a DBG event while EVM.DBG is 1. -/
def execBrk (i : Issue) (s : State) : Out :=
  onQ i.q (Quad.issue i fun _ _ =>
    { moves := noMoves i
      act := fun q c =>
        let k := q.core c
        q.setCore c { k.advance with pendDbg := k.pendDbg || k.evm.getLsbD 1 } }) s

end Sys2Proof.Machine
end

