-- ==== Sys2Proof/Machine/PinOps.lean ====
section
/-! DEFINITION. The Nonor port at its pins (spec/17 R434, R435, R437): what a host write becomes, how the host domain's posted writes
are carried out, and what a host read returns. -/

namespace Sys2Proof.Machine

/-! ### Addresses (R434, R435) -/

/-- The quadrant whose window holds an address below the host-domain registers. -/
def qidOf (n : Nat) : QId := match n % 4 with | 0 => .q0 | 1 => .q1 | 2 => .q2 | _ => .q3

/-- Whether a place of a window takes writes (R435). -/
def windowWritable (off : Nat) : Bool :=
  decide (0x10000 ≤ off ∧ off < 0x1100C) || decide (0x30000 ≤ off ∧ off < 0x40000)

/-- Whether a host-domain address takes writes: a register with bits that a write changes, or the staging buffer. -/
def hostWritable (a : Nat) : Bool :=
  decide (0x2808000 ≤ a ∧ a < 0x2810000) ||
    (match rowOf hostRows a with | some r => r.rw ||| r.w1c ||| r.wo != 0 | none => false)

/-- A write at the pins for a quadrant's window (R437, R438, R187): a full posted FIFO refuses it, and so do CREF, BREF and a full
mailbox. -/
def Quad.pinWrite (q : Quad) (off : Nat) (be : BitVec 4) (v : W32) : Quad :=
  let full := decide (q.hp.posted.length ≥ 64)
  if 0x10000 ≤ off ∧ off < 0x11000 ∧ full then q.refuseRing
  else if 0x30000 ≤ off ∧ (full ∨ q.hp.bref) then q.refuseBulk
  else if full ∨ (off = 0x11000 ∧ q.hp.cref) ∨ (off = 0x11008 ∧ q.sch.mbox.length ≥ 64) then q.refuseWrite
  else q.mapHp fun h => { h with posted := h.posted ++ [⟨off, be, v⟩] }

/-- A write of the host to a quadrant's window by a row of its own (R437 to R439): through the posted FIFO, behind the words that wait
there; with none there it is carried out at once. -/
def Quad.windowPost (q : Quad) (off : Nat) (v : W32) : Quad :=
  let r := q.pinWrite off 0xF v
  if q.hp.posted.isEmpty then r.drain else r

/-- HOST_WRITE (R434, R437): an address is a byte address, of which the port carries the word. -/
def Device.hostWrite (d : Device) (addr : Nat) (be : BitVec 4) (v : W32) : Device :=
  let a := addr / 4 * 4
  let bad : Device := d.mapHost fun h => h.count Reg.HST_BADW_COUNT 1
  if a < 0x2000000 then
    let off := a % 0x800000
    if windowWritable off then d.mapQuad (qidOf (a / 0x800000)) fun q => q.pinWrite off be v else bad
  else if !hostWritable a then bad
  else if d.host.posted.length ≥ 16 then d.mapHost fun h => h.count Reg.HST_STAT_WREF 1
  else d.mapHost fun h => { h with posted := h.posted ++ [⟨a, be, v⟩] }

/-! ### Registers written -/

/-- A write of HST_QSTATq, HST_IRQENq or HST_IRQSTq. -/
def HostPort.hstWrite (h : HostPort) (reg : Nat) (m v : W32) : HostPort :=
  let act := v &&& m
  if reg = 0 then
    { h with cref := h.cref && !act.getLsbD 9, bref := h.bref && !act.getLsbD 10, runder := h.runder && !act.getLsbD 11 }
  else if reg = 0x1C then { h with irqEn := ((h.irqEn &&& ~~~(m.setWidth 5)) ||| act.setWidth 5) }
  else if reg = 0x20 then { h with irqSt := h.irqSt &&& ~~~(act.setWidth 5 &&& 0b11010) }
  else h

/-- A write of a register kept by the host domain: RW bits, and W1C bits cleared. -/
def HostDom.regWrite (h : HostDom) (a : Nat) (m v : W32) : HostDom :=
  match rowOf hostRows a with
  | some r => h.wr a (r.merge (h.rd a) v m &&& ~~~(v &&& m &&& r.w1c))
  | none => h

/-- A posted write of the host domain carried out. -/
def Device.hostPut (d : Device) (p : Posted) : Device :=
  let m := beMask p.be
  if 0x2808000 ≤ p.addr then
    d.mapHost fun h => { h with staging := (enabled (p.addr - 0x2808000) p.be p.v).foldl (fun s b => s.write b.1 b.2) h.staging }
  else if p.addr = Reg.MGT_CMD then
    if p.be.getLsbD 0 then d.mgtStart ((p.v &&& m).toNat % 256) (d.host.rd (Reg.MGT_ARG 0)) (d.host.rd (Reg.MGT_ARG 1)) else d
  else if 0x2000100 ≤ p.addr ∧ p.addr < 0x2000200 then
    d.mapQuad (qidOf ((p.addr - 0x2000100) / 64)) fun q => q.mapHp fun h => h.hstWrite (p.addr % 64) m p.v
  else d.mapHost fun h => h.regWrite p.addr m p.v

/-- HOST_WRITE_DRAIN of the host domain's FIFO, which a power-on reset holds (R494). -/
def Device.hostDrain (d : Device) : Device :=
  match d.host.posted with
  | [] => d
  | p :: t => if d.host.porLow ∨ d.host.held then d else (d.mapHost fun h => { h with posted := t }).hostPut p

/-! ### What a host read returns (R432, R434, R436, R453) -/

/-- A word of the meter page (R436). -/
def Quad.meterWord (q : Quad) (s w : Nat) : W32 :=
  let v := q.meterLast s
  match w with
  | 0 => w32 v.pk
  | 1 => w32 (v.pk / 2 ^ 32 + 256 * b2n v.zs + 512 * b2n v.sat + 65536 * v.fs)
  | 2 => w32 (v.ss / 2 ^ 12)
  | _ => w32 (v.ss / 2 ^ 44)

/-- A word of a completion record (R444). -/
def CplRec.word (r : CplRec) (w : Nat) : W32 :=
  match w with
  | 0 => w32 (r.status + 256 * r.op + 16384 * b2n r.seqErr + 65536 * (r.aux % 65536))
  | 1 => r.seq
  | 2 => r.resA
  | _ => r.resB

/-- A word read from a quadrant's window: in SCOUR the status page alone (R52). -/
def Quad.windowWord (q : Quad) (off : Nat) : W32 :=
  if off < 0x1000 then q.hp.status.get (off / 4) 0
  else if q.mode = .scour then 0
  else if off < 0x2000 then q.hp.auger.get ((off - 0x1000) / 4) 0
  else if off < 0x3000 then q.hp.schedPage.get ((off - 0x2000) / 4) 0
  else if 0x20000 ≤ off ∧ off < 0x22000 then
    match q.hp.cplRing.find ((off - 0x20000) / 16) with
    | some r => r.word (off % 16 / 4)
    | none => 0
  else if 0x30000 ≤ off ∧ off < 0x40000 then q.hp.bulkR.headD 0
  else if 0x100000 ≤ off ∧ off < 0x110000 then q.meterWord ((off - 0x100000) / 16) (off % 16 / 4)
  else 0

/-- A word of a quadrant's HST_ registers; `reg` is the offset within its 64 bytes (R453). -/
def Quad.hstValue (q : Quad) (reg : Nat) : W32 :=
  let h := q.hp
  if reg = 0x00 then
    fieldsWord [(Reg.HST_QSTAT_CMDFREE 0, h.cmdFree), (Reg.HST_QSTAT_CREF 0, b2n h.cref), (Reg.HST_QSTAT_BREF 0, b2n h.bref),
      (Reg.HST_QSTAT_RUNDER 0, b2n h.runder)]
  else if reg = 0x04 then
    fieldsWord [(Reg.HST_FIFO_WFREE 0, 64 - h.posted.length), (Reg.HST_FIFO_BWFREE 0, 1024 - h.bulkW.length),
      (Reg.HST_FIFO_BRAVAIL 0, h.bulkR.length)]
  else if reg = 0x08 then h.cmdWp
  else if reg = 0x0C then h.cmdRp
  else if reg = 0x10 then h.cplWp
  else if reg = 0x14 then h.cplRp
  else if reg = 0x18 then w32 (h.wref + 65536 * h.seqref)
  else if reg = 0x1C then h.irqEn.setWidth 32
  else if reg = 0x20 then h.irqWord.setWidth 32
  else if reg = 0x24 then h.mgen
  else 0

/-- What a host read of a byte address returns; an address that is mapped nowhere, or only written, reads zero (R434). -/
def Device.hostRead (d : Device) (addr : Nat) : W32 :=
  let a := addr / 4 * 4
  if a < 0x2000000 then (d.quad (qidOf (a / 0x800000))).windowWord (a % 0x800000)
  else if 0x2000100 ≤ a ∧ a < 0x2000200 then (d.quad (qidOf ((a - 0x2000100) / 64))).hstValue (a % 64)
  else if 0x2808000 ≤ a ∧ a < 0x2810000 then w32 (d.host.staging.readLE (a - 0x2808000) 4)
  else d.host.value a

/-- IDCODE of the IEEE 1149.1 port, which every lifecycle state offers (R468, R506): 0xN102_476F, N the silicon revision. -/
def idcode : W32 := w32 (Config.revision.toNat % 16 * 2 ^ 28 + 0x0102476F)

/-- A host read of an HST_ register with an RC field (R12, R453): cleared, but for what is counted in the same cycle. -/
def Device.hostRcRead (d : Device) (a : Nat) (counted : List Nat) : Device :=
  let n (k : Nat) : Nat := satTo 0xFFFF (counted.getD k 0)
  if a = Reg.HST_STAT then d.mapHost fun h => h.setFld Reg.HST_STAT_WREF (n 0)
  else if a = Reg.HST_BADW then d.mapHost fun h => h.setFld Reg.HST_BADW_COUNT (n 0)
  else if 0x2000100 ≤ a ∧ a < 0x2000200 ∧ a % 64 = 0x18 then
    d.mapQuad (qidOf ((a - 0x2000100) / 64)) fun q => q.mapHp fun h => { h with wref := n 0, seqref := n 1 }
  else d

/-- Whether HP_IRQ_N[4] is low (R452, R471): while HST_STAT shows a reset, or an enabled cause of Mladcel is set. -/
def HostDom.irqLow (h : HostDom) : Bool :=
  h.rd Reg.HST_STAT &&& 3 != 0 || h.rd Reg.MGT_IRQST &&& h.rd Reg.MGT_IRQEN != 0

/-! ### Outputs and the supplies (R496) -/

/-- What an output on VDD_IO drives: nothing while VDD_CORE is below its minimum, else what R48 and its block give it. -/
def Device.onIo {α : Type} (d : Device) (x : α) : Option α := if d.host.coreLow then none else some x

/-- The level at a GPIO ball. -/
def Device.gpioBall (d : Device) (i : QId) (pin : Fin 8) : Option Bool := (d.onIo ((d.quad i).gpioLevel pin)).join

/-- The level that the port drives at HP_IRQ_N[q], or at HP_IRQ_N[4] for the host domain: nothing while VDD_HP is below 1.5 V. -/
def Device.irqBall (d : Device) (i : Option QId) : Option Bool :=
  if d.host.hpLow then none
  else match i with
    | some i => some !(d.quad i).irqLow
    | none => some !d.host.irqLow

end Sys2Proof.Machine
end

