-- ==== Sys2Proof/Machine/HostCmds.lean ====
section
/-! DEFINITION. The Nonor host port and its commands (spec/17): the meanings of these commands, one definition for each, over the operations of the block. -/

namespace Sys2Proof.Machine

/-- HOST_WRITE (R437): a write at the pins. -/
def execHostWrite (addr : BitVec 26) (be : BitVec 4) (v : W32) (s : State) : Out :=
  atPins (onAll fun d => (d.hostWrite addr.toNat be v).share) s

/-- HOST_WRITE_DRAIN (R437): the oldest posted write of a FIFO. -/
def execHostWriteDrain (f : HostFifo) (s : State) : Out :=
  onAll (fun d => match f with | .quad i => d.mapQuad i Quad.drain | .hostDomain => d.hostDrain.share) s

/-- BULK_WRITE (R438): a word for the bulk port. -/
def execBulkWrite (i : QId) (v : W32) (s : State) : Out := atPins (onQ i fun q => q.windowPost 0x30000 v) s

/-- BULK_READ (R439): a word from the bulk port. -/
def execBulkRead (i : QId) (s : State) : Out := atPins (onQ i fun q => q.bulkRead) s

/-- CMD_WP_WRITE (R441): commands posted. -/
def execCmdWpWrite (i : QId) (v : W32) (s : State) : Out := atPins (onQ i fun q => q.windowPost 0x11000 v) s

/-- CPL_RP_WRITE (R444): records consumed. -/
def execCplRpWrite (i : QId) (v : W32) (s : State) : Out := atPins (onQ i fun q => q.windowPost 0x11004 v) s

/-- COMMAND_ACCEPT (R442): the oldest posted command taken. -/
def execCommandAccept (i : QId) (s : State) : Out := onQ i (fun q => q.commandAccept) s

/-- CMD_LOAD (R446): the LOAD command. -/
def execCmdLoad (i : QId) (seq : W32) (addr : W36) (len : W32) (dig : Bool) (slot : Fin 8) (s : State) : Out :=
  onQ i (fun q => Cmd.load q seq addr.toNat len.toNat (if dig then some slot else none)) s

/-- LOAD_CONTINUE (R446): bulk words have come. -/
def execLoadContinue (i : QId) (s : State) : Out := onQ i (fun q => q.loadContinue.granted 20) s

/-- CMD_WRITE (R448): the WRITE command. -/
def execCmdWrite (i : QId) (seq : W32) (addr : W36) (be : BitVec 4) (v : W32) (s : State) : Out :=
  onQ i (fun q => Cmd.write q seq addr.toNat be v) s

/-- CMD_READ (R447): the READ command. -/
def execCmdRead (i : QId) (seq : W32) (addr : W36) (words : BitVec 16) (s : State) : Out :=
  onQ i (fun q => Cmd.read q seq addr.toNat words.toNat) s

/-- READ_CONTINUE (R447): room in the bulk read FIFO. -/
def execReadContinue (i : QId) (s : State) : Out := onQ i (fun q => q.readContinue.granted 20) s

/-- CMD_CANCEL (R189): the CANCEL command. -/
def execCmdCancel (i : QId) (seq : W32) (task : BitVec 12) (s : State) : Out := onQ i (fun q => Cmd.cancel q seq task.toNat) s

/-- CMD_ROTATE (R477): the ROTATE command. -/
def execCmdRotate (i : QId) (seq : W32) (pos : BitVec 5) (s : State) : Out := onQ i (fun q => Cmd.rotate q seq pos.toNat) s

/-- CMD_AUGER (R450): the AUGER command. -/
def execCmdAuger (i : QId) (seq : W32) (s : State) : Out := onQ i (fun q => Cmd.auger q seq) s

/-- WINDOW_REFRESH (R436): the pages while no grid runs. -/
def execWindowRefresh (i : QId) (s : State) : Out := onQ i (fun q => q.windowRefresh) s

/-- STATUS_MODE_READ (R452): word 1 of the status page read. -/
def execStatusModeRead (i : QId) (s : State) : Out := atPins (onQ i fun q => q.statusModeRead) s

/-- HOST_DOMAIN_RESET (R445): the host domain reset. -/
def execHostDomainReset (s : State) : Out := onAll (fun d => (d.hostReset 1).share) s

/-- COMPLETION_REPLAY (R445): the records not consumed, again. -/
def execCompletionReplay (i : QId) (s : State) : Out := onQ i (fun q => q.replay) s

end Sys2Proof.Machine
end

