-- ==== Sys2Proof/Machine/KilnCmds.lean ====
section
/-! DEFINITION. Timed commits (spec/09) and Hardpan (spec/10): the meanings of these commands, one definition for each, over the operations of the block. -/

namespace Sys2Proof.Machine

/-- PREPARE (R236): readiness checked, objects sealed. -/
def execPrepare (i : QId) (seq : W32) (id : BitVec 16) (scene : BitVec 8) (t : W64) (s : State) : Out :=
  onQ i (fun q => Cmd.prepare q seq id scene t) s

/-- DOMAIN_PREPARE (R240): a commit of the domain coordinated. -/
def execDomainPrepare (i : QId) (seq : W32) (id : BitVec 16) (scene : BitVec 8) (t : W64) (s : State) : Out :=
  onQ i (fun q => Cmd.domain q seq id scene t) s

/-- COMMIT (R237): no later than tick T - 2. -/
def execCommit (i : QId) (seq : W32) (id : BitVec 16) (s : State) : Out := onQ i (fun q => Cmd.commit q seq id) s

/-- ABORT (R238): no later than tick T - 2. -/
def execAbort (i : QId) (seq : W32) (id : BitVec 16) (s : State) : Out := onQ i (fun q => Cmd.abort q seq id) s

/-- COMMIT_MISSED (R237): the end of tick T - 2 without COMMIT. -/
def execCommitMissed (i : QId) (id : BitVec 16) (s : State) : Out := onQ i (fun q => q.commitMissed id) s

/-- COMMIT_STAGE (R237): in tick T - 1. -/
def execCommitStage (i : QId) (id : BitVec 16) (s : State) : Out := onQ i (fun q => q.commitStage id) s

/-- COMMIT_TAKE_EFFECT (R242): at boundary T. -/
def execCommitTakeEffect (i : QId) (id : BitVec 16) (s : State) : Out := onQ i (fun q => q.commitEffect id) s

/-- CROSSFADE_END (R242): at boundary T + L. -/
def execCrossfadeEnd (i : QId) (gen : Fin 16) (s : State) : Out := onQ i (fun q => q.crossfadeEnd gen) s

/-- GENERATOR_WAIT_RETRY (R248): groups that wait for a generator. -/
def execGeneratorWaitRetry (i : QId) (s : State) : Out := onQ i (fun q => q.generatorRetry) s

/-- HPN_ENABLE (R255): EN written 1. -/
def execHpnEnable (i : QId) (s : State) : Out := onQ i (fun q => q.regPut 0 Reg.HPN_CTL 1) s

/-- HPN_DISABLE (R254): EN written 0. -/
def execHpnDisable (i : QId) (s : State) : Out := onQ i (fun q => q.regPut 0 Reg.HPN_CTL 0) s

/-- HPN_VERIFY (R255): the verifier from boundary a + 1. -/
def execHpnVerify (i : QId) (s : State) : Out := onQ i (fun q => q.hpnVerify) s

/-- HPN_VERIFY_RESULT (R260): its result. -/
def execHpnVerifyResult (i : QId) (s : State) : Out := onQH i (fun q h => verifyResult i q h) s

/-- LOCKSTEP_ENABLE (R255): at boundary a + 2. -/
def execLockstepEnable (i : QId) (s : State) : Out := onQ i (fun q => q.lockstepEnable) s

/-- HPN_SCHEDULE_START (R261): at CYC 128. -/
def execHpnScheduleStart (i : QId) (s : State) : Out := onQ i (fun q => q.hpnStart) s

/-- HPN_WATCHDOG (R263): the allowance of an entry used up. -/
def execHpnWatchdog (i : QId) (s : State) : Out := onQ i (fun q => q.hpnWatchdog) s

end Sys2Proof.Machine
end

