-- ==== Sys2Proof/Machine/MemCmds.lean ====
section
/-! DEFINITION. DMA, bus, memory (spec/16) and registers without a row of their own: the meanings of these commands, one definition for each, over the operations of the block. -/

namespace Sys2Proof.Machine

/-- RC_REGISTER_READ (R12, R453): of a quadrant's register, or by the host of one of its own domain. -/
def rcReadAt (i : QId) (w : Writer) (off : Nat) (counted : List Nat) (d : Device) : Device :=
  if off < 0x100000 then d.setQuad i ((d.quad i).rcRead w off counted)
  else if off ≥ 0x2000000 ∧ w = Writer.host ∧ !d.host.deaf then (d.hostRcRead off counted).share
  else d

/-- DMA_SUBMIT (R422): a descriptor submitted. -/
def execDmaSubmit (i : QId) (w : Writer) (desc : W32) (s : State) : Out := onQ i (fun q => q.regPut w Reg.DMA_SUBMIT desc) s

/-- DMA_DESCRIPTOR_COPIED (R422): its copy ended. -/
def execDmaDescriptorCopied (i : QId) (w : Writer) (s : State) : Out := onQ i (fun q => q.dmaCopied w) s

/-- DMA_ISSUE (R424): the next waiting item issued. -/
def execDmaIssue (i : QId) (s : State) : Out := onQ i (fun q => q.dmaIssue) s

/-- DMA_COMPLETE (R426): an issued item finished. -/
def execDmaComplete (i : QId) (k : Nat) (s : State) : Out := onQ i (fun q => (q.dmaComplete k).granted 19) s

/-- DMA_RESET (R429): DMA_CTL.RST written 1. -/
def execDmaReset (i : QId) (s : State) : Out :=
  onQ i (fun q => q.regPut 0 Reg.DMA_CTL 1) s

/-- QOS_AGE_PROMOTE (R411): a beat that has waited LIM cycles. -/
def execQosAgePromote (i : QId) (m : Fin 23) (s : State) : Out := onQ i (fun q => q.agePromote m.val) s

/-- PATROL_SCRUB (R421): one period of the patrol. -/
def execPatrolScrub (i : QId) (found : List Upset) (s : State) : Out := onQ i (fun q => q.patrol found) s

/-- DRAM_REFRESH (R421): MR4 read. -/
def execDramRefresh (i : QId) (refr : BitVec 3) (hot : Bool) (s : State) : Out := onQ i (fun q => q.dramRefresh refr hot) s

/-- REGISTER_WRITE (R13): a write of a register. -/
def execRegisterWrite (i : QId) (w : Writer) (off : BitVec 20) (be : BitVec 4) (v : W32) (s : State) : Out :=
  onQ i (fun q => q.registerWrite w off.toNat be v) s

/-- RC_REGISTER_READ (R12): a read of a register with RC fields. -/
def execRcRegisterRead (i : QId) (w : Writer) (off : BitVec 26) (counted : List Nat) (s : State) : Out :=
  onAll (fun d => rcReadAt i w off.toNat counted d) s

end Sys2Proof.Machine
end

