-- ==== Sys2Proof/Machine/MgtCmds.lean ====
section
/-! DEFINITION. Mladcel (spec/18): the meanings of these commands, one definition for each, over the operations of the block. -/

namespace Sys2Proof.Machine

/-- MLADCEL_START (R465): slot verified, log scanned. -/
def execMladcelStart (s : State) : Out := onAll (fun d => d.mladcelStart.share) s

/-- MLADCEL_WATCHDOG (R455): the watchdog. -/
def execMladcelWatchdog (s : State) : Out := onAll (fun d => (d.hostReset 2).share) s

/-- SENSOR_SAMPLE (R456): a sample of a sensor. -/
def execSensorSample (r : Reading) (s : State) : Out := onAll (fun d => (d.sensor r).share) s

/-- LOG_WRITE (R460): the first record due. -/
def execLogWrite (wornBlock : Bool) (s : State) : Out := onAll (fun d => (d.logWrite wornBlock).share) s

/-- QUADRANT_EVENT_PASS (R461): the events a quadrant kept. -/
def execQuadrantEventPass (i : QId) (s : State) : Out := onQH i (fun q h => passEvents i q h) s

/-- STAGE_OPEN (R466): the unselected slot erased. -/
def execStageOpen (target : BitVec 3) (len : W32) (s : State) : Out :=
  onAll (fun d => (d.mgtCommand 1 (target.setWidth 32) len).share) s

/-- STAGE_WRITE (R466): the staging buffer programmed. -/
def execStageWrite (off bytes : W32) (s : State) : Out := onAll (fun d => (d.mgtCommand 2 off bytes).share) s

/-- STAGE_VERIFY (R466): the signature checked. -/
def execStageVerify (s : State) : Out := onAll (fun d => (d.mgtCommand 3 0 0).share) s

/-- ACTIVATE (R466): the verified slot selected. -/
def execActivate (target : BitVec 3) (auto : Bool) (s : State) : Out :=
  onAll (fun d => (d.mgtCommand 4 (target.setWidth 32) (if auto then 1 else 0)).share) s

/-- LOG_READ (R463): log records copied. -/
def execLogRead (seq : W32) (s : State) : Out := onAll (fun d => (d.mgtCommand 5 seq 0).share) s

/-- RECORD_WRITE (R458): the persistent record written. -/
def execRecordWrite (s : State) : Out := onAll (fun d => (d.mgtCommand 6 0 0).share) s

/-- LIFECYCLE (R469): the lifecycle moved on. -/
def execLifecycle (st : BitVec 3) (confirm : W32) (s : State) : Out :=
  onAll (fun d => (d.mgtCommand 7 (st.setWidth 32) confirm).share) s

/-- KEY_PROGRAM (R468): a customer key programmed. -/
def execKeyProgram (slot : Fin 4) (s : State) : Out := onAll (fun d => (d.mgtCommand 8 (w32 slot.val) 0).share) s

/-- KEY_REVOKE (R468): a customer key revoked. -/
def execKeyRevoke (slot : Fin 4) (s : State) : Out := onAll (fun d => (d.mgtCommand 9 (w32 slot.val) 0).share) s

/-- MGT_COMMAND_COMPLETE (R471): the command finished. -/
def execMgtCommandComplete (s : State) : Out := onAll (fun d => d.mgtComplete.share) s

/-- SUPPLY_SAG (R467): VDD_MGT below 3.05 V. -/
def execSupplySag (mgtMv : Nat) (s : State) : Out := onAll (fun d => (d.sag mgtMv).share) s

/-- NV_WRITE_RESUME (R467): VDD_MGT above 3.15 V for 10 ms. -/
def execNvWriteResume (mgtMv : Nat) (s : State) : Out := onAll (fun d => (d.nvResume mgtMv).share) s

end Sys2Proof.Machine
end

