-- ==== Sys2Proof/Machine/NetCmds.lean ====
section
/-! DEFINITION. Ethernet, GPIO and streams (spec/12): the meanings of these commands, one definition for each, over the operations of the block. -/

namespace Sys2Proof.Machine

/-- ETH_FRAME_RECEIVE (R313): a frame received. -/
def execEthFrameReceive (i : QId) (p : Fin 2) (f : EthFrame) (s : State) : Out := onQ i (fun q => q.ethReceive p f) s

/-- TX_RING_POST (R318): WP advanced. -/
def execTxRingPost (i : QId) (p : Fin 2) (wp : W32) (s : State) : Out :=
  onQ i (fun q => q.regPut 0 (Reg.NET_TRB p.val + 8) wp) s

/-- TX_LAUNCH (R319): the next frame started. -/
def execTxLaunch (i : QId) (p : Fin 2) (s : State) : Out := onQ i (fun q => q.txLaunch p) s

/-- TX_FRAME_DONE (R318): the record of a sent frame. -/
def execTxFrameDone (i : QId) (p : Fin 2) (s : State) : Out := onQ i (fun q => q.txDone p) s

/-- GPIO_CAPTURE (R321): an edge at a pin. -/
def execGpioCapture (i : QId) (pin : Fin 16) (rise : Bool) (s : State) : Out := onQ i (fun q => q.gpioCapture pin rise) s

/-- GPIO_CAPTURE_POP (R321): the oldest capture removed. -/
def execGpioCapturePop (i : QId) (s : State) : Out := onQ i (fun q => q.gpioPop) s

/-- GPIO_LAUNCH_QUEUE (R321): a launch queued. -/
def execGpioLaunchQueue (i : QId) (pin : Fin 8) (lvl : Bool) (s : State) : Out :=
  onQ i (fun q => q.whenOpen 0 (Reg.TIM_GPL pin.val + 4) fun q => q.gpioQueue pin lvl) s

/-- GPIO_LAUNCH (R321): a launch due. -/
def execGpioLaunch (i : QId) (pin : Fin 8) (s : State) : Out := onQ i (fun q => q.gpioLaunch pin) s

/-- STREAM_ENABLE (R323): a stream enabled. -/
def execStreamEnable (i : QId) (rx : Bool) (k : Fin 32) (s : State) : Out :=
  onQ i (fun q => q.fieldPut (if rx then rxD k.val 0 0 0 else txD k.val 0 0 0) 1) s

/-- STREAM_PACKET_RECEIVE (R325): a packet of a receive stream. -/
def execStreamPacketReceive (i : QId) (p : Fin 2) (k : Fin 32) (pkt : RtpPacket) (s : State) : Out :=
  onQ i (fun q => q.streamPacket p k pkt) s

/-- STREAM_SAMPLE_DEADLINE (R325): samples that were not received. -/
def execStreamSampleDeadline (i : QId) (k : Fin 32) (s : State) : Out := onQ i (fun q => q.streamDeadline k) s

/-- STREAM_LOST_TIMEOUT (R325): no valid packet for the timeout. -/
def execStreamLostTimeout (i : QId) (k : Fin 32) (s : State) : Out := onQ i (fun q => q.streamLost k) s

/-- STREAM_PACKET_SEND (R326): the next packet of a transmit stream. -/
def execStreamPacketSend (i : QId) (k : Fin 32) (s : State) : Out := onQ i (fun q => q.streamSend k) s

/-- ETH_LINK_CHANGE (R327): the link of a port. -/
def execEthLinkChange (i : QId) (p : Fin 2) (up : Bool) (s : State) : Out := onQ i (fun q => q.ethLink p up) s

end Sys2Proof.Machine
end

