-- ==== Sys2Proof/Machine/PortCmds.lean ====
section
/-! DEFINITION. Serial ports, AES3, rate converters (spec/14) and decimators (spec/15): the meanings of these commands, one definition for each, over the operations of the block. -/

namespace Sys2Proof.Machine

/-- The EN bit of a port block (R384). -/
def blockEn : PortBlock → Field
  | .tdm p => Reg.PRT_TDMCFG_EN p.val
  | .rx r => Reg.PRT_AESRXCFG_EN r.val
  | .tx t => Reg.PRT_AESTXCFG_EN t.val

/-- PORT_ENABLE (R362): EN of a block written 1. -/
def execPortEnable (i : QId) (b : PortBlock) (s : State) : Out := onQ i (fun q => q.fieldPut (blockEn b) 1) s

/-- SERIAL_FRAME (R364): a frame of a serial port; `bits` are the levels sampled at its input, one to a bit clock, from the first data bit
of the frame on (R360). -/
def execSerialFrame (i : QId) (p : Fin 8) (bits : List Bool) (s : State) : Out := onQ i (fun q => q.serialFrame p bits) s

/-- SERIAL_LOST (R365): four frame periods without a frame. -/
def execSerialLost (i : QId) (p : Fin 8) (s : State) : Out := onQ i (fun q => q.serialLost p) s

/-- MASK_WRITE (R366): IMASK or OMASK written. -/
def execMaskWrite (i : QId) (p : Fin 8) (input : Bool) (mask : W32) (s : State) : Out :=
  onQ i (fun q => q.whenOpen 0 (Reg.PRT_TDMCFG p.val) fun q => q.maskWrite p input mask) s

/-- MASK_CHANGE_EFFECT (R367): at a frame start. -/
def execMaskChangeEffect (i : QId) (p : Fin 8) (input : Bool) (s : State) : Out := onQ i (fun q => q.maskEffect p input) s

/-- AES3_FRAME_RECEIVE (R370): a frame of a receiver. -/
def execAes3FrameReceive (i : QId) (r : Fin 4) (f : AesFrame) (s : State) : Out := onQ i (fun q => q.aesReceive r f) s

/-- CS_LATCH_READ (R372): a channel-status block latched for a reader. -/
def execCsLatchRead (i : QId) (w : Writer) (r : Fin 4) (s : State) : Out := onQ i (fun q => q.csLatch w r) s

/-- TXCS_WRITE (R375): the transmit channel status written. -/
def execTxcsWrite (i : QId) (t : Fin 4) (word : Fin 12) (v : W32) (s : State) : Out :=
  onQ i (fun q => q.whenOpen 0 (Reg.PRT_TXCS t.val) fun q => q.txcsWrite t word.val v) s

/-- TXCS_APPLY (R375): at a Z preamble. -/
def execTxcsApply (i : QId) (t : Fin 4) (s : State) : Out := onQ i (fun q => q.txcsApply t) s

/-- ASRC_GROUP_ENABLE (R379): EN of a group written 1. -/
def execAsrcGroupEnable (i : QId) (g : Fin 12) (s : State) : Out := onQ i (fun q => q.fieldPut (Reg.ASR_GRP_EN g.val) 1) s

/-- ASRC_FRAME_EDGE (R378): an edge at the tracker. -/
def execAsrcFrameEdge (i : QId) (g : Fin 12) (dev : Int) (ratio : W32) (pre : Preamble) (s : State) : Out :=
  onQ i (fun q => q.asrcEdge g dev ratio pre) s

/-- ASRC_FRAME_MISSING (R382): an edge that did not come. -/
def execAsrcFrameMissing (i : QId) (g : Fin 12) (s : State) : Out := onQ i (fun q => q.asrcMissing g) s

/-- AES3_FRAME_TRANSMIT (R375): a frame of a transmitter. -/
def execAes3FrameTransmit (i : QId) (t : Fin 4) (s : State) : Out := onQ i (fun q => q.aesTransmit t) s

/-- MOD_CLOCK_ENABLE (R387): EN of a clock group. -/
def execModClockEnable (i : QId) (c : Fin 8) (en : Bool) (s : State) : Out :=
  onQ i (fun q => q.fieldPut (Reg.DEC_CLK_EN c.val) (b2n en)) s

/-- DEC_INPUT_ENABLE (R401): EN of an input. -/
def execDecInputEnable (i : QId) (n : Fin 64) (en : Bool) (s : State) : Out :=
  onQ i (fun q => q.fieldPut (Reg.DEC_CH_EN n.val) (b2n en)) s

/-- SYNC_ARM (R395): a synchronising reset armed. -/
def execSyncArm (i : QId) (key : W32) (s : State) : Out := onQ i (fun q => q.regPut 0 Reg.DEC_SYNCT key) s

/-- SYNC_RESET (R395): at its boundary. -/
def execSyncReset (i : QId) (s : State) : Out := onQ i (fun q => q.syncReset) s

/-- STUCK_DETECT (R399): 4,096 modulator clocks without a change. -/
def execStuckDetect (i : QId) (n : Fin 64) (s : State) : Out := onQ i (fun q => q.stuckDetect n) s

/-- STUCK_CLEAR (R399): the data has changed. -/
def execStuckClear (i : QId) (n : Fin 64) (s : State) : Out := onQ i (fun q => q.stuckClear n) s

end Sys2Proof.Machine
end

