-- ==== Sys2Proof/Machine/SchedCmds.lean ====
section
/-! DEFINITION. Scheduler events and registers (spec/07): the meanings of these commands, one definition for each, over the operations of the block. -/

namespace Sys2Proof.Machine

/-- TASK_ASSIGN (R178): a selected instance given to a position. -/
def execTaskAssign (i : QId) (pos : Fin 16) (s : State) : Out := onQ i (fun q => q.taskAssign pos.val) s

/-- SCH_ARM_BIND (R175): the operation of SCH_ARM. -/
def execSchArmBind (i : QId) (w : Writer) (task : BitVec 12) (s : State) : Out :=
  onQ i (fun q => q.whenOpen w Reg.SCH_ARM fun q => q.armBind w task.toNat) s

/-- SCH_ARM_UNBIND (R175): the operation of SCH_ARM. -/
def execSchArmUnbind (i : QId) (w : Writer) (task : BitVec 12) (s : State) : Out :=
  onQ i (fun q => q.whenOpen w Reg.SCH_ARM fun q => q.armUnbind w task.toNat) s

/-- SCH_ARM_TICK_PERIODIC (R174): the operation of SCH_ARM. -/
def execSchArmTickPeriodic (i : QId) (w : Writer) (task : BitVec 12) (s : State) : Out :=
  onQ i (fun q => q.whenOpen w Reg.SCH_ARM fun q => q.armTick w task.toNat true) s

/-- SCH_ARM_TIME_PERIODIC (R174): the operation of SCH_ARM. -/
def execSchArmTimePeriodic (i : QId) (w : Writer) (task : BitVec 12) (s : State) : Out :=
  onQ i (fun q => q.whenOpen w Reg.SCH_ARM fun q => q.armTime w task.toNat true) s

/-- SCH_ARM_ONESHOT_TICK (R174): the operation of SCH_ARM. -/
def execSchArmOneshotTick (i : QId) (w : Writer) (task : BitVec 12) (s : State) : Out :=
  onQ i (fun q => q.whenOpen w Reg.SCH_ARM fun q => q.armTick w task.toNat false) s

/-- SCH_ARM_ONESHOT_TIME (R174): the operation of SCH_ARM. -/
def execSchArmOneshotTime (i : QId) (w : Writer) (task : BitVec 12) (s : State) : Out :=
  onQ i (fun q => q.whenOpen w Reg.SCH_ARM fun q => q.armTime w task.toNat false) s

/-- SCH_ARM_DISARM (R175): the operation of SCH_ARM. -/
def execSchArmDisarm (i : QId) (w : Writer) (task : BitVec 12) (s : State) : Out :=
  onQ i (fun q => q.whenOpen w Reg.SCH_ARM fun q => q.armDisarm w task.toNat) s

/-- TICK_LIST_EXPIRY (R173): the head of the tick list, when it is due. -/
def execTickListExpiry (i : QId) (s : State) : Out := onQ i (fun q => q.listExpiry true) s

/-- TIME_LIST_EXPIRY (R173): the head of the time list, when it is due. -/
def execTimeListExpiry (i : QId) (s : State) : Out := onQ i (fun q => q.listExpiry false) s

/-- HELD_MAKE_READY_ACCEPT (R188): one held make-ready. -/
def execHeldMakeReadyAccept (i : QId) (s : State) : Out := onQ i (fun q => q.heldNext) s

/-- MAILBOX_WRITE (R187): a word for the mailbox. -/
def execMailboxWrite (i : QId) (fromHost : Bool) (v : W32) (s : State) : Out :=
  onQ i (fun q => if fromHost then q.hostMailbox v else q.whenOpen 0 Reg.SCH_MBOX fun q => (q.mailboxWrite false v).1) s

/-- MAILBOX_DRAIN (R188): the oldest word offered. -/
def execMailboxDrain (i : QId) (s : State) : Out := onQ i (fun q => q.mailboxDrain) s

/-- FLOW_CFG_WRITE (R186): a flow configured. -/
def execFlowCfgWrite (i : QId) (f : Fin 64) (v : W32) (s : State) : Out :=
  onQ i (fun q => q.regPut 0 (Reg.SCH_FLOW_CFG f.val) v) s

end Sys2Proof.Machine
end

