-- ==== Sys2Proof/Machine/SnxWire.lean ====
section
/-! DEFINITION. The bytes of a Stanex frame (spec/13 R334 to R338): header, message area, presence map, channels, CRC-32. A frame that a
port sends stands on the link as these bytes; the frame of a STANEX_FRAME_PASS is what they say (log 120). -/

namespace Sys2Proof.Machine

/-! ### CRC-32 (R334) -/

/-- One byte taken into a CRC-32 of the bit order of the IEEE 802.3 FCS. -/
def crcStep (c : W32) (b : Byte) : W32 :=
  (List.range 8).foldl (fun c _ => if c.getLsbD 0 then (c >>> 1) ^^^ 0xEDB88320 else c >>> 1) (c ^^^ b.setWidth 32)

/-- The CRC-32 of some bytes. -/
def crc32 (l : List Byte) : W32 := ~~~ l.foldl crcStep 0xFFFFFFFF

/-! ### Writing -/

/-- A byte of a number. -/
def byte1 (n : Nat) : Byte := BitVec.ofNat 8 n
/-- Bytes of zero. -/
def zeros (n : Nat) : List Byte := List.replicate n 0

/-- Bytes 0 to 31 (R335). -/
def SnxFrame.header (f : SnxFrame) : List Byte :=
  bytesLE f.tick.toNat 8 ++ bytesLE f.tstart.toNat 8 ++ bytesLE f.acc.toNat 4 ++ bytesLE f.mofs.toNat 4 ++ bytesLE f.domid.toNat 2 ++
    [byte1 (f.mgr.toNat + 64 * b2n f.stamped + 128 * b2n f.wrap), byte1 (f.origin.toNat + 64 * f.turn.toNat),
     byte1 (f.fi.toNat + 4 * b2n f.ring), f.hops, f.dsl, 0]

/-- The 32 bytes of a cell (R337). -/
def MsgCell.bytes (c : MsgCell) : List Byte :=
  [c.typ, c.src, c.dst, c.result] ++ bytesLE c.tk.toNat 8 ++ [c.sl, c.fsl] ++ bytesLE c.fl.toNat 2 ++ bytesLE c.ffl.toNat 2 ++ zeros 14

/-- The 8 bytes of a decision (R336). -/
def Decision.bytes (d : Decision) : List Byte := bytesLE (d.id.toNat + 65536 + 131072 * b2n d.go) 4 ++ bytesLE d.t.toNat 4

/-- Bytes 32 to 287 (R336). -/
def MsgArea.bytes (m : MsgArea) : List Byte :=
  (match m.prep with
    | some p => bytesLE p.id.toNat 2 ++ [p.scene, 1] ++ bytesLE p.a.toNat 4 ++ bytesLE p.t.toNat 8
    | none => zeros 16) ++
  (match m.report with | some r => bytesLE r.toNat 2 ++ [1] | none => zeros 3) ++ zeros 5 ++
  bytesLE m.ready.toNat 8 ++ bytesLE m.nready.toNat 8 ++
  ((m.decisions.take 4).map Decision.bytes).flatten ++ zeros (8 * (4 - m.decisions.length)) ++
  [m.asl, m.afsl] ++ bytesLE m.afl.toNat 2 ++ bytesLE m.affl.toNat 2 ++ [m.nsl, 0] ++ bytesLE m.dfl.toNat 2 ++ bytesLE m.nfl.toNat 2 ++
  bytesLE (m.leff.getD 0).toNat 4 ++ bytesLE (m.weff.getD 0).toNat 4 ++
  [byte1 (b2n m.nwrap + 2 * b2n m.leff.isSome + 4 * b2n m.weff.isSome), 0, 0, 0] ++ bytesLE m.members.toNat 8 ++
  ((m.cells.take 4).map MsgCell.bytes).flatten ++ zeros (32 * (4 - m.cells.length)) ++ zeros 24

/-- The presence map (R334). -/
def presence (chans : List Chan) (n : Nat) : List Byte :=
  (List.range (n / 8)).map fun b =>
    byte1 ((List.range 8).map fun i => 2 ^ i * b2n (chans.any fun c => c.pos.toNat == 8 * b + i)).sum

/-- The 20 bytes of a channel, its samples in the .p layout; zero where it is absent (R338). -/
def chanBytes (chans : List Chan) (n : Nat) : List Byte :=
  match chans.find? fun c => c.pos.toNat == n with
  | some c => ([0, 1, 2, 3].map fun j => bytesLE (c.smp.getD j 0).toNat 5).flatten
  | none => zeros 20

/-- The bytes that the CRC covers. -/
def SnxFrame.body (f : SnxFrame) : List Byte :=
  let n := chanLimit f.fi.toNat
  SnxFrame.header f ++ MsgArea.bytes f.msg ++ presence f.chans n ++ ((List.range n).map (chanBytes f.chans)).flatten

/-- A frame on the link (R334); the CRC of a pass that failed goes on inverted (R341). -/
def SnxFrame.wire (f : SnxFrame) : List Byte :=
  let c := crc32 (SnxFrame.body f)
  SnxFrame.body f ++ bytesLE (if f.crcOk then c else ~~~c).toNat 4

/-- What a port sent last, as it stood on the link. -/
def Quad.snxTx (q : Quad) (p : Fin 2) : Option (List Byte) := (q.snx.sent[p]).map SnxFrame.wire

/-! ### Reading -/

/-- A little-endian field of a frame. -/
def wle (l : List Byte) (i n : Nat) : Nat := ofBytesLE ((l.drop i).take n)
/-- A field as bits. -/
def wbv (w : Nat) (l : List Byte) (i : Nat) : BitVec w := BitVec.ofNat w (wle l i ((w + 7) / 8))

/-- A cell read (R337). -/
def cellOf (l : List Byte) : MsgCell :=
  { typ := wbv 8 l 0, src := wbv 8 l 1, dst := wbv 8 l 2, result := wbv 8 l 3, tk := wbv 64 l 4, sl := wbv 8 l 12, fsl := wbv 8 l 13,
    fl := wbv 16 l 14, ffl := wbv 16 l 16 }

/-- A message area read (R336); `l` starts at byte 32. -/
def msgOf (l : List Byte) : MsgArea :=
  let flag (i b : Nat) : Bool := bitN (wle l i 1) b
  { prep := if flag 3 0 then some ⟨wbv 16 l 0, wbv 8 l 2, wbv 32 l 4, wbv 64 l 8⟩ else none
    report := if flag 18 0 then some (wbv 16 l 16) else none
    ready := wbv 64 l 24, nready := wbv 64 l 32
    decisions := ([0, 1, 2, 3].filter fun i => flag (42 + 8 * i) 0).map fun i =>
      ⟨wbv 16 l (40 + 8 * i), flag (42 + 8 * i) 1, wbv 32 l (44 + 8 * i)⟩
    asl := wbv 8 l 72, afsl := wbv 8 l 73, afl := wbv 16 l 74, affl := wbv 16 l 76, nsl := wbv 8 l 78, dfl := wbv 16 l 80, nfl := wbv 16 l 82
    leff := if flag 92 1 then some (wbv 32 l 84) else none
    weff := if flag 92 2 then some (wbv 32 l 88) else none
    nwrap := flag 92 0, members := wbv 64 l 96
    cells := ([0, 1, 2, 3].map fun i => cellOf (l.drop (104 + 32 * i))).filter fun c => c.typ != 0 }

/-- The channels that the presence map names (R334, R338). -/
def chansOf (l : List Byte) (n : Nat) : List Chan :=
  ((List.range n).filter fun c => bitN (wle l (288 + c / 8) 1) (c % 8)).map fun c =>
    ⟨BitVec.ofNat 11 c, [0, 1, 2, 3].map fun j => wbv 40 l (288 + n / 8 + 20 * c + 5 * j)⟩

/-- A frame read from the link, its CRC checked (R334 to R338, R341). -/
def frameOf (l : List Byte) : SnxFrame :=
  let n := chanLimit (wle l 28 1 % 4)
  let end_ := 288 + n / 8 + 20 * n
  { tick := wbv 64 l 0, tstart := wbv 64 l 8, acc := wbv 32 l 16, mofs := wbv 32 l 20, domid := wbv 16 l 24,
    mgr := BitVec.ofNat 6 (wle l 26 1), stamped := bitN (wle l 26 1) 6, wrap := bitN (wle l 26 1) 7,
    origin := BitVec.ofNat 6 (wle l 27 1), turn := BitVec.ofNat 2 (wle l 27 1 / 64), fi := BitVec.ofNat 2 (wle l 28 1),
    ring := bitN (wle l 28 1) 2, hops := wbv 8 l 29, dsl := wbv 8 l 30, msg := msgOf (l.drop 32), chans := chansOf l n,
    crcOk := l.length == end_ + 4 && wbv 32 l end_ == crc32 (l.take end_) }

/-- A pass whose bytes arrive at a port: the frame they say, by STANEX_FRAME_PASS. -/
def Quad.wirePass (q : Quad) (p : Fin 2) (l : List Byte) : Quad := q.framePass p (frameOf l)

end Sys2Proof.Machine
end

