-- ==== Sys2Proof/Machine/StanexCmds.lean ====
section
/-! DEFINITION. Stanex (spec/13): the meanings of these commands, one definition for each, over the operations of the block. -/

namespace Sys2Proof.Machine

/-- SNX_ENABLE (R332): EN written. -/
def execSnxEnable (i : QId) (en : Bool) (s : State) : Out := onQ i (fun q => q.fieldPut Reg.SNX_CFG_EN (b2n en)) s

/-- LINK_BLOCK_LOCK (R332): block lock gained. -/
def execLinkBlockLock (i : QId) (p : Fin 2) (s : State) : Out := onQ i (fun q => q.linkLock p) s

/-- LINK_UP (R332): 1 ms in lock and 16 probe replies. -/
def execLinkUp (i : QId) (p : Fin 2) (s : State) : Out := onQ i (fun q => q.linkUp p) s

/-- LINK_DOWN (R332): lock lost. -/
def execLinkDown (i : QId) (p : Fin 2) (s : State) : Out := onQ i (fun q => q.linkDown p) s

/-- DELAY_PROBE_RECEIVE (R333): a probe returned. -/
def execDelayProbeReceive (i : QId) (p : Fin 2) (roundTrip turnaround : Nat) (s : State) : Out :=
  onQ i (fun q => q.delayProbe p roundTrip turnaround) s

/-- FRAME_LAUNCH (R342): frame F started by the origin. -/
def execFrameLaunch (i : QId) (s : State) : Out := onQ i (fun q => q.launch) s

/-- STANEX_FRAME_PASS (R334, R340): a pass of a frame, as its bytes come in at a port. -/
def execStanexFramePass (i : QId) (p : Fin 2) (bytes : List Byte) (s : State) : Out := onQ i (fun q => q.wirePass p bytes) s

/-- FRAME_MISSING (R350): no good stamped start within 26 µs. -/
def execFrameMissing (i : QId) (s : State) : Out := onQ i (fun q => q.frameMissing) s

/-- STANDBY_TAKEOVER (R350): a standby becomes manager. -/
def execStandbyTakeover (i : QId) (s : State) : Out := onQ i (fun q => q.takeover.clkRecheck) s

/-- MANAGER_START (R347): a manager starts its domain. -/
def execManagerStart (i : QId) (s : State) : Out := onQ i (fun q => q.managerStart.clkRecheck) s

/-- SNX_JOIN (R348): entry requested. -/
def execSnxJoin (i : QId) (s : State) : Out := onQ i (fun q => q.regPut 0 Reg.SNX_CTL 1) s

/-- JOIN_RETRY (R348): no JOINACK within 16 ticks. -/
def execJoinRetry (i : QId) (s : State) : Out := onQ i (fun q => q.joinRetry) s

/-- MEMBER_ENTRY (R348): at boundary J. -/
def execMemberEntry (i : QId) (s : State) : Out := onQ i (fun q => q.memberEntry) s

/-- SNX_LEAVE (R349): the domain left. -/
def execSnxLeave (i : QId) (s : State) : Out := onQ i (fun q => q.regPut 0 Reg.SNX_CTL 2) s

/-- SNX_YIELD (R352): management offered to YMID. -/
def execSnxYield (i : QId) (ymid : BitVec 6) (s : State) : Out :=
  onQ i (fun q => q.regPut 0 Reg.SNX_CTL (Reg.SNX_CTL_YMID.put 4 ymid.toNat)) s

/-- YIELD_HANDOVER (R352): at boundary H. -/
def execYieldHandover (i : QId) (s : State) : Out := onQ i (fun q => q.handover.clkRecheck) s

/-- WRAP_CHANGE (R355): at boundary WEFF. -/
def execWrapChange (i : QId) (s : State) : Out := onQ i (fun q => q.wrapChange) s

/-- HEAL (R356): SXB of the origin UP for 1 s. -/
def execHeal (i : QId) (s : State) : Out := onQ i (fun q => q.snxHeal) s

/-- LEVEL_CHANGE (R357): at boundary LEFF. -/
def execLevelChange (i : QId) (s : State) : Out := onQ i (fun q => q.levelChange) s

end Sys2Proof.Machine
end

