-- ==== Sys2Proof/Machine/Tasks.lean ====
section
/-! DEFINITION. Scheduler and Kiln instructions (spec/06 R157 to R161), and the events of a core that no instruction brings: bus requests
completing, event entry, posts, write-back (spec/03 R80 to R90). -/

namespace Sys2Proof.Machine

/-! ### Scheduler instructions -/

/-- REQ (R157, R160): in set 1, or while a task runs, ILLEGAL_OP. -/
def execReq (i : Issue) (s : State) : Out :=
  onQ i.q (Quad.issue i fun _ k =>
    { traps := causeIf (k.act || k.run.isSome) Cause.illegalOp ++ k.slotTrap
      moves := noMoves i
      act := fun q c => q.waitForWork c }) s

/-- Whether everything that `done` waits for has ended (R117, R158): results in flight, and the bus requests of what ends with it. -/
def Core.retired (k : Core) : Bool :=
  k.flights.isEmpty && k.ask.isNone && !(k.reqs.any fun x => (k.act && k.cls == 0) || x.set == k.act)

/-- The end of the running task in set 0, or of the task that a TRAP handler ends (R87, R158), and the wait for the next. -/
def Quad.endTask (q : Quad) (c : Fin 17) (status : Nat) (empty : Bool) : Quad :=
  let k := q.core c
  let q := match k.run with | some r => q.endRun k.pos.val r status k.set0.st empty | none => q
  let k := q.core c
  let q := q.setCore c { k with run := none, act := false, slots := 0, target := none, rep := 0, evWait := .none }
  match k.assigned with
  | some i => q.startAssigned c i
  | none => q.waitForWork c

/-- What `done` does once it need not wait. -/
def Quad.doDone (q : Quad) (c : Fin 17) : Quad :=
  let k := q.core c
  if k.act then (if k.cls = 0 then q.endTask c St.abortedFault true else q.endEvent c)
  else if (q.hpnEntryOf c).isSome then q.hpnEndRun St.done
  else q.endTask c St.done false

/-- DONE (R87, R158, R160, R261): issued again until it need not wait; in a TICK or DBG handler ILLEGAL_OP. -/
def execDone (i : Issue) (s : State) : Out :=
  onQ i.q (Quad.issue i fun _ k =>
    { traps := causeIf (k.act && decide (k.cls ≥ 2)) Cause.illegalOp ++ k.slotTrap
      moves := noMoves i
      act := fun q c => if (q.core c).retired then q.doDone c else q }) s

/-- The active set made to wait for room (R157). -/
def Core.spawnWait (k : Core) (t : Nat) : Core := if k.act then { k with evWait := .spawn t } else { k with wait := .spawn t }

/-- SPAWN (R157, R187): a held request stalls the core. -/
def execSpawn (i : Issue) (dx : Fin 16) (s : State) : Out :=
  onQ i.q (Quad.issue i fun _ k =>
    let t := (k.dr dx).toNat % 4096
    { reads := [.d dx], moves := noMoves i
      act := fun q c =>
        match q.makeReady t with
        | (q, .held) => q.setCore c ((q.core c).spawnWait t)
        | (q, _) => q.setCore c (q.core c).advance }) s

/-- A question put to the scheduler (R157): its answer will be the latest write to Dd (R116). -/
def Core.putAsk (k : Core) (cancel : Bool) (arg : W40) (dd : Fin 16) : Core :=
  { k with
    flights := k.flights.filterMap fun f => f.after k.act (.reg (.d dd) 0)
    reqs := k.reqs.map fun x => if x.set = k.act ∧ x.dst = some (.d dd) then { x with dst := none } else x
    ask := some ⟨cancel, arg, k.act, some dd⟩ }

/-- The plan of `spawn.nb` and `cancel`. -/
def askPlan (i : Issue) (cancel : Bool) (dd dx : Fin 16) (k : Core) : Plan :=
  let v := k.dr dx
  { reads := [.d dx], writes := [.d dd], moves := noMoves i, asks := true
    act := fun q c => q.setCore c ((q.core c).putAsk cancel v dd).advance }

/-- SPAWN_NB (R157). -/
def execSpawnNb (i : Issue) (dd dx : Fin 16) (s : State) : Out := onQ i.q (Quad.issue i fun _ k => askPlan i false dd dx k) s

/-- CANCEL (R157, R159). -/
def execCancel (i : Issue) (dd dx : Fin 16) (s : State) : Out := onQ i.q (Quad.issue i fun _ k => askPlan i true dd dx k) s

/-- The status of a make-ready's answer (R157). -/
def Ready.status : Ready → Nat
  | .accepted => St.done
  | .held => St.held
  | .refused => St.refused

/-- What the scheduler answers to a question (R157, R159, R189). -/
def Quad.answer (q : Quad) (a : Ask) : Quad × Nat :=
  if a.cancel then q.cancelTask (a.arg.toNat % 4096)
  else if a.arg.toNat ≥ 4096 then (q, St.refused)
  else let r := q.makeReady a.arg.toNat; (r.1, r.2.status)

/-- SCHEDULER_ANSWER (R157): the answer lands in the set that asked (R83). -/
def Quad.schedulerAnswer (q : Quad) (c : Fin 17) : Quad :=
  match (q.core c).ask with
  | none => q
  | some a =>
    let r := q.answer a
    let k := r.1.core c
    let put (k : Core) : Core := match a.dd with | some n => k.putReg a.set (.d n) (BitVec.ofNat 40 r.2) | none => k
    (r.1.setCore c { put k with ask := none }).pairMap c put

/-- SCHEDULER_ANSWER. -/
def execSchedulerAnswer (q : QId) (c : Fin 17) (s : State) : Out := onQ q (fun q => q.schedulerAnswer c) s

/-- The release by `frel` of the running instance (R158): once. -/
def Quad.flowRelease (q : Quad) (c : Fin 17) : Quad :=
  let k := q.core c
  match k.run with
  | some r =>
    if r.frel then q else (q.setCore c { k with run := some { r with frel := true } }).releasable r.inst r.ctx false
  | none => q

/-- FREL (R158, R160). DESIGN CHOICE (log 144): where no task runs in set 0, it raises FLOW too. -/
def execFrel (i : Issue) (s : State) : Out :=
  onQ i.q (Quad.issue i fun _ k =>
    { traps := causeIf k.act Cause.illegalOp ++
        causeIf (match k.run with | some r => r.inst.flow.isNone | none => true) Cause.flow
      moves := noMoves i
      act := fun q c =>
        let q := q.flowRelease c
        q.setCore c (q.core c).advance }) s

/-- The word that `pfs` reads (R157). -/
def Quad.pfsWord (q : Quad) (pos : Nat) : Nat :=
  if pos < 4 then (match q.prefAt pos with | some x => x.task + 4096 | none => 0) else 0

/-- PFS (R157). -/
def execPfs (i : Issue) (dd : Fin 16) (s : State) : Out :=
  onQ i.q (Quad.issue i fun q k =>
    { writes := [.d dd], moves := noMoves i
      puts := [(1, .reg (.d dd) (BitVec.ofNat 40 (q.pfsWord k.pos.val)))] }) s

/-! ### Kiln instructions (R161) -/

/-- The Kiln word of the running task, in an EVT handler of the event task. DESIGN CHOICE (log 121): where no task runs, zero. -/
def Core.kilnWord (k : Core) : W40 :=
  match (if k.act && k.cls == 1 then k.evtRun else k.run) with
  | some r => r.word &&& 0x7FFFF
  | none => 0

/-- The blend weight of a Kiln word. -/
def blend (w : W40) : W40 := if w.getLsbD 18 then (w &&& 0xFFFF) <<< 15 else 0

/-- KLD (R161). -/
def execKld (i : Issue) (dd : Fin 16) (s : State) : Out :=
  onQ i.q (Quad.issue i fun _ k => { writes := [.d dd], moves := noMoves i, puts := [(2, .reg (.d dd) k.kilnWord)] }) s

/-- KFG (R161). -/
def execKfg (i : Issue) (dd : Fin 16) (s : State) : Out :=
  onQ i.q (Quad.issue i fun _ k => { writes := [.d dd], moves := noMoves i, puts := [(2, .reg (.d dd) (blend k.kilnWord))] }) s

/-! ### Bus requests completing (R82, R83, R108, R152) -/

/-- A load delivered: its register written, earlier requests for it superseded, EC or EU set in the set that issued it. -/
def Core.deliver (k : Core) (before : List BusReq) (x : BusReq) (after : List BusReq) : Core :=
  let gone (y : BusReq) : BusReq := if y.set = x.set ∧ y.dst = x.dst then { y with dst := none } else y
  let k := match x.dst with
    | some r => k.setSet x.set ((k.getSet x.set).write r x.val)
    | none => k
  let k := match x.ecc with
    | .clean => k
    | .corr => k.mapSt x.set fun st => st ||| stEC
    | .uncorr => k.mapSt x.set fun st => st ||| stEU
  { k with reqs := before.map gone ++ after }

/-- Takes the `n`-th load out of a list of requests: those before it, it, those after it. -/
def pickLoad : List BusReq → Nat → Option (List BusReq × BusReq × List BusReq)
  | [], _ => none
  | x :: t, n =>
    if x.store then (pickLoad t n).map fun r => (x :: r.1, r.2.1, r.2.2)
    else match n with
      | 0 => some ([], x, t)
      | n + 1 => (pickLoad t n).map fun r => (x :: r.1, r.2.1, r.2.2)

/-- The `n`-th outstanding load of a core landed. -/
def Core.landLoad (k : Core) (n : Nat) : Core := match pickLoad k.reqs n with | some (b, x, a) => k.deliver b x a | none => k

/-- BUS_LOAD_LAND: the `n`-th outstanding load of a core lands, once it is the oldest request to its target (R108). -/
def Quad.busLoadLand (q : Quad) (c : Fin 17) (n : Nat) : Quad :=
  if q.follows c then q
  else
    match pickLoad (q.core c).reqs n with
    | some (b, x, a) =>
      if b.any fun y => y.tgt == x.tgt then q
      else ((q.setCore c ((q.core c).deliver b x a)).pairMap c fun k => k.landLoad n).granted (q.core c).pos.val
    | none => q

/-- BUS_LOAD_LAND (R82). -/
def execBusLoadLand (q : QId) (c : Fin 17) (n : Nat) (s : State) : Out := onQ q (fun q => q.busLoadLand c n) s

/-- The requests without the oldest store that no older request to its target precedes; `seen` are the targets of those before. -/
def dropStore (seen : List Nat) : List BusReq → List BusReq
  | [] => []
  | x :: t => if x.store && !seen.contains x.tgt then t else x :: dropStore (x.tgt :: seen) t

/-- BUS_STORE_COMPLETE (R108): the oldest outstanding store of a core that is next at its target completes there. -/
def Quad.busStoreComplete (q : Quad) (c : Fin 17) : Quad :=
  if q.follows c then q
  else
    let drop (k : Core) : Core := { k with reqs := dropStore [] k.reqs }
    ((q.setCore c (drop (q.core c))).pairMap c drop).granted (q.core c).pos.val

/-- BUS_STORE_COMPLETE. -/
def execBusStoreComplete (q : QId) (c : Fin 17) (s : State) : Out := onQ q (fun q => q.busStoreComplete c) s

/-! ### Events (R84 to R86, R90, R180) -/

/-- Whether a core is at an instruction boundary at which it may take an event (R85): set 0 active, no repetition left, the next
instruction in no delay slot. A blocked `req` and a stalled instruction count as one (R90, R91). -/
def Core.atBoundary (k : Core) : Bool := !k.act && k.rep == 0 && k.slots == 0 && !k.stopped

/-- Entry to the EVT handler with its instance (R86, R166). -/
def Quad.enterEvt (q : Quad) (c : Fin 17) (i : Inst) : Quad :=
  let q := (q.noteTask i.task).noteWait i
  let k := (q.core c).enter (cclkPerTick q.fi) 1 0 (q.core c).pc
  q.setCore c { k with
    set1 := k.set1.startWrites i (q.tEntry i.task) (q.tCtx i.task)
    evtRun := some ⟨i, q.kilnWordOf i.task, false, false, St.done, none, q.tCtx i.task⟩
    pendEvt := none }

/-- EVENT_ENTRY (R85, R86): the pending event of highest priority. -/
def Quad.eventEntry (q : Quad) (c : Fin 17) : Quad :=
  let k := q.core c
  let per := cclkPerTick q.fi
  if q.follows c || !k.atBoundary || q.mode == .scour || q.mode == .halt then q
  else
    (match k.pendEvt with
     | some i => q.enterEvt c i
     | none =>
       if k.pendTick then q.setCore c { k.enter per 2 0 k.pc with pendTick := false }
       else if k.pendDbg then q.setCore c { k.enter per 3 0 k.pc with pendDbg := false }
       else q).pairEnter c

/-- EVENT_ENTRY. -/
def execEventEntry (q : QId) (c : Fin 17) (s : State) : Out := onQ q (fun q => q.eventEntry c) s

/-- EVT_POST (R180). -/
def execEvtPost (q : QId) (pos : Fin 16) (s : State) : Out := onQ q (fun q => q.evtPost pos.val) s

/-- DEBUG_PORT_EVENT (R84, R468): while EVM.DBG is 1, and in no lifecycle state that closes the debug port. -/
def Quad.debugEvent (q : Quad) (life : Life) (c : Fin 17) : Quad :=
  let k := q.core c
  if life == .sealed_ || life == .void_ || !k.evm.getLsbD 1 || k.stopped then q
  else q.setCore c { k with pendDbg := true }

/-- DEBUG_PORT_EVENT. -/
def execDebugPortEvent (q : QId) (c : Fin 17) (s : State) : Out :=
  onQH q (fun q h => (q.debugEvent h.life c, h)) s

/-- ECC_WRITEBACK (R80, R416): the corrected word written back; a read after it finds the word clean. -/
def Quad.eccWriteback (q : Quad) (a : Nat) : Quad :=
  if q.eccBack.contains a then
    { q with eccBack := q.eccBack.filter fun x => x != a
             ecc := if q.eccAt a == .corr then q.ecc.del a else q.ecc }
  else q

/-- ECC_WRITEBACK. -/
def execEccWriteback (q : QId) (addr : Nat) (s : State) : Out := onQ q (fun q => q.eccWriteback addr) s

end Sys2Proof.Machine
end

