-- ==== Sys2Proof/Machine/Dispatch.lean ====
section
/-! DEFINITION. The effect of every command on everything but the queue: one arm for each constructor of `Instr`, each a call of its
meaning. -/

namespace Sys2Proof.Machine

def exec (i : Instr) (s : State) : Host.Outcome State Fault Refusal :=
  match i with
  | .mpy iss an dx dy => Sys2Proof.Machine.execMpy iss an dx dy s
  | .mac iss an dx dy => Sys2Proof.Machine.execMac iss an dx dy s
  | .msu iss an dx dy => Sys2Proof.Machine.execMsu iss an dx dy s
  | .mpy2 iss an dx dy du dv => Sys2Proof.Machine.execMpy2 iss an dx dy du dv s
  | .mac2 iss an dx dy du dv => Sys2Proof.Machine.execMac2 iss an dx dy du dv s
  | .msu2 iss an dx dy du dv => Sys2Proof.Machine.execMsu2 iss an dx dy du dv s
  | .mas2 iss an dx dy du dv => Sys2Proof.Machine.execMas2 iss an dx dy du dv s
  | .dualMultiply iss op1 op2 an dx dy am du dv => Sys2Proof.Machine.execDualMultiply iss op1 op2 an dx dy am du dv s
  | .clrAcc iss an => Sys2Proof.Machine.execClrAcc iss an s
  | .amovD iss an dx => Sys2Proof.Machine.execAmovD iss an dx s
  | .amovAcc iss an am => Sys2Proof.Machine.execAmovAcc iss an am s
  | .aadd iss an am ak => Sys2Proof.Machine.execAadd iss an am ak s
  | .asub iss an am ak => Sys2Proof.Machine.execAsub iss an am ak s
  | .aneg iss an am => Sys2Proof.Machine.execAneg iss an am s
  | .aabs iss an am => Sys2Proof.Machine.execAabs iss an am s
  | .ashAcc iss an am k => Sys2Proof.Machine.execAshAcc iss an am k s
  | .ex2 iss an dx => Sys2Proof.Machine.execEx2 iss an dx s
  | .tsta iss am => Sys2Proof.Machine.execTsta iss am s
  | .ext iss dd an rnd k => Sys2Proof.Machine.execExt iss dd an rnd k s
  | .extl iss dd an => Sys2Proof.Machine.execExtl iss dd an s
  | .nrma iss dd an => Sys2Proof.Machine.execNrma iss dd an s
  | .lg2 iss dd an => Sys2Proof.Machine.execLg2 iss dd an s
  | .bqs iss dq an dx rnd k => Sys2Proof.Machine.execBqs iss dq an dx rnd k s
  | .add iss dd dx y => Sys2Proof.Machine.execAdd iss dd dx y s
  | .sub iss dd dx y => Sys2Proof.Machine.execSub iss dd dx y s
  | .adc iss dd dx y => Sys2Proof.Machine.execAdc iss dd dx y s
  | .sbc iss dd dx y => Sys2Proof.Machine.execSbc iss dd dx y s
  | .neg iss dd dx => Sys2Proof.Machine.execNeg iss dd dx s
  | .abs iss dd dx => Sys2Proof.Machine.execAbs iss dd dx s
  | .min iss dd dx y => Sys2Proof.Machine.execMin iss dd dx y s
  | .max iss dd dx y => Sys2Proof.Machine.execMax iss dd dx y s
  | .clip iss dd dx y => Sys2Proof.Machine.execClip iss dd dx y s
  | .clrD iss dd => Sys2Proof.Machine.execClrD iss dd s
  | .cmp iss dx y => Sys2Proof.Machine.execCmp iss dx y s
  | .tst iss dx => Sys2Proof.Machine.execTst iss dx s
  | .sel iss dd dx dy cc => Sys2Proof.Machine.execSel iss dd dx dy cc s
  | .nrm iss dd dx => Sys2Proof.Machine.execNrm iss dd dx s
  | .asl iss dd dx y => Sys2Proof.Machine.execAsl iss dd dx y s
  | .asr iss dd dx y => Sys2Proof.Machine.execAsr iss dd dx y s
  | .lsl iss dd dx y => Sys2Proof.Machine.execLsl iss dd dx y s
  | .lsr iss dd dx y => Sys2Proof.Machine.execLsr iss dd dx y s
  | .ashD iss dd dx y => Sys2Proof.Machine.execAshD iss dd dx y s
  | .and iss dd dx dy => Sys2Proof.Machine.execAnd iss dd dx dy s
  | .or iss dd dx dy => Sys2Proof.Machine.execOr iss dd dx dy s
  | .xor iss dd dx dy => Sys2Proof.Machine.execXor iss dd dx dy s
  | .andn iss dd dx dy => Sys2Proof.Machine.execAndn iss dd dx dy s
  | .not iss dd dx => Sys2Proof.Machine.execNot iss dd dx s
  | .nop iss => Sys2Proof.Machine.execNop iss s
  | .movesAlone iss => Sys2Proof.Machine.execMovesAlone iss s
  | .busAccess iss store reg p w mode val => Sys2Proof.Machine.execBusAccess iss store reg p w mode val s
  | .xyAccess iss store reg p mode val => Sys2Proof.Machine.execXyAccess iss store reg p mode val s
  | .fence iss => Sys2Proof.Machine.execFence iss s
  | .mov iss rd rs => Sys2Proof.Machine.execMov iss rd rs s
  | .ldi iss rd imm => Sys2Proof.Machine.execLdi iss rd imm s
  | .mfs iss dd sys => Sys2Proof.Machine.execMfs iss dd sys s
  | .mts iss sys dx => Sys2Proof.Machine.execMts iss sys dx s
  | .xmov iss rd rs dir => Sys2Proof.Machine.execXmov iss rd rs dir s
  | .clrc iss p => Sys2Proof.Machine.execClrc iss p s
  | .brTarget iss cc target => Sys2Proof.Machine.execBrTarget iss cc target s
  | .brReg iss cc dx => Sys2Proof.Machine.execBrReg iss cc dx s
  | .callTarget iss target => Sys2Proof.Machine.execCallTarget iss target s
  | .callReg iss dx => Sys2Proof.Machine.execCallReg iss dx s
  | .ret iss => Sys2Proof.Machine.execRet iss s
  | .rte iss => Sys2Proof.Machine.execRte iss s
  | .jpm iss target => Sys2Proof.Machine.execJpm iss target s
  | .dbnz iss dx target => Sys2Proof.Machine.execDbnz iss dx target s
  | .repImm iss n1 => Sys2Proof.Machine.execRepImm iss n1 s
  | .repReg iss dx => Sys2Proof.Machine.execRepReg iss dx s
  | .brk iss => Sys2Proof.Machine.execBrk iss s
  | .req iss => Sys2Proof.Machine.execReq iss s
  | .done iss => Sys2Proof.Machine.execDone iss s
  | .spawn iss dx => Sys2Proof.Machine.execSpawn iss dx s
  | .spawnNb iss dd dx => Sys2Proof.Machine.execSpawnNb iss dd dx s
  | .cancel iss dd dx => Sys2Proof.Machine.execCancel iss dd dx s
  | .frel iss => Sys2Proof.Machine.execFrel iss s
  | .pfs iss dd => Sys2Proof.Machine.execPfs iss dd s
  | .kld iss dd => Sys2Proof.Machine.execKld iss dd s
  | .kfg iss dd => Sys2Proof.Machine.execKfg iss dd s
  | .busLoadLand q c k => Sys2Proof.Machine.execBusLoadLand q c k s
  | .busStoreComplete q c => Sys2Proof.Machine.execBusStoreComplete q c s
  | .eventEntry q c => Sys2Proof.Machine.execEventEntry q c s
  | .evtPost q pos => Sys2Proof.Machine.execEvtPost q pos s
  | .debugPortEvent q c => Sys2Proof.Machine.execDebugPortEvent q c s
  | .eccWriteback q addr => Sys2Proof.Machine.execEccWriteback q addr s
  | .tickBoundary q env => Sys2Proof.Machine.execTickBoundary q env s
  | .qctlRateWrite q v => Sys2Proof.Machine.execQctlRateWrite q v s
  | .qctlTickRead q => Sys2Proof.Machine.execQctlTickRead q s
  | .gridStart q => Sys2Proof.Machine.execGridStart q s
  | .modeRun q seq => Sys2Proof.Machine.execModeRun q seq s
  | .modeStandby q seq => Sys2Proof.Machine.execModeStandby q seq s
  | .modeService q seq => Sys2Proof.Machine.execModeService q seq s
  | .modeHardpan q seq => Sys2Proof.Machine.execModeHardpan q seq s
  | .modeHalt q seq => Sys2Proof.Machine.execModeHalt q seq s
  | .modeChangeEffect q => Sys2Proof.Machine.execModeChangeEffect q s
  | .porAssert => Sys2Proof.Machine.execPorAssert s
  | .quadrantResetPin q lowNs => Sys2Proof.Machine.execQuadrantResetPin q lowNs s
  | .softReset q => Sys2Proof.Machine.execSoftReset q s
  | .clockLossReset q lost => Sys2Proof.Machine.execClockLossReset q lost s
  | .resetRelease q => Sys2Proof.Machine.execResetRelease q s
  | .porRelease vddHpMv => Sys2Proof.Machine.execPorRelease vddHpMv s
  | .supplyPorHold coreMv mgtMv => Sys2Proof.Machine.execSupplyPorHold coreMv mgtMv s
  | .supplyHoldRelease coreMv mgtMv => Sys2Proof.Machine.execSupplyHoldRelease coreMv mgtMv s
  | .scourStart q dram => Sys2Proof.Machine.execScourStart q dram s
  | .scourComplete q emg => Sys2Proof.Machine.execScourComplete q emg s
  | .remapWrite q remap => Sys2Proof.Machine.execRemapWrite q remap s
  | .autostartDelivery q corrupt => Sys2Proof.Machine.execAutostartDelivery q corrupt s
  | .autostartDigestCheck q => Sys2Proof.Machine.execAutostartDigestCheck q s
  | .taskAssign q pos => Sys2Proof.Machine.execTaskAssign q pos s
  | .schArmBind q w task => Sys2Proof.Machine.execSchArmBind q w task s
  | .schArmUnbind q w task => Sys2Proof.Machine.execSchArmUnbind q w task s
  | .schArmTickPeriodic q w task => Sys2Proof.Machine.execSchArmTickPeriodic q w task s
  | .schArmTimePeriodic q w task => Sys2Proof.Machine.execSchArmTimePeriodic q w task s
  | .schArmOneshotTick q w task => Sys2Proof.Machine.execSchArmOneshotTick q w task s
  | .schArmOneshotTime q w task => Sys2Proof.Machine.execSchArmOneshotTime q w task s
  | .schArmDisarm q w task => Sys2Proof.Machine.execSchArmDisarm q w task s
  | .tickListExpiry q => Sys2Proof.Machine.execTickListExpiry q s
  | .timeListExpiry q => Sys2Proof.Machine.execTimeListExpiry q s
  | .heldMakeReadyAccept q => Sys2Proof.Machine.execHeldMakeReadyAccept q s
  | .mailboxWrite q fromHost v => Sys2Proof.Machine.execMailboxWrite q fromHost v s
  | .mailboxDrain q => Sys2Proof.Machine.execMailboxDrain q s
  | .flowCfgWrite q f v => Sys2Proof.Machine.execFlowCfgWrite q f v s
  | .fabricPass q upsets => Sys2Proof.Machine.execFabricPass q upsets s
  | .fabricVote q => Sys2Proof.Machine.execFabricVote q s
  | .xchOwnWrite q slot v => Sys2Proof.Machine.execXchOwnWrite q slot v s
  | .routeTableWrite q w offset data => Sys2Proof.Machine.execRouteTableWrite q w offset data s
  | .directWriteResume q => Sys2Proof.Machine.execDirectWriteResume q s
  | .meterPeriodEnd q => Sys2Proof.Machine.execMeterPeriodEnd q s
  | .meterPeriodWrite q mper => Sys2Proof.Machine.execMeterPeriodWrite q mper s
  | .prepare q seq id scene t => Sys2Proof.Machine.execPrepare q seq id scene t s
  | .domainPrepare q seq id scene t => Sys2Proof.Machine.execDomainPrepare q seq id scene t s
  | .commit q seq id => Sys2Proof.Machine.execCommit q seq id s
  | .abort q seq id => Sys2Proof.Machine.execAbort q seq id s
  | .commitMissed q id => Sys2Proof.Machine.execCommitMissed q id s
  | .commitStage q id => Sys2Proof.Machine.execCommitStage q id s
  | .commitTakeEffect q id => Sys2Proof.Machine.execCommitTakeEffect q id s
  | .crossfadeEnd q gen => Sys2Proof.Machine.execCrossfadeEnd q gen s
  | .generatorWaitRetry q => Sys2Proof.Machine.execGeneratorWaitRetry q s
  | .hpnEnable q => Sys2Proof.Machine.execHpnEnable q s
  | .hpnDisable q => Sys2Proof.Machine.execHpnDisable q s
  | .hpnVerify q => Sys2Proof.Machine.execHpnVerify q s
  | .hpnVerifyResult q => Sys2Proof.Machine.execHpnVerifyResult q s
  | .lockstepEnable q => Sys2Proof.Machine.execLockstepEnable q s
  | .hpnScheduleStart q => Sys2Proof.Machine.execHpnScheduleStart q s
  | .hpnWatchdog q => Sys2Proof.Machine.execHpnWatchdog q s
  | .referenceEdge q n dev edge => Sys2Proof.Machine.execReferenceEdge q n dev edge s
  | .referenceEdgeMissing q n => Sys2Proof.Machine.execReferenceEdgeMissing q n s
  | .freqGateEnd q n ppm => Sys2Proof.Machine.execFreqGateEnd q n ppm s
  | .waitToRestoreExpiry q n => Sys2Proof.Machine.execWaitToRestoreExpiry q n s
  | .clkSelWrite q v => Sys2Proof.Machine.execClkSelWrite q v s
  | .refcfgRankWrite q n rank => Sys2Proof.Machine.execRefcfgRankWrite q n rank s
  | .cmdRefsel q seq ranks sel mode force rank07 rank89 => Sys2Proof.Machine.execCmdRefsel q seq ranks sel mode force rank07 rank89 s
  | .timIncrFrWrite q v => Sys2Proof.Machine.execTimIncrFrWrite q v s
  | .timIncrNsWrite q v => Sys2Proof.Machine.execTimIncrNsWrite q v s
  | .timNowRead q w => Sys2Proof.Machine.execTimNowRead q w s
  | .slewStart q cyc => Sys2Proof.Machine.execSlewStart q cyc s
  | .slewEnd q => Sys2Proof.Machine.execSlewEnd q s
  | .timeStepAdd q w permit => Sys2Proof.Machine.execTimeStepAdd q w permit s
  | .timeStepSet q w permit => Sys2Proof.Machine.execTimeStepSet q w permit s
  | .suspectClear q => Sys2Proof.Machine.execSuspectClear q s
  | .ethFrameReceive q p f => Sys2Proof.Machine.execEthFrameReceive q p f s
  | .txRingPost q p wp => Sys2Proof.Machine.execTxRingPost q p wp s
  | .txLaunch q p => Sys2Proof.Machine.execTxLaunch q p s
  | .txFrameDone q p => Sys2Proof.Machine.execTxFrameDone q p s
  | .gpioCapture q pin rise => Sys2Proof.Machine.execGpioCapture q pin rise s
  | .gpioCapturePop q => Sys2Proof.Machine.execGpioCapturePop q s
  | .gpioLaunchQueue q pin lvl => Sys2Proof.Machine.execGpioLaunchQueue q pin lvl s
  | .gpioLaunch q pin => Sys2Proof.Machine.execGpioLaunch q pin s
  | .streamEnable q rx k => Sys2Proof.Machine.execStreamEnable q rx k s
  | .streamPacketReceive q p k pkt => Sys2Proof.Machine.execStreamPacketReceive q p k pkt s
  | .streamSampleDeadline q k => Sys2Proof.Machine.execStreamSampleDeadline q k s
  | .streamLostTimeout q k => Sys2Proof.Machine.execStreamLostTimeout q k s
  | .streamPacketSend q k => Sys2Proof.Machine.execStreamPacketSend q k s
  | .snxEnable q en => Sys2Proof.Machine.execSnxEnable q en s
  | .linkBlockLock q p => Sys2Proof.Machine.execLinkBlockLock q p s
  | .linkUp q p => Sys2Proof.Machine.execLinkUp q p s
  | .linkDown q p => Sys2Proof.Machine.execLinkDown q p s
  | .delayProbeReceive q p roundTrip turnaround => Sys2Proof.Machine.execDelayProbeReceive q p roundTrip turnaround s
  | .frameLaunch q => Sys2Proof.Machine.execFrameLaunch q s
  | .stanexFramePass q p f => Sys2Proof.Machine.execStanexFramePass q p f s
  | .frameMissing q => Sys2Proof.Machine.execFrameMissing q s
  | .standbyTakeover q => Sys2Proof.Machine.execStandbyTakeover q s
  | .managerStart q => Sys2Proof.Machine.execManagerStart q s
  | .snxJoin q => Sys2Proof.Machine.execSnxJoin q s
  | .joinRetry q => Sys2Proof.Machine.execJoinRetry q s
  | .memberEntry q => Sys2Proof.Machine.execMemberEntry q s
  | .snxLeave q => Sys2Proof.Machine.execSnxLeave q s
  | .snxYield q ymid => Sys2Proof.Machine.execSnxYield q ymid s
  | .yieldHandover q => Sys2Proof.Machine.execYieldHandover q s
  | .wrapChange q => Sys2Proof.Machine.execWrapChange q s
  | .heal q => Sys2Proof.Machine.execHeal q s
  | .levelChange q => Sys2Proof.Machine.execLevelChange q s
  | .portEnable q b => Sys2Proof.Machine.execPortEnable q b s
  | .serialFrame q p bits => Sys2Proof.Machine.execSerialFrame q p bits s
  | .serialLost q p => Sys2Proof.Machine.execSerialLost q p s
  | .maskWrite q p input mask => Sys2Proof.Machine.execMaskWrite q p input mask s
  | .maskChangeEffect q p input => Sys2Proof.Machine.execMaskChangeEffect q p input s
  | .aes3FrameReceive q r f => Sys2Proof.Machine.execAes3FrameReceive q r f s
  | .csLatchRead q w r => Sys2Proof.Machine.execCsLatchRead q w r s
  | .txcsWrite q t word v => Sys2Proof.Machine.execTxcsWrite q t word v s
  | .txcsApply q t => Sys2Proof.Machine.execTxcsApply q t s
  | .asrcGroupEnable q g => Sys2Proof.Machine.execAsrcGroupEnable q g s
  | .asrcFrameEdge q g dev ratio pre => Sys2Proof.Machine.execAsrcFrameEdge q g dev ratio pre s
  | .asrcFrameMissing q g => Sys2Proof.Machine.execAsrcFrameMissing q g s
  | .modClockEnable q c en => Sys2Proof.Machine.execModClockEnable q c en s
  | .decInputEnable q n en => Sys2Proof.Machine.execDecInputEnable q n en s
  | .syncArm q key => Sys2Proof.Machine.execSyncArm q key s
  | .syncReset q => Sys2Proof.Machine.execSyncReset q s
  | .stuckDetect q n => Sys2Proof.Machine.execStuckDetect q n s
  | .dmaSubmit q w desc => Sys2Proof.Machine.execDmaSubmit q w desc s
  | .dmaDescriptorCopied q w => Sys2Proof.Machine.execDmaDescriptorCopied q w s
  | .dmaIssue q => Sys2Proof.Machine.execDmaIssue q s
  | .dmaComplete q k => Sys2Proof.Machine.execDmaComplete q k s
  | .dmaReset q => Sys2Proof.Machine.execDmaReset q s
  | .qosAgePromote q m => Sys2Proof.Machine.execQosAgePromote q m s
  | .patrolScrub q found => Sys2Proof.Machine.execPatrolScrub q found s
  | .hostWrite addr be v => Sys2Proof.Machine.execHostWrite addr be v s
  | .hostWriteDrain f => Sys2Proof.Machine.execHostWriteDrain f s
  | .bulkWrite q v => Sys2Proof.Machine.execBulkWrite q v s
  | .bulkRead q => Sys2Proof.Machine.execBulkRead q s
  | .cmdWpWrite q v => Sys2Proof.Machine.execCmdWpWrite q v s
  | .cplRpWrite q v => Sys2Proof.Machine.execCplRpWrite q v s
  | .commandAccept q => Sys2Proof.Machine.execCommandAccept q s
  | .cmdLoad q seq addr len dig slot => Sys2Proof.Machine.execCmdLoad q seq addr len dig slot s
  | .loadContinue q => Sys2Proof.Machine.execLoadContinue q s
  | .cmdWrite q seq addr be v => Sys2Proof.Machine.execCmdWrite q seq addr be v s
  | .cmdRead q seq addr words => Sys2Proof.Machine.execCmdRead q seq addr words s
  | .readContinue q => Sys2Proof.Machine.execReadContinue q s
  | .cmdCancel q seq task => Sys2Proof.Machine.execCmdCancel q seq task s
  | .cmdRotate q seq pos => Sys2Proof.Machine.execCmdRotate q seq pos s
  | .cmdAuger q seq => Sys2Proof.Machine.execCmdAuger q seq s
  | .windowRefresh q => Sys2Proof.Machine.execWindowRefresh q s
  | .statusModeRead q => Sys2Proof.Machine.execStatusModeRead q s
  | .hostDomainReset => Sys2Proof.Machine.execHostDomainReset s
  | .completionReplay q => Sys2Proof.Machine.execCompletionReplay q s
  | .mladcelStart => Sys2Proof.Machine.execMladcelStart s
  | .mladcelWatchdog => Sys2Proof.Machine.execMladcelWatchdog s
  | .sensorSample r => Sys2Proof.Machine.execSensorSample r s
  | .logWrite wornBlock => Sys2Proof.Machine.execLogWrite wornBlock s
  | .quadrantEventPass q => Sys2Proof.Machine.execQuadrantEventPass q s
  | .stageOpen target len => Sys2Proof.Machine.execStageOpen target len s
  | .stageWrite off bytes => Sys2Proof.Machine.execStageWrite off bytes s
  | .stageVerify => Sys2Proof.Machine.execStageVerify s
  | .activate target auto => Sys2Proof.Machine.execActivate target auto s
  | .logRead seq => Sys2Proof.Machine.execLogRead seq s
  | .recordWrite => Sys2Proof.Machine.execRecordWrite s
  | .lifecycle st confirm => Sys2Proof.Machine.execLifecycle st confirm s
  | .keyProgram slot => Sys2Proof.Machine.execKeyProgram slot s
  | .keyRevoke slot => Sys2Proof.Machine.execKeyRevoke slot s
  | .mgtCommandComplete => Sys2Proof.Machine.execMgtCommandComplete s
  | .supplySag mgtMv => Sys2Proof.Machine.execSupplySag mgtMv s
  | .nvWriteResume mgtMv => Sys2Proof.Machine.execNvWriteResume mgtMv s
  | .faultPolicyAction q cls => Sys2Proof.Machine.execFaultPolicyAction q cls s
  | .rotateMove q => Sys2Proof.Machine.execRotateMove q s
  | .rotateAbandon q => Sys2Proof.Machine.execRotateAbandon q s
  | .coreTestDone q pass phase => Sys2Proof.Machine.execCoreTestDone q pass phase s
  | .autoRotate q => Sys2Proof.Machine.execAutoRotate q s
  | .coreRepairMove q => Sys2Proof.Machine.execCoreRepairMove q s
  | .testCore q seq b c => Sys2Proof.Machine.execTestCore q seq b c s
  | .testSramBist q seq b c => Sys2Proof.Machine.execTestSramBist q seq b c s
  | .testDramBist q seq b c => Sys2Proof.Machine.execTestDramBist q seq b c s
  | .testSerdesRecal q seq b c => Sys2Proof.Machine.execTestSerdesRecal q seq b c s
  | .testDecimator q seq b c => Sys2Proof.Machine.execTestDecimator q seq b c s
  | .testAsrc q seq b c => Sys2Proof.Machine.execTestAsrc q seq b c s
  | .testEthLoopback q seq b c => Sys2Proof.Machine.execTestEthLoopback q seq b c s
  | .testFabric q seq b c => Sys2Proof.Machine.execTestFabric q seq b c s
  | .testCustomer q seq b c => Sys2Proof.Machine.execTestCustomer q seq b c s
  | .testDone q pass detail => Sys2Proof.Machine.execTestDone q pass detail s
  | .registerWrite q w off be v => Sys2Proof.Machine.execRegisterWrite q w off be v s
  | .rcRegisterRead q w off counted => Sys2Proof.Machine.execRcRegisterRead q w off counted s
  | .ethLinkChange q p up => Sys2Proof.Machine.execEthLinkChange q p up s
  | .aes3FrameTransmit q t => Sys2Proof.Machine.execAes3FrameTransmit q t s
  | .schedulerAnswer q c => Sys2Proof.Machine.execSchedulerAnswer q c s
  | .stuckClear q n => Sys2Proof.Machine.execStuckClear q n s
  | .dramRefresh q refr hot => Sys2Proof.Machine.execDramRefresh q refr hot s

end Sys2Proof.Machine
end

