-- ==== Sys2Proof/Safety.lean ====
section
/-! DEFINITION. What counts as a safe run, in the terms that statements use: one step, runs, the form that every memory of the
device keeps, when a core can take an instruction and what its issue leaves, and what a command leaves alone. -/

namespace Sys2Proof.Machine

/-- A step that answers a next state. -/
def Next (s t : State) : Prop := step s = .next t

/-- The states that a run from `s` can pass through. -/
inductive Reaches (s : State) : State → Prop
  | here : Reaches s s
  | more {t u : State} : Reaches s t → Next t u → Reaches s u

/-- A property of every state of every run from `s`. -/
def Always (P : State → Prop) (s : State) : Prop := ∀ t, Reaches s t → P t

/-- Every memory of the device in canonical form (R106, R107): the four quadrants' and the staging buffer. -/
def State.memWf (s : State) : Prop := (∀ i, (s.quad i).mem.wf) ∧ s.dev.host.staging.wf

/-! ### What a command leaves alone -/

/-- The commands that wait are those that waited before. -/
def SameQueue (s t : State) : Prop := t.pending = s.pending

/-- Everything outside quadrant `i` is as it was (R18, R22). -/
def OnlyQuad (i : QId) (s t : State) : Prop :=
  t.pending = s.pending ∧ t.dev.host = s.dev.host ∧ ∀ j, j ≠ i → t.quad j = s.quad j

/-- Every byte of a quadrant's memory reads as it did. -/
def SameBytes (q r : Quad) : Prop := ∀ a, r.mem.read a = q.mem.read a

/-- Every byte of a quadrant's memory outside `n` bytes from an address reads as it did. -/
def SameBytesBut (a n : Nat) (q r : Quad) : Prop := ∀ x, x < a ∨ a + n ≤ x → r.mem.read x = q.mem.read x

/-- Every register of a quadrant but some holds the word it held, the copies of writers and readers included. -/
def SameRegsBut (offs : List Nat) (q r : Quad) : Prop := ∀ o, o ∉ offs → r.rd o = q.rd o

/-! ### What a command answers -/

/-- A command that answers a next state in which nothing outside one quadrant has changed and that quadrant is as `P` says. -/
def Answers (c : Instr) (s : State) (i : QId) (P : Quad → Prop) : Prop :=
  ∃ t, exec c s = .next t ∧ OnlyQuad i s t ∧ P (t.quad i)

/-- A command of the whole device that answers a next state as `P` says; the commands that wait are those that waited. -/
def AnswersAll (c : Instr) (s : State) (P : State → Prop) : Prop := ∃ t, exec c s = .next t ∧ t.pending = s.pending ∧ P t

/-- A quadrant that is another but for the words of some registers. -/
def RegsOnly (offs : List Nat) (q r : Quad) : Prop :=
  r = { q with regs := r.regs, mem := r.mem } ∧ SameBytes q r ∧ SameRegsBut offs q r

/-- A quadrant in which nothing has changed but what Mladcel passes to its window. -/
def SharedOnly (q r : Quad) : Prop :=
  r = { q with hp := { q.hp with hostFlags := r.hp.hostFlags }, mem := r.mem } ∧ SameBytes q r

/-- A host domain that is another in every register, every staged byte and all else. -/
def SameHost (x y : HostDom) : Prop :=
  y = { x with regs := y.regs, staging := y.staging } ∧ (∀ o, y.rd o = x.rd o) ∧ ∀ a, y.staging.read a = x.staging.read a

/-- A command on the host domain, which reaches the quadrants in nothing but what Mladcel passes to their windows, and answers a host
domain as `P` says. -/
def AnswersHost (c : Instr) (s : State) (P : HostDom → Prop) : Prop :=
  AnswersAll c s fun t => (∀ j, SharedOnly (s.quad j) (t.quad j)) ∧ P t.dev.host

/-- Neither in SCOUR nor in HALT. -/
abbrev Quad.up (q : Quad) : Prop := q.mode ≠ .scour ∧ q.mode ≠ .halt

/-- A quadrant with a command taken under its sequence number (R442). -/
def Quad.accepted (q : Quad) (seq : W32) (op : Nat) : Quad :=
  { q with hp := { q.hp with lastSeq := some seq, open_ := q.hp.open_ ++ [(seq, op)] } }

/-- A command's completion record, and nothing else, added to the host port of a quadrant (R444): it is kept, it ends its command, and it
stands in the ring at WP, which goes on. -/
def Told (p p2 : HostPort) (r : CplRec) : Prop :=
  p2 = { p with
    kept := p.kept ++ [r]
    open_ := p.open_.filter fun o => o.1 ≠ r.seq
    cplRing := p2.cplRing
    cplWp := if p.away then p.cplWp else p.cplWp + 1 } ∧
    (p.away = false → p2.cplRing.find (p.cplWp.toNat % 512) = some r)

/-- The record of an operation that a quadrant's clock stamps now (R444). -/
def Quad.stamped (q : Quad) (status op aux : Nat) (seq resA : W32) : CplRec :=
  ⟨status, op, false, aux, seq, resA, q.tim.ns.setWidth 32⟩

/-- No core stores to a dual-ported bank in the same cycle, and Kiln neither seals nor holds any byte of a range (R407, R232 to R234). -/
def Quad.quietTo (q : Quad) (a n : Nat) : Prop :=
  (∀ c : Fin 17, (q.core c).dual = []) ∧ q.kln.hold.length ≤ 4096 ∧ ∀ j, j < n → q.role (q.phys a + j) = .plain

/-- Nothing keeps bytes that the part writes to scratch memory from their place of the map (R407, R254, R232 to R234). -/
def Quad.openTo (q : Quad) (a n : Nat) : Prop :=
  q.scratch a n = true ∧ q.quietTo a n ∧ ∀ j, j < n → q.hpnKept (q.phys a + j) = false

/-- Four words of a record at an address of memory. -/
def Quad.record4 (q : Quad) (a w0 w1 w2 w3 : Nat) : Prop :=
  q.mem.readLE a 4 = w0 % 2 ^ 32 ∧ q.mem.readLE (a + 4) 4 = w1 % 2 ^ 32 ∧ q.mem.readLE (a + 8) 4 = w2 % 2 ^ 32 ∧
    q.mem.readLE (a + 12) 4 = w3 % 2 ^ 32

/-- The record of an instance that ran to its end at a position, outside any flow, on what ST held (R190, R14, R74). -/
def Quad.ranRecord (q : Quad) (r : Run) (pos : Nat) (st : W32) (a : Nat) (t : Quad) : Prop :=
  t.record4 a (r.inst.task + 4096 * (pos % 16) + 65536 * (if st &&& stEU ≠ 0 then 0x31 else if st &&& stEC ≠ 0 then 0x30 else 0) +
      33554432 * (if r.inst.evt then 1 else 0) + 134217728 * r.inst.level)
    r.inst.tick.toNat q.tim.ns.toNat (st.toNat / 256 % 4096)

/-! ### The quadrant that a command acts on -/

/-- The quadrant that a command acts on, and whether it acts on the host domain as well; none for a command of the whole device. -/
def homeOf : Instr → Option (QId × Bool)
  | .mpy i .. => some (i.q, false)
  | .mac i .. => some (i.q, false)
  | .msu i .. => some (i.q, false)
  | .mpy2 i .. => some (i.q, false)
  | .mac2 i .. => some (i.q, false)
  | .msu2 i .. => some (i.q, false)
  | .mas2 i .. => some (i.q, false)
  | .dualMultiply i .. => some (i.q, false)
  | .clrAcc i .. => some (i.q, false)
  | .amovD i .. => some (i.q, false)
  | .amovAcc i .. => some (i.q, false)
  | .aadd i .. => some (i.q, false)
  | .asub i .. => some (i.q, false)
  | .aneg i .. => some (i.q, false)
  | .aabs i .. => some (i.q, false)
  | .ashAcc i .. => some (i.q, false)
  | .ex2 i .. => some (i.q, false)
  | .tsta i .. => some (i.q, false)
  | .ext i .. => some (i.q, false)
  | .extl i .. => some (i.q, false)
  | .nrma i .. => some (i.q, false)
  | .lg2 i .. => some (i.q, false)
  | .bqs i .. => some (i.q, false)
  | .add i .. => some (i.q, false)
  | .sub i .. => some (i.q, false)
  | .adc i .. => some (i.q, false)
  | .sbc i .. => some (i.q, false)
  | .neg i .. => some (i.q, false)
  | .abs i .. => some (i.q, false)
  | .min i .. => some (i.q, false)
  | .max i .. => some (i.q, false)
  | .clip i .. => some (i.q, false)
  | .clrD i .. => some (i.q, false)
  | .cmp i .. => some (i.q, false)
  | .tst i .. => some (i.q, false)
  | .sel i .. => some (i.q, false)
  | .nrm i .. => some (i.q, false)
  | .asl i .. => some (i.q, false)
  | .asr i .. => some (i.q, false)
  | .lsl i .. => some (i.q, false)
  | .lsr i .. => some (i.q, false)
  | .ashD i .. => some (i.q, false)
  | .and i .. => some (i.q, false)
  | .or i .. => some (i.q, false)
  | .xor i .. => some (i.q, false)
  | .andn i .. => some (i.q, false)
  | .not i .. => some (i.q, false)
  | .nop i => some (i.q, false)
  | .movesAlone i => some (i.q, false)
  | .busAccess i .. => some (i.q, false)
  | .xyAccess i .. => some (i.q, false)
  | .fence i => some (i.q, false)
  | .mov i .. => some (i.q, false)
  | .ldi i .. => some (i.q, false)
  | .mfs i .. => some (i.q, false)
  | .mts i .. => some (i.q, false)
  | .xmov i .. => some (i.q, false)
  | .clrc i .. => some (i.q, false)
  | .brTarget i .. => some (i.q, false)
  | .brReg i .. => some (i.q, false)
  | .callTarget i .. => some (i.q, false)
  | .callReg i .. => some (i.q, false)
  | .ret i => some (i.q, false)
  | .rte i => some (i.q, false)
  | .jpm i .. => some (i.q, false)
  | .dbnz i .. => some (i.q, false)
  | .repImm i .. => some (i.q, false)
  | .repReg i .. => some (i.q, false)
  | .brk i => some (i.q, false)
  | .req i => some (i.q, false)
  | .done i => some (i.q, false)
  | .spawn i .. => some (i.q, false)
  | .spawnNb i .. => some (i.q, false)
  | .cancel i .. => some (i.q, false)
  | .frel i => some (i.q, false)
  | .pfs i .. => some (i.q, false)
  | .kld i .. => some (i.q, false)
  | .kfg i .. => some (i.q, false)
  | .busLoadLand i .. => some (i, false)
  | .busStoreComplete i .. => some (i, false)
  | .eventEntry i .. => some (i, false)
  | .evtPost i .. => some (i, false)
  | .debugPortEvent i .. => some (i, true)
  | .eccWriteback i .. => some (i, false)
  | .tickBoundary i .. => some (i, false)
  | .qctlRateWrite i .. => some (i, false)
  | .qctlTickRead i => some (i, false)
  | .gridStart i => some (i, false)
  | .modeRun i .. => some (i, false)
  | .modeStandby i .. => some (i, false)
  | .modeService i .. => some (i, false)
  | .modeHardpan i .. => some (i, false)
  | .modeHalt i .. => some (i, false)
  | .modeChangeEffect i => some (i, false)
  | .porAssert => none
  | .quadrantResetPin i .. => some (i, false)
  | .softReset i => some (i, false)
  | .clockLossReset .. => none
  | .resetRelease i => some (i, true)
  | .porRelease .. => none
  | .supplyPorHold .. => none
  | .supplyHoldRelease .. => none
  | .scourStart i .. => some (i, true)
  | .scourComplete .. => none
  | .remapWrite i .. => some (i, false)
  | .autostartDelivery i .. => some (i, true)
  | .autostartDigestCheck i => some (i, true)
  | .taskAssign i .. => some (i, false)
  | .schArmBind i .. => some (i, false)
  | .schArmUnbind i .. => some (i, false)
  | .schArmTickPeriodic i .. => some (i, false)
  | .schArmTimePeriodic i .. => some (i, false)
  | .schArmOneshotTick i .. => some (i, false)
  | .schArmOneshotTime i .. => some (i, false)
  | .schArmDisarm i .. => some (i, false)
  | .tickListExpiry i => some (i, false)
  | .timeListExpiry i => some (i, false)
  | .heldMakeReadyAccept i => some (i, false)
  | .mailboxWrite i .. => some (i, false)
  | .mailboxDrain i => some (i, false)
  | .flowCfgWrite i .. => some (i, false)
  | .fabricPass i .. => some (i, false)
  | .fabricVote i => some (i, false)
  | .xchOwnWrite i .. => some (i, false)
  | .routeTableWrite i .. => some (i, false)
  | .directWriteResume i => some (i, false)
  | .meterPeriodEnd i => some (i, false)
  | .meterPeriodWrite i .. => some (i, false)
  | .prepare i .. => some (i, false)
  | .domainPrepare i .. => some (i, false)
  | .commit i .. => some (i, false)
  | .abort i .. => some (i, false)
  | .commitMissed i .. => some (i, false)
  | .commitStage i .. => some (i, false)
  | .commitTakeEffect i .. => some (i, false)
  | .crossfadeEnd i .. => some (i, false)
  | .generatorWaitRetry i => some (i, false)
  | .hpnEnable i => some (i, false)
  | .hpnDisable i => some (i, false)
  | .hpnVerify i => some (i, false)
  | .hpnVerifyResult i => some (i, true)
  | .lockstepEnable i => some (i, false)
  | .hpnScheduleStart i => some (i, false)
  | .hpnWatchdog i => some (i, false)
  | .referenceEdge i .. => some (i, false)
  | .referenceEdgeMissing i .. => some (i, false)
  | .freqGateEnd i .. => some (i, false)
  | .waitToRestoreExpiry i .. => some (i, false)
  | .clkSelWrite i .. => some (i, false)
  | .refcfgRankWrite i .. => some (i, false)
  | .cmdRefsel i .. => some (i, false)
  | .timIncrFrWrite i .. => some (i, false)
  | .timIncrNsWrite i .. => some (i, false)
  | .timNowRead i .. => some (i, false)
  | .slewStart i .. => some (i, false)
  | .slewEnd i => some (i, false)
  | .timeStepAdd i .. => some (i, false)
  | .timeStepSet i .. => some (i, false)
  | .suspectClear i => some (i, false)
  | .ethFrameReceive i .. => some (i, false)
  | .txRingPost i .. => some (i, false)
  | .txLaunch i .. => some (i, false)
  | .txFrameDone i .. => some (i, false)
  | .gpioCapture i .. => some (i, false)
  | .gpioCapturePop i => some (i, false)
  | .gpioLaunchQueue i .. => some (i, false)
  | .gpioLaunch i .. => some (i, false)
  | .streamEnable i .. => some (i, false)
  | .streamPacketReceive i .. => some (i, false)
  | .streamSampleDeadline i .. => some (i, false)
  | .streamLostTimeout i .. => some (i, false)
  | .streamPacketSend i .. => some (i, false)
  | .snxEnable i .. => some (i, false)
  | .linkBlockLock i .. => some (i, false)
  | .linkUp i .. => some (i, false)
  | .linkDown i .. => some (i, false)
  | .delayProbeReceive i .. => some (i, false)
  | .frameLaunch i => some (i, false)
  | .stanexFramePass i .. => some (i, false)
  | .frameMissing i => some (i, false)
  | .standbyTakeover i => some (i, false)
  | .managerStart i => some (i, false)
  | .snxJoin i => some (i, false)
  | .joinRetry i => some (i, false)
  | .memberEntry i => some (i, false)
  | .snxLeave i => some (i, false)
  | .snxYield i .. => some (i, false)
  | .yieldHandover i => some (i, false)
  | .wrapChange i => some (i, false)
  | .heal i => some (i, false)
  | .levelChange i => some (i, false)
  | .portEnable i .. => some (i, false)
  | .serialFrame i .. => some (i, false)
  | .serialLost i .. => some (i, false)
  | .maskWrite i .. => some (i, false)
  | .maskChangeEffect i .. => some (i, false)
  | .aes3FrameReceive i .. => some (i, false)
  | .csLatchRead i .. => some (i, false)
  | .txcsWrite i .. => some (i, false)
  | .txcsApply i .. => some (i, false)
  | .asrcGroupEnable i .. => some (i, false)
  | .asrcFrameEdge i .. => some (i, false)
  | .asrcFrameMissing i .. => some (i, false)
  | .modClockEnable i .. => some (i, false)
  | .decInputEnable i .. => some (i, false)
  | .syncArm i .. => some (i, false)
  | .syncReset i => some (i, false)
  | .stuckDetect i .. => some (i, false)
  | .dmaSubmit i .. => some (i, false)
  | .dmaDescriptorCopied i .. => some (i, false)
  | .dmaIssue i => some (i, false)
  | .dmaComplete i .. => some (i, false)
  | .dmaReset i => some (i, false)
  | .qosAgePromote i .. => some (i, false)
  | .patrolScrub i .. => some (i, false)
  | .hostWrite .. => none
  | .hostWriteDrain .. => none
  | .bulkWrite i .. => some (i, false)
  | .bulkRead i => some (i, false)
  | .cmdWpWrite i .. => some (i, false)
  | .cplRpWrite i .. => some (i, false)
  | .commandAccept i => some (i, false)
  | .cmdLoad i .. => some (i, false)
  | .loadContinue i => some (i, false)
  | .cmdWrite i .. => some (i, false)
  | .cmdRead i .. => some (i, false)
  | .readContinue i => some (i, false)
  | .cmdCancel i .. => some (i, false)
  | .cmdRotate i .. => some (i, false)
  | .cmdAuger i .. => some (i, false)
  | .windowRefresh i => some (i, false)
  | .statusModeRead i => some (i, false)
  | .hostDomainReset => none
  | .completionReplay i => some (i, false)
  | .mladcelStart => none
  | .mladcelWatchdog => none
  | .sensorSample .. => none
  | .logWrite .. => none
  | .quadrantEventPass i => some (i, true)
  | .stageOpen .. => none
  | .stageWrite .. => none
  | .stageVerify => none
  | .activate .. => none
  | .logRead .. => none
  | .recordWrite => none
  | .lifecycle .. => none
  | .keyProgram .. => none
  | .keyRevoke .. => none
  | .mgtCommandComplete => none
  | .supplySag .. => none
  | .nvWriteResume .. => none
  | .faultPolicyAction i .. => some (i, false)
  | .rotateMove i => some (i, false)
  | .rotateAbandon i => some (i, false)
  | .coreTestDone i .. => some (i, false)
  | .autoRotate i => some (i, false)
  | .coreRepairMove i => some (i, false)
  | .testCore i .. => some (i, false)
  | .testSramBist i .. => some (i, false)
  | .testDramBist i .. => some (i, false)
  | .testSerdesRecal i .. => some (i, false)
  | .testDecimator i .. => some (i, false)
  | .testAsrc i .. => some (i, false)
  | .testEthLoopback i .. => some (i, false)
  | .testFabric i .. => some (i, false)
  | .testCustomer i .. => some (i, false)
  | .testDone i .. => some (i, false)
  | .registerWrite i .. => some (i, false)
  | .rcRegisterRead .. => none
  | .ethLinkChange i .. => some (i, false)
  | .aes3FrameTransmit i .. => some (i, false)
  | .schedulerAnswer i .. => some (i, false)
  | .stuckClear i .. => some (i, false)
  | .dramRefresh i .. => some (i, false)

/-! ### The issue of an instruction -/

/-- The issue that an instruction of a core is; none for a command of another kind. -/
def issueOf : Instr → Option Issue
  | .mpy i _ _ _ => some i
  | .mac i _ _ _ => some i
  | .msu i _ _ _ => some i
  | .mpy2 i _ _ _ _ _ => some i
  | .mac2 i _ _ _ _ _ => some i
  | .msu2 i _ _ _ _ _ => some i
  | .mas2 i _ _ _ _ _ => some i
  | .dualMultiply i _ _ _ _ _ _ _ _ => some i
  | .clrAcc i _ => some i
  | .amovD i _ _ => some i
  | .amovAcc i _ _ => some i
  | .aadd i _ _ _ => some i
  | .asub i _ _ _ => some i
  | .aneg i _ _ => some i
  | .aabs i _ _ => some i
  | .ashAcc i _ _ _ => some i
  | .ex2 i _ _ => some i
  | .tsta i _ => some i
  | .ext i _ _ _ _ => some i
  | .extl i _ _ => some i
  | .nrma i _ _ => some i
  | .lg2 i _ _ => some i
  | .bqs i _ _ _ _ _ => some i
  | .add i _ _ _ => some i
  | .sub i _ _ _ => some i
  | .adc i _ _ _ => some i
  | .sbc i _ _ _ => some i
  | .neg i _ _ => some i
  | .abs i _ _ => some i
  | .min i _ _ _ => some i
  | .max i _ _ _ => some i
  | .clip i _ _ _ => some i
  | .clrD i _ => some i
  | .cmp i _ _ => some i
  | .tst i _ => some i
  | .sel i _ _ _ _ => some i
  | .nrm i _ _ => some i
  | .asl i _ _ _ => some i
  | .asr i _ _ _ => some i
  | .lsl i _ _ _ => some i
  | .lsr i _ _ _ => some i
  | .ashD i _ _ _ => some i
  | .and i _ _ _ => some i
  | .or i _ _ _ => some i
  | .xor i _ _ _ => some i
  | .andn i _ _ _ => some i
  | .not i _ _ => some i
  | .nop i => some i
  | .movesAlone i => some i
  | .busAccess i _ _ _ _ _ _ => some i
  | .xyAccess i _ _ _ _ _ => some i
  | .fence i => some i
  | .mov i _ _ => some i
  | .ldi i _ _ => some i
  | .mfs i _ _ => some i
  | .mts i _ _ => some i
  | .xmov i _ _ _ => some i
  | .clrc i _ => some i
  | .brTarget i _ _ => some i
  | .brReg i _ _ => some i
  | .callTarget i _ => some i
  | .callReg i _ => some i
  | .ret i => some i
  | .rte i => some i
  | .jpm i _ => some i
  | .dbnz i _ _ => some i
  | .repImm i _ => some i
  | .repReg i _ => some i
  | .brk i => some i
  | .req i => some i
  | .done i => some i
  | .spawn i _ => some i
  | .spawnNb i _ _ => some i
  | .cancel i _ _ => some i
  | .frel i => some i
  | .pfs i _ => some i
  | .kld i _ => some i
  | .kfg i _ => some i
  | _ => none

/-- The core of an issue as the instruction finds it: the cycle of the issue has passed, with the results that land in it. -/
def State.issuer (s : State) (i : Issue) : Core :=
  { ((s.quad i.q).core i.c).cycle (cclkPerTick (s.quad i.q).fi) with parked := false }

/-- Nothing keeps a core from taking an instruction: no upset strikes, the core is not of the bound pair, it is not stopped and waits for
nothing, its fetch is sound, the word has no bit set that must be zero, and no bus request or answer is outstanding (R80 to R82, R121). -/
abbrev State.issues (s : State) (i : Issue) : Prop :=
  let q := s.quad i.q
  let k := q.core i.c
  i.upset = none ∧ i.mism = false ∧ i.rsv = false ∧ (q.locked = true → 2 ≤ k.pos.val) ∧ q.closed i.c = false ∧
    (k.rep = 0 → k.bootFetch = false ∧ q.eccAt (pmAddr i.c k.pc.toNat) = .clean) ∧ k.reqs = [] ∧ k.ask = none

/-- The state with one core of a quadrant replaced: what an instruction without an effect outside its core leaves. -/
def State.withCore (s : State) (i : QId) (c : Fin 17) (k : Core) : State :=
  { s with dev := s.dev.setQuad i ((s.quad i).setCore c k).commit }

/-- A result readable by the next instruction (R117): the active set has a data register and flags of ST written, nothing of the other set
has changed, sticky flags are readable four issues on, and the program counter has gone on. Older results still in flight stay so, but for
what was on its way to the register or the flags written (R116). Nothing else in the core differs. -/
def Core.gives (k k2 : Core) (dd : Option (Fin 16 × W40)) (mask flags : BitVec 4) (sticky : W32) : Prop :=
  k2 = { k.advance with set0 := k2.set0, set1 := k2.set1, flights := k2.flights } ∧
    k2.cur = { k.cur with
      d := (match dd with | some (n, v) => k.cur.d.set n v | none => k.cur.d)
      st := putFlags k.cur.st mask flags } ∧
    k2.getSet (!k.act) = k.getSet (!k.act) ∧
    k2.flights = ((k.flights.filter fun f =>
        !(f.set == k.act && (match dd, f.dst with | some (n, _), .reg r _ => r == .d n | _, _ => false))).map fun f =>
          if f.set = k.act then (match f.dst with | .flags m v => { f with dst := .flags (m &&& ~~~mask) v } | _ => f) else f) ++
      (if sticky = 0 then [] else [⟨k.act, 4, .sticky sticky⟩])

/-- The flags and sticky flags of a result fitted to accumulator `n`, with the result, in flight (R117, R122): `mul` marks the results that a
multiply-family instruction may be forwarded (R129). -/
def accOut (n : Fin 4) (f : Fit 96) (mul : Bool) : List (Nat × Dst) :=
  [(3, .acc n f.val mul), (3, .flags mV (nib false false f.v false))] ++
    (if f.v then [(4, .sticky ((if f.sa then stSA else 0) ||| (if f.ov then stOV else 0) ||| stAV ||| stAVA n))] else [])

/-- A result of the extract class in flight (R125, R512). -/
def extOut (dd : Fin 16) (v : W40) (flags : BitVec 4) (sticky : W32) : List (Nat × Dst) :=
  [(2, .reg (.d dd) v), (3, .flags mZNV flags)] ++ (if sticky = 0 then [] else [(4, .sticky sticky)])

/-- A core inside the handler of an event of a class, entered from `k` with the return address `epc` (R86, R156): the switch, the fetch and
the decode at the vector take three cycles. -/
def Core.entered (per : Nat) (k k2 : Core) (cls cause : Nat) (epc : PAddr) : Prop :=
  let k3 := k.cycles per 3
  k2.act = true ∧ k2.epc = epc ∧ k2.evs = (w32 (cls + 4 * cause) ||| (k3.evs &&& 0x100)) ∧ k2.pc = k3.evb + BitVec.ofNat 13 (16 * cls) ∧
    k2.set1.st = 0 ∧ k2.set1.stack = [] ∧ k2.slots = 0 ∧ k2.rep = 0 ∧ k2.run = k.run ∧ k2.set0 = k3.set0 ∧
    k2.set1.d = k3.set1.d ∧ k2.set1.p = k3.set1.p

/-- What an instruction that changes nothing but its core's registers and requests leaves of that core. -/
def Core.onlyRegs (k k2 : Core) : Prop :=
  k2 = { k.advance with set0 := k2.set0, set1 := k2.set1, flights := k2.flights, reqs := k2.reqs } ∧
    k2.getSet (!k.act) = k.getSet (!k.act)

/-- A core with results put in flight, each readable the given number of cycles after the issue (R117). -/
def Core.sends (k : Core) (l : List (Nat × Dst)) : Core := { k with flights := k.flights ++ l.map fun d => ⟨k.act, d.1, d.2⟩ }

end Sys2Proof.Machine
end

