-- ==== Sys2Proof/Certificates/Slice0/Obligations.lean ====
section
/-! DEFINITION. The statements for the provers. -/

open Sys2Proof Sys2Proof.Machine

/-! ### Fits and latencies -/

/-- R122: the fit of an exact result to `n` bits: in range it is exact and sets nothing; out of range it sets V and either saturates to the
nearer limit with SA, or wraps with OV. -/
def Obligations.FitRule : Prop :=
  ∀ (n : Nat) (e : Int) (s : Bool), 0 < n →
    let f := fit n e s
    let lo : Int := -2 ^ (n - 1)
    let hi : Int := 2 ^ (n - 1) - 1
    ((lo ≤ e ∧ e ≤ hi) → f.val.toInt = e ∧ f.v = false ∧ f.sa = false ∧ f.ov = false) ∧
      (¬(lo ≤ e ∧ e ≤ hi) → s = true → f.val.toInt = (if e > 0 then hi else lo) ∧ f.v = true ∧ f.sa = true ∧ f.ov = false) ∧
      (¬(lo ≤ e ∧ e ≤ hi) → s = false → f.val = BitVec.ofInt n e ∧ f.v = true ∧ f.sa = false ∧ f.ov = true)

/-- R117, R83, R116: a result in flight by itself lands after its count of cycles, in the set that issued it, and not before; a result of one
cycle to a D register ends whatever an earlier instruction of the set still has on its way to that register, a bus load's data included.
That a cycle is a command or an idle step is the model's choice (log 4). -/
def Obligations.ResultsLand : Prop :=
  (
    ∀ (per : Nat) (k : Core) (set mul : Bool) (due : Nat) (n : Fin 4) (v : W96), 0 < due →
      k.flights = [⟨set, due, .acc n v mul⟩] →
        (∀ m, m < due → ((k.cycles per m).getSet set) = k.getSet set) ∧
        ((k.cycles per due).getSet set).a = (k.getSet set).a.set n v ∧
        (k.cycles per due).flights = [] ∧
        (k.cycles per due).getSet (!set) = k.getSet (!set)) ∧
  (
    ∀ (k : Core) (set : Bool) (dd : Fin 16) (v : W40),
      let k2 := k.put set 1 (.reg (.d dd) v)
      (k2.getSet set).d[dd] = v ∧
        (∀ f ∈ k2.flights, f.set = set → ∀ w, f.dst ≠ .reg (.d dd) w) ∧
        (∀ x ∈ k2.reqs, x.set = set → x.dst ≠ some (.d dd)))

/-! ### Arithmetic -/

/-- R126, R127, R128, R129: what the multiply-family instructions put in flight toward their accumulators, each from operands read as
two's-complement integers and fitted once; nothing outside the core changes; and the accumulator that an accumulating multiply reads is that of
the latest multiply-family result in flight for it, at once. -/
def Obligations.MultiplyFamily : Prop :=
  (
    ∀ (s : State) (i : Issue) (an am : Fin 4) (dx dy du dv : Fin 16), s.issues i → i.pm = 0 →
      let k := s.issuer i
      let a : Int := (k.accMul an).toInt
      let b : Int := (k.accMul am).toInt
      let p : Int := (k.dr dx).toInt * (k.dr dy).toInt
      let q : Int := (k.dr du).toInt * (k.dr dv).toInt
      let gives (e : Int) : Out := .next (s.withCore i.q i.c (k.sends (accOut an (fit 96 e i.sat) true)).advance)
      exec (.mpy i an dx dy) s = gives p ∧ exec (.mac i an dx dy) s = gives (a + p) ∧ exec (.msu i an dx dy) s = gives (a - p) ∧
        exec (.mpy2 i an dx dy du dv) s = gives (p + q) ∧ exec (.mac2 i an dx dy du dv) s = gives (a + p + q) ∧
        exec (.msu2 i an dx dy du dv) s = gives (a - p - q) ∧ exec (.mas2 i an dx dy du dv) s = gives (a + p - q) ∧
        (an ≠ am → ∀ op1 op2 : BitVec 2, op1 ≠ 3 → op2 ≠ 3 →
          let sel (op : BitVec 2) (c r : Int) : Int := if op = 0 then r else if op = 1 then c + r else c - r
          let f := fit 96 (sel op1 a p) i.sat
          let g := fit 96 (sel op2 b q) i.sat
          ∃ st : W32, (∀ j, j < 32 → st.getLsbD j =
              ((j == 8 && (f.ov || g.ov)) || (j == 9 && (f.sa || g.sa)) || (j == 10 && (f.v || g.v)) ||
                (j == 16 + an.val && f.v) || (j == 16 + am.val && g.v))) ∧
            exec (.dualMultiply i op1 op2 an dx dy am du dv) s = .next (s.withCore i.q i.c
              (k.sends ([(3, .acc an f.val true), (3, .acc am g.val true), (3, .flags mV (nib false false (f.v || g.v) false))] ++
                (if st = 0 then [] else [(4, .sticky st)]))).advance))) ∧
  (
    ∀ (s : State) (i : Issue) (an : Fin 4) (dx dy : Fin 16), s.issues i → i.pm = 0 →
      ∀ t, exec (.mpy i an dx dy) s = .next t →
        (((t.quad i.q).core i.c).accMul an).toInt = (fit 96 (((s.issuer i).dr dx).toInt * ((s.issuer i).dr dy).toInt) i.sat).val.toInt)

/-- R130, R131, R133: accumulator arithmetic: the result and V in flight, none for `clr` and `amov`; `tsta` writes Z and N and clears V
for the next instruction. -/
def Obligations.AccumulatorArithmetic : Prop :=
  ∀ (s : State) (i : Issue) (an am ak : Fin 4) (dx : Fin 16) (n : BitVec 7), s.issues i → i.pm = 0 →
    let k := s.issuer i
    let x : Int := (k.cur.a[am]).toInt
    let y : Int := (k.cur.a[ak]).toInt
    let sets (v : W96) : Out := .next (s.withCore i.q i.c (k.sends [(3, .acc an v false)]).advance)
    let gives (e : Int) : Out := .next (s.withCore i.q i.c (k.sends (accOut an (fit 96 e i.sat) false)).advance)
    exec (.clrAcc i an) s = sets 0 ∧ exec (.amovD i an dx) s = sets (BitVec.ofInt 96 ((k.dr dx).toInt * 2 ^ 31)) ∧
      exec (.amovAcc i an am) s = sets k.cur.a[am] ∧ exec (.aadd i an am ak) s = gives (x + y) ∧
      exec (.asub i an am ak) s = gives (x - y) ∧ exec (.aneg i an am) s = gives (-x) ∧ exec (.aabs i an am) s = gives x.natAbs ∧
      exec (.ashAcc i an am n) s = gives (if 0 ≤ n.toInt then x * 2 ^ n.toInt.toNat else x / 2 ^ (-n.toInt).toNat) ∧
      ∃ k2, exec (.tsta i am) s = .next (s.withCore i.q i.c k2) ∧
        k.gives k2 none mZNV (nib (decide (x = 0)) (decide (x < 0)) false false) 0

/-- R132, R137: `ex2` and `lg2`: which operands overflow or give zero; `ex2` of a whole number and `lg2` of a power of two within the rules'
error bounds; `lg2` of a positive value from -62 to below 33. Inside the bound the result is a free value (log 6): the statement holds
whatever it is. -/
def Obligations.PowerAndLogarithm : Prop :=
  ∀ (s : State) (i : Issue) (an : Fin 4) (dx dd : Fin 16), s.issues i → i.pm = 0 →
    let k := s.issuer i
    let x : Int := (k.dr dx).toInt
    let a : Int := (k.cur.a[an]).toInt
    (∃ v : W96, exec (.ex2 i an dx) s = .next (s.withCore i.q i.c (k.sends ([(3, .acc an v false),
          (3, .flags mV (nib false false (decide (33 * 2 ^ 31 ≤ x)) false))] ++
          (if 33 * 2 ^ 31 ≤ x then [(4, .sticky ((if i.sat then stSA else stOV) ||| stAV ||| stAVA an))] else []))).advance) ∧
        (33 * 2 ^ 31 ≤ x → i.sat = true → v.toInt = 2 ^ 95 - 1) ∧ (33 * 2 ^ 31 ≤ x → i.sat = false → v = 0) ∧ (x < -62 * 2 ^ 31 → v = 0) ∧
        (-62 * 2 ^ 31 ≤ x → x < 33 * 2 ^ 31 → x % 2 ^ 31 = 0 → let p : Int := 2 ^ (x / 2 ^ 31 + 62).toNat
          p - max (p / 2 ^ 24) 1 ≤ v.toInt ∧ v.toInt ≤ p + max (p / 2 ^ 24) 1)) ∧
      (∃ v : W40, exec (.lg2 i dd an) s = .next (s.withCore i.q i.c (k.sends (extOut dd v
          (if a ≤ 0 then nib false true true false else nib (decide (v = 0)) v.msb false false)
          (if a ≤ 0 then (if i.sat then stSA else stOV) else 0))).advance) ∧
        (a ≤ 0 → v.toInt = -2 ^ 39) ∧ (0 < a → -62 * 2 ^ 31 ≤ v.toInt ∧ v.toInt < 33 * 2 ^ 31) ∧
        (∀ m : Nat, a = 2 ^ m → ((m : Int) - 62) * 2 ^ 31 - 2 ^ 9 ≤ v.toInt ∧ v.toInt ≤ ((m : Int) - 62) * 2 ^ 31 + 2 ^ 9))

/-- R134, R135, R136, R138: the extract class: the rounded accumulator, its low part, its normalising shift, and the state group of a
biquad section. -/
def Obligations.ExtractClass : Prop :=
  ∀ (s : State) (i : Issue) (dd dx : Fin 16) (an : Fin 4) (rnd : BitVec 2) (n : BitVec 6), s.issues i → i.pm = 0 →
    let k := s.issuer i
    let a : W96 := k.cur.a[an]
    let sh : Nat := (31 - n.toInt).toNat
    let d : Int := 2 ^ sh
    let r : Int := if sh = 0 then a.toInt else if rnd = 0 then (a.toInt + 2 ^ (sh - 1)) / d else if rnd = 1 then a.toInt / d
      else (if 2 * (a.toInt % d) < d then a.toInt / d else if 2 * (a.toInt % d) > d then a.toInt / d + 1
        else if a.toInt / d % 2 = 0 then a.toInt / d else a.toInt / d + 1)
    let f := fit 40 r i.sat
    let z := nib (decide (r = 0)) (decide (r < 0)) f.v false
    let st : W32 := if f.sa then stSA else if f.ov then stOV else 0
    let low : W40 := BitVec.ofNat 40 (a.toNat % 2 ^ 31)
    (rnd ≠ 3 → exec (.ext i dd an rnd n) s = .next (s.withCore i.q i.c (k.sends (extOut dd f.val z st)).advance)) ∧
      exec (.extl i dd an) s = .next (s.withCore i.q i.c (k.sends (extOut dd low (nib (decide (low = 0)) false false false) 0)).advance) ∧
      (∃ v : W40, exec (.nrma i dd an) s =
          .next (s.withCore i.q i.c (k.sends (extOut dd v (nib (decide (a = 0)) false false false) 0)).advance) ∧
        (a = 0 → v.toInt = 63) ∧
        (a ≠ 0 → ∃ c : Nat, c ≤ 95 ∧ v.toInt = (c : Int) - 33 ∧ (∀ j, j < c → a.getLsbD (94 - j) = a.msb) ∧
          (c < 95 → a.getLsbD (94 - c) = !a.msb))) ∧
      (rnd ≠ 3 → ∀ q : Fin 4, let g (j : Nat) : Fin 16 := fin16 (4 * q.val + j)
        exec (.bqs i (g 0) an dx rnd n) s = .next (s.withCore i.q i.c (k.sends ([(2, .reg (.d (g 1)) (k.dr (g 0))),
          (2, .reg (.d (g 0)) (k.dr dx)), (2, .reg (.d (g 3)) (k.dr (g 2))), (2, .reg (.d (g 2)) f.val), (3, .flags mZNV z)] ++
            (if st = 0 then [] else [(4, .sticky st)]))).advance))

/-- R139, R140: the sums and differences, with their carry, fitted to 40 bits. -/
def Obligations.AddSubtract : Prop :=
  ∀ (s : State) (i : Issue) (dd dx : Fin 16) (y : Src), s.issues i → i.pm = 0 →
    let k := s.issuer i
    let x : W40 := k.dr dx
    let v : W40 := match y with | .reg d => k.dr d | .imm m => m.signExtend 40
    let ci : Nat := if stC k.cur.st then 1 else 0
    let gives (c : Instr) (e : Int) (mask : BitVec 4) (cy : Bool) : Prop :=
      let f := fit 40 e i.sat
      ∃ k2, exec c s = .next (s.withCore i.q i.c k2) ∧ k.gives k2 (some (dd, f.val)) mask (nib (decide (e = 0)) (decide (e < 0)) f.v cy)
        (if f.sa then stSA else if f.ov then stOV else 0)
    gives (.add i dd dx y) (x.toInt + v.toInt) mZNVC (decide (2 ^ 40 ≤ x.toNat + v.toNat)) ∧
      gives (.sub i dd dx y) (x.toInt - v.toInt) mZNVC (decide (x.toNat < v.toNat)) ∧
      gives (.adc i dd dx y) (x.toInt + v.toInt + ci) mZNVC (decide (2 ^ 40 ≤ x.toNat + v.toNat + ci)) ∧
      gives (.sbc i dd dx y) (x.toInt - v.toInt - ci) mZNVC (decide (x.toNat < v.toNat + ci)) ∧
      gives (.neg i dd dx) (-x.toInt) mZNV false ∧ gives (.abs i dd dx) x.toInt.natAbs mZNV false

/-- R139, R124: the data operations that cannot overflow. -/
def Obligations.SelectAndCompare : Prop :=
  ∀ (s : State) (i : Issue) (dd dx dy : Fin 16) (y : Src) (cc : BitVec 4), s.issues i → i.pm = 0 →
    let k := s.issuer i
    let x : W40 := k.dr dx
    let v : W40 := match y with | .reg d => k.dr d | .imm m => m.signExtend 40
    let gives (c : Instr) (w : Option W40) (mask flags : BitVec 4) : Prop :=
      ∃ k2, exec c s = .next (s.withCore i.q i.c k2) ∧ k.gives k2 (w.map fun u => (dd, u)) mask flags 0
    let zn (e : Int) (v c : Bool) : BitVec 4 := nib (decide (e = 0)) (decide (e < 0)) v c
    let lim : Int := min (v.toInt.natAbs : Int) (2 ^ 39 - 1)
    let e : Int := max (-lim) (min lim x.toInt)
    gives (.min i dd dx y) (some (if x.toInt ≤ v.toInt then x else v)) mZNV (zn (min x.toInt v.toInt) false false) ∧
      gives (.max i dd dx y) (some (if x.toInt ≤ v.toInt then v else x)) mZNV (zn (max x.toInt v.toInt) false false) ∧
      gives (.clip i dd dx y) (some (BitVec.ofInt 40 e)) mZNV (zn e (decide (e ≠ x.toInt)) false) ∧
      gives (.clrD i dd) (some 0) 0 0 ∧
      gives (.cmp i dx y) none mZNVC (zn (x.toInt - v.toInt) false (decide (x.toNat < v.toNat))) ∧
      gives (.tst i dx) none mZNV (zn x.toInt false false) ∧
      (cc.toNat ≤ 12 → gives (.sel i dd dx dy cc) (some (if cond cc k.cur.st then k.dr dx else k.dr dy)) 0 0)

/-- R141: `nrm` writes the left shift that brings Dx into [0.5, 1) or [-1, -0.5): the number of bits from bit 38 downward that equal bit 39,
less 8; 31 for zero, and then Z. -/
def Obligations.Normalise : Prop :=
  ∀ (s : State) (i : Issue) (dd dx : Fin 16), s.issues i → i.pm = 0 →
    let k := s.issuer i
    let x : W40 := k.dr dx
    ∃ (w : W40) (k2 : Core), exec (.nrm i dd dx) s = .next (s.withCore i.q i.c k2) ∧
      k.gives k2 (some (dd, w)) mZNV (nib (decide (x = 0)) false false false) 0 ∧ (x = 0 → w.toInt = 31) ∧
      (x ≠ 0 → ∃ c : Nat, c ≤ 39 ∧ w.toInt = (c : Int) - 8 ∧ (∀ j, j < c → x.getLsbD (38 - j) = x.msb) ∧
        (c < 39 → x.getLsbD (38 - c) = !x.msb))

/-- R142: the shifts, by the count of a register or of an immediate from 0 to 39. C of a shift by more than 40 places is the model's reading
(log 25). -/
def Obligations.Shifts : Prop :=
  ∀ (s : State) (i : Issue) (dd dx : Fin 16) (y : Src), s.issues i → i.pm = 0 → (∀ m, y = .imm m → m.toNat ≤ 39) →
    let k := s.issuer i
    let x : W40 := k.dr dx
    let n : Nat := match y with | .reg d => (k.dr d).toNat % 128 | .imm m => m.toNat
    let sn : Int := match y with | .reg d => ((k.dr d).setWidth 7).toInt | .imm m => m.toNat
    let fits (c : Instr) (e : Int) (cy : Bool) : Prop :=
      let f := fit 40 e i.sat
      ∃ k2, exec c s = .next (s.withCore i.q i.c k2) ∧ k.gives k2 (some (dd, f.val)) mZNVC
        (nib (decide (e = 0)) (decide (e < 0)) f.v cy) (if f.sa then stSA else if f.ov then stOV else 0)
    let gives (c : Instr) (w : W40) (cy : Bool) : Prop :=
      ∃ k2, exec c s = .next (s.withCore i.q i.c k2) ∧
        k.gives k2 (some (dd, w)) mZNVC (nib (decide (w = 0)) w.msb false cy) 0
    let outL (m : Nat) : Bool := decide (1 ≤ m ∧ m ≤ 40) && x.getLsbD (40 - m)
    let outR (m : Nat) : Bool := decide (1 ≤ m) && (if m ≤ 40 then x.getLsbD (m - 1) else x.msb)
    fits (.asl i dd dx y) (x.toInt * 2 ^ n) (outL n) ∧
      gives (.asr i dd dx y) (BitVec.ofInt 40 (x.toInt / 2 ^ n)) (outR n) ∧
      gives (.lsl i dd dx y) (x <<< n) (outL n) ∧
      gives (.lsr i dd dx y) (x >>> n) (decide (1 ≤ n ∧ n ≤ 40) && x.getLsbD (n - 1)) ∧
      (0 ≤ sn → fits (.ashD i dd dx y) (x.toInt * 2 ^ sn.toNat) (outL sn.toNat)) ∧
      (sn < 0 → gives (.ashD i dd dx y) (BitVec.ofInt 40 (x.toInt / 2 ^ (-sn).toNat)) (outR (-sn).toNat))

/-- R143: the logic operations: Z and N from the value written, V and C cleared. -/
def Obligations.Logic : Prop :=
  ∀ (s : State) (i : Issue) (dd dx dy : Fin 16), s.issues i → i.pm = 0 →
    let k := s.issuer i
    let x : W40 := k.dr dx
    let y : W40 := k.dr dy
    let gives (c : Instr) (w : W40) : Prop :=
      ∃ k2, exec c s = .next (s.withCore i.q i.c k2) ∧ k.gives k2 (some (dd, w)) mZNVC (nib (decide (w = 0)) w.msb false false) 0
    gives (.and i dd dx dy) (x &&& y) ∧ gives (.or i dd dx dy) (x ||| y) ∧ gives (.xor i dd dx dy) (x ^^^ y) ∧
      gives (.andn i dd dx dy) (x &&& ~~~y) ∧ gives (.not i dd dx) (~~~x)

/-! ### Moves, loads and stores -/

/-- R150, R102, R151, R71, R73, R262: a register written from data and read as data: the widths, the extensions, and the hold of Bn and Ln while Ln is
not zero; and what a landing `mts` writes: EPC and EVB whole, EVM of a core that is not in lockstep; of EVS nothing but a clear of TLOST; of ST nothing but clears of the sticky
bits, Z, N, V and C apart. -/
def Obligations.RegisterWrites : Prop :=
  (
    ∀ (s : RegSet) (n : Fin 8) (v : W40),
      (s.write (.p n) v).read (.p n) = (v.setWidth 36).setWidth 40 ∧
        (s.write (.m n) v).read (.m n) = (v.setWidth 36).signExtend 40 ∧
        (s.l[n] = 0 → (s.write (.b n) v).read (.b n) = (v.setWidth 36).setWidth 40 ∧
          (s.write (.l n) v).read (.l n) = (v.setWidth 24).setWidth 40) ∧
        (s.l[n] ≠ 0 → (s.write (.b n) v).read (.b n) = s.read (.b n) ∧ (s.write (.b n) v).heldB[n] = some (v.setWidth 36) ∧
          (s.write (.l n) v).read (.l n) = s.read (.l n) ∧ (s.write (.l n) v).heldL[n] = some (v.setWidth 24)) ∧
        (∀ d : Fin 16, (s.write (.d d) v).read (.d d) = v) ∧
        (∀ r r' : Rg, r ≠ r' → (s.write r v).read r' = s.read r')) ∧
  (
    ∀ (k : Core) (set : Bool) (v : W32),
      (k.putSys set 1 v).epc = v.setWidth 13 ∧ (k.putSys set 3 v).evb = v.setWidth 13 ∧
        (k.putSys set 4 v).evm = (if k.lock then k.evm else v &&& 3) ∧
        (∀ j, j < 32 → (k.putSys set 2 v).evs.getLsbD j = (k.evs.getLsbD j && !(j == 8 && v.getLsbD 8))) ∧
        (∀ j, j < 32 → ((k.putSys set 0 v).getSet set).st.getLsbD j = ((k.getSet set).st.getLsbD j &&
          !((decide (8 ≤ j ∧ j ≤ 12) || decide (16 ≤ j ∧ j ≤ 19)) && v.getLsbD j))))

/-- R149, R151, R104, R146, R147, R153: the register moves, `clrc`, `nop`, moves alone without a move and with a register transfer, and a `fence`
with nothing outstanding. -/
def Obligations.RegisterMoves : Prop :=
  ∀ (s : State) (i : Issue) (rd rs : BitVec 6) (d r : Rg) (imm : W40) (p : Fin 8), s.issues i →
    let k := s.issuer i
    let writes (c : Instr) (v : W40) : Prop :=
      ∃ k2, exec c s = .next (s.withCore i.q i.c k2) ∧ k.onlyRegs k2 ∧ k2.cur = k.cur.write d v
    (gprOf rd = some d → writes (.ldi i rd imm) imm) ∧
      (i.pm = 0 → gprOf rd = some d → gprOf rs = some r → writes (.mov i rd rs) (k.cur.read r)) ∧
      (i.pm = 0 → (∃ k2, exec (.clrc i p) s = .next (s.withCore i.q i.c k2) ∧ k.onlyRegs k2 ∧
          k2.cur = { k.cur with l := k.cur.l.set p 0, heldB := k.cur.heldB.set p none, heldL := k.cur.heldL.set p none }) ∧
        (i.sat = false → exec (.nop i) s = .next (s.withCore i.q i.c k.advance)) ∧
        exec (.movesAlone i) s = .next (s.withCore i.q i.c k.advance) ∧
        exec (.fence i) s = .next (s.withCore i.q i.c k.advance)) ∧
      (gprOf rd = some d → gprOf rs = some r →
        writes (.movesAlone { i with pm := BitVec.ofNat 24 (2 ^ 20 + 2 ^ 14 * rd.toNat + 2 ^ 8 * rs.toNat) }) (k.cur.read r))

/-- R151, R88: `mfs` reads a system register zero-extended, for the next instruction; `mts` puts its write in flight, two issues on; `xmov`
crosses the sets once nothing of set 0 is in flight, between accumulators too. -/
def Obligations.SystemRegisters : Prop :=
  ∀ (s : State) (i : Issue) (dd dx : Fin 16) (sys : BitVec 4) (rd rs : BitVec 6) (d r : Rg) (an am : Fin 4) (dir : Bool), s.issues i → i.pm = 0 →
    let q := s.quad i.q
    let k := s.issuer i
    let v : Nat := if sys = 0 then k.cur.st.toNat else if sys = 1 then k.epc.toNat else if sys = 2 then k.evs.toNat
      else if sys = 3 then k.evb.toNat else if sys = 4 then k.evm.toNat
      else if sys = 5 then k.pos.val + 32 * i.c.val + (if k.pos.val < 4 then 1024 else 0) + (if k.lock then 2048 else 0) + 4096 * i.q.num
      else if sys = 6 then (k.cyc - (if k.cyc = 0 then 0 else 1)).toNat else q.tick.toNat % 2 ^ 32
    (sys.toNat ≤ 7 → ∃ k2, exec (.mfs i dd sys) s = .next (s.withCore i.q i.c k2) ∧ k.onlyRegs k2 ∧
        k2.cur = { k.cur with d := k.cur.d.set dd (BitVec.ofNat 40 v) }) ∧
      (sys.toNat ≤ 4 → exec (.mts i sys dx) s = .next (s.withCore i.q i.c (k.sends
        ((if sys = 0 then [(2, .flags mZNVC ((k.dr dx).setWidth 4))] else []) ++ [(2, .sys sys ((k.dr dx).setWidth 32))])).advance)) ∧
      (k.act = true → (∀ f ∈ k.flights, f.set = true) → gprOf rd = some d → gprOf rs = some r →
        ∃ k2, exec (.xmov i rd rs dir) s = .next (s.withCore i.q i.c k2) ∧
          k2 = { k.advance with set0 := k2.set0, set1 := k2.set1, flights := k2.flights } ∧
          k2.getSet (!dir) = (k.getSet (!dir)).write d ((k.getSet dir).read r) ∧ k2.getSet dir = k.getSet dir) ∧
      (k.act = true → (∀ f ∈ k.flights, f.set = true) →
        ∃ k2, exec (.xmov i (BitVec.ofNat 6 (0x30 + an.val)) (BitVec.ofNat 6 (0x30 + am.val)) dir) s = .next (s.withCore i.q i.c k2) ∧
          k2 = { k.advance with set0 := k2.set0, set1 := k2.set1, flights := k2.flights } ∧
          k2.getSet (!dir) = { k.getSet (!dir) with a := (k.getSet (!dir)).a.set an (k.getSet dir).a[am] } ∧ k2.getSet dir = k.getSet dir)

/-- R149, R146, R76, R77, R98, R117, R147, R116, R139: an X or Y access, stand-alone or as the one parallel move of moves alone: a load puts
the word in flight, two issues on; a store writes the five bytes of the word, which its core notes until the cycle ends (R77), and nothing
else; either steps its pointer at once. An addition with an X access beside it: both read the registers at issue, so a store writes the
value that its D register held even where the sum goes to that register; a load into the register of the sum raises DUP_DEST. That
addresses and data are those at issue is the model's reading (log 28). -/
def Obligations.XyAccess : Prop :=
  (
    ∀ (s : State) (i : Issue) (code : BitVec 6) (r : Rg) (p : Fin 8) (mode : BitVec 3) (val : BitVec 8) (a : AMode), s.issues i → s.memWf →
      i.pm = 0 → gprOf code = some r → amodeOf mode val = some a →
      let q := s.quad i.q
      let k := s.issuer i
      let o := addrOf k.cur p a
      let w := if p.val < 4 then xAddr i.c o.ea else yAddr i.c o.ea
      let loads (c : Instr) : Prop := (a.steps = true → r ≠ .p p) → q.eccAt w = .clean →
        ∃ k2, exec c s = .next (s.withCore i.q i.c k2) ∧ k.onlyRegs k2 ∧ k2.cur = o.set ∧ ⟨k.act, 2, .reg r (q.mem.word40 w)⟩ ∈ k2.flights
      let stores (c : Instr) : Prop :=
        ∃ t k2, exec c s = .next t ∧ OnlyQuad i.q s t ∧ k.onlyRegs k2 ∧ k2.cur = o.set ∧
          (t.quad i.q).cores = (q.setCore i.c { k2 with wrote := [w] }).cores ∧ (t.quad i.q).mem.word40 w = k.cur.read r ∧
          SameBytesBut w 5 q (t.quad i.q) ∧ (t.quad i.q).regs = q.regs
      o.traps = [] → o.ea < 16384 →
        loads (.xyAccess i false code p mode val) ∧ stores (.xyAccess i true code p mode val) ∧
        (∀ (d : Fin 16) (f : Nat) (v : BitVec 3), r = .d d → f < 2 →
          a = (if f = 1 then .stepM (fin8 v.toNat) else if v = 0 then .plain else .stepK v.toInt) →
          let form (dir : Nat) : Issue := { i with pm := BitVec.ofNat 24 (
            (if p.val < 4 then 2 ^ 22 else 2 ^ 23) + (if p.val < 4 then 2 ^ 11 else 1) * (1024 * dir + 64 * d.val + 16 * (p.val % 4) + 8 * f + v.toNat)) }
          loads (.movesAlone (form 0)) ∧ stores (.movesAlone (form 1)))) ∧
  (
    ∀ (s : State) (i : Issue) (dd dx dy d : Fin 16) (pp : Fin 4) (v : BitVec 3), s.issues i → s.memWf →
      let q := s.quad i.q
      let k := s.issuer i
      let o := addrOf k.cur (fin8 pp.val) (if v = 0 then .plain else .stepK v.toInt)
      let w := xAddr i.c o.ea
      let e : Int := (k.dr dx).toInt + (k.dr dy).toInt
      let f := fit 40 e i.sat
      let sum : RegSet := { o.set with
        d := o.set.d.set dd f.val
        st := putFlags o.set.st mZNVC (nib (decide (e = 0)) (decide (e < 0)) f.v (decide (2 ^ 40 ≤ (k.dr dx).toNat + (k.dr dy).toNat))) }
      let put (dir : Nat) : Instr :=
        .add { i with pm := BitVec.ofNat 24 (2 ^ 22 + 2 ^ 11 * (1024 * dir + 64 * d.val + 16 * pp.val + v.toNat)) } dd dx (.reg dy)
      o.traps = [] → o.ea < 16384 →
        (∃ t k2, exec (put 1) s = .next t ∧ OnlyQuad i.q s t ∧ k.onlyRegs k2 ∧ k2.cur = sum ∧
          (t.quad i.q).cores = (q.setCore i.c { k2 with wrote := [w] }).cores ∧ (t.quad i.q).mem.word40 w = k.dr d ∧
          SameBytesBut w 5 q (t.quad i.q) ∧ (t.quad i.q).regs = q.regs) ∧
        (d ≠ dd → q.eccAt w = .clean → ∃ k2, exec (put 0) s = .next (s.withCore i.q i.c k2) ∧ k.onlyRegs k2 ∧ k2.cur = sum ∧
          ⟨k.act, 2, .reg (.d d) (q.mem.word40 w)⟩ ∈ k2.flights) ∧
        (d = dd → k.act = false → k.rep = 0 → ∃ k2, exec (put 0) s = .next (s.withCore i.q i.c k2) ∧
          k.entered (cclkPerTick q.fi) k2 0 0x07 k.nextPc))

/-- R106, R107, R108, R82, R146, R147: a bus access, stand-alone or as the one parallel move of moves alone: a bus load leaves a request
outstanding with the data of its target, to the register's width; a bus store to scratch memory or DRAM writes its bytes, wherever they
start, and leaves a request outstanding. When V of a `.w` store lands, and that data moves at issue, are the model's readings (log 24,
29). -/
def Obligations.BusAccess : Prop :=
  ∀ (s : State) (i : Issue) (code : BitVec 6) (r : Rg) (p : Fin 8) (w : BitVec 2) (mode : BitVec 3) (val : BitVec 8) (a : AMode),
    s.issues i → s.memWf → i.pm = 0 → gprOf code = some r → amodeOf mode val = some a →
    let q := s.quad i.q
    let k := s.issuer i
    let o := addrOf k.cur p a
    let n : Nat := if w = 0 then 1 else if w = 1 then 4 else if w = 2 then 5 else 8
    let tgt : Nat := match q.access o.ea n with | some t => t.code | none => 0
    let v := q.mem.readLE o.ea n
    let x := k.cur.read r
    let f := fit 32 x.toInt i.sat
    let bytes : Nat := if w = 1 then f.val.toNat else if w = 3 then (x.signExtend 64).toNat else x.toNat
    let loads (c : Instr) : Prop := (a.steps = true → r ≠ .p p) →
      ∃ k2, exec c s = .next (s.withCore i.q i.c k2) ∧ k.onlyRegs k2 ∧ k2.cur = o.set ∧ k2.reqs = [⟨false, k.act, some r,
        (if w = 1 then (BitVec.ofNat 32 v).signExtend 40 else BitVec.ofNat 40 v), .clean, tgt⟩]
    let stores (c : Instr) : Prop :=
      (∀ j, j < n → q.hpnKept (o.ea + j) = false ∧ q.touchesEntry (o.ea + j) = false ∧ q.role (o.ea + j) = .plain) → q.kln.hold.length ≤ 4096 →
        ∃ t k2, exec c s = .next t ∧ OnlyQuad i.q s t ∧ k.onlyRegs k2 ∧ k2.cur.d = o.set.d ∧
          k2.reqs = [⟨true, k.act, none, 0, .clean, tgt⟩] ∧ (t.quad i.q).cores = (q.setCore i.c { k2 with
            dual := ((addressed o.ea (bytesLE bytes n)).filter fun b => inDual b.1).map fun b => (b.1, q.mem.read b.1, b.2) }).cores ∧
          (t.quad i.q).mem.readLE o.ea n = bytes % 256 ^ n ∧ SameBytesBut o.ea n q (t.quad i.q) ∧ (t.quad i.q).regs = q.regs
    o.traps = [] → (q.access o.ea n = some .scratch ∨ q.access o.ea n = some .dram) → q.eccIn o.ea n = [] →
      loads (.busAccess i false code p w mode val) ∧ stores (.busAccess i true code p w mode val) ∧
      (∀ (d : Fin 16) (f : Nat) (u : BitVec 4), r = .d d → f < 2 → (f = 1 → u.toNat < 8) →
        a = (if f = 1 then .stepM (fin8 u.toNat) else if u = 0 then .plain else .stepK u.toInt) →
        let form (dir : Nat) : Issue := { i with pm := BitVec.ofNat 24 (2 ^ 21 + 2 ^ 19 * dir + 2 ^ 15 * d.val + 2 ^ 12 * p.val + 2 ^ 10 * w.toNat +
          2 ^ 9 * f + 2 ^ 5 * u.toNat) }
        loads (.movesAlone (form 0)) ∧ stores (.movesAlone (form 1)))

/-! ### Control flow -/

/-- R155, R110: after a branch two more instructions issue, taken or not, and then a taken branch goes to its target; a repeated instruction
keeps the program counter until its last issue. The row carries the instruction that issues (log 17). -/
def Obligations.NextInstruction : Prop :=
  (
    ∀ (k : Core) (target : Option PAddr), k.rep ≤ 1 → k.slots = 0 →
      let k0 := k.branch target
      k0.pc = k.pc + 1 ∧ k0.slots = 2 ∧ k0.advance.pc = k.pc + 2 ∧ k0.advance.slots = 1 ∧
        k0.advance.advance.pc = target.getD (k.pc + 3) ∧ k0.advance.advance.slots = 0 ∧ k0.advance.advance.target = none) ∧
  (
    ∀ (k : Core) (n : Nat), 1 ≤ n → k.slots = 0 →
      let k0 : Core := { k with rep := n }
      (∀ j, j < n → (Nat.repeat Core.advance j k0).pc = k.pc ∧ (Nat.repeat Core.advance j k0).rep = n - j) ∧
        (Nat.repeat Core.advance n k0).pc = k.pc + 1 ∧ (Nat.repeat Core.advance n k0).rep = 0)

/-- R154, R156, R66, R114, R115: the branches, calls and returns outside a delay slot. -/
def Obligations.BranchesAndCalls : Prop :=
  ∀ (s : State) (i : Issue) (cc : BitVec 4) (target : PAddr) (dx : Fin 16), s.issues i → i.pm = 0 →
    let k := s.issuer i
    let goes (c : Instr) (k1 : Core) (t : Option PAddr) : Prop := exec c s = .next (s.withCore i.q i.c (k1.branch t))
    let pushed := k.setSet k.act { k.cur with stack := (k.pc + 3) :: k.cur.stack }
    let v : W40 := k.dr dx - 1
    k.slots = 0 →
      (cc.toNat ≤ 12 →
        goes (.brTarget i cc target) k (if cond cc k.cur.st then some target else none) ∧
        goes (.brReg i cc dx) k (if cond cc k.cur.st then some ((k.dr dx).setWidth 13) else none)) ∧
      (k.cur.stack.length < 8 → goes (.callTarget i target) pushed (some target) ∧
        goes (.callReg i dx) pushed (some ((k.dr dx).setWidth 13))) ∧
      (∀ a rest, k.cur.stack = a :: rest → goes (.ret i) (k.setSet k.act { k.cur with stack := rest }) (some a)) ∧
      goes (.jpm i target) { k with bootFetch := false } (some target) ∧
      (∃ k1, goes (.dbnz i dx target) k1 (if v ≠ 0 then some target else none) ∧
        k1 = { k with set0 := k1.set0, set1 := k1.set1, flights := k1.flights } ∧
        k1.cur = { k.cur with d := k.cur.d.set dx v } ∧ k1.getSet (!k.act) = k.getSet (!k.act))

/-- R85, R86, R84, R87, R90: a core at an instruction boundary takes the pending event of highest priority: TICK, then DBG, where no EVT is
pending; an EVT with its instance; `rte` from a handler that is no TRAP handler goes back to set 0 at EPC, no delay slot behind it; an
instance assigned meanwhile starts there, where the mode dispatches it, and is queued again where it does not; an event instance that
`rte` ends so ends with its record at the ring's place (R190, log 118). That a pending event is entered by a command of its own is the
model's choice (log 20, 112). -/
def Obligations.EventsEntered : Prop :=
  (
    ∀ (s : State) (i : Issue), s.issues i → i.pm = 0 →
      let k := s.issuer i
      k.act = true → k.evs.toNat % 4 ≠ 0 → k.slots = 0 →
        (k.evtRun = none → k.assigned = none → (k.wait ≠ .req ∨ 4 ≤ k.pos.val ∨ (s.quad i.q).prefAt k.pos.val = none) → ∃ k2, exec (.rte i) s = .next (s.withCore i.q i.c k2) ∧ k2.act = false ∧ k2.pc = k.epc ∧ k2.slots = 0 ∧
          k2.rep = 0 ∧ k2.set0 = k.set0 ∧ k2.set1 = k.set1 ∧ k2.run = k.run ∧ k2.wait = k.wait ∧ k2.flights = k.flights) ∧
        (∀ r, k.evtRun = some r → r.inst.bound = false → r.inst.flow = none → k.assigned = none → 4 ≤ k.pos.val → (s.quad i.q).flt.test = none →
          s.memWf → ∃ t k2, exec (.rte i) s = .next t ∧ OnlyQuad i.q s t ∧ (t.quad i.q).core i.c = k2 ∧ k2.act = false ∧ k2.evtRun = none ∧
            k2.pc = k.epc ∧ k2.run = k.run ∧
            (t.quad i.q).fld Reg.SCH_CR_WP_WP = ((s.quad i.q).fld Reg.SCH_CR_WP_WP + 1) % 2 ^ 32 ∧
            (∀ a, a = (s.quad i.q).ringPlace Reg.SCH_CR_BASE_BASE Reg.SCH_CR_LEN_LOG2 Reg.SCH_CR_WP_WP →
              r.charged = false → r.status = 0 → (s.quad i.q).openTo a 16 →
                (s.quad i.q).ranRecord r k.pos.val k.set1.st ((s.quad i.q).phys a) (t.quad i.q))) ∧
        (∀ x, k.evtRun = none → k.assigned = some x → (s.quad i.q).modeAllows x = false → 4 ≤ k.pos.val → ∃ t, exec (.rte i) s = .next t ∧
          OnlyQuad i.q s t ∧ ((t.quad i.q).core i.c).act = false ∧ ((t.quad i.q).core i.c).assigned = none ∧
          ((t.quad i.q).core i.c).wait = .req ∧ (t.quad i.q).sch.queue = (s.quad i.q).sch.queue ++ [x] ∧ k.pos.val ∈ (t.quad i.q).sch.asks) ∧
        (∀ x, k.evtRun = none → k.assigned = some x → (s.quad i.q).modeAllows x = true → ∃ t k2, exec (.rte i) s = .next t ∧ OnlyQuad i.q s t ∧ (t.quad i.q).core i.c = k2 ∧
          k2.act = false ∧ k2.assigned = none ∧ (k2.run.map fun r => r.inst) = some x ∧ k2.wait = .none ∧ k2.set0.st = 0 ∧
          k2.set0.d[0] = x.dispatchWord)) ∧
  (
    ∀ (s : State) (iq : QId) (c : Fin 17),
      let q := s.quad iq
      let k := q.core c
      let per := cclkPerTick q.fi
      (q.locked = true → 2 ≤ k.pos.val) → q.mode ≠ .scour → q.mode ≠ .halt → k.act = false → k.rep = 0 → k.slots = 0 → k.stopped = false →
        (k.pendEvt = none → k.pendTick = true → ∃ k2, exec (.eventEntry iq c) s = .next (s.withCore iq c k2) ∧
          k.entered per k2 2 0 k.pc ∧ k2.pendTick = false ∧ k2.pendDbg = k.pendDbg) ∧
        (k.pendEvt = none → k.pendTick = false → k.pendDbg = true → ∃ k2, exec (.eventEntry iq c) s = .next (s.withCore iq c k2) ∧
          k.entered per k2 3 0 k.pc ∧ k2.pendDbg = false) ∧
        (∀ x, k.pendEvt = some x → ∃ t, exec (.eventEntry iq c) s = .next t ∧ OnlyQuad iq s t ∧
          let k2 := (t.quad iq).core c
          k2.act = true ∧ k2.epc = k.pc ∧ k2.evs.toNat % 4 = 1 ∧ k2.pendEvt = none ∧ (k2.evtRun.map fun r => r.inst) = some x ∧
            k2.set1.d[0] = x.dispatchWord ∧ k2.set1.st = 0 ∧ k2.run = k.run))

/-- R109, R110, R154: `rep` holds the next instruction for its count, a count of zero in a register skips it; `brk` makes a DBG event pending
while EVM.DBG is 1 and is a `nop` otherwise. When REP_ILLEGAL is raised is the model's reading (log 31). -/
def Obligations.RepeatAndBreak : Prop :=
  ∀ (s : State) (i : Issue) (n1 : BitVec 10) (dx : Fin 16), s.issues i → i.pm = 0 →
    let q := s.quad i.q
    let k := s.issuer i
    exec (.brk i) s = .next (s.withCore i.q i.c { k.advance with pendDbg := k.pendDbg || k.evm.getLsbD 1 }) ∧
      (k.slots = 0 → k.rep = 0 → k.bootFetch = false → q.eccAt (pmAddr i.c (k.pc + 1).toNat) = .clean →
        wRepOk (q.pmWord i.c (k.pc + 1).toNat) = true →
        exec (.repImm i n1) s = .next (s.withCore i.q i.c { k.advance with rep := n1.toNat + 1 }) ∧
        (∀ n : Nat, 1 ≤ n → n ≤ 1024 → (k.dr dx).toInt = n →
          exec (.repReg i dx) s = .next (s.withCore i.q i.c { k.advance with rep := n })) ∧
        (k.dr dx = 0 → exec (.repReg i dx) s = .next (s.withCore i.q i.c k.advance.advance)))

/-! ### Traps, stalls, and cores that do not issue -/

/-- R85, R86, R162, R121, R158, R512: an instruction that a rule makes illegal has no effect in set 0 but the entry of its core to the TRAP
handler, with the cause of Table: TRAP causes, `frel` from a task outside a flow included. R96, R99, R105, R116, R147, R152, R63, R111:
what an access raises by its address: XY_RANGE beyond 16,384 words; CIRC_STEP for a step larger than the window; CIRC_OUT for a pointer
outside it; RC_LENGTH for a length that the reverse-carry mode does not allow; DUP_MODIFY for a pointer stepped twice; BUS_ERR where
nothing is, or where nothing may be written; PRIV_WRITE for a register written at a position without privilege; and REP_ILLEGAL for `rep`
before an instruction that may not be repeated. The value saved in EPC, and which of several causes is recorded, are the model's readings
(log 22, 23). -/
def Obligations.TrapCauses : Prop :=
  (
    ∀ (s : State) (i : Issue) (dd dx dy : Fin 16) (an am : Fin 4), s.issues { i with rsv := false } → i.pm = 0 →
      let k := s.issuer i
      let traps (c : Instr) (cause : Nat) : Prop :=
        ∃ k2, exec c s = .next (s.withCore i.q i.c k2) ∧ k.entered (cclkPerTick (s.quad i.q).fi) k2 0 cause k.nextPc
      k.act = false → k.rep = 0 →
        (i.rsv = true → traps (.add i dd dx (.reg dy)) 0x01 ∧ traps (.nop i) 0x01) ∧
        (∀ w : W64, wMajor w = 5 → 5 ≤ wMinor w → traps (wordCommand i w) 0x01) ∧
        (i.rsv = false →
          traps (.dualMultiply i 3 0 an dx dy am dx dy) 0x01 ∧ traps (.dualMultiply i 0 0 an dx dy an dx dy) 0x07 ∧
          traps (.ext i dd an 3 0) 0x01 ∧ (∀ dq : Fin 16, dq.val % 4 ≠ 0 → traps (.bqs i dq an dx 0 0) 0x01) ∧
          (∀ cc : BitVec 4, 12 < cc.toNat → traps (.sel i dd dx dy cc) 0x01) ∧
          (∀ m : BitVec 11, 39 < m.toNat → traps (.asl i dd dx (.imm m)) 0x01 ∧ traps (.ashD i dd dx (.imm m)) 0x01) ∧
          (∀ sys : BitVec 4, 7 < sys.toNat → traps (.mfs i dd sys) 0x01) ∧
          (∀ sys : BitVec 4, 4 < sys.toNat → traps (.mts i sys dx) 0x01) ∧
          traps (.rte i) 0x01 ∧ traps (.xmov i 0 1 true) 0x01 ∧
          (k.run.isSome = true → traps (.req i) 0x01) ∧
          (k.slots = 0 → k.cur.stack = [] → traps (.ret i) 0x0D) ∧
          (k.slots = 0 → 8 ≤ k.cur.stack.length → traps (.callTarget i 0) 0x0D) ∧
          (0 < k.slots → traps (.brTarget i 0xC 0) 0x0C ∧ traps (.jpm i 0) 0x0C ∧ traps (.done i) 0x0C) ∧
          (∀ r, k.run = some r → r.inst.flow = none → traps (.frel i) 0x0F) ∧ (k.run = none → traps (.frel i) 0x0F) ∧
          (1024 < (k.dr dx).toInt → wRepOk ((s.quad i.q).codeWord i.c (k.pc + 1)) = true → traps (.repReg i dx) 0x0B))) ∧
  (
    ∀ (s : State) (i : Issue) (store : Bool) (code : BitVec 6) (r : Rg) (p : Fin 8) (w : BitVec 2) (mode : BitVec 3) (val : BitVec 8) (a : AMode)
      (dx : Fin 16) (n1 : BitVec 10), s.issues i → i.pm = 0 → gprOf code = some r → amodeOf mode val = some a →
      let q := s.quad i.q
      let k := s.issuer i
      let o := addrOf k.cur p a
      let b : Nat := k.cur.b[p].toNat
      let l : Nat := k.cur.l[p].toNat
      let at_ : Nat := k.cur.p[p].toNat
      let n : Nat := if w = 0 then 1 else if w = 1 then 4 else if w = 2 then 5 else 8
      let step : Int := match a with | .stepK m => m | .stepM j => k.cur.m[j].toInt | .offset m => m | _ => 0
      let traps (c : Instr) (cause : Nat) : Prop :=
        ∃ k2, exec c s = .next (s.withCore i.q i.c k2) ∧ k.entered (cclkPerTick q.fi) k2 0 cause k.nextPc
      let xy : Instr := .xyAccess i store code p mode val
      let bus (st : Bool) : Instr := .busAccess i st code p w mode val
      k.act = false → k.rep = 0 →
        (16384 ≤ o.ea → traps xy 0x02) ∧
        (o.ea < 16384 → 0 < l → l < step.natAbs → traps xy 0x03) ∧
        (o.ea < 16384 → 0 < l → step.natAbs ≤ l → (at_ < b ∨ b + l ≤ at_) → traps xy 0x04) ∧
        (∀ j r4, a = .rev j r4 → at_ < 16384 → (0 < l → b ≤ at_ ∧ at_ < b + l) →
          (∀ e : Nat, 1 ≤ e → e ≤ (if r4 then 11 else 23) → l ≠ (if r4 then 4 else 2) ^ e) → traps xy 0x05) ∧
        (∀ v : BitVec 3, p.val < 4 → a.steps = true → v ≠ 0 → o.traps = [] → (addrOf k.cur p (.stepK v.toInt)).traps = [] → at_ < 16384 →
          traps (.busAccess { i with pm := BitVec.ofNat 24 (2 ^ 22 + 2 ^ 11 * (1024 + 16 * p.val + v.toNat)) } store code p w mode val) 0x06) ∧
        (o.traps = [] → q.access o.ea n = none → (store = true ∨ a.steps = false ∨ r ≠ .p p) → traps (bus store) 0x08) ∧
        (∀ t, o.traps = [] → q.access o.ea n = some t → (q.readOnly t = true ∨ ∃ c, t = .window c ∧ (q.core c).lock = true) →
          traps (bus true) 0x08) ∧
        (o.traps = [] → q.access o.ea n = some .registers → 4 ≤ k.pos.val → traps (bus true) 0x09) ∧
        (wRepOk (q.codeWord i.c (k.pc + 1)) = false → traps (.repImm i n1) 0x0A ∧ traps (.repReg i dx) 0x0A))

/-- R40, R61, R62, R64, R80, R89, R157, R94, R82, R108: in SCOUR and HALT, stopped, without a position that runs work, or while its set
waits, a core takes no instruction: only the cycle of the issue passes; an instruction sent to position 1 of the bound pair changes
nothing: that core follows position 0; an instruction that reads a register which an outstanding bus load still owes waits, and so does a
ninth bus request. That these cores take no instruction, and that one which stalls is put again, are the model's readings (log 18, 19,
21). -/
def Obligations.CoresThatDoNotIssue : Prop :=
  (
    ∀ (s : State) (c : Instr) (i : Issue), issueOf c = some i → i.upset = none → i.mism = false →
      ((s.quad i.q).locked = true → 2 ≤ ((s.quad i.q).core i.c).pos.val) → (s.quad i.q).closed i.c = true →
        exec c s = .next (s.withCore i.q i.c (((s.quad i.q).core i.c).cycle (cclkPerTick (s.quad i.q).fi)))) ∧
  (
    ∀ (s : State) (c : Instr) (i : Issue), issueOf c = some i → i.upset = none → s.memWf →
      (s.quad i.q).locked = true → ((s.quad i.q).core i.c).pos = 1 → exec c s = .next s) ∧
  (
    ∀ (s : State) (i : Issue) (dd dx dy : Fin 16) (code : BitVec 6) (store : Bool) (p : Fin 8) (w : BitVec 2), i.upset = none → i.mism = false →
      i.pm = 0 → ((s.quad i.q).locked = true → 2 ≤ ((s.quad i.q).core i.c).pos.val) → (s.quad i.q).closed i.c = false →
      (((s.quad i.q).core i.c).rep = 0 → ((s.quad i.q).core i.c).bootFetch = false ∧
        (s.quad i.q).eccAt (pmAddr i.c ((s.quad i.q).core i.c).pc.toNat) = .clean) →
      let k := s.issuer i
      let waits (c : Instr) : Prop := exec c s = .next (s.withCore i.q i.c k)
      (k.reqs.any (fun x => !x.store && x.set == k.act && x.dst == some (.d dx)) = true →
        waits (.add i dd dx (.reg dy)) ∧ waits (.mac i 0 dy dx) ∧ waits (.spawn i dx) ∧ waits (.dbnz i dx 0)) ∧
        (8 ≤ k.reqs.length → (gprOf code).isSome = true → waits (.busAccess i store code p w 0 0)))

/-! ### Scheduler and Kiln instructions -/

/-- R157, R160, R64, R158, R87, R163, R178, R190: `req` with no task blocks its core: a requesting position asks the scheduler once, a
privileged one waits for its prefetch slot; `done` at a requesting position, with nothing outstanding, ends its task: RUNS of the
descriptor goes on by one, its record's bytes stand at the place of the completion ring, and the core waits for work. What `req` and
`done` do outside the rules' tables is the model's reading (log 26). -/
def Obligations.TaskEnds : Prop :=
  (
    ∀ (s : State) (i : Issue), s.issues i → i.pm = 0 →
      let q := s.quad i.q
      let k := s.issuer i
      k.act = false → k.run = none → k.slots = 0 →
        (4 ≤ k.pos.val ∨ q.prefAt k.pos.val = none → ∃ t, exec (.req i) s = .next t ∧ OnlyQuad i.q s t ∧ SameBytes q (t.quad i.q) ∧ (t.quad i.q).regs = q.regs ∧
          (t.quad i.q).core i.c = { k with wait := .req } ∧ k.pos.val ∈ (t.quad i.q).sch.asks ∧
          (t.quad i.q).sch.queue = q.sch.queue)) ∧
  (
    ∀ (s : State) (i : Issue) (r : Run), s.issues i → s.memWf → i.pm = 0 →
      let q := s.quad i.q
      let k := s.issuer i
      k.act = false → k.flights = [] → k.slots = 0 → k.run = some r → k.assigned = none → 4 ≤ k.pos.val →
      r.inst.flow = none → r.inst.bound = false → r.charged = false → q.flt.test = none →
        ∃ t, exec (.done i) s = .next t ∧ OnlyQuad i.q s t ∧ ((t.quad i.q).core i.c).run = none ∧
          ((t.quad i.q).core i.c).wait = .req ∧ k.pos.val ∈ (t.quad i.q).sch.asks ∧
          (t.quad i.q).tf r.inst.task 4 31 0 = (q.tf r.inst.task 4 31 0 + 1) % 2 ^ 32 ∧
          (t.quad i.q).fld Reg.SCH_CR_WP_WP = (q.fld Reg.SCH_CR_WP_WP + 1) % 2 ^ 32 ∧
          (∀ a, a = q.ringPlace Reg.SCH_CR_BASE_BASE Reg.SCH_CR_LEN_LOG2 Reg.SCH_CR_WP_WP → r.status = 0 → q.openTo a 16 →
            q.ranRecord r k.pos.val k.set0.st (q.phys a) (t.quad i.q)))

/-- R157, R168, R187, R159, R158, R161: `spawn` of a task that may be made ready and finds room queues an instance of it and goes on; one
that the scheduler holds stalls its core; one that is refused changes nothing else; the questions to the scheduler, `frel` in a flow, the
prefetch slot and the Kiln word as an instruction reads them. That a second question waits is the model's reading (log 27). -/
def Obligations.SpawnAndQuestions : Prop :=
  (
    ∀ (s : State) (i : Issue) (dx : Fin 16), s.issues i → s.memWf → i.pm = 0 →
      let q := s.quad i.q
      let k := s.issuer i
      let task := (k.dr dx).toNat % 4096
      let after (t : State) (k2 : Core) : Prop := exec (.spawn i dx) s = .next t ∧ OnlyQuad i.q s t ∧ SameBytes q (t.quad i.q) ∧
        (t.quad i.q).core i.c = k2
      q.eccIn (taskAddr task) 32 = [] →
      (q.refused165 task = false → q.room168 task = true → q.tFvld task = false → ∃ t, after t k.advance ∧
        (t.quad i.q).sch.queue = q.sch.queue ++ [⟨task, q.tLevel task, q.cclk / 2, q.tick, false, q.tEvt task, none⟩]) ∧
      (q.refused165 task = false → q.room168 task = false → ∃ t, after t (if k.act then { k with evWait := .spawn task } else { k with wait := .spawn task }) ∧
        (t.quad i.q).sch = q.sch) ∧
      (q.refused165 task = true → exec (.spawn i dx) s = .next (s.withCore i.q i.c k.advance))) ∧
  (
    ∀ (s : State) (i : Issue) (dd dx : Fin 16), s.issues i → i.pm = 0 →
      let q := s.quad i.q
      let k := s.issuer i
      let slot : W40 := if k.pos.val < 4 then (match q.prefAt k.pos.val with | some x => BitVec.ofNat 40 (x.task + 4096) | none => 0) else 0
      let word : W40 := match (if k.act && k.evs.toNat % 4 == 1 then k.evtRun else k.run) with | some r => r.word &&& 0x7FFFF | none => 0
      (∃ k2, exec (.spawnNb i dd dx) s = .next (s.withCore i.q i.c k2) ∧ k2.ask = some ⟨false, k.dr dx, k.act, some dd⟩ ∧
          k2 = { k.advance with ask := k2.ask, flights := k2.flights }) ∧
        (∃ k2, exec (.cancel i dd dx) s = .next (s.withCore i.q i.c k2) ∧ k2.ask = some ⟨true, k.dr dx, k.act, some dd⟩ ∧
          k2 = { k.advance with ask := k2.ask, flights := k2.flights }) ∧
        (∃ k2, exec (.pfs i dd) s = .next (s.withCore i.q i.c k2) ∧ k.onlyRegs k2 ∧ k2.cur = { k.cur with d := k.cur.d.set dd slot }) ∧
        exec (.kld i dd) s = .next (s.withCore i.q i.c (k.sends [(2, .reg (.d dd) word)]).advance) ∧
        exec (.kfg i dd) s = .next (s.withCore i.q i.c (k.sends [(2, .reg (.d dd)
          (if word.getLsbD 18 then BitVec.ofNat 40 (word.toNat % 65536 * 2 ^ 15) else 0))]).advance) ∧
        (∀ r, k.run = some r → k.act = false → r.inst.flow.isSome = true →
          (r.frel = true → exec (.frel i) s = .next (s.withCore i.q i.c k.advance)) ∧
          (r.frel = false → ∃ t, exec (.frel i) s = .next t ∧ OnlyQuad i.q s t ∧
            (t.quad i.q).core i.c = { k.advance with run := some { r with frel := true } })))

/-! ### What happens to a core by itself -/

/-- R82, R83, R108, R152: an outstanding load of a core lands in the set that issued it, with EC or EU as its data came; the oldest store
retires. That data moved at issue is the model's choice (log 29). -/
def Obligations.BusRequestsComplete : Prop :=
  ∀ (s : State) (iq : QId) (c : Fin 17) (x : BusReq) (rest : List BusReq),
    let q := s.quad iq
    let k := q.core c
    (q.locked = true → 2 ≤ k.pos.val) → k.reqs = x :: rest →
      (x.store = false → ∃ t, exec (.busLoadLand iq c 0) s = .next t ∧ OnlyQuad iq s t ∧ SameBytes q (t.quad iq) ∧
        (t.quad iq).regs = q.regs ∧ ((t.quad iq).core c).reqs.length = rest.length ∧
        (∀ r, x.dst = some r → ∀ d : Fin 16, r = .d d → (((t.quad iq).core c).getSet x.set).d[d] = x.val) ∧
        (x.dst = none → (((t.quad iq).core c).getSet x.set).d = (k.getSet x.set).d) ∧
        (((t.quad iq).core c).getSet x.set).st = ((k.getSet x.set).st |||
          (match x.ecc with | .clean => 0 | .corr => stEC | .uncorr => stEU)) ∧
        ((t.quad iq).core c).getSet (!x.set) = k.getSet (!x.set)) ∧
      (x.store = true → ∃ t, exec (.busStoreComplete iq c) s = .next t ∧ OnlyQuad iq s t ∧ SameBytes q (t.quad iq) ∧
        (t.quad iq).regs = q.regs ∧ (t.quad iq).core c = { k with reqs := rest })

/-- R180, R84, R468, R80, R157, R168: what is put to a core from outside: an event instance made pending at its position, a DBG event from
the debug port, a corrected word written back, and the scheduler's answer to `spawn.nb`: DONE with the instance queued, HELD with nothing
queued, REFUSED. That a make-ready takes two cycles is the model's reading (log 59). A debug event at a core that masks it is lost by the
model's reading (log 112), and the write-back is log 113's. -/
def Obligations.CoreInputs : Prop :=
  ∀ (s : State) (iq : QId) (c : Fin 17) (pos : Fin 16) (a : Nat) (x : Inst) (v : W40) (set : Bool) (dd : Fin 16),
    let q := s.quad iq
    let k := q.core c
    ((∀ j ∈ q.sch.queue, q.tValid j.task = true) → q.coreAt pos.val = some c → k.pendEvt = none → k.evtRun = none → k.act = false → k.stopped = false → k.parked = false →
      bestInst (q.sch.queue.filter fun i => i.evt && q.modeAllows i && bitN (q.effMask i.task) pos.val && q.tValid i.task &&
        !(q.tSer i.task && q.running? i.task)) = some x →
      ∃ t, exec (.evtPost iq pos) s = .next t ∧ OnlyQuad iq s t ∧ (t.quad iq).core c = { k with pendEvt := some x } ∧
        (t.quad iq).sch.queue = q.sch.queue.erase x ∧ SameBytes q (t.quad iq) ∧ (t.quad iq).regs = q.regs) ∧
      (s.dev.host.life ≠ .sealed_ → s.dev.host.life ≠ .void_ → k.evm.getLsbD 1 = true → k.stopped = false →
        ∃ t, exec (.debugPortEvent iq c) s = .next t ∧ (t.quad iq).core c = { k with pendDbg := true } ∧ t.pending = s.pending ∧
          SameBytes q (t.quad iq) ∧ (t.quad iq).regs = q.regs ∧ ∀ j, j ≠ iq → t.quad j = s.quad j) ∧
      ((s.dev.host.life = .sealed_ ∨ s.dev.host.life = .void_) → s.memWf → exec (.debugPortEvent iq c) s = .next s) ∧
      (a ∈ q.eccBack → q.eccAt a ≠ .uncorr → ∃ t, exec (.eccWriteback iq a) s = .next t ∧ OnlyQuad iq s t ∧ (t.quad iq).eccAt a = .clean ∧
        a ∉ (t.quad iq).eccBack ∧ SameBytes q (t.quad iq) ∧ (t.quad iq).cores = q.cores ∧ (t.quad iq).regs = q.regs) ∧
      ((q.locked = true → 2 ≤ k.pos.val) → k.ask = some ⟨false, v, set, some dd⟩ → 4096 ≤ v.toNat →
        ∃ t, exec (.schedulerAnswer iq c) s = .next t ∧ OnlyQuad iq s t ∧ ((t.quad iq).core c).ask = none ∧
          (((t.quad iq).core c).getSet set).d[dd] = 0x10 ∧ (t.quad iq).sch = q.sch ∧ SameBytes q (t.quad iq)) ∧
      (q.locked = false → k.ask = some ⟨false, v, set, some dd⟩ → v.toNat < 4096 → q.eccIn (taskAddr v.toNat) 32 = [] → q.refused165 v.toNat = false →
        (q.room168 v.toNat = true → q.tFvld v.toNat = false → ∃ t, exec (.schedulerAnswer iq c) s = .next t ∧ OnlyQuad iq s t ∧
          SameBytes q (t.quad iq) ∧ ((t.quad iq).core c).ask = none ∧ (((t.quad iq).core c).getSet set).d[dd] = 0 ∧
          (t.quad iq).cclk = q.cclk + 2 ∧ (t.quad iq).sch = { q.sch with
            queue := q.sch.queue ++ [⟨v.toNat, q.tLevel v.toNat, q.cclk / 2, q.tick, false, q.tEvt v.toNat, none⟩] }) ∧
        (q.room168 v.toNat = false → ∃ t, exec (.schedulerAnswer iq c) s = .next t ∧ OnlyQuad iq s t ∧ SameBytes q (t.quad iq) ∧
          ((t.quad iq).core c).ask = none ∧ (((t.quad iq).core c).getSet set).d[dd] = 0x11 ∧ (t.quad iq).sch = q.sch ∧
          (t.quad iq).fld Reg.SCH_HELDCNT_COUNT = min (q.fld Reg.SCH_HELDCNT_COUNT + 1) Reg.SCH_HELDCNT_COUNT.max))

/-! ### Ticks, modes, resets, start-up -/

/-- R28, R197, R26, R54, R30, R27: a boundary of a running grid numbers the next tick and exchanges the buffers; the first boundary of a grid
falls where a boundary of the audio clock is a whole multiple of 250,000 ns, and takes its number from the time; a change of Fi stops the
grid; a read of the low word latches the high one. The order of what one boundary does, and the boundary at GRID_START, are the model's
readings (log 46, 47). -/
def Obligations.Boundaries : Prop :=
  ∀ (s : State) (iq : QId) (env : BoundaryEnv) (fi : W32),
    let q := s.quad iq
    let k : Nat := 3 * q.tim.ns.toNat / t3 q.fi
    let now : Int := 3 * (q.tim.ns.toNat * 2 ^ 32 + q.tim.fr.toNat : Nat)
    let at_ : Int := (k * t3 q.fi * 2 ^ 32 : Nat)
    let first : Prop := k * t3 q.fi % 750000 = 0 ∧ at_ ≤ now ∧ ∀ v, q.tim.prev = some v → 3 * (v : Int) < at_
    (q.running = true → Answers (.tickBoundary iq env) s iq fun r =>
        r.tick = q.tick + 1 ∧ r.running = true ∧ r.fab.wbuf = (!q.fab.wbuf) ∧ r.fi = q.fi) ∧
      (q.running = false → s.memWf → exec (.tickBoundary iq env) s = .next s) ∧
      ((q.running = false → q.gridDue = true → q.rst = .past → first → Answers (.gridStart iq) s iq fun r =>
          r.running = true ∧ r.gridDue = false ∧ r.tick.toNat = k % 2 ^ 64) ∧
        (q.running = true ∨ q.gridDue = false ∨ ¬first → s.memWf → exec (.gridStart iq) s = .next s)) ∧
      (∀ t, epochTick q.fi t = 3 * t / t3 q.fi ∧ epochSample q.fi t = 12 * t / t3 q.fi) ∧
      (fi.toNat ≤ 2 → q.mode = .standby → (∀ b ∈ q.sch.bound, b.last ≠ none) → Answers (.qctlRateWrite iq fi) s iq fun r =>
        r.fi = fi.toNat ∧ r = { q with regs := r.regs, mem := r.mem, running := false, gridDue := true } ∧ SameBytes q r ∧
          SameRegsBut [Reg.QCTL_RATE, Reg.RTE_LOADPK, Reg.RTE_STAT] q r) ∧
      Answers (.qctlTickRead iq) s iq fun r => r = { q with tickHi := (q.tick >>> 32).setWidth 32, mem := r.mem } ∧ SameBytes q r

/-- R41 to R45, R57, R271, R449, R476: a MODE command that the table of R41 lists waits for its boundary; one that it does not list completes
with REFUSED, and so does one while a change is pending, STANDBY or SERVICE while a commit stands, RUN with nothing to run, HARDPAN where
Hardpan is off, STANDBY during a test; at its boundary the mode changes and the command completes. An emergency entry due at the boundary
goes first: the quadrant enters HARDPAN, and a command that waits completes with REFUSED. The command at which a change takes effect is
the model's reading (log 66). -/
def Obligations.ModeCommands : Prop :=
  ∀ (s : State) (iq : QId) (seq : W32),
    let q := s.quad iq
    let now : W32 := q.tick.setWidth 32
    let waits (c : Instr) (m : Mode) (n : Nat) : Prop := Answers c s iq fun r =>
      r = { q.accepted seq 4 with change := some ⟨m, n, .command seq now⟩, mem := r.mem } ∧ SameBytes q r
    let ends (c : Instr) (status : Nat) : Prop := Answers c s iq fun r =>
      Told (q.accepted seq 4).hp r.hp (q.stamped status 4 0 seq now) ∧ r = { q with hp := r.hp, mem := r.mem } ∧ SameBytes q r
    let free : Prop := q.kln.prepared = [] ∧ q.kln.pend = []
    (q.takesCommand = true → q.seqOk seq = true → q.change = none →
      (q.mode = .standby ∧ q.runOk = true ∨ q.mode = .hardpan → waits (.modeRun iq seq) .run 2) ∧
        (free → (q.mode = .run ∨ q.mode = .hardpan ∨ q.mode = .service ∧ q.flt.test = none) → waits (.modeStandby iq seq) .standby 1) ∧
        (free → q.mode = .standby → waits (.modeService iq seq) .service 1) ∧
        (q.mode = .run → q.hpnOn = true → waits (.modeHardpan iq seq) .hardpan 1) ∧
        (q.mode ≠ .halt → waits (.modeHalt iq seq) .halt 1) ∧ (q.mode = .halt → ends (.modeHalt iq seq) 0) ∧
        (q.mode = .standby → ends (.modeStandby iq seq) 0x10 ∧ ends (.modeHardpan iq seq) 0x10) ∧
        (q.mode = .run → ends (.modeRun iq seq) 0x10 ∧ ends (.modeService iq seq) 0x10) ∧
        (q.mode = .hardpan → ends (.modeService iq seq) 0x10 ∧ ends (.modeHardpan iq seq) 0x10) ∧
        (q.mode = .service → ends (.modeRun iq seq) 0x10 ∧ ends (.modeService iq seq) 0x10 ∧ ends (.modeHardpan iq seq) 0x10) ∧
        (q.mode = .halt → ends (.modeRun iq seq) 0x10 ∧ ends (.modeStandby iq seq) 0x10 ∧ ends (.modeService iq seq) 0x10 ∧
          ends (.modeHardpan iq seq) 0x10) ∧
        (¬free → ends (.modeStandby iq seq) 0x10 ∧ ends (.modeService iq seq) 0x10) ∧
        (q.mode = .standby → (q.running = false ∨ q.hpnOn = false ∧ ∀ b ∈ q.sch.bound, b.last ≠ none) → ends (.modeRun iq seq) 0x10) ∧
        (q.hpnOn = false → ends (.modeHardpan iq seq) 0x10) ∧
        (q.mode = .service → q.flt.test ≠ none → ends (.modeStandby iq seq) 0x10)) ∧
      (q.takesCommand = true → q.seqOk seq = true → q.change ≠ none → q.mode ≠ .halt → ends (.modeRun iq seq) 0x10 ∧
        ends (.modeStandby iq seq) 0x10 ∧ ends (.modeService iq seq) 0x10 ∧ ends (.modeHardpan iq seq) 0x10 ∧ ends (.modeHalt iq seq) 0x10) ∧
      (∀ m acc, q.change = some ⟨m, 0, .command seq acc⟩ → q.up → m ≠ .scour → q.flt.due = [] → q.hpn.entry ≠ some 0 →
        Answers (.modeChangeEffect iq) s iq fun r => r.mode = m ∧ q.stamped 0 4 0 seq acc ∈ r.hp.kept ∧ r.tick = q.tick ∧ r.change = none) ∧
      (q.hpn.entry = some 0 → q.mode = .run → q.locked = true → q.flt.due = [] → q.haltDue = false →
        Answers (.modeChangeEffect iq) s iq fun r => r.mode = .hardpan ∧ r.hpn.entry = none ∧ r.tick = q.tick ∧
          ∀ m n acc, q.change = some ⟨m, n, .command seq acc⟩ → r.change = none ∧
            q.stamped (if m = .hardpan ∧ n = 0 then 0 else 0x10) 4 0 seq acc ∈ r.hp.kept)

/-- R49, R50, R453, R494, R495: the resets of a quadrant and of the device, and their ends: a quadrant in reset is in SCOUR with every
register at its reset value but the cause, and its memory keeps its bytes; while Q_RST_N is low nothing releases it. Which windows a reset
keeps is the model's reading (log 68, 98), and values without a reset value in the spec are its choice (log 1). -/
def Obligations.Resets : Prop :=
  ∀ (s : State) (iq : QId) (ns mv core mgt : Nat) (time : Bool),
    let q := s.quad iq
    let h := s.dev.host
    let resetTo (low : Bool) (p r : Quad) (cause : Nat) (ph : RstPhase) : Prop := SameBytes p r ∧
      r = { Quad.reset with
        regs := [(Reg.QCTL_RST_CAUSE, w32 cause)], mem := r.mem, ecc := p.ecc, hp := r.hp, freeCtr := p.freeCtr, rst := ph,
        pinLow := low }
    let isReset (p r : Quad) (cause : Nat) (ph : RstPhase) : Prop := resetTo p.pinLow p r cause ph
    let freed (p r : Quad) : Prop := r.rst = (if p.rst = .held ∧ p.pinLow = false then .released else p.rst) ∧ r.mode = p.mode ∧ SameBytes p r
    (100 ≤ ns → q.rst ≠ .held → Answers (.quadrantResetPin iq ns) s iq fun r => resetTo true q r 2 .held) ∧
      (100 ≤ ns → q.rst = .held → Answers (.quadrantResetPin iq ns) s iq fun r =>
        r = { q with pinLow := true, mem := r.mem } ∧ SameBytes q r) ∧
      (q.mode ≠ .scour → Answers (.softReset iq) s iq fun r => isReset q r 4 .released) ∧
      (10000 < ns → q.rst ≠ .held → AnswersAll (.clockLossReset iq ⟨ns, time⟩) s fun t =>
        isReset q (t.quad iq) 8 .released ∧ ∀ j, j ≠ iq → SharedOnly (s.quad j) (t.quad j)) ∧
      (h.holds = false → s.memWf → Answers (.resetRelease iq) s iq fun r => r.pinLow = false ∧ freed { q with pinLow := false } r) ∧
      (AnswersAll .porAssert s fun t => t.dev.host.porLow = true ∧ t.dev.host.mladcel = false ∧ (t.dev.host.log = h.log ∨ t.dev.host.log = (h.place none).log) ∧
        ∀ j, isReset (s.quad j) (t.quad j) 1 .held) ∧
      (h.porLow = true → AnswersAll (.porRelease mv) s fun t => t.dev.host.porLow = false ∧ t.dev.host.port33 = decide (2500 < mv) ∧
        (h.held = false → h.life ≠ .void_ → h.burn = none → ∀ j, freed (s.quad j) (t.quad j))) ∧
      (core < 620 ∨ mgt < 2800 → AnswersAll (.supplyPorHold core mgt) s fun t => t.dev.host.held = true ∧
        ∀ j, isReset (s.quad j) (t.quad j) 1 .held) ∧
      (h.held = true → 620 < core → 2800 < mgt → AnswersAll (.supplyHoldRelease core mgt) s fun t => t.dev.host.held = false ∧
        (h.porLow = false → h.life ≠ .void_ → h.burn = none → ∀ j, freed (s.quad j) (t.quad j)))

/-- R53 to R56, R58 to R60: SCOUR zeroes the memory, its end enters STANDBY with every core parked but that of position 0; REMAP; the
delivery of an image; what a digest that matches brings, its sections written and the mode of its table due, and what one that differs
brings. The division of the start into commands is the model's reading (log 69, 70). -/
def Obligations.StartUp : Prop :=
  ∀ (s : State) (iq : QId) (board : DramBoard) (emg : BitVec 4) (remap corrupt : Bool),
    let q := s.quad iq
    let h := s.dev.host
    (q.rst = .released → AnswersAll (.scourStart iq board) s fun t => (t.quad iq).rst = .scouring ∧ (t.quad iq).ecc = [] ∧
        (∀ a, (t.quad iq).mem.read a = 0) ∧ (t.quad iq).tim.started = true ∧ (t.quad iq).cores = q.cores ∧
        ∀ j, j ≠ iq → t.quad j = s.quad j) ∧
      (q.rst = .scouring → AnswersAll (.scourComplete iq emg) s fun t => (t.quad iq).rst = .past ∧ (t.quad iq).mode = .standby ∧
        (t.quad iq).gridDue = true ∧ (∀ c, ((t.quad iq).core c).parked = decide (((t.quad iq).core c).pos.val ≠ 0)) ∧
        (∀ c : Fin 17, (h.retired iq ||| q.hp.retiring).getLsbD c.val = true → ((t.quad iq).core c).pos = 31) ∧
        (h.retired iq ||| q.hp.retiring = 0 → ∀ c : Fin 17, ((t.quad iq).core c).pos.val = c.val) ∧ SameBytes q (t.quad iq) ∧
        ∀ j, j ≠ iq → SharedOnly (s.quad j) (t.quad j)) ∧
      (q.mode = .standby ∨ q.mode = .service → q.othersParked = true → q.dma.items = [] → q.dma.copying = [] →
        Answers (.remapWrite iq remap) s iq fun r => r.remap = remap ∧ RegsOnly [Reg.QCTL_CTL] q r) ∧
      (h.mladcel = true → q.rst = .past → q.mode = .standby → h.deliveries.find iq.num = none → h.boot.auto.getLsbD iq.num = true →
        h.life.autoOk = true → 0 < (h.image (iq.num + 1) (h.selected (iq.num + 1))).len →
        AnswersAll (.autostartDelivery iq corrupt) s fun t => ∃ e, t.dev.host.deliveries.find iq.num = some e ∧
          e.slot = h.selected (iq.num + 1) ∧ e.delivered = h.slotOk (iq.num + 1) e.slot ∧ e.done = (!e.delivered) ∧
          (corrupt = true → e.mode = none) ∧ SameBytes q (t.quad iq) ∧ ∀ j, j ≠ iq → t.quad j = s.quad j) ∧
      (∀ e, h.deliveries.find iq.num = some e → h.mladcel = true → e.delivered = true → e.done = false → e.mode = none → q.rst = .past →
        q.mode ≠ .halt → AnswersAll (.autostartDigestCheck iq) s fun t =>
          t.dev.host.deliveries.find iq.num = some (if e.second then { e with done := true }
            else { e with slot := !e.slot, second := true, delivered := false }) ∧
          SameBytes q (t.quad iq) ∧ (t.quad iq).mode = q.mode ∧ (t.quad iq).change = q.change ∧ ∀ j, j ≠ iq → t.quad j = s.quad j) ∧
      (∀ e m, h.deliveries.find iq.num = some e → h.mladcel = true → e.delivered = true → e.done = false → e.mode = some m → q.rst = .past →
        q.mode = .standby → AnswersAll (.autostartDigestCheck iq) s fun t =>
          let img := h.image (iq.num + 1) e.slot
          let v := Config.imageView img.bytes
          let q1 := v.sections.foldl (fun q x => q.writeSection x.1 x.2 x.2.length) q
          let r := t.quad iq
          t.dev.host.deliveries.find iq.num = some { e with done := true } ∧
            r.hp.digests.find 0 = some ⟨sha256 (img.bytes.bytesAt 256 v.length), 0, v.length⟩ ∧ SameBytes q1 r ∧ r.regs = q1.regs ∧
            r.cores = q1.cores ∧ r.mode = q1.mode ∧
            r.change = (if q1.change = none ∧ q1.mode = .standby then some ⟨if m = .standby then .standby else .run, 2, .auto e.slot⟩
              else q1.change) ∧ ∀ j, j ≠ iq → t.quad j = s.quad j)

/-! ### Scheduler, exchange memory, fabric -/

/-- R174, R175, R173: the operations of SCH_ARM: a binding from tick j + 2, its end with tick j + 1, an entry put behind those of equal or
smaller key and behind one that is held (R187), periodic entries removed; each refused, or HELD by a full list, where the table says so,
and then nothing but the writer's own status changes; that status reads what came of it. The place of an entry of equal key is the model's
reading (log 61). -/
def Obligations.Arming : Prop :=
  ∀ (s : State) (iq : QId) (w : Writer) (task : BitVec 12),
    let q := s.quad iq
    let t := task.toNat
    let ends (c : Instr) (status : W32) (f : Sched → Prop) : Prop := Answers c s iq fun r =>
      r = { q with sch := r.sch, regs := r.regs, mem := r.mem } ∧ SameBytes q r ∧ SameRegsBut [copyOff w Reg.SCH_ARM_STAT] q r ∧
        r.rdCopy w Reg.SCH_ARM_STAT = status ∧ f r.sch
    let does (c : Instr) (f : Sched → Prop) : Prop := ends c 0 f
    let refused (c : Instr) : Prop := ends c 0x10 fun x => x = q.sch
    let held (c : Instr) : Prop := ends c 0x11 fun x => x = q.sch
    let stands (e : DelayEntry) (a b : List DelayEntry) : Prop := ∃ l1 l2, a = l1 ++ l2 ∧ b = l1 ++ e :: l2 ∧
      (∀ x ∈ l1, x.key ≤ e.key ∨ x.expired = true) ∧ ∀ x, l2.head? = some x → e.key < x.key ∧ x.expired = false
    let entry (p : Option Nat) : DelayEntry := ⟨q.armKey w, t, p, false⟩
    let plain (c : Instr) : Prop := does c fun x => stands (entry none) q.sch.tickList x.tickList ∧ x = { q.sch with tickList := x.tickList }
    mayWrite w = true → q.up →
      (q.tickB t = false → q.pmode t = 0 → q.tEvt t = false → q.tFvld t = false → q.reservation < 1024 → q.refused165 t = false →
        does (.schArmBind iq w task) fun x => x = { q.sch with bound := q.sch.bound ++ [⟨t, q.tick + 2, none⟩] }) ∧
      (q.tickB t = true → does (.schArmUnbind iq w task) fun x => x = { q.sch with
        bound := q.sch.bound.map fun b => if b.task = t ∧ b.last = none then { b with last := some (q.tick + 1) } else b }) ∧
      (q.tickB t = true ∨ q.pmode t ≠ 0 ∨ q.tEvt t = true ∨ q.tFvld t = true ∨ 1024 ≤ q.reservation ∨ q.refused165 t = true →
        refused (.schArmBind iq w task)) ∧
      (q.tickB t = false → refused (.schArmUnbind iq w task)) ∧
      (q.tickB t = true ∨ q.pmode t ≠ 0 ∨ q.refused165 t = true → refused (.schArmTickPeriodic iq w task) ∧ refused (.schArmTimePeriodic iq w task)) ∧
      (q.tf t 1 31 16 = 0 → refused (.schArmTickPeriodic iq w task)) ∧ (q.tf t 3 31 0 < 10000 → refused (.schArmTimePeriodic iq w task)) ∧
      (q.refused165 t = true → refused (.schArmOneshotTick iq w task) ∧ refused (.schArmOneshotTime iq w task)) ∧
      (q.pmode t = 0 → refused (.schArmDisarm iq w task)) ∧
      (q.refused165 t = false → 1024 ≤ q.sch.tickList.length → held (.schArmOneshotTick iq w task) ∧
        (q.tickB t = false → q.pmode t = 0 → q.tf t 1 31 16 ≠ 0 → held (.schArmTickPeriodic iq w task))) ∧
      (q.refused165 t = false → 1024 ≤ q.sch.timeList.length → held (.schArmOneshotTime iq w task) ∧
        (q.tickB t = false → q.pmode t = 0 → 10000 ≤ q.tf t 3 31 0 → held (.schArmTimePeriodic iq w task))) ∧
      (q.refused165 t = false → q.sch.tickList.length < 1024 → plain (.schArmOneshotTick iq w task) ∧
        (q.tickB t = false → q.pmode t = 0 → q.tf t 1 31 16 ≠ 0 → does (.schArmTickPeriodic iq w task) fun x =>
          stands (entry (some (q.tf t 1 31 16))) q.sch.tickList x.tickList ∧ x = { q.sch with tickList := x.tickList })) ∧
      (q.refused165 t = false → q.sch.timeList.length < 1024 → (does (.schArmOneshotTime iq w task) fun x =>
          stands (entry none) q.sch.timeList x.timeList ∧ x = { q.sch with timeList := x.timeList }) ∧
        (q.tickB t = false → q.pmode t = 0 → 10000 ≤ q.tf t 3 31 0 → does (.schArmTimePeriodic iq w task) fun x =>
          stands (entry (some (q.tf t 3 31 0))) q.sch.timeList x.timeList ∧ x = { q.sch with timeList := x.timeList })) ∧
      (q.pmode t ≠ 0 → does (.schArmDisarm iq w task) fun x => x = { q.sch with tickList := x.tickList, timeList := x.timeList } ∧
        (∀ e, e ∈ x.tickList ↔ e ∈ q.sch.tickList ∧ ¬(e.task = t ∧ e.period ≠ none)) ∧
        ∀ e, e ∈ x.timeList ↔ e ∈ q.sch.timeList ∧ ¬(e.task = t ∧ e.period ≠ none))

/-- R178, R166, R173, R177, R187, R188, R186: an assignment starts the selected instance on the core that asks; the entries of the lists, the
held ones and the mailbox put instances in the queues, a periodic entry going on by its period, or dropped and counted while its task is
queued; a flow is configured. That a make-ready and an assignment take two cycles is the model's reading (log 59). The order of held
entries is the model's reading (log 76). -/
def Obligations.SchedulerEvents : Prop :=
  ∀ (s : State) (iq : QId) (pos : Fin 16) (f : Fin 64) (v : W32),
    let q := s.quad iq
    let fresh (t : Nat) : Inst := ⟨t, q.tLevel t, q.cclk / 2, q.tick, false, q.tEvt t, none⟩
    let readied (c : Instr) (t : Nat) (f : Sched → Sched) : Prop := Answers c s iq fun r =>
      r = { q with sch := { f q.sch with queue := q.sch.queue ++ [fresh t] }, cclk := q.cclk + 2, regs := r.regs, mem := r.mem } ∧
        SameBytes q r ∧ SameRegsBut [Reg.SCH_LVL_DEP (q.tLevel t)] q r
    let room (t : Nat) : Prop := q.refused165 t = false ∧ q.room168 t = true ∧ q.tFvld t = false ∧ q.eccIn (taskAddr t) 32 = []
    let stands (e : DelayEntry) (a b : List DelayEntry) : Prop := ∃ l1 l2, a = l1 ++ l2 ∧ b = l1 ++ e :: l2 ∧
      (∀ x ∈ l1, x.key ≤ e.key ∨ x.expired = true) ∧ ∀ x, l2.head? = some x → e.key < x.key ∧ x.expired = false
    (∀ x, q.select pos.val = some x → ∀ c, q.coreAt pos.val = some c → 4 ≤ pos.val → (∀ i ∈ q.sch.queue, q.tValid i.task = true) →
      q.swapPref = none → q.nextAsk = some pos.val → (q.core c).act = false → (q.core c).eventPends = false → Answers (.taskAssign iq pos) s iq fun r =>
        r.sch.queue = q.sch.queue.erase x ∧ pos.val ∉ r.sch.asks ∧ r.cclk = q.cclk + 2 ∧ ((r.core c).run.map fun y => y.inst) = some x ∧
          (r.core c).wait = .none ∧ (r.core c).pc.toNat = q.tEntry x.task % 8192 ∧ (r.core c).set0.d[0] = x.dispatchWord ∧
          (r.core c).set1 = (q.core c).set1 ∧ ∀ d, d ≠ c → r.core d = q.core d) ∧
      (∀ x, q.select pos.val = some x → ∀ c, q.coreAt pos.val = some c → pos.val < 4 → (∀ i ∈ q.sch.queue, q.tValid i.task = true) →
        q.swapPref = none → q.nextAsk = some pos.val → (q.core c).wait ≠ .req → Answers (.taskAssign iq pos) s iq fun r =>
          r.sch = { q.sch with queue := q.sch.queue.erase x, asks := q.sch.asks.filter fun p => p != pos.val,
                               pref := q.sch.pref.setIfInBounds pos.val (some x) } ∧
            r.cclk = q.cclk + 2 ∧ r.cores = q.cores ∧ SameBytes q r ∧ r.regs = q.regs) ∧
      (∀ e rest per, q.sch.tickList = e :: rest → e.period = some per → 0 < per → room e.task → q.mode ≠ .scour → e.key ≤ q.tick →
        q.tick.toNat < e.key.toNat + per → e.key.toNat + per < 2 ^ 64 → e.expired = false → q.tSer e.task = false →
        (q.queued e.task = 0 → Answers (.tickListExpiry iq) s iq fun r =>
          stands { e with key := e.key + BitVec.ofNat 64 per } rest r.sch.tickList ∧
          r = { q with sch := { q.sch with queue := q.sch.queue ++ [fresh e.task], tickList := r.sch.tickList }, cclk := q.cclk + 2,
                       regs := r.regs, mem := r.mem } ∧ SameBytes q r ∧ SameRegsBut [Reg.SCH_LVL_DEP (q.tLevel e.task)] q r) ∧
        (0 < q.queued e.task → Answers (.tickListExpiry iq) s iq fun r =>
          stands { e with key := e.key + BitVec.ofNat 64 per } rest r.sch.tickList ∧
          r = { q with sch := { q.sch with tickList := r.sch.tickList }, mem := r.mem } ∧
          r.tf e.task 5 31 16 = min (q.tf e.task 5 31 16 + 1) 65535 ∧ SameBytesBut (taskAddr e.task + 20) 4 q r)) ∧
      (∀ e rest, q.sch.tickList = e :: rest → e.period = none → room e.task → q.mode ≠ .scour → e.key ≤ q.tick →
        (e.expired = false → readied (.tickListExpiry iq) e.task fun x => { x with tickList := rest }) ∧
        (e.expired = true → readied (.heldMakeReadyAccept iq) e.task fun x => { x with tickList := rest })) ∧
      (∀ e rest, q.sch.timeList = e :: rest → e.period = none → room e.task → q.mode ≠ .scour → e.key ≤ q.tim.ns → e.expired = false →
        readied (.timeListExpiry iq) e.task fun x => { x with timeList := rest }) ∧
      (v.toNat < 4096 → q.sch.mbox.length < 64 → ∀ fromHost, fromHost = true ∨ q.up → Answers (.mailboxWrite iq fromHost v) s iq fun r =>
        r = { q with sch := { q.sch with mbox := q.sch.mbox ++ [v.toNat] }, mem := r.mem } ∧ SameBytes q r) ∧
      (∀ t rest, q.sch.mbox = t :: rest → q.sch.mboxHeld = false → q.mode ≠ .scour →
        (room t → readied (.mailboxDrain iq) t fun x => { x with mbox := rest, mboxHeld := false }) ∧
        (q.refused165 t = true → q.eccIn (taskAddr t) 32 = [] → Answers (.mailboxDrain iq) s iq fun r =>
          r = { q with sch := { q.sch with mbox := rest }, regs := r.regs, mem := r.mem } ∧ SameBytes q r ∧
            r.fld Reg.SCH_MBOX_STAT_REF = min (q.fld Reg.SCH_MBOX_STAT_REF + 1) Reg.SCH_MBOX_STAT_REF.max ∧
            SameRegsBut [Reg.SCH_MBOX_STAT] q r) ∧
        (q.refused165 t = false → q.room168 t = false → q.eccIn (taskAddr t) 32 = [] → Answers (.mailboxDrain iq) s iq fun r =>
          r.sch = { q.sch with mboxHeld := true } ∧ SameBytes q r)) ∧
      (q.up → (q.flow f.val).out = 0 → v.toNat % 4 ≠ 3 → Answers (.flowCfgWrite iq f v) s iq fun r =>
        r.fld (Reg.SCH_FLOW_CFG_TGT f.val) = v.toNat % 4 ∧ r.flag (Reg.SCH_FLOW_CFG_EN f.val) = v.getLsbD 2 ∧
          r.fld (Reg.SCH_FLOW_CFG_IDX f.val) = v.toNat / 16 % 4096 ∧ SameRegsBut [Reg.SCH_FLOW_CFG f.val] q r ∧
          r = { q with sch := { q.sch with flows := r.sch.flows }, regs := r.regs, mem := r.mem } ∧ SameBytes q r ∧
          (q.flag (Reg.SCH_FLOW_CFG_EN f.val) = false → v.getLsbD 2 = true →
            ∃ n : Nat, r.flow f.val = { seq := n, rel := n } ∧ n % 65536 = 0 ∧ (q.flow f.val).seq ≤ n ∧ n < (q.flow f.val).seq + 65536))

/-- R207 to R214, R243: a pass in RUN, once no change of Kiln is due at its boundary any more, gives the destination of a run of any length
that the tick has time for the rounded, saturated sum of what its entries contribute, those that crossfade between two gains or two
sources included, and a slot without a run zeros. The length of a pass is the model's reading of the cycles (log 49). -/
def Obligations.FabricSums : Prop :=
  ∀ (s : State) (iq : QId) (j : Fin 4),
    let q := s.quad iq
    s.memWf → q.mode = .run → q.running = true → q.fab.passed = false → q.ecc = [] → q.kln.served = true →
      (∀ f ∈ q.kln.fades, f.i < f.len) → (∀ p ∈ q.kln.prepared, p.committed = true → p.t ≠ q.tick) →
      (q.routes = [] → ∀ d, d < slotLimit q.fi → q.kind d = 3 → Answers (.fabricPass iq []) s iq fun r =>
        r.fab.passed = true ∧ r.writeView d j.val = 0 ∧ r.fab.masks.get d 0 = 15 ∧ r.tick = q.tick) ∧
      (∀ l1 run l2 d, q.routes = l1 ++ run ++ l2 → run ≠ [] → run.length ≤ 32768 →
        (∀ i ∈ q.routes, q.entryCheck i = .ok ∧ (q.fi = 2 → i < 16384)) → (∀ i ∈ run, q.rDst i = d) → (∀ i ∈ l1 ++ l2, q.rDst i ≠ d) →
        d < slotLimit q.fi → 2 * 1024 + ((l1 ++ run).map q.rCost).sum + 9 ≤ q.halfCycles → Answers (.fabricPass iq []) s iq fun r =>
          let x (sl : Nat) : Int := (q.readView sl j.val).toInt
          let near (e : Int) : Int := (e + 32768) / 65536
          let term (i : Nat) : Int :=
            let a := q.rAct i
            let w : Int := match q.kln.fades.find? fun f => f.gen.val == q.rGen i with
              | some f => (65536 * (4 * f.i + j.val + 1) / (4 * f.len) : Nat)
              | none => 0
            if q.rFade i = false then q.rGain i a * x (q.rSrc i a)
            else if q.rSrc i a = q.rSrc i (!a) then near (65536 * q.rGain i a + w * (q.rGain i (!a) - q.rGain i a)) * x (q.rSrc i a)
            else near (q.rGain i a * (65536 - w)) * x (q.rSrc i a) + near (q.rGain i (!a) * w) * x (q.rSrc i (!a))
          let sum : Int := (run.map term).sum
          r.fab.passed = true ∧ r.fab.masks.get d 0 = 15 ∧
            r.writeView d j.val = BitVec.ofInt 40 (max (-2 ^ 39) (min ((sum + 2 ^ 30) / 2 ^ 31) (2 ^ 39 - 1))))

/-- R218, R206, R222 to R224, R227: the other commands of the exchange memory and the fabric; a vote writes the sum that a sound datapath and
the recomputation agree on, and counts the one that lost. A direct write that waits is the model's reading (log 58). -/
def Obligations.FabricCommands : Prop :=
  ∀ (s : State) (iq : QId) (slot : BitVec 12) (v : W32) (w : Writer) (offset : BitVec 19) (data : List Byte) (mper : BitVec 4)
      (j : Fin 4),
    let q := s.quad iq
    let sn := slot.toNat
    (q.fab.passed = true → q.fab.retry ≠ [] → Answers (.fabricVote iq) s iq fun r => r.fab.retry = [] ∧ r.tick = q.tick ∧ r.cores = q.cores) ∧
      (∀ x, q.fab.passed = true → q.fab.retry = [x] → q.ecc = [] → x.dst < slotLimit q.fi → s.memWf →
        q.fab.mainEnd + (x.run.map q.rCost).sum ≤ q.halfCycles → q.runSums x.run = x.sums →
        let one (f : Field) (r : Quad) : Prop := r.fld f = min (q.fld f + 1) f.max
        (x.okA = true ∨ x.okB = true → Answers (.fabricVote iq) s iq fun r => r.fab.retry = [] ∧ r.fab.masks.get x.dst 0 = 15 ∧
          r.writeView x.dst j.val =
            BitVec.ofInt 40 (max (-2 ^ 39) (min (((x.sums.getD j.val 0).toInt + 2 ^ 30) / 2 ^ 31) (2 ^ 39 - 1))) ∧
          one (if x.okB then Reg.RTE_VOTE_ALOSS else Reg.RTE_VOTE_BLOSS) r) ∧
        (x.okA = false → x.okB = false → Answers (.fabricVote iq) s iq fun r => r.fab.retry = [] ∧ x.dst ∈ r.fab.unwritten ∧
          one Reg.RTE_FAIL_NOVOTE r)) ∧
      (q.mode = .standby ∨ q.mode = .service → Answers (.xchOwnWrite iq slot v) s iq fun r =>
        r.kind sn = v.toNat % 8 ∧ r.ownIdx sn = v.toNat / 16 % 4096 ∧ RegsOnly [Reg.XCH_OWN sn] q r) ∧
      (q.mode = .run ∨ q.mode = .hardpan → Answers (.xchOwnWrite iq slot v) s iq fun r => SameRegsBut [] q r ∧ SameBytes q r ∧
        r.fab.ownPend.find sn = some (v &&& 0xFFF7) ∧
        r = { q with fab := { q.fab with ownPend := r.fab.ownPend }, regs := r.regs, mem := r.mem }) ∧
      (q.mode = .standby ∨ q.mode = .service → q.fab.dwWait = [] → q.kln.hold.length ≤ 4096 → s.memWf →
        (∀ k, k < data.length → q.role (0x21000000 + offset.toNat + k) = .plain) → Answers (.routeTableWrite iq w offset data) s iq fun r =>
          (∀ k, k < data.length → offset.toNat + k < 0x80000 → (offset.toNat + k) % 16 < 14 →
            r.mem.read (0x21000000 + offset.toNat + k) = data.getD k 0) ∧
          SameBytesBut (0x21000000 + offset.toNat) data.length q r ∧ SameRegsBut [Reg.RTE_LOADPK, Reg.RTE_STAT] q r ∧
            r.cores = q.cores ∧ r.fab = q.fab) ∧
      (q.buffered = true → q.fab.dwWait.length ≤ 1024 - q.fab.dwq.length → q.kln.hold.length ≤ 4096 →
        (∀ b ∈ q.fab.dwWait, b.bytes ≠ [] ∧ ∀ x ∈ b.bytes, 0x21000000 ≤ x.1 ∧ x.1 < 0x21080000 ∧ q.role x.1 = .plain) →
        (∀ i ∈ q.dma.items, i.tail = none) → q.hp.writeWait = none → q.hp.load = none → Answers (.directWriteResume iq) s iq fun r => SameBytes q r ∧
          r = { q with fab := { q.fab with dwq := q.fab.dwq ++ q.fab.dwWait, dwWait := [] }, mem := r.mem }) ∧
      (q.fab.mperPend = none → q.fab.accTicks ≠ 0 → q.tick.toNat % 2 ^ q.fld Reg.XCH_CTL_MPER = 0 →
        Answers (.meterPeriodEnd iq) s iq fun r => SameBytes q r ∧
          r = { q with fab := { q.fab with last := q.fab.acc, acc := [], accTicks := 0, ended := true },
                       hp := { q.hp with mgen := q.hp.mgen + 1 }, mem := r.mem }) ∧
      (q.up → mper.toNat ≤ 12 → Answers (.meterPeriodWrite iq mper) s iq fun r => r.fld Reg.XCH_CTL_MPER = mper.toNat ∧
        SameRegsBut [Reg.XCH_CTL] q r ∧ SameBytes q r ∧ r = { q with fab := r.fab, regs := r.regs, mem := r.mem } ∧
        r.fab = (if q.fld Reg.XCH_CTL_MPER = mper.toNat then q.fab else { q.fab with mperPend := some 1 }))

/-! ### Kiln and Hardpan -/

/-- R236 to R240, R442, R444: the commit commands: PREPARE answers DONE with the commit prepared, or NOT_READY with its reason; COMMIT and
ABORT are taken no later than tick T - 2; a domain commit waits for its reports, and ABORT is its decision once its manager's host has
sent ABORT. R242, R244, R248: what becomes of a prepared commit: missed, staged, in effect with a crossfade of the object it names; the
end of a crossfade frees its generator; a deferred change that is due takes a free generator, or waits and is counted. The reasons' order,
and generators at a boundary, are the model's readings (log 54, 56). -/
def Obligations.TimedCommits : Prop :=
  (
    ∀ (s : State) (iq : QId) (seq : W32) (id : BitVec 16) (scene : BitVec 8) (t : W64),
      let q := s.quad iq
      let now : W32 := q.tick.setWidth 32
      let reason := q.prepReason id scene.toNat t (q.tick.toNat + 3)
      let told (r : Quad) (status op aux : Nat) : Prop := Told (q.accepted seq op).hp r.hp (q.stamped status op aux seq now)
      let quiet : Prop := q.quietTo (q.ringPlace Reg.KLN_RG_BASE_BASE Reg.KLN_RG_LEN_LOG2 Reg.KLN_RG_WP_WP) 16
      q.takesCommand = true → q.seqOk seq = true → q.mode ≠ .halt →
        (reason = 0 → q.sceneEcc scene.toNat = [] → Answers (.prepare iq seq id scene t) s iq fun r => told r 0x00 5 0 ∧ ∃ p, r.kln.prepared = q.kln.prepared ++ [p] ∧
          p.id = id ∧ p.t = t ∧ p.dom = false ∧ p.committed = false ∧ p.objs = q.sceneObjs scene.toNat ∧
          (∀ g, p.gen = some g → g ∈ q.freeGens) ∧ SameBytes q r ∧ r.regs = q.regs) ∧
        (reason ≠ 0 → Answers (.prepare iq seq id scene t) s iq fun r => (quiet → r.kln = q.kln) ∧ r.kln.prepared = q.kln.prepared ∧
          r.hp.kept = q.hp.kept ++ [q.stamped 0x50 5 reason seq now]) ∧
        (t.toNat < q.tick.toNat + 3 → reason = 1) ∧ (q.tick.toNat + 3 ≤ t.toNat → q.mode = .standby ∨ q.mode = .service → reason = 2) ∧
        (q.snxState = snxManager → q.snx.coll = none → q.snx.decided = [] → Answers (.domainPrepare iq seq id scene t) s iq fun r =>
          r = { q.accepted seq 5 with snx := { q.snx with coll := some ⟨id, scene, q.tick, t, seq, 0, 0, 0, false, false⟩ }, mem := r.mem } ∧ SameBytes q r) ∧
        (∀ p, q.preparedOf id = some p → q.tick.toNat + 2 ≤ p.t.toNat →
          (Answers (.commit iq seq id) s iq fun r => told r 0x00 6 id.toNat ∧ SameBytes q r ∧ r.regs = q.regs ∧
            r.kln = { q.kln with prepared := r.kln.prepared } ∧ r.preparedOf id = some { p with committed := true } ∧
            ∀ x ∈ q.kln.prepared, x.id ≠ id → x ∈ r.kln.prepared) ∧
          (Answers (.abort iq seq id) s iq fun r => r.preparedOf id = none ∧ (quiet → r.kln = { q.kln with prepared := r.kln.prepared }) ∧
            (∀ x ∈ q.kln.prepared, x.id ≠ id → x ∈ r.kln.prepared) ∧ told r 0x00 7 id.toNat)) ∧
        (∀ c, q.preparedOf id = none → q.collectOf id = some c → c.took = false → q.tick.toNat + 2 ≤ c.t.toNat →
          Answers (.abort iq seq id) s iq fun r => told r 0x00 7 id.toNat ∧ (quiet → r.kln = q.kln) ∧ r.snx.coll = some { c with aborted := true }) ∧
        (q.preparedOf id = none → Answers (.commit iq seq id) s iq fun r => told r 0x10 6 id.toNat ∧ r.kln = q.kln ∧ SameBytes q r)) ∧
  (
    ∀ (s : State) (iq : QId) (id : BitVec 16) (g : Fin 16),
      let q := s.quad iq
      let quiet : Prop := q.quietTo (q.ringPlace Reg.KLN_RG_BASE_BASE Reg.KLN_RG_LEN_LOG2 Reg.KLN_RG_WP_WP) 16
      let still : Prop := ∀ c, (q.core c).dual = []
      let gone (r : Quad) : Prop := r.kln.prepared = q.kln.prepared.filter fun x => x.id != id
      q.up →
        (∀ p, q.preparedOf id = some p →
          (p.committed = false → p.t.toNat ≤ q.tick.toNat + 1 → Answers (.commitMissed iq id) s iq fun r => gone r ∧
            (quiet → r.kln = { q.kln with prepared := r.kln.prepared } ∧ r.cores = q.cores)) ∧
          (p.committed = true → p.t.toNat = q.tick.toNat + 1 → Answers (.commitStage iq id) s iq fun r => SameBytes q r ∧
            r = { q with kln := { q.kln with prepared := r.kln.prepared }, mem := r.mem } ∧
            r.preparedOf id = some { p with staged := true }) ∧
          (p.committed = true → p.t = q.tick → Answers (.commitTakeEffect iq id) s iq fun r => gone r ∧ (still → r.cores = q.cores) ∧
            ∀ o, p.objs = [o] → p.gen = some g → q.objFade o = false →
              r.kln.fades = q.kln.fades ++ [⟨g, id, q.tick.setWidth 32, p.len, 0, [o], true⟩])) ∧
        (∀ f, (q.kln.fades.find? fun f => f.gen == g) = some f → f.len ≤ f.i → q.kln.pend = [] → Answers (.crossfadeEnd iq g) s iq fun r =>
          r.kln.fades = (q.kln.fades.filter fun x => x.gen != g) ∧ g ∈ r.kln.freed ∧
          (still → r.cores = q.cores ∧ (q.ecc = [] → SameRegsBut [Reg.RTE_LOADPK, Reg.RTE_STAT, Reg.KLN_SEAL, Reg.KLN_HOLD] q r))) ∧
        (q.kln.served = false → Answers (.generatorWaitRetry iq) s iq fun r => r.kln.served = true ∧ (still → r.cores = q.cores) ∧
          (q.kln.pend = [] → q.taskObjs = [] → r.kln = { q.kln with served := true } ∧ r.regs = q.regs)) ∧
        (∀ c, q.kln.served = false → q.kln.pend = [c] → q.objFade c.obj = false →
          (∀ h, q.kln.freed = [] → q.freeGens.head? = some h → Answers (.generatorWaitRetry iq) s iq fun r => r.kln.pend = [] ∧
            r.kln.fades = q.kln.fades ++ [⟨h, c.id, q.tick.setWidth 32, c.len, 0, [c.obj], false⟩] ∧ r.kln.served = true) ∧
          (q.freeGens = [] → Answers (.generatorWaitRetry iq) s iq fun r => r.kln.fades = q.kln.fades ∧
            r.kln.pend = [{ c with waiting := true, due := some (c.due.getD q.tick) }] ∧
            r.fld Reg.KLN_CNT_GWAIT = min (q.fld Reg.KLN_CNT_GWAIT + 1) Reg.KLN_CNT_GWAIT.max)))

/-- R254, R255, R93, R181, R257, R261 to R263: Hardpan enabled and disabled in STANDBY, what waits at the pair's positions put back, its
verification and the result, lockstep with the pair's memories and registers made equal, the first entry of a tick's schedule, and an
entry past its allowance. R258 to R260: what HPN_VERIFY finds in the first enabled entry: code 0x01 where its task is no valid Hardpan
task or nothing is written from ENTRY on; 0x02 at a forbidden instruction; 0x03 at a branch that goes back; 0x04 at a loop whose count is
out of range, or whose register another instruction of it writes; 0x05 where the code runs past instruction 8,191; 0x06 where it needs
more than it is allowed. A single loop costs its count times its body, beside its `ldi` and `done`, and the schedule of that one entry
then stands or falls by 0x07 to 0x0A. The verification's order and the instant of lockstep are the model's readings (log 87 to 89). -/
def Obligations.HardpanLife : Prop :=
  (
    ∀ (s : State) (iq : QId) (c0 c1 : Fin 17),
      let q := s.quad iq
      let noneWaits : Prop := q.prefAt 0 = none ∧ q.prefAt 1 = none
      q.coreAt 0 = some c0 → q.coreAt 1 = some c1 →
        (q.mode = .standby → q.hpn.state = .off → Answers (.hpnEnable iq) s iq fun r => SameBytes q r ∧
          r.hpn = { q.hpn with state := .verify, since := q.tick, verified := none, verr := 0 } ∧
          r.prefAt 0 = none ∧ r.prefAt 1 = none ∧ (r.core c0).pendEvt = none ∧ (r.core c1).pendEvt = none ∧
          (noneWaits → (q.core c0).pendEvt = none → (q.core c1).pendEvt = none →
            r = { q with hpn := r.hpn, regs := r.regs, mem := r.mem } ∧ SameRegsBut [] q r)) ∧
        (q.mode = .standby → q.hpn.state ≠ .off → Answers (.hpnDisable iq) s iq fun r => r.hpn.state = .off ∧ r.hpn.journal = [] ∧
          (∀ c, (r.core c).lock = false) ∧
          (noneWaits → SameBytes q r ∧ SameRegsBut [] q r ∧ r = { q with
            hpn := r.hpn, cores := r.cores, sch := { q.sch with asks := r.sch.asks }, regs := r.regs, mem := r.mem })) ∧
        (q.mode ≠ .standby → q.up → q.hpn.state ≠ .off → Answers (.hpnDisable iq) s iq fun r => r.flag Reg.HPN_CTL_WERR = true ∧
          RegsOnly [Reg.HPN_CTL] q r) ∧
        (q.hpn.state = .verify → q.hpn.verified = none → q.hpn.since + 1 ≤ q.tick → Answers (.hpnVerify iq) s iq fun r =>
          r.hpn.verified = some (r.hpn.verr == 0) ∧ r.hpn.state = .verify ∧ r.cores = q.cores ∧ SameBytes q r) ∧
        (q.hpn.state = .verify → q.hpn.verified = some false → q.change = none → s.memWf → Answers (.hpnVerifyResult iq) s iq fun r =>
          SameBytes q r ∧ r.rd Reg.HPN_VERR = q.hpn.verr ∧ SameRegsBut [Reg.HPN_VERR] q r ∧
          r = { q with hpn := { q.hpn with state := .off, verified := none }, regs := r.regs, mem := r.mem }) ∧
        (q.hpn.state = .verify → q.hpn.verified = some true → s.memWf → q.change = none → Answers (.hpnVerifyResult iq) s iq fun r =>
          r.rd Reg.HPN_VERR = 0 ∧ r.hpn = q.hpn ∧ r.cores = q.cores ∧
          (∀ i, i < 8 → r.rd (Reg.HPN_DIGEST i) = (sha256 (q.hpnImage c0)).getD i 0) ∧
          ∀ o, o < 0x50000 → r.mem.read (winBase c1 + o) = q.mem.read (winBase c0 + o)) ∧
        (q.hpn.state = .verify → q.hpn.verified = some true → q.hpn.since + 2 ≤ q.tick → s.memWf → Answers (.lockstepEnable iq) s iq fun r =>
          r.hpn = { q.hpn with state := .proving, verified := none } ∧
          r.core c0 = { q.core c0 with lock := true, evm := 0, pendTick := false, pendDbg := false, pendEvt := none } ∧
          (r.core c1).lock = true ∧ (r.core c1).pos = (q.core c1).pos ∧ (r.core c1).set0 = (q.core c0).set0 ∧
          (r.core c1).set1 = (q.core c0).set1 ∧ (r.core c1).pc = (q.core c0).pc ∧ (r.core c1).evm = 0 ∧ r.regs = q.regs ∧
          SameBytesBut (winBase c1) 0x50000 q r ∧
          ∀ o, o < 0x50000 → r.mem.read (winBase c1 + o) = q.mem.read (winBase c0 + o)) ∧
        (∀ n rest, q.hpnEntries = n :: rest → q.hpnRuns = true → q.running = true → q.hpn.next = none → q.hpn.mism = false →
          q.eccIn (taskAddr (q.fld (Reg.HPN_SCH_TASK n))) 32 = [] → Answers (.hpnScheduleStart iq) s iq fun r =>
            ((r.core c0).run.map fun x => (x.inst.task, x.entry)) = some (q.fld (Reg.HPN_SCH_TASK n), some n) ∧
            (r.core c0).pc.toNat = q.tEntry (q.fld (Reg.HPN_SCH_TASK n)) ∧ (r.core c0).evm = 0 ∧ (r.core c0).set0.st = 0 ∧
            (r.core c1).set0 = (r.core c0).set0 ∧ (r.core c1).pc = (r.core c0).pc ∧ r.hpn.next = some (n + 1) ∧ SameBytes q r ∧
            r.regs = q.regs) ∧
        (∀ c x n, q.hpnRun = some (c, x, n) → Answers (.hpnWatchdog iq) s iq fun r =>
          r.hpn.aborted = x.inst.task :: q.hpn.aborted ∧ (∀ e ∈ r.hpn.journal, e.entry ≠ n) ∧ r.tick = q.tick)) ∧
  (
    ∀ (s : State) (iq : QId) (c : Fin 17) (n : Nat) (rest : List Nat) (d imm : Nat),
      let q := s.quad iq
      let code (i : Nat) : W64 := q.pmWord c i
      let task := q.fld (Reg.HPN_SCH_TASK n)
      let e := q.tEntry task
      let allot (m : Nat) : Nat := 16 * q.fld (Reg.HPN_SCH_ALLOT m)
      let plain (i : Nat) : Prop := wFlow (code i) = .plain
      let gives (v : Nat) : Prop := Answers (.hpnVerify iq) s iq fun r =>
        r.hpn = { q.hpn with verified := some (decide (v = 0)), verr := w32 v } ∧ r.cores = q.cores ∧ SameBytes q r
      let wide (sum x y : Nat) : Nat :=
        if sum > q.fld Reg.HPN_BUDGET_CYC ∨ q.fld Reg.HPN_BUDGET_CYC > (if q.fi = 0 then 98176 else if q.fi = 2 then 21376 else 46976) then 7
        else if x > 2048 ∨ y > 2048 then 8
        else if (List.range 4096).any fun z => q.kind z == 6 && !(q.hpnEntries.any fun m => q.fld (Reg.HPN_SCH_TASK m) == q.ownIdx z) then 9
        else if q.fld Reg.HPN_CLIPL_LEN ≠ 0 ∧ q.sysRange (16 * q.fld Reg.HPN_CLIPB_BASE) (16 * q.fld Reg.HPN_CLIPL_LEN) = false then 10
        else 0
      q.coreAt 0 = some c → q.hpn.state = .verify → q.hpn.verified = none → q.hpn.since + 1 ≤ q.tick →
        (q.hpnEntries = [] → gives (wide 0 0 0)) ∧
        (q.hpnEntries = n :: rest →
          (q.tValid task = false ∨ q.tHpn task = false ∨ (∀ i, e ≤ i → i < 8192 → code i = 0) → gives (1 + 256 * n)) ∧
          (q.tValid task = true → q.tHpn task = true → code e ≠ 0 →
            (wFlow (code e) = .forbidden → gives (2 + 256 * n + 8192 * e)) ∧
            (wFlow (code e) = .br false e → e + 2 < 8192 → plain (e + 1) → plain (e + 2) → gives (3 + 256 * n + 8192 * e)) ∧
            (e = 8191 → plain e → gives (5 + 256 * n + 8192 * 8191)) ∧
            (wFlow (code e) = .done → allot n < 8 → gives (6 + 256 * n + 8192 * e)) ∧
            (wLdi (code e) = some (d, imm) → wFlow (code (e + 1)) = .dbnz d (e + 1) → plain (e + 2) → plain (e + 3) → e + 4 < 8192 →
              wFlow (code (e + 4)) = .done →
              (imm = 0 ∨ 65536 < imm ∨ d ∈ wWritesD (code (e + 2)) ∨ d ∈ wWritesD (code (e + 3)) → gives (4 + 256 * n + 8192 * (e + 1))) ∧
              (∀ cyc x y, 1 ≤ imm → imm ≤ 65536 → d ∉ wWritesD (code (e + 2)) → d ∉ wWritesD (code (e + 3)) →
                cyc = 9 + imm * (1 + wCycles (code (e + 2)) + wCycles (code (e + 3))) →
                x = imm * ((wStores (code (e + 2))).1 + (wStores (code (e + 3))).1) →
                y = imm * ((wStores (code (e + 2))).2 + (wStores (code (e + 3))).2) →
                (allot n < cyc → gives (6 + 256 * n + 8192 * e)) ∧
                (cyc ≤ allot n → rest = [] → gives (wide (allot n) x y) ∧ Answers (.hpnVerify iq) s iq fun r =>
                  r.fld (Reg.HPN_WCET_CYC n) = min 0x1FFFF cyc ∧ r.fld (Reg.HPN_WST_XST n) = min 0xFFF x ∧
                    r.fld (Reg.HPN_WST_YST n) = min 0xFFF y ∧ SameRegsBut [Reg.HPN_WCET n, Reg.HPN_WST n] q r))))))

/-! ### Sample clock and time -/

/-- R277, R281 to R286, R293: what the measurement of a candidate and the choice of one change; a candidate is forced by CLK_SEL and by
REFSEL. The first edge after inactivity and the loop's law are the model's readings and free values (log 8, 99, 100). -/
def Obligations.References : Prop :=
  ∀ (s : State) (iq : QId) (n : Fin 10) (dev : Int) (at_ ppm v : W32) (fall : Bool) (rank : BitVec 4) (seq : W32) (r07 : W32) (r89 : BitVec 8)
    (force : BitVec 4) (mode ranks : Bool),
    let q := s.quad iq
    let c := q.clk.cands[n]
    let cand (r : Quad) (x : Cand) : Prop :=
      r = { q with clk := { q.clk with cands := q.clk.cands.set n x }, mem := r.mem } ∧ SameBytes q r
    (n.val < 6 → c.q ≠ .disabled → c.active = true → q.clk.sel ≠ n → 16 * dev.natAbs ≤ q.pdiv n →
        (n.val < 2 → fall = q.flag (Reg.CLK_REFCFG_POL n.val)) → (2 ≤ n.val → q.flag (Reg.PRT_AESRXCFG_EN (n.val - 2)) = true) →
        Answers (.referenceEdge iq n dev ⟨at_, fall⟩) s iq fun r =>
          cand r { c with missing := 0, good := min 255 (c.good + 1), glitches := (0 :: c.glitches).take 8,
                          last := some (q.epochRoot q.tick at_.toInt) }) ∧
      (n.val < 2 → fall ≠ q.flag (Reg.CLK_REFCFG_POL n.val) → s.memWf → exec (.referenceEdge iq n dev ⟨at_, fall⟩) s = .next s) ∧
      (n.val < 6 → c.q ≠ .disabled → c.active = false ∨ c.missing + 1 < 4 → Answers (.referenceEdgeMissing iq n) s iq fun r =>
        cand r { c with missing := min 255 (c.missing + 1), good := 0, glitches := (0 :: c.glitches).take 8,
                        last := if 4 ≤ c.missing + 1 then none else c.last }) ∧
      (n ≠ 9 → c.active = true → q.heldOff n = false → c.q = .qualified → q.clk.state ≠ .freerun →
        10 * ppm.toInt.natAbs ≤ q.fld Reg.CLK_QUAL_REJECT * 2 ^ 24 → Answers (.freqGateEnd iq n ppm) s iq fun r =>
          r.rd (Reg.CLK_REFFREQ n.val) = ppm ∧ r.clk = q.clk ∧ RegsOnly [Reg.CLK_REFFREQ n.val, Reg.CLK_STAT] q r) ∧
      (q.qualified n = true → q.flag Reg.CLK_CTL_REVERT = false → Answers (.waitToRestoreExpiry iq n) s iq fun r =>
        cand r { c with restored := true }) ∧
      (q.up → Reg.CLK_SEL_FORCE.get v ≤ 9 → Answers (.clkSelWrite iq v) s iq fun r =>
        r.fld Reg.CLK_SEL_FORCE = Reg.CLK_SEL_FORCE.get v ∧ r.fld Reg.CLK_SEL_MODE = Reg.CLK_SEL_MODE.get v ∧
        SameRegsBut [Reg.CLK_SEL, Reg.CLK_STAT] q r ∧ r = { q with clk := r.clk, regs := r.regs, mem := r.mem } ∧ SameBytes q r ∧
        (Reg.CLK_SEL_MODE.get v = 1 → Reg.CLK_SEL_FORCE.get v = 9 → r.clk.state = .freerun ∧ r.clk.sel = 9) ∧
        (Reg.CLK_SEL_MODE.get v = 1 → n.val = Reg.CLK_SEL_FORCE.get v → n ≠ 9 →
          (q.qualified n = true → r.clk.sel = n ∧ (r.clk.state = .locked ∨ r.clk.state = .acquire)) ∧
          (q.qualified n = false → r.clk.state = .holdover ∧ (q.clk.state = .holdover ∨ q.clk.switch = none → r.clk.sel = q.clk.sel)))) ∧
      (q.up → 9 < Reg.CLK_SEL_FORCE.get v → Answers (.clkSelWrite iq v) s iq fun r => r.flag Reg.CLK_CTL_WERR = true ∧ r.clk = q.clk ∧
        RegsOnly [Reg.CLK_CTL] q r) ∧
      (q.up → 2 ≤ q.fld (Reg.CLK_REFCFG_PDIV n.val) → q.flag Reg.TIM_STAT_SUSPECT = false → Answers (.refcfgRankWrite iq n rank) s iq fun r =>
        r.rank n = rank.toNat ∧ (rank = 0 → q.rank n ≠ 0 → n.val ≠ 9 → r.clk.cands[n] = {}) ∧
          r = { q with clk := r.clk, regs := r.regs, mem := r.mem } ∧ SameBytes q r) ∧
      (q.takesCommand = true → q.seqOk seq = true → q.mode ≠ .halt → force.toNat ≤ 9 → Answers (.cmdRefsel iq seq ranks true mode force r07 r89) s iq fun r =>
        r.fld Reg.CLK_SEL_FORCE = force.toNat ∧ r.flag Reg.CLK_SEL_MODE = mode ∧
          Told (q.accepted seq 9).hp r.hp (q.stamped 0 9 0 seq 0) ∧
          (mode = true → r.forceN = 9 → r.clk.sel = 9 ∧ r.clk.state = .freerun) ∧
          (mode = true → r.forceN ≠ 9 → r.qualified r.forceN = true → r.clk.sel = r.forceN) ∧
          (mode = true → r.forceN ≠ 9 → r.qualified r.forceN = false → r.clk.state = .holdover) ∧
          r = { q with clk := r.clk, hp := r.hp, regs := r.regs, mem := r.mem } ∧ SameBytes q r)

/-- R302, R303, R306 to R309: the time counter's commands: INCR written as a pair within 1,000 ppm, a read that latches the rest of the
count, a slew, a step within the threshold, the end of SUSPECT. WERR beside INCRREF is the model's reading (log 101). -/
def Obligations.TimeCounter : Prop :=
  ∀ (s : State) (iq : QId) (w : Writer) (v : W32) (ns : BitVec 4) (permit : Bool),
    let q := s.quad iq
    let tim (r : Quad) (t : Tim) : Prop := r = { q with tim := t, regs := r.regs, mem := r.mem } ∧ SameBytes q r
    let fr := q.tim.heldFr.getD q.tim.incrFr
    let step : W64 := (q.rdCopy w Reg.TIM_ADJ_HI).setWidth 64 <<< 32 ||| (q.rdCopy w Reg.TIM_ADJ_LO).setWidth 64
    let steps (c : Instr) (by_ : Nat) (t : Tim) : Prop := by_ ≤ q.fld Reg.TIM_CTL_STEPTH ∨ permit = true → Answers c s iq fun r =>
      r.tim.ns = t.ns ∧ r.tim.fr = t.fr ∧ r.tim.incrNs = q.tim.incrNs ∧ r.tim.incrFr = q.tim.incrFr ∧ r.flag Reg.TIM_STAT_STEPOK = true ∧
        (r.rd Reg.TIM_STEPLAST).toNat = min by_ 0x7FFFFFFF ∧ SameRegsBut [Reg.TIM_STAT, Reg.TIM_STEPLAST] q r ∧ SameBytes q r ∧
        r = { q with tim := r.tim, net := r.net, regs := r.regs, mem := r.mem }
    (Answers (.timNowRead iq w) s iq fun r => r.rdCopy w Reg.TIM_NOW_HI = (q.tim.ns >>> 32).setWidth 32 ∧
        r.rdCopy w Reg.TIM_NOW_FR = q.tim.fr ∧ RegsOnly [copyOff w Reg.TIM_NOW_HI, copyOff w Reg.TIM_NOW_FR] q r) ∧
      (q.tim.slewLeft = 0 → Answers (.slewEnd iq) s iq fun r => r.fld Reg.TIM_STAT_SLEWING = 0 ∧ RegsOnly [Reg.TIM_STAT] q r) ∧
      (q.up →
        (Answers (.timIncrFrWrite iq v) s iq fun r => tim r { q.tim with heldFr := some v } ∧ SameRegsBut [] q r) ∧
        (incrOk (ns.toNat * 2 ^ 32 + fr.toNat) = true → Answers (.timIncrNsWrite iq ns) s iq fun r =>
          tim r { q.tim with heldFr := none, incrNs := ns, incrFr := fr } ∧ SameRegsBut [] q r) ∧
        (incrOk (ns.toNat * 2 ^ 32 + fr.toNat) = false → Answers (.timIncrNsWrite iq ns) s iq fun r =>
          tim r { q.tim with heldFr := none } ∧ r.flag Reg.TIM_STAT_INCRREF = true ∧ r.flag Reg.TIM_CTL_WERR = true ∧
            SameRegsBut [Reg.TIM_STAT, Reg.TIM_CTL] q r) ∧
        (incrOk ((q.tim.incrNs.toNat * 2 ^ 32 + q.tim.incrFr.toNat : Nat) + (BitVec.ofNat 24 (q.fld Reg.TIM_SLEW_DELTA)).toInt) = true →
          Answers (.slewStart iq v) s iq fun r =>
            tim r { q.tim with slewLeft := v, slewDelta := BitVec.ofNat 24 (q.fld Reg.TIM_SLEW_DELTA) } ∧
            r.flag Reg.TIM_STAT_SLEWING = decide (v ≠ 0) ∧ SameRegsBut [Reg.TIM_STAT] q r) ∧
        (mayWrite w = true → q.flag Reg.TIM_STAT_SUSPECT = false →
          steps (.timeStepAdd iq w permit) step.toInt.natAbs { q.tim with ns := q.tim.ns + step } ∧
          steps (.timeStepSet iq w permit) ((step.toNat : Int) - q.tim.ns.toNat).natAbs { q.tim with ns := step, fr := 0 }) ∧
        (q.flag Reg.TIM_STAT_SUSPECT = true → Answers (.suspectClear iq) s iq fun r => r.flag Reg.TIM_STAT_SUSPECT = false ∧
          r.rank 8 = q.fld Reg.TIM_STAT_RANK8 ∧ r.tim = q.tim ∧ r.cores = q.cores ∧ SameBytes q r))

/-! ### Ethernet, GPIO and streams -/

/-- R312 to R315, R318 to R320, R322, R327: bad and pause frames are counted, the packet of a stream's frame goes to the stream, a broadcast
frame goes into the receive ring; a posted descriptor, the frame that leaves first, the record of a frame that has left, the link. Rings
outside the memories are the model's reading (log 103). -/
def Obligations.EthernetFrames : Prop :=
  ∀ (s : State) (iq : QId) (p : Fin 2) (l : List Byte) (ok up : Bool) (wp : W32),
    let q := s.quad iq
    let e := q.net.ports[p]
    let port (r : Quad) (x : EthPort) : Prop := r.net = { q.net with ports := q.net.ports.set p x }
    let counts (f : Field) : Prop := Answers (.ethFrameReceive iq p ⟨l, ok⟩) s iq fun r =>
      r.fld f = min (q.fld f + 1) f.max ∧ RegsOnly [f.off] q r
    let rrp := q.rd (Reg.NET_RRB p.val + 12)
    let rwp := q.rd (Reg.NET_RRB p.val + 8)
    let size := 2 ^ q.fld (Reg.NET_RRB_LOG2 p.val)
    let desc := 16 * q.fld (Reg.NET_RRB_BASE p.val) + 16 * (rwp.toNat % size)
    let pd := q.phys desc
    let buf := 16 * q.mem.readLE (pd + 8) 4
    let pb := q.phys buf
    let free (x n : Nat) : Prop := q.ecc = [] ∧ (∀ c, (q.core c).dual = []) ∧ q.kln.hold.length ≤ 4096 ∧
      ∀ k, k < n → q.role (x + k) = .plain ∧ q.hpnKept (x + k) = false
    let pause : Prop := etherType l = 0x8808 ∧ (fbe l (l3At l) 2 = 0x0001 ∨ fbe l (l3At l) 2 = 0x0101)
    let ts := q.corrected315 (q.fld (Reg.NET_LAT_TX p.val))
    let a := q.txDesc p (q.rd (Reg.NET_TRB p.val + 12))
    let pa := q.phys a
    (q.ethOn p = true →
      (ok = false → counts (Reg.NET_PSTAT_BAD p.val)) ∧ (l.length < 60 ∨ 1518 < l.length → counts (Reg.NET_PSTAT_BAD p.val)) ∧
      (ok = true → 60 ≤ l.length → l.length ≤ 1518 → (pause → counts (Reg.NET_PSTAT_PAUSE p.val)) ∧
        (∀ n pk, ¬pause → q.flag Reg.NET_CTL_BRIDGE = false → q.rxStreamOf p l = some n →
          rtpOf (q.flag (Reg.NET_RXDESC_L24 n)) (q.fld (Reg.NET_RXDESC_CH n) + 1) l = some pk →
          exec (.ethFrameReceive iq p ⟨l, ok⟩) s = exec (.streamPacketReceive iq p ⟨n % 32, Nat.mod_lt _ (by decide)⟩ pk) s) ∧
        (¬pause → destMac l = 2 ^ 48 - 1 → q.flag Reg.NET_CTL_BRIDGE = false → q.rxStreamOf p l = none →
          bitN (q.fld Reg.NET_CTL_BCAST) p.val = true →
          (size ≤ (rwp - rrp).toNat → counts (Reg.NET_PSTAT_RXFULL p.val)) ∧
          ((rwp - rrp).toNat < size → q.sysRange buf l.length = true → q.sysRange desc 16 = true → free pb l.length → free pd 8 → s.memWf →
            Answers (.ethFrameReceive iq p ⟨l, ok⟩) s iq fun r => r.rd (Reg.NET_RRB p.val + 8) = rwp + 1 ∧
              (∀ k, k < l.length → (pb + k < pd ∨ pd + 8 ≤ pb + k) → r.mem.read (pb + k) = l.getD k 0) ∧
              r.mem.readLE pd 4 = l.length + 4096 * (if (ptpAt l).isSome then 2 else 3) ∧
              (∀ x, (x < pb ∨ pb + l.length ≤ x) → (x < pd ∨ pd + 8 ≤ x) → r.mem.read x = q.mem.read x) ∧
              SameRegsBut [Reg.NET_RRB p.val + 8] q r ∧ r = { q with regs := r.regs, mem := r.mem, aged := r.aged })))) ∧
      (q.up → q.txPosted p = true ∨ q.ecc = [] → Answers (.txRingPost iq p wp) s iq fun r => r.rd (Reg.NET_TRB p.val + 8) = wp ∧
        SameRegsBut [Reg.NET_TRB p.val + 8] q r ∧ SameBytes q r ∧ r = { q with net := r.net, regs := r.regs, mem := r.mem } ∧
        (q.txPosted p = true → r.net = q.net) ∧
        (q.txPosted p = false → q.fld (Reg.NET_PCFG_MODE p.val) ≠ 0 → wp ≠ q.rd (Reg.NET_TRB p.val + 12) →
          port r { e with
            headSeen := if bitN (q.txWord p 1) 11 then some (ext64 (w32 (q.txWord p 2)) q.tim.ns) else none
            headLate := bitN (q.txWord p 1) 11 && decide (ext64 (w32 (q.txWord p 2)) q.tim.ns < (q.tim.ns.toNat : Int))
            headStatus := 0 })) ∧
      (q.ethOn p = true → e.sending = none →
        (∀ f rest, e.waiting = f :: rest → q.txPosted p = false → f.ingress = none → Answers (.txLaunch iq p) s iq fun r =>
          port r { e with waiting := rest, sending := some (f, ts) } ∧ r = { q with net := r.net, mem := r.mem } ∧ SameBytes q r) ∧
        (q.txPosted p = true → e.waiting = [] → e.headSeen = none → e.headLate = false → 60 ≤ q.txWord p 1 % 2048 → q.txWord p 1 % 2048 ≤ 1518 →
          q.ecc = [] → q.sysRange (16 * q.txWord p 0) (q.txWord p 1 % 2048) = true → Answers (.txLaunch iq p) s iq fun r =>
            port r { e with sending := some (⟨.ring, q.mem.bytesAt (q.phys (16 * q.txWord p 0)) (q.txWord p 1 % 2048), none,
              some (q.rd (Reg.NET_TRB p.val + 12)).toNat, false, 0⟩, ts) } ∧ r = { q with net := r.net, mem := r.mem } ∧ SameBytes q r)) ∧
      (∀ f t, e.sending = some (f, t) →
        (f.ring = none → Answers (.txFrameDone iq p) s iq fun r => port r { e with sending := none, last := some f, lastTs := t.setWidth 32 } ∧
          r = { q with net := r.net, mem := r.mem } ∧ SameBytes q r) ∧
        (f.ring ≠ none → q.sysRange a 16 = true → free (pa + 4) 12 → s.memWf → Answers (.txFrameDone iq p) s iq fun r =>
          r.rd (Reg.NET_TRB p.val + 12) = q.rd (Reg.NET_TRB p.val + 12) + 1 ∧ r.mem.readLE (pa + 12) 4 % 2 = 1 ∧
          (q.mem.readLE (pa + 4) 4 / 2 ^ 13 % 2 = 1 → r.mem.readLE (pa + 8) 4 = t.toNat % 2 ^ 32) ∧
          r.mem.readLE (pa + 4) 4 / 2 ^ 16 % 256 = worse e.headStatus f.status % 256 ∧ SameBytesBut (pa + 4) 12 q r ∧
          SameRegsBut [Reg.NET_TRB p.val + 12] q r ∧ (r.net.ports[p]).sending = none)) ∧
      Answers (.ethLinkChange iq p up) s iq fun r => r.flag (Reg.NET_PCFG_LINK p.val) = up ∧ RegsOnly [Reg.NET_PCFG p.val] q r

/-- R321: a capture appended or counted as lost, the oldest removed; a launch queued in order, refused out of order, and driven when due.
WERR for a full queue is the model's reading (log 102). -/
def Obligations.GpioCommands : Prop :=
  ∀ (s : State) (iq : QId) (pin : Fin 16) (out : Fin 8) (rise lvl : Bool),
    let q := s.quad iq
    let tim (r : Quad) (t : Tim) : Prop := r = { q with tim := t, mem := r.mem } ∧ SameBytes q r
    let l := q.tim.launches[out]
    let t := ext64 (q.rd (Reg.TIM_GPL out.val)) q.tim.ns
    (q.mode ≠ .scour → bitN (q.fld (Reg.TIM_GPCFG_CAP pin.val)) (if rise then 0 else 1) = true →
      (q.tim.caps.length < 64 → Answers (.gpioCapture iq pin rise) s iq fun r =>
        tim r { q.tim with caps := q.tim.caps ++ [⟨pin, rise, q.tim.ns.setWidth 32⟩] }) ∧
      (64 ≤ q.tim.caps.length → Answers (.gpioCapture iq pin rise) s iq fun r =>
        r.fld Reg.TIM_GPSTAT_OVF = min (q.fld Reg.TIM_GPSTAT_OVF + 1) Reg.TIM_GPSTAT_OVF.max ∧ RegsOnly [Reg.TIM_GPSTAT] q r)) ∧
      (Answers (.gpioCapturePop iq) s iq fun r => tim r { q.tim with caps := q.tim.caps.drop 1 }) ∧
      (q.up →
        ((∀ x, l.getLast? = some x → x.time ≤ t) → l.length < 16 → (q.tim.ns.toNat : Int) ≤ t → Answers (.gpioLaunchQueue iq out lvl) s iq fun r =>
          tim r { q.tim with launches := q.tim.launches.set out (l ++ [⟨t, lvl, false, false⟩]) }) ∧
        (∀ x, l.getLast? = some x → t < x.time → Answers (.gpioLaunchQueue iq out lvl) s iq fun r =>
          bitN (r.fld Reg.TIM_GPSTAT_ORDER) out.val = true ∧ RegsOnly [Reg.TIM_GPSTAT] q r)) ∧
      (∀ x rest, l = x :: rest → q.mode = .run ∨ q.mode = .halt → x.time ≤ q.tim.ns.toNat → x.late = false →
        (q.flag (Reg.TIM_GPCFG_PER out.val) = false ∨ x.lvl = false → Answers (.gpioLaunch iq out) s iq fun r =>
          tim r { q.tim with launches := q.tim.launches.set out rest, driven := q.tim.driven.set out (some x.lvl) }) ∧
        (q.flag (Reg.TIM_GPCFG_PER out.val) = true → x.lvl = true → x.fall = false → rest = [] → Answers (.gpioLaunch iq out) s iq fun r =>
          let w := (q.rd (Reg.TIM_GPPER out.val + 4)).toNat
          let n := (q.rd (Reg.TIM_GPPER out.val)).toNat
          tim r { q.tim with driven := q.tim.driven.set out (some true),
                             launches := q.tim.launches.set out (if n > w ∨ n = w then [⟨x.time + w, false, false, true⟩, ⟨x.time + n, true, false, false⟩]
                               else [⟨x.time + n, true, false, false⟩, ⟨x.time + w, false, false, true⟩]) }))

/-- R322, R323, R325 to R327: a stream enabled or refused, a packet's sequence number taken once, the deadline of samples that did not come,
a stream lost, a packet sent. The first sequence number is a free value (log 9), and the last microsecond and the duplicates' memory are
the model's (log 104). -/
def Obligations.Streams : Prop :=
  ∀ (s : State) (iq : QId) (p : Fin 2) (k : Fin 32) (pkt : RtpPacket),
    let q := s.quad iq
    let n := k.val
    let rxFits : Prop := streamOk (q.fld (Reg.NET_RXDESC_FS n)) (q.fld (Reg.NET_RXDESC_CH n) + 1) (q.fld (Reg.NET_RXDESC_SPP n))
      (q.fld (Reg.NET_RXDESC_L24 n) == 1) (q.fld (Reg.NET_RXDESC_IP6 n) == 1) = true ∧
      q.streamTotal true n + (q.fld (Reg.NET_RXDESC_CH n) + 1) ≤ 256 ∧
      q.fld (Reg.NET_RXDESC_SPP n) * (q.streamQ (q.fld (Reg.NET_RXDESC_FS n))).1 ≤
        q.fld (Reg.NET_RXDESC_OFS n) * (q.streamQ (q.fld (Reg.NET_RXDESC_FS n))).2
    let txFits : Prop := streamOk (q.fld (Reg.NET_TXDESC_FS n)) (q.fld (Reg.NET_TXDESC_CH n) + 1) (q.fld (Reg.NET_TXDESC_SPP n))
      (q.fld (Reg.NET_TXDESC_L24 n) == 1) (q.fld (Reg.NET_TXDESC_IP6 n) == 1) = true ∧
      q.streamTotal false n + (q.fld (Reg.NET_TXDESC_CH n) + 1) ≤ 256 ∧
      ((q.streamQ (q.fld (Reg.NET_TXDESC_FS n))).2 = 1 →
        q.fld (Reg.NET_TXDESC_OFS n) % (q.streamQ (q.fld (Reg.NET_TXDESC_FS n))).1 = 0)
    let taken : Prop := q.ethOn p = true ∧ q.flag (Reg.NET_RXDESC_EN n) = true ∧ bitN (q.fld (Reg.NET_RXDESC_PORTS n)) p.val = true ∧
      (q.fld (Reg.NET_RXDESC_PT n) = 0 ∨ q.fld (Reg.NET_RXDESC_PT n) = pkt.pt.toNat) ∧
      (q.fld (Reg.NET_RXDESC_SSRC n) = 0 ∨ q.fld (Reg.NET_RXDESC_SSRC n) = pkt.ssrc.toNat) ∧
      pkt.samples.length = q.fld (Reg.NET_RXDESC_SPP n) ∧ ∀ x ∈ pkt.samples, x.length = q.fld (Reg.NET_RXDESC_CH n) + 1
    let x := q.net.rx[k]
    let t := q.net.tx[k]
    let spp := q.fld (Reg.NET_TXDESC_SPP n)
    let qr := q.streamQ (q.fld (Reg.NET_TXDESC_FS n))
    let w := t.waiting.dropWhile fun y => decide (y.1 % (spp : Int) ≠ 0)
    (q.up →
      (q.flag (Reg.NET_RXDESC_EN n) = false → rxFits → Answers (.streamEnable iq true k) s iq fun r => r.flag (Reg.NET_RXDESC_EN n) = true ∧
        r.net = { q.net with rx := q.net.rx.set k {} } ∧ SameRegsBut [Reg.NET_RXDESC n] q r ∧ SameBytes q r ∧
        r = { q with net := r.net, regs := r.regs, mem := r.mem }) ∧
      (q.flag (Reg.NET_RXDESC_EN n) = false → ¬rxFits → Answers (.streamEnable iq true k) s iq fun r => r.flag Reg.NET_CTL_WERR = true ∧
        RegsOnly [Reg.NET_CTL] q r) ∧
      (q.flag (Reg.NET_TXDESC_EN n) = false → txFits → Answers (.streamEnable iq false k) s iq fun r => r.flag (Reg.NET_TXDESC_EN n) = true ∧
        r.net = { q.net with tx := q.net.tx.set k { seq := (Config.free32 q.freeCtr).setWidth 16 } } ∧ SameRegsBut [Reg.NET_TXDESC n] q r ∧
        SameBytes q r ∧ r = { q with net := r.net, freeCtr := q.freeCtr + 1, regs := r.regs, mem := r.mem })) ∧
      (taken →
        (pkt.seq ∈ x.seqs → Answers (.streamPacketReceive iq p k pkt) s iq fun r =>
          r.net = { q.net with rx := q.net.rx.set k { x with lost := false } } ∧ r.fld (Reg.NET_RXSTAT_LOST n) = 0 ∧
          SameRegsBut [Reg.NET_RXSTAT n + 4] q r ∧ r = { q with net := r.net, regs := r.regs, mem := r.mem } ∧ SameBytes q r) ∧
        (pkt.seq ∉ x.seqs → Answers (.streamPacketReceive iq p k pkt) s iq fun r => (r.net.rx[k]).seqs = (pkt.seq :: x.seqs).take 512 ∧
          r.rd (Reg.NET_RXDESC n + 28) = pkt.seq.setWidth 32 ∧ r.net.ports = q.net.ports ∧ r.net.tx = q.net.tx ∧ r.cores = q.cores ∧
          r.tick = q.tick ∧ r.mode = q.mode ∧ r.hp = q.hp)) ∧
      (q.flag (Reg.NET_RXDESC_EN n) = true → q.mode ≠ .scour →
        (Answers (.streamSampleDeadline iq k) s iq fun r => (∀ j, j < 4 → (((r.net.rx[k]).store.find (4 * q.tick.toNat + j)).isSome = true)) ∧
          r.net.ports = q.net.ports ∧ r.net.tx = q.net.tx ∧ r.cores = q.cores ∧ r.tick = q.tick) ∧
        ((∀ j, j < 4 → (x.store.find (4 * q.tick.toNat + j)).isSome = true) → Answers (.streamSampleDeadline iq k) s iq fun r =>
          r = { q with mem := r.mem } ∧ SameBytes q r)) ∧
      (q.flag (Reg.NET_RXDESC_EN n) = true → Answers (.streamLostTimeout iq k) s iq fun r => r.fld (Reg.NET_RXSTAT_LOST n) = 1 ∧
        r.net = { q.net with rx := q.net.rx.set k { x with lost := true } } ∧ SameRegsBut [Reg.NET_RXSTAT n + 4] q r ∧ SameBytes q r ∧
        r = { q with net := r.net, regs := r.regs, mem := r.mem }) ∧
      (q.flag (Reg.NET_TXDESC_EN n) = true → q.flag (Reg.NET_TXDESC_SRC n) = false → q.mode = .run → q.ecc = [] → 0 < spp → spp ≤ w.length →
        (∀ y ∈ w.take spp, y.1 * (qr.1 : Int) ≤ ((4 * q.tick.toNat + q.fld (Reg.NET_TXDESC_OFS n)) * qr.2 : Nat)) →
        Answers (.streamPacketSend iq k) s iq fun r =>
          (r.net.tx[k]) = { t with seq := t.seq + 1, waiting := w.drop spp, sentTick := some q.tick } ∧
          r.rd (Reg.NET_TXDESC n + 28) = t.seq.setWidth 32 ∧
          r.fld (Reg.NET_TXSTAT_SENT n) = min (q.fld (Reg.NET_TXSTAT_SENT n) + 1) (Reg.NET_TXSTAT_SENT n).max ∧
          SameRegsBut [Reg.NET_TXDESC n + 28, Reg.NET_TXSTAT n] q r ∧ SameBytes q r ∧ r = { q with net := r.net, regs := r.regs, mem := r.mem } ∧
          r.net.rx = q.net.rx)

/-! ### Stanex -/

/-- R332, R333, R347, R342, R339, R340, R350: the block enabled and disabled, the states of a link and its delay, a launch, the pass of a
frame that the bytes at a port spell (log 120), a frame that is missing. The residence is a free value, and late and missing channels are
the model's reading (log 106). -/
def Obligations.StanexFrames : Prop :=
  ∀ (s : State) (iq : QId) (p : Fin 2) (trip turn : Nat) (bytes : List Byte),
    let q := s.quad iq
    let x := q.snx
    let o := if p = 0 then (1 : Fin 2) else 0
    let linkRegs := [Reg.SNX_LINK p.val, Reg.SNX_STAT]
    let snx (r : Quad) (y : Snx) : Prop := r = { q with snx := y, regs := r.regs, mem := r.mem } ∧ SameBytes q r
    let port (y : SnxPort) : Snx := { x with ports := x.ports.set p y }
    let up (r : Quad) (p : Fin 2) : Bool := r.flag (if p = 0 then Reg.SNX_STAT_LINKA else Reg.SNX_STAT_LINKB)
    let asym := (BitVec.ofNat 16 (q.fld (Reg.SNX_ASYM_ASYM p.val))).toInt
    let l := ((((trip : Int) - (turn : Int)) / 2 + asym) :: (x.ports[p]).dlys).take 16
    let f := frameOf bytes
    let due : W64 := if q.fi = 2 then q.tick - 1 else q.tick
    (q.up → q.flag Reg.SNX_CFG_EN = false → q.link 0 = 0 → q.fld Reg.SNX_CFG_ROLE ≠ 3 → Answers (.snxEnable iq true) s iq fun r =>
        r.flag Reg.SNX_CFG_EN = true ∧ r.link 0 = 1 ∧ r.link 1 = 1 ∧
        r.snxState = (if q.fld Reg.SNX_CFG_ROLE = 1 then q.snxState else 1) ∧ snx r { enAt := q.tick, sent := x.sent, mapPend := x.mapPend } ∧
        SameRegsBut [Reg.SNX_CFG, Reg.SNX_STAT, Reg.SNX_LINK 0, Reg.SNX_LINK 1] q r) ∧
      (q.up → q.flag Reg.SNX_CFG_EN = true → x.coll = none → Answers (.snxEnable iq false) s iq fun r =>
        r.flag Reg.SNX_CFG_EN = false ∧ r.link 0 = 0 ∧ r.link 1 = 0 ∧ r.snxState = 0 ∧ r.wrapped = false ∧ snx r { mapPend := x.mapPend } ∧
        SameRegsBut [Reg.SNX_CFG, Reg.SNX_STAT, Reg.SNX_LINK 0, Reg.SNX_LINK 1] q r) ∧
      (q.link p = 1 → q.diverted p = false → Answers (.linkBlockLock iq p) s iq fun r => r.link p = 2 ∧ up r p = false ∧ RegsOnly linkRegs q r) ∧
      (q.diverted p = true → Answers (.linkBlockLock iq p) s iq fun r => r = { q with mem := r.mem } ∧ SameBytes q r) ∧
      (q.link p = 2 → 16 ≤ (x.ports[p]).dlys.length → x.wrapA = none → q.diverted p = false → Answers (.linkUp iq p) s iq fun r => r.link p = 3 ∧ up r p = true ∧
        snx r (if q.wrapped then x else port { x.ports[p] with wasDown := false }) ∧ SameRegsBut linkRegs q r) ∧
      (q.link p = 2 → Answers (.linkDown iq p) s iq fun r => r.link p = 1 ∧ up r p = false ∧
        snx r (port ⟨[], (x.ports[p]).wasDown⟩) ∧ SameRegsBut linkRegs q r) ∧
      (q.link p = 3 → x.wrapA = none → Answers (.linkDown iq p) s iq fun r => r.link p = 1 ∧ up r p = false ∧
        snx r { port ⟨[], true⟩ with wrapA := if q.snxState = 4 ∧ q.wrapped = false then some ⟨q.tick + 3, true, false, q.tick + 1⟩ else none } ∧
        SameRegsBut linkRegs q r) ∧
      (2 ≤ q.link p → Answers (.delayProbeReceive iq p trip turn) s iq fun r => r.linkDelay p = min (l.sum / (l.length : Int)).toNat 0xFFFFFF ∧
        snx r (port { x.ports[p] with dlys := l }) ∧ SameRegsBut [Reg.SNX_LINK p.val] q r) ∧
      (q.snxState = 4 → q.wrapped = false → q.portUp p = true → Answers (.frameLaunch iq) s iq fun r =>
        (∃ g, r.snx.sent[p] = some g ∧ g.tick = q.tick ∧ g.tstart = q.bndNs ∧ g.stamped = true ∧ g.mofs = 256000 ∧ g.acc = w32 (q.linkDelay p) ∧
          g.mgr = BitVec.ofNat 6 q.mid ∧ g.ring = decide (p = 1) ∧ g.hops = 0 ∧ g.crcOk = true) ∧
        r.snx.launched = some q.cclk ∧ r.regs = q.regs ∧ snx r r.snx) ∧
      (q.link p = 3 → q.snxState = 3 ∨ q.snxState = 4 → f.origin.toNat ≠ q.mid →
        (f.crcOk = false → q.portUp o = true → Answers (.stanexFramePass iq p bytes) s iq fun r =>
          snx r { x with sent := x.sent.set o (some { f with hops := f.hops + 1 }), passes := ((f.tick, p) :: x.passes).take 16 } ∧
          r.fld Reg.SNX_FRCNT_CRC = min (q.fld Reg.SNX_FRCNT_CRC + 1) Reg.SNX_FRCNT_CRC.max ∧ SameRegsBut [Reg.SNX_FRCNT] q r) ∧
        (f.crcOk = true → f.domid.toNat = q.fld Reg.SNX_CFG_DOMID → f.fi.toNat = q.fi → f.tick = q.tick → x.inbox = [] →
          Answers (.stanexFramePass iq p bytes) s iq fun r => r.snx.heard = some (true, true) ∧ f.tick ∈ r.snx.goodF ∧ SameBytes q r ∧
            r.cores = q.cores ∧ r.tick = q.tick ∧ r.kln = q.kln ∧
            (∀ c ∈ q.rxPairs, (∃ y ∈ f.chans, y.pos.toNat = c.1) → (f.tick, c.2) ∈ r.snx.rxDone) ∧
            (q.portUp o = true → ∃ g, r.snx.sent[o] = some g ∧ g.hops = f.hops + 1 ∧ g.tick = f.tick ∧ ∀ y ∈ f.chans, y ∈ g.chans))) ∧
      (q.snxState ≠ 0 → due ∉ x.startF → due ∉ x.missF → Answers (.frameMissing iq) s iq fun r =>
        r.fld Reg.SNX_FRCNT_MISS = min (q.fld Reg.SNX_FRCNT_MISS + 1) Reg.SNX_FRCNT_MISS.max ∧ r.snx.missRun = x.missRun + 1 ∧
        due ∈ r.snx.missF ∧ r.cores = q.cores ∧ (due ∈ x.goodF → SameBytes q r ∧ SameRegsBut [Reg.SNX_FRCNT] q r))

/-- R279, R347 to R352, R354 to R357: how a quadrant enters, leaves and manages a domain, and what an announced change brings at its tick. A
take-over in a wrapped segment without the origin ends the wrap there: log 133, the model's reading. The ticks at which messages are taken
are the model's reading (log 105, 107). -/
def Obligations.StanexDomain : Prop :=
  ∀ (s : State) (iq : QId) (ymid : BitVec 6),
    let q := s.quad iq
    let x := q.snx
    let snx (r : Quad) (y : Snx) : Prop := r = { q with snx := y, regs := r.regs, mem := r.mem } ∧ SameBytes q r
    let state (r : Quad) (n : Nat) (y : Snx) : Prop := r.snxState = n ∧ snx r y ∧ SameRegsBut [Reg.SNX_STAT] q r
    let manages (r : Quad) (n : Nat) (y : Snx) : Prop := r.snxState = n ∧
      r = { q with snx := y, clk := r.clk, regs := r.regs, mem := r.mem } ∧ SameBytes q r ∧
      SameRegsBut [Reg.SNX_STAT, Reg.CLK_STAT, Reg.CLK_REFFREQ 6, Reg.CLK_REFFREQ 7] q r ∧
      (∀ k : Fin 10, k ≠ 6 → k ≠ 7 → r.clk.cands[k] = q.clk.cands[k]) ∧ (n = 4 → r.candQ 6 = .disabled ∧ r.candQ 7 = .disabled)
    let cell (c : MsgCell) (n : Nat) : List OutCell := x.cells ++ [⟨c, n, none, [], q.tick + 1⟩]
    (q.flag Reg.SNX_CFG_EN = true → q.fld Reg.SNX_CFG_ROLE = 1 → q.snxState = 0 → x.foreign = none → x.enAt.toNat + 3 ≤ q.tick.toNat →
        Answers (.managerStart iq) s iq fun r => manages r 4 x) ∧
      (q.snxState = 3 → q.fld Reg.SNX_CFG_ROLE = 2 → 3 ≤ x.missRun → x.missAt.toNat + 1 + q.fld Reg.SNX_CFG_SPRI ≤ q.tick.toNat →
        (q.wrapped = false ∨ q.flag Reg.SNX_STAT_ORIGIN = true → Answers (.standbyTakeover iq) s iq fun r =>
          manages r 4 { x with coll := none, decided := [], missRun := 0 } ∧ r.flag Reg.SNX_STAT_TAKEN = true) ∧
        (q.wrapped = true → q.flag Reg.SNX_STAT_ORIGIN = false → x.originF = none → Answers (.standbyTakeover iq) s iq fun r =>
          manages r 4 { x with coll := none, decided := [], missRun := 0, ports := x.ports.map fun p => { p with wasDown := false } } ∧
          r.flag Reg.SNX_STAT_TAKEN = true ∧ r.wrapped = false)) ∧
      (q.up → q.snxState = 1 →
        (x.heard = some (true, true) → Answers (.snxJoin iq) s iq fun r =>
          state r 2 { x with cells := cell q.joinCell 1, joinReq := false, joinSent := q.tick }) ∧
        (x.heard = none → Answers (.snxJoin iq) s iq fun r => state r 1 { x with joinReq := true }) ∧
        (x.heard = some (true, false) → Answers (.snxJoin iq) s iq fun r => state r 1 { x with joinReq := false } ∧
          r.flag Reg.SNX_STAT_TICKMIS = true)) ∧
      (q.snxState = 2 → x.joinAt = none → x.joinSent.toNat + 16 ≤ q.tick.toNat → Answers (.joinRetry iq) s iq fun r =>
        state r 2 { x with cells := cell q.joinCell 1, joinReq := false, joinSent := q.tick }) ∧
      (∀ j, x.joinAt = some j → q.snxState = 2 → j.toNat ≤ q.tick.toNat →
        let entered (y : Snx) (P : Quad → Prop) : Prop := Answers (.memberEntry iq) s iq fun r =>
          r.snxState = 3 ∧ snx r y ∧ SameRegsBut [Reg.SNX_STAT, Reg.SNX_DLVL] q r ∧ P r
        let level (r : Quad) (sl : BitVec 8) (fl : BitVec 16) : Prop := r.fld Reg.SNX_DLVL_DSL = sl.toNat ∧ r.fld Reg.SNX_DLVL_DFL = fl.toNat
        ((∀ l, x.lvl = some l → l.made = true ∨ q.tick.toNat < l.at_.toNat) → entered { x with joinAt := none } fun r =>
          match x.domLvl with
          | some (sl, fl) => level r sl fl
          | none => r.rd Reg.SNX_DLVL = q.rd Reg.SNX_DLVL) ∧
        (∀ l, x.lvl = some l → l.made = false → l.at_.toNat ≤ q.tick.toNat →
          entered { x with joinAt := none, lvl := some { l with made := true } } fun r => level r l.sl l.fl)) ∧
      (q.up → q.snxState = 3 ∨ q.snxState = 4 → Answers (.snxLeave iq) s iq fun r =>
        state r 1 { x with cells := cell (q.cell 3 0xFF 0 0) 1, leaveAt := some q.tick, joinAt := none }) ∧
      (q.up → q.snxState = 4 → x.coll = none → x.decided = [] → x.wrapA = none →
        (∀ a, x.agg = some a → a.1.getLsbD ymid.toNat = true → Answers (.snxYield iq ymid) s iq fun r =>
          snx r { x with cells := cell (q.cell 4 ymid.toNat 0 (q.tick + 8)) 4, yieldA := some (q.tick + 8, ymid.setWidth 8) } ∧
          SameRegsBut [] q r) ∧
        (x.agg = none → ymid.toNat ≠ q.mid → Answers (.snxYield iq ymid) s iq fun r => r.flag Reg.SNX_CTL_WERR = true ∧
          RegsOnly [Reg.SNX_CTL] q r)) ∧
      (∀ h m, x.yieldA = some (h, m) → q.snxState = 3 ∨ q.snxState = 4 → h.toNat ≤ q.tick.toNat → Answers (.yieldHandover iq) s iq fun r =>
        manages r (if m.toNat = q.mid then 4 else 3) { x with yieldA := none }) ∧
      (∀ w, x.wrapA = some w → w.made = false → w.at_.toNat ≤ q.tick.toNat → q.snxState = 3 ∨ q.snxState = 4 →
        let made : Snx := { x with wrapA := some { w with made := true } }
        (w.wrap = true → Answers (.wrapChange iq) s iq fun r => r.wrapped = true ∧ snx r made ∧ SameRegsBut [Reg.SNX_STAT] q r ∧
          r.flag Reg.SNX_STAT_ORIGIN = ((q.link 1 != 3 || (x.ports[1]).wasDown) && (q.link 0 == 3 && !(x.ports[0]).wasDown))) ∧
        (w.wrap = false → Answers (.wrapChange iq) s iq fun r => r.wrapped = false ∧ r.flag Reg.SNX_STAT_ORIGIN = false ∧
          snx r { made with ports := x.ports.map fun p => { p with wasDown := false } } ∧ SameRegsBut [Reg.SNX_STAT] q r)) ∧
      (q.flag Reg.SNX_STAT_ORIGIN = true → q.link 1 = 3 → Answers (.heal iq) s iq fun r =>
        snx r { x with cells := cell (q.cell 5 0xFF 0 0) 1 } ∧ r.regs = q.regs) ∧
      (∀ l, x.lvl = some l → l.made = false → l.at_.toNat ≤ q.tick.toNat → q.snxState = 3 ∨ q.snxState = 4 →
        Answers (.levelChange iq) s iq fun r => r.fld Reg.SNX_DLVL_DSL = l.sl.toNat ∧ r.fld Reg.SNX_DLVL_DFL = l.fl.toNat ∧
          snx r { x with lvl := some { l with made := true } } ∧ SameRegsBut [Reg.SNX_DLVL] q r)

/-! ### Ports, rate converters, decimators -/

/-- R360 to R367, R384: a port block enabled or refused; a frame of a serial port at Fi takes its input words into the slots of the port and
drives the samples of its output slots; a lost port; masks that wait for a frame start. The first frame of a port, and masks of a disabled
one, are the model's readings (log 108). -/
def Obligations.SerialPorts : Prop :=
  ∀ (s : State) (iq : QId) (p : Fin 8) (rx tx : Fin 4) (bits : List Bool) (input : Bool) (mask : W32),
    let q := s.quad iq
    let t := q.prt.tdm[p]
    let prt (r : Quad) (y : Ports) : Prop := r = { q with prt := y, regs := r.regs, mem := r.mem }
    let tdm (r : Quad) (y : Tdm) : Prop := prt r { q.prt with tdm := q.prt.tdm.set p y }
    let werr (c : Instr) : Prop := Answers c s iq fun r => r.flag Reg.PRT_CTL_WERR = true ∧ RegsOnly [Reg.PRT_CTL] q r
    let n := q.tdmSlots p.val
    let w := q.tdmWidth p.val
    let outs := activeSlots n t.out.mask
    let play (c : Nat) : W40 :=
      if t.outJ < 4 then q.readView (q.fld (Reg.PRT_TDMCFG_OUTBASE p.val) + (outs.filter fun x => decide (x < c)).length) t.outJ else 0
    let v := frameSamples n w (q.fld (Reg.PRT_TDMCFG_INLEN p.val)) t.inp.mask (q.tdmWords p.val bits)
    let base := q.fld (Reg.PRT_TDMCFG_INBASE p.val)
    let lim := if input then (if q.flag (Reg.PRT_TDMCFG_IMODE p.val) then q.fld (Reg.ASR_GRP_COUNT p.val) else q.fld (Reg.PRT_TDMCFG_INLEN p.val))
      else q.fld (Reg.PRT_TDMCFG_OUTLEN p.val)
    let d := if input then t.inp else t.out
    let j := if input then t.inJ else t.outJ
    let f := if input then Reg.PRT_TDMSTAT_IEPOCH p.val else Reg.PRT_TDMSTAT_OEPOCH p.val
    (q.up →
      (q.flag (Reg.PRT_TDMCFG_EN p.val) = false → q.tdmOk p.val = true → Answers (.portEnable iq (.tdm p)) s iq fun r =>
        let j1 := q.firstFrame (q.tdmDiv p.val)
        r.flag (Reg.PRT_TDMCFG_EN p.val) = true ∧ SameBytes q r ∧ SameRegsBut [Reg.PRT_TDMCFG p.val] q r ∧
          tdm r { inp := { t.inp with chgJ := none }, out := { t.out with chgJ := none }, latestMap := t.inp.shown, endCycle := q.cclk, inJ := j1,
                  outJ := j1 }) ∧
      (q.flag (Reg.PRT_TDMCFG_EN p.val) = false → q.tdmOk p.val = false → werr (.portEnable iq (.tdm p))) ∧
      (q.flag (Reg.PRT_AESRXCFG_EN rx.val) = false → Answers (.portEnable iq (.rx rx)) s iq fun r =>
        r.flag (Reg.PRT_AESRXCFG_EN rx.val) = true ∧ r.rd (Reg.PRT_AESRXCFG rx.val + 12) = 0 ∧
          prt r { q.prt with rx := q.prt.rx.set rx { cap := (q.prt.rx[rx]).cap } } ∧ SameBytes q r ∧
          SameRegsBut [Reg.PRT_AESRXCFG rx.val, Reg.PRT_AESRXCFG rx.val + 12] q r) ∧
      (q.flag (Reg.PRT_AESTXCFG_EN tx.val) = false → q.fld (Reg.PRT_AESTXCFG_RDIV tx.val) = 0 → Answers (.portEnable iq (.tx tx)) s iq fun r =>
        r.flag (Reg.PRT_AESTXCFG_EN tx.val) = true ∧
          prt r { q.prt with tx := q.prt.tx.set tx { q.prt.tx[tx] with count := 0, j := q.firstFrame 1, hist := [] } } ∧ SameBytes q r ∧
          SameRegsBut [Reg.PRT_AESTXCFG tx.val] q r) ∧
      (popcount32 mask ≤ lim → popcount32 mask ≤ n → Answers (.maskWrite iq p input mask) s iq fun r =>
        r.rd (Reg.PRT_TDMCFG p.val + if input then 16 else 20) = mask ∧ r.flag (Reg.PRT_TDMSTAT_MPEND p.val) = true ∧
          tdm r (if input then { t with inp := { t.inp with pend := some mask } } else { t with out := { t.out with pend := some mask } }) ∧
          SameBytes q r ∧ SameRegsBut [Reg.PRT_TDMCFG p.val + if input then 16 else 20, Reg.PRT_TDMSTAT p.val + 4] q r) ∧
      (lim < popcount32 mask ∨ n < popcount32 mask → werr (.maskWrite iq p input mask))) ∧
      (∀ m, d.pend = some m → d.changed ≠ some q.tick → q.flag (Reg.PRT_TDMCFG_EN p.val) = true →
        (input = true → q.flag (Reg.PRT_TDMCFG_IMODE p.val) = false) → Answers (.maskChangeEffect iq p input) s iq fun r =>
          let late := input && !q.tdmMaster p.val
          let y : PortDir := { d with
            mask := m, pend := none, changed := some q.tick
            shown := if late then d.shown else ((q.fld f + 1) % 65536, m), chgJ := if late then d.chgJ else some (j % 4) }
          tdm r (if input then { t with inp := y } else { t with out := y }) ∧ r.fld f = (q.fld f + 1) % 65536 ∧
            r.flag (Reg.PRT_TDMSTAT_MPEND p.val) = (if input then t.out.pend.isSome else t.inp.pend.isSome) ∧ SameBytes q r ∧
            SameRegsBut [Reg.PRT_TDMSTAT p.val, Reg.PRT_TDMSTAT p.val + 4] q r) ∧
      (∀ m, t.inp.pend = some m → t.inp.changed ≠ some q.tick → q.flag (Reg.PRT_TDMCFG_EN p.val) = true →
        q.flag (Reg.PRT_TDMCFG_IMODE p.val) = true → Answers (.maskChangeEffect iq p true) s iq fun r =>
          let epoch := (q.fld (Reg.PRT_TDMSTAT_IEPOCH p.val) + 1) % 65536
          let moved := (List.range (activeSlots n m).length).map fun i => decide ((activeSlots n t.inp.mask)[i]? ≠ (activeSlots n m)[i]?)
          r.fld (Reg.PRT_TDMSTAT_IEPOCH p.val) = epoch ∧ SameBytes q r ∧
            r.prt.tdm[p] = { t with
              inp := { t.inp with mask := m, pend := none, changed := some q.tick }, maps := t.maps ++ [⟨q.nsFine, epoch, m, moved⟩] } ∧
            SameRegsBut [Reg.PRT_TDMSTAT p.val, Reg.PRT_TDMSTAT p.val + 4] q r) ∧
      (q.flag (Reg.PRT_TDMCFG_EN p.val) = true → q.mode = .run → q.tdmMaster p.val = true → q.tdmDiv p.val = 1 → q.ecc = [] →
        (q.flag (Reg.PRT_TDMCFG_IEN p.val) = false → q.flag (Reg.PRT_TDMCFG_OEN p.val) = true → Answers (.serialFrame iq p bits) s iq fun r =>
          let l := (r.prt.tdm[p]).driven
          let stride := if q.fld (Reg.PRT_TDMCFG_FMT p.val) < 2 then q.fld (Reg.PRT_TDMCFG_FLEN p.val) / 2 else w
          tdm r { t with fsNs := q.slaveFs p.val, outJ := t.outJ + 1, driven := l } ∧ SameBytes q r ∧ r.regs = q.regs ∧ l.length = q.fld (Reg.PRT_TDMCFG_FLEN p.val) ∧
            (q.tdmOk p.val = true → ∀ c k, c < n → k < w → l.getD (c * stride + k) none =
              if c ∈ outs then some ((outWord w (play c)).getLsbD (31 - k))
              else if q.flag (Reg.PRT_TDMCFG_TRI p.val) then none else some false)) ∧
        (q.flag (Reg.PRT_TDMCFG_IEN p.val) = true → q.flag (Reg.PRT_TDMCFG_OEN p.val) = false → q.flag (Reg.PRT_TDMCFG_IMODE p.val) = false →
          t.inJ < 4 → s.memWf → Answers (.serialFrame iq p bits) s iq fun r => r.prt = { q.prt with tdm := q.prt.tdm.set p { t with fsNs := q.slaveFs p.val, inJ := t.inJ + 1 } } ∧
            r.cores = q.cores ∧ r.tick = q.tick ∧ (∀ i, i < v.length → base + i < slotLimit q.fi → q.kind (base + i) = 1 →
              r.writeView (base + i) t.inJ = v.getD i 0) ∧
            ∀ x, x < 0x20040000 ∨ 0x20080000 ≤ x → r.mem.read x = q.mem.read x)) ∧
      (q.flag (Reg.PRT_TDMCFG_EN p.val) = true → q.tdmMaster p.val = false → q.flag (Reg.PRT_TDMCFG_IEN p.val) = true →
        q.flag (Reg.PRT_TDMCFG_IMODE p.val) = false → q.mode ≠ .scour → Answers (.serialLost iq p) s iq fun r =>
          r.flag (Reg.PRT_TDMSTAT_LOST p.val) = true ∧ r.flag (Reg.PRT_TDMSTAT_LOSTS p.val) = true ∧ (r.prt.tdm[p]).good = 0 ∧
          r.fld (Reg.PRT_TDMSTAT_MISSING p.val) = min (q.fld (Reg.PRT_TDMSTAT_MISSING p.val) + (max 4 (q.overdue p) - t.missed)) (Reg.PRT_TDMSTAT_MISSING p.val).max ∧
          r.cores = q.cores ∧ r.tick = q.tick ∧ (q.gridPassed ≤ t.inJ → SameBytes q r ∧
            SameRegsBut [Reg.PRT_TDMSTAT p.val + 4, Reg.PRT_TDMSTAT p.val + 12] q r))

/-- R370 to R375, R376 to R382: the frames and the channel status of the AES3 blocks, and the states of a rate converter's group. A group's
first tick, and what the history of a fade and of a replaced sample reaches, are the model's readings (log 109, 146). -/
def Obligations.AesAndConverters : Prop :=
  ∀ (s : State) (iq : QId) (n : Fin 4) (f : AesFrame) (w : Writer) (word : Fin 12) (v : W32) (g : Fin 12) (dev : Int) (ratio : W32) (pre : Preamble),
    let q := s.quad iq
    let prt (r : Quad) (y : Ports) : Prop := r = { q with prt := y, regs := r.regs, mem := r.mem }
    let tx := q.prt.tx[n]
    let rx := q.prt.rx[n]
    let wp := q.rd (Reg.PRT_AESRXCFG n.val + 12)
    let a := 16 * q.fld (Reg.PRT_AESRXCFG_BASE n.val) + wp.toNat % 2 ^ q.fld (Reg.PRT_AESRXCFG_LOG2 n.val)
    let k : Fin 12 := ⟨8 + n.val, by omega⟩
    let ac := q.prt.asrc[k]
    let smp (x : BitVec 24) : W40 := ((x.setWidth 32) <<< 8).signExtend 40
    let slot := q.fld (Reg.PRT_AESTXCFG_SLOT n.val)
    let ag := q.prt.asrc[g]
    let asrc (r : Quad) (y : Asrc) : Prop := prt r { q.prt with asrc := q.prt.asrc.set g y }
    let grp := [Reg.ASR_GRP g.val + 12]
    let first := pre != .y
    let inWin : Prop := 16 * dev.natAbs ≤ q.asrcPeriod g.val
    let begun : Asrc := if first then { ag with lastEdge := q.nsFine, glitched := false } else ag
    let taken : Asrc := { begun with
      good := if first then ag.good + 1 else ag.good, edge := q.nsFine, ratios := (q.nsFine, ratio) :: recentRatios q.nsFine ag.ratios }
    let z : Fin 4 := ⟨(g.val - 8) % 4, by omega⟩
    let edged (y : Asrc) : Ports := { q.prt with
      asrc := q.prt.asrc.set g y
      rx := if pre = .z ∧ 8 ≤ g.val then q.prt.rx.set z { q.prt.rx[z] with zTs := q.ts } else q.prt.rx }
    let qc := if g.val < 8 then q else q.setFld (Reg.ASR_GRP_COUNT g.val) 2
    (q.flag (Reg.PRT_AESRXCFG_EN n.val) = true → q.mode ≠ .scour → f.par = false → q.flag (Reg.PRT_AESRXCFG_VMUTE n.val) = false → f.z = false →
        (wp - q.rd (Reg.PRT_AESRXCFG n.val + 16)).toNat < 2 ^ q.fld (Reg.PRT_AESRXCFG_LOG2 n.val) → q.sysRange a 1 = true → q.quietTo a 1 →
        q.hpnKept (q.phys a) = false → q.ecc = [] → s.memWf →
        Answers (.aes3FrameReceive iq n f) s iq fun r => r.rd (Reg.PRT_AESRXCFG n.val + 12) = wp + 1 ∧ r.flag (Reg.PRT_AESRXSTAT_LOCK n.val) = true ∧
          r.mem.read (q.phys a) = auxByte f ∧ SameBytesBut (q.phys a) 1 q r ∧ SameRegsBut [Reg.PRT_AESRXCFG n.val + 12, Reg.PRT_AESRXSTAT n.val] q r ∧
          prt { r with aged := q.aged } { q.prt with
            asrc := q.prt.asrc.set k { ac with
              hist := pushHist ac.hist (if ac.glitched then [0, 0] else [smp f.a, smp f.b]) 1024
              times := (ac.lastEdge :: ac.times).take 1024, vbits := ((f.va, f.vb) :: ac.vbits).take 1024
              replaced := if ac.glitched then ((ac.lastEdge, none) :: ac.replaced).take 1024 else ac.replaced }
            rx := q.prt.rx.set n (if rx.opened.isSome then
              { rx with count := min (rx.count + 1) 255, csA := (rx.csA ++ [f.ca]).take 192, csB := (rx.csB ++ [f.cb]).take 192 } else rx) }) ∧
      (Answers (.csLatchRead iq w n) s iq fun r => (∀ i, i < 15 → i ≠ 12 → r.rdCopy w (Reg.PRT_CS n.val + 4 * i) = rx.cap.getD i 0) ∧
        RegsOnly ((List.range 15).map fun i => copyOff w (Reg.PRT_CS n.val + 4 * i)) q r) ∧
      (q.up → Answers (.txcsWrite iq n word v) s iq fun r => r.rd (Reg.PRT_TXCS n.val + 4 * word.val) = v ∧ r.flag (Reg.PRT_TXCS_PEND n.val) = true ∧
        RegsOnly [Reg.PRT_TXCS n.val + 4 * word.val, Reg.PRT_TXCS n.val + 48] q r) ∧
      (q.flag (Reg.PRT_TXCS_PEND n.val) = true → tx.count = 0 → Answers (.txcsApply iq n) s iq fun r => r.flag (Reg.PRT_TXCS_PEND n.val) = false ∧
        prt r { q.prt with tx := q.prt.tx.set n { tx with cs := (List.range 12).map fun i => q.rd (Reg.PRT_TXCS n.val + 4 * i) } } ∧
        SameBytes q r ∧ SameRegsBut [Reg.PRT_TXCS n.val + 48] q r) ∧
      (q.flag (Reg.PRT_AESTXCFG_EN n.val) = true → q.mode ≠ .scour → q.ecc = [] → q.fld (Reg.PRT_AESTXCFG_RDIV n.val) = 0 →
        q.fld (Reg.PRT_AESTXCFG_UBASE n.val) = 0 → tx.count ≠ 191 → (tx.count = 0 → q.flag (Reg.PRT_TXCS_PEND n.val) = false) → Answers (.aes3FrameTransmit iq n) s iq fun r => ∃ y : AesFrame,
          r = { q with prt := { q.prt with tx := q.prt.tx.set n { tx with count := (tx.count + 1) % 192, j := tx.j + 1, sent := some y } }, mem := r.mem } ∧
          SameBytes q r ∧ y.z = decide (tx.count = 0) ∧ y.ua = false ∧ y.ub = false ∧ y.par = false ∧
          y.a = BitVec.ofInt 24 (outBits 24 (q.playSample slot tx.j)) ∧ y.b = BitVec.ofInt 24 (outBits 24 (q.playSample (slot + 1) tx.j)) ∧
          y.va = (!q.live slot || q.substituted slot || q.flag (Reg.PRT_AESTXCFG_VFORCE n.val)) ∧
          y.ca = ((q.txcsBytes n false).getD (tx.count / 8) 0).getLsbD (tx.count % 8)) ∧
      (q.flag (Reg.PRT_AESTXCFG_EN n.val) = true → q.mode ≠ .scour → tx.count = 0 → q.flag (Reg.PRT_TXCS_PEND n.val) = true →
        Answers (.aes3FrameTransmit iq n) s iq fun r => r.flag (Reg.PRT_TXCS_PEND n.val) = false ∧
          (r.prt.tx[n]).cs = (List.range 12).map fun i => q.rd (Reg.PRT_TXCS n.val + 4 * i)) ∧
      (q.up → q.flag (Reg.ASR_GRP_EN g.val) = false →
        (qc.asrcOk g.val = true → Answers (.asrcGroupEnable iq g) s iq fun r => r.flag (Reg.ASR_GRP_EN g.val) = true ∧
          r.fld (Reg.ASR_GRP_STATE g.val) = 1 ∧ asrc r { state := .acquire, ratios := [(q.nsFine, q.rd (Reg.ASR_GRP g.val + 12))] } ∧ SameBytes q r ∧
          SameRegsBut [Reg.ASR_GRP g.val, Reg.ASR_GRP g.val + 16] q r) ∧
        (qc.asrcOk g.val = false → Answers (.asrcGroupEnable iq g) s iq fun r => r.flag Reg.ASR_CTL_WERR = true ∧ RegsOnly [Reg.ASR_CTL] q r)) ∧
      (ag.sinceGlitch = none → (ag.state = .locked ∧ inWin ∨
          ag.state = .acquire ∧ (ag.good = 0 ∨ inWin) ∧ (taken.steady ratio = false ∨ taken.good < 16)) →
        Answers (.asrcFrameEdge iq g dev ratio pre) s iq fun r =>
          r.rd (Reg.ASR_GRP g.val + 12) = ratio ∧ prt r (edged taken) ∧ SameBytes q r ∧ SameRegsBut grp q r) ∧
      (ag.state = .acquire → ag.good = 0 ∨ inWin → taken.steady ratio = true → 16 ≤ taken.good →
        Answers (.asrcFrameEdge iq g dev ratio pre) s iq fun r => r.fld (Reg.ASR_GRP_STATE g.val) = 2 ∧
          r.flag (Reg.ASR_GRP_FADING g.val) = true ∧ SameBytes q r ∧
          prt r { edged { taken with state := .locked, fadeIn := 32, chFade := [], sinceGlitch := none } with
            blocks := q.prt.blocks.put (asrcBlock g) { q.prt.blocks.get (asrcBlock g) {} with unlocked := true } } ∧
          SameRegsBut [Reg.ASR_GRP g.val + 12, Reg.ASR_GRP g.val + 16, Reg.ASR_GRP g.val + 20] q r) ∧
      (¬inWin → first = true →
        (ag.state = .acquire → ag.good ≠ 0 → Answers (.asrcFrameEdge iq g dev ratio pre) s iq fun r =>
          prt r (edged { begun with glitched := true, good := 0 }) ∧ SameBytes q r ∧ r.regs = q.regs) ∧
        (ag.state = .locked → ag.sinceGlitch = none → Answers (.asrcFrameEdge iq g dev ratio pre) s iq fun r =>
          prt r (edged { begun with glitched := true, sinceGlitch := some 0 }) ∧ SameBytes q r ∧
          r.fld (Reg.ASR_GRP_GLITCH g.val) = min (q.fld (Reg.ASR_GRP_GLITCH g.val) + 1) (Reg.ASR_GRP_GLITCH g.val).max ∧
          SameRegsBut [(Reg.ASR_GRP_GLITCH g.val).off] q r) ∧
        (ag.state = .locked → ag.sinceGlitch ≠ none → Answers (.asrcFrameEdge iq g dev ratio pre) s iq fun r =>
          prt r (edged { begun with glitched := true, state := .lost, good := 0 }) ∧ SameBytes q r ∧ r.fld (Reg.ASR_GRP_STATE g.val) = 3 ∧
          r.flag (Reg.ASR_GRP_LOSTS g.val) = true ∧ SameRegsBut [Reg.ASR_GRP g.val + 16] q r)) ∧
      (ag.state = .lost → ag.sinceGlitch = none → Answers (.asrcFrameEdge iq g dev ratio pre) s iq fun r =>
        prt r (edged { taken with state := .acquire, good := if first then 1 else 0 }) ∧ SameBytes q r ∧
          r.fld (Reg.ASR_GRP_STATE g.val) = 1 ∧ r.rd (Reg.ASR_GRP g.val + 12) = ratio ∧
          SameRegsBut [Reg.ASR_GRP g.val + 12, Reg.ASR_GRP g.val + 16] q r) ∧
      (ag.state = .locked → Answers (.asrcFrameMissing iq g) s iq fun r => r.fld (Reg.ASR_GRP_STATE g.val) = 3 ∧
        r.flag (Reg.ASR_GRP_LOSTS g.val) = true ∧ asrc r { ag with state := .lost, good := 0 } ∧ SameBytes q r ∧
        (g.val < 8 → r.fld (Reg.PRT_TDMSTAT_MISSING g.val) =
          min (q.fld (Reg.PRT_TDMSTAT_MISSING g.val) + 1) (Reg.PRT_TDMSTAT_MISSING g.val).max) ∧
        SameRegsBut (if g.val < 8 then [Reg.ASR_GRP g.val + 16, Reg.PRT_TDMSTAT g.val + 12] else [Reg.ASR_GRP g.val + 16, Reg.PRT_AESRXSTAT (g.val - 8)]) q r) ∧
      (ag.state = .acquire → Answers (.asrcFrameMissing iq g) s iq fun r => asrc r { ag with good := 0 } ∧ SameBytes q r ∧
        (g.val < 8 → r.fld (Reg.PRT_TDMSTAT_MISSING g.val) =
          min (q.fld (Reg.PRT_TDMSTAT_MISSING g.val) + 1) (Reg.PRT_TDMSTAT_MISSING g.val).max) ∧
        SameRegsBut (if g.val < 8 then [Reg.PRT_TDMSTAT g.val + 12] else [Reg.PRT_AESRXSTAT (g.val - 8)]) q r)

/-- R386, R387, R395, R396, R399, R401: the clock groups and inputs of the decimators enabled, disabled or refused, the synchronising reset
armed and made, a stuck input. A reset armed late is the model's reading (log 110). -/
def Obligations.Decimators : Prop :=
  ∀ (s : State) (iq : QId) (c : Fin 8) (n : Fin 64) (key : W32),
    let q := s.quad iq
    let i := q.dec.ins[n]
    let dec (r : Quad) (y : Dec) : Prop := r = { q with dec := y, regs := r.regs, mem := r.mem } ∧ SameBytes q r
    let input (r : Quad) (y : DecIn) : Prop := dec r { q.dec with ins := q.dec.ins.set n y }
    let werr (c : Instr) : Prop := Answers c s iq fun r => r.flag Reg.DEC_CTL_WERR = true ∧ RegsOnly [Reg.DEC_CTL] q r
    let t := ext64 key q.tick
    let mask : W64 := (q.rd Reg.DEC_SYNCM1).setWidth 64 <<< 32 ||| (q.rd Reg.DEC_SYNCM0).setWidth 64
    let osr := q.fld (Reg.DEC_CLK_OSR c.val)
    let busy := (List.range 8).any fun k => q.flag (Reg.DEC_CH_EN (8 * c.val + k))
    let arms (r : Quad) (f : Field) (x : W64) : Prop := dec r { q.dec with armed := some (x, mask), slated := decide (t < (q.tick.toNat : Int) + 2) } ∧ r.rd Reg.DEC_SYNCT = key ∧
      r.flag Reg.DEC_CTL_SPEND = true ∧ r.flag f = true ∧ SameRegsBut [Reg.DEC_SYNCT, Reg.DEC_CTL] q r
    (q.up →
      (q.flag (Reg.DEC_CLK_EN c.val) = false → osr < 2 ∨ osr = 2 ∧ q.fi ≠ 2 → Answers (.modClockEnable iq c true) s iq fun r =>
        r.flag (Reg.DEC_CLK_EN c.val) = true ∧ dec r { q.dec with clkAt := q.dec.clkAt.set c (some (q.tick + 1)) } ∧
          SameRegsBut [Reg.DEC_CLK c.val] q r) ∧
      (q.flag (Reg.DEC_CLK_EN c.val) = false → osr = 3 ∨ osr = 2 ∧ q.fi = 2 → werr (.modClockEnable iq c true)) ∧
      (q.flag (Reg.DEC_CLK_EN c.val) = true → busy = false → Answers (.modClockEnable iq c false) s iq fun r =>
        r.flag (Reg.DEC_CLK_EN c.val) = false ∧ dec r { q.dec with clkAt := q.dec.clkAt.set c none } ∧ SameRegsBut [Reg.DEC_CLK c.val] q r) ∧
      (q.flag (Reg.DEC_CLK_EN c.val) = true → busy = true → werr (.modClockEnable iq c false)) ∧
      (q.flag (Reg.DEC_CH_EN n.val) = false → q.decOk n.val = true → q.fld (Reg.DEC_CH_RCIC n.val) ≠ 3 → q.fld (Reg.DEC_CH_D n.val) ≠ 3 →
        q.fld (Reg.DEC_CH_RESP n.val) < 12 → Answers (.decInputEnable iq n true) s iq fun r => r.flag (Reg.DEC_CH_EN n.val) = true ∧
          r.fld (Reg.DEC_GDNS_GDNS n.val) = q.decGdns n.val % 2 ^ 23 ∧ r.flag (Reg.DEC_STAT_INVALID n.val) = true ∧
          input r { dc := i.dc, enPend := some (q.tick + 1) } ∧ (∀ j, j < 4 → r.rd (Reg.DEC_DET n.val + 4 * j) = 0) ∧
          SameRegsBut ([Reg.DEC_CH n.val, Reg.DEC_GDNS n.val, Reg.DEC_STAT n.val] ++ (List.range 4).map fun j => Reg.DEC_DET n.val + 4 * j) q r) ∧
      (q.flag (Reg.DEC_CH_EN n.val) = false → q.decOk n.val = false → werr (.decInputEnable iq n true)) ∧
      (q.flag (Reg.DEC_CH_EN n.val) = true → Answers (.decInputEnable iq n false) s iq fun r => r.flag (Reg.DEC_CH_EN n.val) = false ∧
        r.flag (Reg.DEC_STAT_INVALID n.val) = false ∧ r.fld (Reg.DEC_STAT_LEFT n.val) = 0 ∧ r.flag (Reg.DEC_STAT_STUCK n.val) = false ∧
        input r { dc := i.dc } ∧ SameRegsBut [Reg.DEC_CH n.val, Reg.DEC_STAT n.val] q r) ∧
      ((q.tick.toNat : Int) + 2 ≤ t → Answers (.syncArm iq key) s iq fun r => arms r Reg.DEC_CTL_SPEND (BitVec.ofInt 64 t)) ∧
      (t < (q.tick.toNat : Int) + 2 → Answers (.syncArm iq key) s iq fun r => arms r Reg.DEC_CTL_SLATE (q.tick + 1))) ∧
      (Answers (.syncReset iq) s iq fun r => dec r r.dec ∧ r.dec.clkAt = q.dec.clkAt ∧
        (q.flag (Reg.DEC_CH_EN n.val) = false → r.dec.ins[n] = i) ∧
        (∀ x m, q.dec.armed = some (x, m) → x.toNat ≤ q.tick.toNat → r.dec.armed = none ∧ r.flag Reg.DEC_CTL_SPEND = false) ∧
        (q.flag (Reg.DEC_CH_EN n.val) = true → (∃ x, i.enPend = some x ∧ x.toNat ≤ q.tick.toNat) ∨
            (∃ x m, q.dec.armed = some (x, m) ∧ x.toNat ≤ q.tick.toNat ∧ m.getLsbD n.val = true) →
          (r.dec.ins[n]).active = true ∧ (r.dec.ins[n]).bits = [] ∧ (r.dec.ins[n]).left = q.decSettle n.val ∧ (r.dec.ins[n]).enPend = none ∧
            r.flag (Reg.DEC_STAT_INVALID n.val) = true ∧ r.fld (Reg.DEC_STAT_LEFT n.val) = min (q.decSettle n.val) 1023)) ∧
      (q.flag (Reg.DEC_CH_EN n.val) = true → 4096 ≤ i.same → Answers (.stuckDetect iq n) s iq fun r =>
        r.flag (Reg.DEC_STAT_STUCK n.val) = true ∧ r.flag (Reg.DEC_STAT_STUCKS n.val) = true ∧ input r { i with stuckBlk := true } ∧
          SameRegsBut [Reg.DEC_STAT n.val] q r) ∧
      (i.same < 4096 → Answers (.stuckClear iq n) s iq fun r => r.flag (Reg.DEC_STAT_STUCK n.val) = false ∧ RegsOnly [Reg.DEC_STAT n.val] q r)

/-! ### DMA, bus, memory, registers -/

/-- R422, R424, R426, R427, R429: a descriptor submitted, copied, checked and taken; an item issued; a fill item moved and recorded; the
items that a reset of the engine ends. What an aborted item had moved is free (log 43), and the checks of a descriptor are the model's
reading (log 44). -/
def Obligations.DmaEngine : Prop :=
  ∀ (s : State) (iq : QId) (w : Writer) (desc : W32) (k : Nat),
    let q := s.quad iq
    let dma (r : Quad) (y : Dma) : Prop := r = { q with dma := y, regs := r.regs, mem := r.mem } ∧ SameBytes q r
    let ring := [Reg.DMA_CR_WP, Reg.DMA_CR_RP, Reg.DMA_CR_OVWR]
    let place (k : Nat) := 16 * q.fld Reg.DMA_CR_BASE_BASE + 16 * ((q.fld Reg.DMA_CR_WP_WP + k) % 2 ^ q.fld Reg.DMA_CR_LEN_LOG2)
    let cr := place 0
    let lands (k : Nat) : Prop := q.access (place k) 16 = none ∨ q.access (place k) 16 = some .scratch
    let still : Prop := q.kln = {} ∧ ∀ c, (q.core c).dual = []
    (mayWrite w = true → q.up → q.dma.copying.find w.val = none → Answers (.dmaSubmit iq w desc) s iq fun r =>
        dma r { q.dma with copying := q.dma.copying.put w.val (16 * desc.toNat) } ∧ r.rdCopy w Reg.DMA_SUBMIT_STAT = 0x100 ∧
        SameRegsBut [copyOff w Reg.DMA_SUBMIT_STAT] q r) ∧
      (mayWrite w = true → q.up → q.dma.copying.find w.val ≠ none → Answers (.dmaSubmit iq w desc) s iq fun r =>
        r.flag Reg.DMA_CTL_WERR = true ∧ RegsOnly [Reg.DMA_CTL] q r) ∧
      (∀ a, q.dma.copying.find w.val = some a → 0x10040000 ≤ a → a + 32 ≤ 0x10800000 → q.ecc = [] → q.mode ≠ .halt → q.dma.items.length < 256 →
        let words := (List.range 8).map fun i => q.mem.readLE (a + 4 * i) 4
        let ends (r : Quad) (status : W32) (items : List DmaItem) (n : Nat) : Prop :=
          dma r { copying := q.dma.copying.del w.val, items := items, order := n } ∧ r.rdCopy w Reg.DMA_SUBMIT_STAT = status ∧
            SameRegsBut [copyOff w Reg.DMA_SUBMIT_STAT] q r
        (a % 32 = 0 → dmaLayoutOk words = true → Answers (.dmaDescriptorCopied iq w) s iq fun r =>
          ends r 0 (q.dma.items ++ [⟨w, words, q.dma.order, false, none, none⟩]) (q.dma.order + 1)) ∧
        (a % 32 ≠ 0 ∨ dmaLayoutOk words = false → Answers (.dmaDescriptorCopied iq w) s iq fun r => ends r 0x10 q.dma.items q.dma.order)) ∧
      (∀ i, q.nextItem = some i → q.mayIssue = true → q.rowsOk i = true → Answers (.dmaIssue iq) s iq fun r =>
        dma r { q.dma with items := q.dma.items.map fun x => if x.order = i.order then { x with issued := true } else x } ∧ r.regs = q.regs) ∧
      (∀ i, ((q.dma.items.filter fun i => i.issued && i.held.isNone && i.tail.isNone)[k]?) = some i → i.fill = true → i.taskr = false → i.rows = 1 →
        0x10040000 ≤ i.dst 0 → i.dst 0 + i.len ≤ 0x10800000 → i.dst 0 % 16 + i.len ≤ 16 → q.ecc = [] → q.hpnOn = false → still → s.memWf →
        lands 0 → Answers (.dmaComplete iq k) s iq fun r => r.dma = { q.dma with items := q.dma.items.filter fun x => x.order != i.order } ∧
          (∀ o, o < i.len → (i.dst 0 + o < cr ∨ cr + 16 ≤ i.dst 0 + o) → r.mem.read (i.dst 0 + o) = BitVec.ofNat 8 (i.f 7 31 0 >>> (8 * (o % 4)))) ∧
          (q.access cr 16 = some .scratch → r.record4 cr (256 * i.sub.val + 65536 * i.f 1 31 16) i.len q.tim.ns.toNat 0) ∧
          (∀ x, (x < i.dst 0 ∨ i.dst 0 + i.len ≤ x) → (x < cr ∨ cr + 16 ≤ x) → r.mem.read x = q.mem.read x) ∧
          r.rd Reg.DMA_CR_WP = q.rd Reg.DMA_CR_WP + 1 ∧ SameRegsBut ring q r ∧ r.cores = q.cores ∧ r.aged = q.aged.filter fun x => x != 19) ∧
      (q.up → (∀ i ∈ q.dma.items, i.issued = false ∧ i.held = none ∧ i.tail = none) → q.dma.copying = [] → still →
        (∀ k, k < q.dma.items.length → lands k) → q.fab.dwWait = [] → Answers (.dmaReset iq) s iq fun r =>
        r.dma = { q.dma with items := [] } ∧ r.rd Reg.DMA_CR_WP = q.rd Reg.DMA_CR_WP + w32 q.dma.items.length ∧ SameRegsBut ring q r ∧
        r = { q with dma := r.dma, ecc := r.ecc, regs := r.regs, mem := r.mem })

/-- R411, R414, R421, R416, R11 to R13, R63: an aged beat, a period of the patrol, a refresh; the enabled bytes of a register written, and by
a position that may not write none; a read that clears a count. The patrol's period as one command, the masters' waiting, and reads that
find no register are the model's (log 37, 39, 41, 42). -/
def Obligations.BusAndRegisters : Prop :=
  ∀ (s : State) (iq : QId) (m : Fin 23) (refr : BitVec 3) (hot : Bool) (w : Writer) (be : BitVec 4) (v : W32) (off : BitVec 20)
    (n : Nat) (u : List Nat),
    let q := s.quad iq
    (∀ k, q.waitingQos m.val = some k → q.fld Reg.BUS_AGE_LIM ≠ 0 → k < 14 → m.val ∉ q.aged → Answers (.qosAgePromote iq m) s iq fun r =>
        m.val ∈ r.aged ∧ (∀ x ∈ q.aged, x ∈ r.aged) ∧ r = { q with aged := r.aged, regs := r.regs, mem := r.mem } ∧ SameBytes q r ∧
          r.fld (Reg.BUS_CONF_COUNT m.val) = min (q.fld (Reg.BUS_CONF_COUNT m.val) + q.fld Reg.BUS_AGE_LIM) (Reg.BUS_CONF_COUNT m.val).max ∧
          SameRegsBut [Reg.BUS_CONF m.val] q r) ∧
      (q.fld Reg.BUS_SCRUB_HOURS ≠ 0 → q.rst = .past → (∀ e ∈ q.ecc, e.2 = .corr ∧ q.patrolled e.1 = true) → Answers (.patrolScrub iq []) s iq fun r =>
        r.ecc = [] ∧ r.fld Reg.BUS_SCRUB_PASSES = min (q.fld Reg.BUS_SCRUB_PASSES + 1) 65535 ∧
        r = { q with ecc := [], eccBack := r.eccBack, regs := r.regs, mem := r.mem } ∧ SameBytes q r ∧
        SameRegsBut [Reg.BUS_SCRUB, Reg.BUS_ECC 0, Reg.BUS_ECC 3] q r) ∧
      (q.rst = .past → q.flag Reg.BUS_DDRSTAT_PRESENT = true → Answers (.dramRefresh iq refr hot) s iq fun r =>
        r.fld Reg.BUS_DDRSTAT_REFR = refr.toNat ∧ r.flag Reg.BUS_DDRSTAT_HOT = (hot || q.flag Reg.BUS_DDRSTAT_HOT) ∧
        RegsOnly [Reg.BUS_DDRSTAT] q r) ∧
      (mayWrite w = true → q.up → off.toNat ∈ [Reg.DEC_SYNCM0, Reg.DEC_SYNCM1, Reg.TIM_GPPER 0, Reg.FLT_RG_RP, Reg.KLN_RG_RP, Reg.DMA_CR_RP] →
        Answers (.registerWrite iq w off be v) s iq fun r =>
          r.rd off.toNat = (q.rd off.toNat &&& ~~~(beMask be)) ||| (v &&& beMask be) ∧ RegsOnly [off.toNat] q r) ∧
      (4 ≤ w.val → w.val < 16 → Answers (.registerWrite iq w off be v) s iq fun r => RegsOnly [] q r) ∧
      AnswersAll (.rcRegisterRead iq w 0x3008 (n :: u)) s fun t =>
        (t.quad iq).fld Reg.XCH_FOREIGN_COUNT = min n Reg.XCH_FOREIGN_COUNT.max ∧
          (t.quad iq).fld Reg.XCH_FOREIGN_SLOT = q.fld Reg.XCH_FOREIGN_SLOT ∧ RegsOnly [Reg.XCH_FOREIGN] q (t.quad iq) ∧
          ∀ j, j ≠ iq → RegsOnly [] (s.quad j) (t.quad j)

/-! ### The host port -/

/-- R434, R435, R437 to R439, R441, R444, R187: a write at the pins posted or refused, posted writes carried out, the bulk FIFOs, the two
pointers, and the rows that write them: behind what waits in the posted FIFO, else at once. A row that writes a register goes behind what
waits in the posted FIFO, and acts at once where nothing does (log 78, 79). -/
def Obligations.HostPins : Prop :=
  ∀ (s : State) (iq : QId) (addr : BitVec 26) (be : BitVec 4) (v : W32),
    let q := s.quad iq
    let h := q.hp
    let d := s.dev.host
    let a := addr.toNat / 4 * 4
    let off := a % 0x800000
    let port (r : Quad) (y : HostPort) : Prop := r = { q with hp := { y with hostFlags := r.hp.hostFlags }, mem := r.mem } ∧ SameBytes q r
    let alone (r : Quad) (y : HostPort) : Prop := r = { q with hp := y, mem := r.mem } ∧ SameBytes q r
    let others (t : State) : Prop := ∀ j, j ≠ iq → SharedOnly (s.quad j) (t.quad j)
    let refused : HostPort := { h with wref := min (h.wref + 1) 0xFFFF, irqSt := h.irqSt ||| irqRef }
    let put (w : W32) (p : Posted) : W32 := (w &&& ~~~beMask p.be) ||| (p.v &&& beMask p.be)
    let direct : Prop := h.posted = [] ∧ q.rst ≠ .held
    let waits (c : Instr) (off : Nat) (w : W32) : Prop := Answers c s iq fun r => alone r { h with posted := h.posted ++ [⟨off, 0xF, w⟩] }
    (d.deaf = true → s.memWf → exec (.hostWrite addr be v) s = .next s ∧ exec (.bulkWrite iq v) s = .next s ∧ exec (.bulkRead iq) s = .next s ∧
        exec (.cmdWpWrite iq v) s = .next s ∧ exec (.cplRpWrite iq v) s = .next s) ∧
      (d.deaf = false → a < 0x2000000 → qidOf (a / 0x800000) = iq → windowWritable off = true →
        (h.posted.length < 64 → (0x30000 ≤ off → h.bref = false) → (off = 0x11000 → h.cref = false) → (off = 0x11008 → q.sch.mbox.length < 64) →
          AnswersAll (.hostWrite addr be v) s fun t => port (t.quad iq) { h with posted := h.posted ++ [⟨off, be, v⟩] } ∧ others t) ∧
        (64 ≤ h.posted.length → 0x11000 ≤ off → off < 0x30000 → AnswersAll (.hostWrite addr be v) s fun t => port (t.quad iq) refused ∧ others t)) ∧
      (d.deaf = false → a < 0x2000000 → windowWritable off = false → AnswersHost (.hostWrite addr be v) s fun x =>
        SameHost (d.setFld Reg.HST_BADW_COUNT (min (d.fld Reg.HST_BADW_COUNT + 1) 0xFFFF)) x) ∧
      (d.deaf = false → 0x2000000 ≤ a → hostWritable a = true → d.posted.length < 16 → AnswersHost (.hostWrite addr be v) s fun x =>
        SameHost { d with posted := d.posted ++ [⟨a, be, v⟩] } x) ∧
      (∀ p rest, h.posted = p :: rest → q.rst ≠ .held →
        let y : HostPort := { h with posted := rest }
        let drains (f : Quad → Prop) : Prop := AnswersAll (.hostWriteDrain (.quad iq)) s fun t => f (t.quad iq) ∧ SameHost d t.dev.host ∧
          ∀ j, j ≠ iq → RegsOnly [] (s.quad j) (t.quad j)
        (0x10000 ≤ p.addr → p.addr < 0x11000 → h.slotBusy ((p.addr - 0x10000) / 16) = false → drains fun r =>
          alone r { y with ring := h.ring.put ((p.addr - 0x10000) / 4) (put (h.ring.get ((p.addr - 0x10000) / 4) 0) p) }) ∧
        (p.addr = 0x11004 → (put h.cplRp p - h.cplRp).toNat ≤ (h.cplWp - h.cplRp).toNat → drains fun r =>
          alone r { y with cplRp := put h.cplRp p, kept := h.kept.drop (put h.cplRp p - h.cplRp).toNat }) ∧
        (0x30000 ≤ p.addr → p.addr < 0x40000 → h.bref = false → h.bulkW.length < 1024 → drains fun r =>
          alone r { y with bulkW := h.bulkW ++ [p.v &&& beMask p.be] })) ∧
      (∀ p rest, d.posted = p :: rest → d.porLow = false → d.held = false → p.addr = Reg.MGT_ARG 0 → AnswersHost (.hostWriteDrain .hostDomain) s fun x =>
        SameHost ({ d with posted := rest }.wr (Reg.MGT_ARG 0) (put (d.rd (Reg.MGT_ARG 0)) p)) x) ∧
      (d.deaf = false → direct → h.bref = false → h.bulkW.length < 1024 → Answers (.bulkWrite iq v) s iq fun r => alone r { h with bulkW := h.bulkW ++ [v] }) ∧
      (d.deaf = false → direct → h.bref = true → h.load = none → Answers (.bulkWrite iq v) s iq fun r => alone r refused) ∧
      (d.deaf = false → q.mode ≠ .scour → (∀ x rest, h.bulkR = x :: rest → Answers (.bulkRead iq) s iq fun r => alone r { h with bulkR := rest }) ∧
        (h.bulkR = [] → Answers (.bulkRead iq) s iq fun r => alone r { h with runder := true, irqSt := h.irqSt ||| irqRef })) ∧
      (d.deaf = false → direct → h.cref = false → (v - h.cmdWp).toNat ≤ h.cmdFree → Answers (.cmdWpWrite iq v) s iq fun r => alone r { h with cmdWp := v }) ∧
      (d.deaf = false → direct → h.cref = true ∨ h.cmdFree < (v - h.cmdWp).toNat → Answers (.cmdWpWrite iq v) s iq fun r => alone r refused) ∧
      (d.deaf = false → direct → (v - h.cplRp).toNat ≤ (h.cplWp - h.cplRp).toNat → Answers (.cplRpWrite iq v) s iq fun r =>
        alone r { h with cplRp := v, kept := h.kept.drop (v - h.cplRp).toNat }) ∧
      (d.deaf = false → direct → (h.cplWp - h.cplRp).toNat < (v - h.cplRp).toNat → Answers (.cplRpWrite iq v) s iq fun r => alone r refused) ∧
      (d.deaf = false → h.posted ≠ [] ∨ q.rst = .held → h.posted.length < 64 → h.bref = false → h.cref = false →
        waits (.bulkWrite iq v) 0x30000 v ∧ waits (.cmdWpWrite iq v) 0x11000 v ∧ waits (.cplRpWrite iq v) 0x11004 v)

/-- R442 to R450, R436, R452, R189, R407: a posted command taken or refused for its sequence number; LOAD, WRITE and READ; CANCEL, AUGER; the
pages; the host domain's reset and the replay of the records not consumed. The statuses of a sequence error and of WRITE's own reset are
the model's readings (log 80 to 84). -/
def Obligations.HostCommands : Prop :=
  ∀ (s : State) (iq : QId) (seq : W32) (addr : W36) (len v : W32) (be : BitVec 4) (n : BitVec 16) (task : BitVec 12) (dig : Bool) (slot : Fin 8),
    let q := s.quad iq
    let h := q.hp
    let a := addr.toNat
    let alone (r : Quad) (y : HostPort) : Prop := r = { q with hp := y, mem := r.mem } ∧ SameBytes q r
    let told (r : Quad) (status op : Nat) (resA : W32) : Prop := Told (q.accepted seq op).hp r.hp (q.stamped status op 0 seq resA)
    let ends (c : Instr) (status op : Nat) (resA : W32) : Prop :=
      Answers c s iq fun r => told r status op resA ∧ r = { q with hp := r.hp, mem := r.mem } ∧ SameBytes q r
    let plain (a n : Nat) : Prop := 0x10040000 ≤ a ∧ a + n ≤ 0x10800000 ∧ q.ecc = [] ∧ q.hpnOn = false ∧ q.kln = {} ∧ q.fab.dwWait = [] ∧ s.memWf
    let scratch (a n : Nat) : Prop := plain a n ∧ ∀ c, (q.core c).dual = []
    let e := h.entry h.cmdRp
    let wrong (c : Instr) (op : Nat) : Prop := Answers c s iq fun r => r.hp.lastSeq = h.lastSeq ∧ r.hp.open_ = h.open_ ∧
      r.hp.seqref = min (h.seqref + 1) 0xFFFF ∧ r = { q with hp := r.hp, mem := r.mem } ∧ SameBytes q r ∧
      ∃ x, r.hp.kept = h.kept ++ [x] ∧ x.status = 0x10 ∧ x.op = op ∧ x.seqErr = true ∧ x.seq = seq
    (q.takesCommand = true → h.cmdWp ≠ h.cmdRp →
      (∀ l, h.lastSeq = some l → e.getD 1 0 ≠ l + 1 → Answers (.commandAccept iq) s iq fun r => r.hp.cmdRp = h.cmdRp + 1 ∧ r.hp.lastSeq = h.lastSeq ∧
        r.hp.open_ = h.open_ ∧ r.hp.seqref = min (h.seqref + 1) 0xFFFF ∧ r = { q with hp := r.hp, mem := r.mem } ∧ SameBytes q r ∧
        ∃ x, r.hp.kept = h.kept ++ [x] ∧ x.status = 0x10 ∧ x.seqErr = true ∧ x.seq = e.getD 1 0) ∧
      (∀ m, e = [12, m, 0, 0] → (∀ l, h.lastSeq = some l → m = l + 1) → Answers (.commandAccept iq) s iq fun r =>
        alone r { h with cmdRp := h.cmdRp + 1, lastSeq := some m, open_ := h.open_ ++ [(m, 12)], augers := h.augers ++ [m] })) ∧
      (q.takesCommand = true → q.seqOk seq = false → wrong (.cmdLoad iq seq addr len dig slot) 1 ∧ wrong (.cmdWrite iq seq addr be v) 2 ∧
        wrong (.cmdRead iq seq addr n) 3 ∧ wrong (.cmdCancel iq seq task) 8 ∧ wrong (.cmdAuger iq seq) 12) ∧
      (q.takesCommand = true → q.seqOk seq = true →
        (q.mode ≠ .halt → 0 < len.toNat → len.toNat ≤ 67108864 → h.bulkW = [] → Answers (.cmdLoad iq seq addr len dig slot) s iq fun r =>
          alone r { (q.accepted seq 1).hp with load := some ⟨seq, a, a, len.toNat, 0, if dig then some slot else none, [], [], 0⟩ }) ∧
        (q.mode ≠ .halt → len = 0 ∨ 67108864 < len.toNat → ends (.cmdLoad iq seq addr len dig slot) 0x10 1 0) ∧
        (q.mode ≠ .halt → a % 4 = 0 → scratch a 4 → Answers (.cmdWrite iq seq addr be v) s iq fun r => told r 0 2 0 ∧
          r = { q with hp := r.hp, mem := r.mem } ∧ SameBytesBut a 4 q r ∧
          ∀ k, k < 4 → r.mem.read (a + k) = if be.getLsbD k then BitVec.ofNat 8 (v.toNat >>> (8 * k)) else q.mem.read (a + k)) ∧
        (q.mode ≠ .halt → a % 4 ≠ 0 → ends (.cmdWrite iq seq addr be v) 0x10 2 0) ∧
        (∀ c old new, q.mode ≠ .halt → a % 4 = 0 → plain a 4 → inDual a = true → be = 0xF → new ≠ v.setWidth 8 → (∀ j, j ≠ c → (q.core j).dual = []) →
          (q.core c).dual = [(a, old, new)] → let port := q.effQos 20 (q.fld (Reg.BUS_QOS_QOS 20)); let pos := (q.core c).pos.val
          (port ≤ q.coreQos c → Answers (.cmdWrite iq seq addr be v) s iq fun r => told r 0x40 2 0 ∧ r = { q with hp := r.hp, regs := r.regs, mem := r.mem } ∧
            SameBytes q r ∧ r.rd (Reg.BUS_COLL 20) = w32 (min ((q.rd (Reg.BUS_COLL 20)).toNat + 1) 0xFFFFFFFF) ∧ SameRegsBut [Reg.BUS_COLL 20] q r) ∧
          (q.coreQos c < port → Answers (.cmdWrite iq seq addr be v) s iq fun r => told r 0 2 0 ∧ r.mem.readLE a 4 = v.toNat ∧ SameBytesBut a 4 q r ∧
            (r.core c).dual = [] ∧ r.rd (Reg.BUS_COLL pos) = w32 (min ((q.rd (Reg.BUS_COLL pos)).toNat + 1) 0xFFFFFFFF) ∧ SameRegsBut [Reg.BUS_COLL pos] q r)) ∧
        (a % 4 = 0 → plain a 4 → ends (.cmdRead iq seq addr 1) 0 3 (w32 (q.mem.readLE a 4))) ∧
        (n = 0 ∨ a % 4 ≠ 0 → ends (.cmdRead iq seq addr n) 0x10 3 0) ∧
        (q.mode ≠ .halt → (∀ x ∈ q.sch.queue, x.task ≠ task.toNat) → q.sch.pref.toList.all Option.isNone = true → q.sch.tickList = [] →
          q.sch.timeList = [] → Answers (.cmdCancel iq seq task) s iq fun r => told r (if q.running? task.toNat then 3 else 0x10) 8 0 ∧
            r = { q with hp := r.hp, mem := r.mem } ∧ SameBytes q r) ∧
        (∀ x, q.sch.queue = [x] → q.mode ≠ .halt → x.task = task.toNat → x.flow = none → q.sch.pref.toList.all Option.isNone = true →
          q.sch.tickList = [] → q.sch.timeList = [] → q.flt.test = none → Answers (.cmdCancel iq seq task) s iq fun r =>
            told r 2 8 0 ∧ r.sch.queue = [] ∧ r.cores = q.cores ∧ r.tick = q.tick) ∧
        Answers (.cmdAuger iq seq) s iq fun r => alone r { (q.accepted seq 12).hp with augers := h.augers ++ [seq] }) ∧
      (∀ l, h.load = some l → l.left = 4 → l.buf = [] → l.dig = none → ∀ w, h.bulkW = [w] → l.pos % 4 = 0 → scratch l.pos 4 →
        Answers (.loadContinue iq) s iq fun r => r.hp.load = none ∧ r.hp.bulkW = [] ∧ SameBytesBut l.pos 4 q r ∧ r.regs = q.regs ∧
          r.mem.readLE l.pos 4 = w.toNat ∧ r.hp.kept = h.kept ++ [q.stamped l.status 1 0 l.seq (w32 (l.done + 4))]) ∧
      (∀ x, h.read = some x → x.left = 1 → h.bulkR.length < 1024 → x.addr % 4 = 0 → plain x.addr 4 → Answers (.readContinue iq) s iq fun r =>
        r.hp.read = none ∧ r.hp.bulkR = h.bulkR ++ [w32 (q.mem.readLE x.addr 4)] ∧ SameBytes q r ∧ r.regs = q.regs ∧
          r.hp.kept = h.kept ++ [q.stamped x.status 3 0 x.seq (w32 (x.placed + 1))]) ∧
      (q.running = false → Answers (.windowRefresh iq) s iq fun r => r.hp.gen = h.gen + 1 ∧ r.hp.augers = [] ∧
        r.hp.status.get 0 0 = h.gen + 1 ∧ r.hp.status.get 1023 0 = h.gen + 1 ∧ r.hp.status.get 2 0 = q.shown Reg.QCTL_SCOUR ∧
        (∀ m ∈ h.augers, q.stamped 0 12 0 m (h.gen + 1) ∈ r.hp.kept) ∧ r = { q with hp := r.hp, mem := r.mem } ∧ SameBytes q r) ∧
      (s.dev.host.deaf = false → Answers (.statusModeRead iq) s iq fun r => alone r { h with irqSt := h.irqSt &&& ~~~irqHalt }) ∧
      (h.away = true → Answers (.completionReplay iq) s iq fun r => r.hp.cplWp = w32 h.kept.length ∧ r.hp.cplRp = 0 ∧
        (h.kept.length ≤ 512 → ∀ k, k < h.kept.length → r.hp.cplRing.find k = h.kept[k]?) ∧
        alone r { h with away := false, cplWp := r.hp.cplWp, cplRp := 0, cplRing := r.hp.cplRing }) ∧
      AnswersAll .hostDomainReset s fun t =>
        (∀ j, let p := (s.quad j).hp
          let r := (t.quad j).hp
          r.away = true ∧ r.posted = [] ∧ r.bulkW = [] ∧ r.bulkR = [] ∧ r.cmdWp = 0 ∧ r.cmdRp = 0 ∧ r.cplWp = 0 ∧ r.cplRp = 0 ∧
            r.load = none ∧ r.read = none ∧ r.writeWait = none ∧ r.mgen = 0 ∧
            r.lastSeq = p.lastSeq ∧
            t.quad j = { s.quad j with
              hp := r, mem := (t.quad j).mem
              fab := { (s.quad j).fab with dwWait := (s.quad j).fab.dwWait.filter fun b => b.by_ != .host } } ∧ SameBytes (s.quad j) (t.quad j)) ∧
        t.dev.host.posted = [] ∧ t.dev.host.run = none ∧ t.dev.host.mladcel = false ∧ (t.dev.host.log = s.dev.host.log ∨ t.dev.host.log = (s.dev.host.place none).log) ∧
          t.dev.host.images = s.dev.host.images ∧ t.dev.host.life = s.dev.host.life ∧ t.dev.host.deliveries = s.dev.host.deliveries

/-! ### Mladcel -/

/-- R455 to R463, R465, R467, R471: Mladcel's start and watchdog, its sensors, its log, what quadrants pass to it, the stop of non-volatile
writes, the end of a command; a reset that meets a record due may leave a place of the log abandoned. A LIFECYCLE whose fuses verify, and
fuses found partly burned, end in an internal POR_N. UP in a log record is free, and the severities are the model's reading (log 92, 93). -/
def Obligations.MladcelEvents : Prop :=
  ∀ (s : State) (iq : QId) (n : Fin 9) (k : Fin 5) (t mv : BitVec 12) (ppm : BitVec 20) (absent a b : Bool) (mgt : Nat),
    let d := s.dev.host
    let q := s.quad iq
    let kept (x : HostDom) : Prop := x.images = d.images ∧ x.life = d.life ∧ x.log = d.log ∧ x.keyFuse = d.keyFuse ∧ x.keys = d.keys ∧
      ((∀ r, d.run = some r → r.activating = false) → x.boots = d.boots)
    let torn (x : HostDom) : Prop := x.log = d.log ∨ x.log = (d.place none).log
    let restarted (u : State) (l : Life) : Prop := u.dev.host.life = l ∧ u.dev.host.burn = none ∧ u.dev.host.mladcel = false ∧ u.dev.host.run = none ∧
      u.dev.host.images = d.images ∧ u.dev.host.keyFuse = d.keyFuse ∧
      ∀ j, (u.quad j).mode = .scour ∧ SameBytes (s.quad j) (u.quad j) ∧
        (u.quad j).rst = (if d.porLow || d.held || l == .void_ || (s.quad j).pinLow then .held else .released)
    let lim := (BitVec.ofNat 12 (d.fld Reg.MGT_TLIM_WARN)).toInt
    (d.mladcel = false → d.porLow = false → d.held = false → d.burn = none → AnswersHost .mladcelStart s fun x => x.mladcel = true ∧ x.starts = d.starts + 1 ∧
        x.slot = (if d.slotOk 0 (d.selected 0) then d.selected 0 else !d.selected 0) ∧ x.fallback = (!d.slotOk 0 (d.selected 0)) ∧
        (∃ r ∈ x.logDue, r.code = 1 ∧ r.boot = d.starts + 1) ∧ kept x ∧ x.regs = d.regs ∧ x.keyStore = d.keyFuse ∧
        (d.life ≠ d.marker → x.staging = [] ∧ x.ramLog = [])) ∧
      (∀ l, d.mladcel = false → d.porLow = false → d.held = false → d.burn = some l → AnswersAll .mladcelStart s fun u => restarted u l) ∧
      (AnswersAll .mladcelWatchdog s fun u => u.dev.host.mladcel = false ∧ u.dev.host.run = none ∧ torn u.dev.host ∧
        u.dev.host.images = d.images ∧ u.dev.host.life = d.life ∧ u.dev.host.keyFuse = d.keyFuse ∧
        (∀ r, d.run = some r → u.dev.host.rd Reg.MGT_CMDSTAT = w32 (0x20 + 256 * r.op) ∧ (d.boots.length = 2 → r.activating = true →
          u.dev.host.boot = d.boot ∨ u.dev.host.boot = d.bootNext r.a0.toNat (r.a1.getLsbD 0))) ∧
        ∀ j, (u.quad j).hp.away = true ∧ u.quad j = { s.quad j with hp := (u.quad j).hp, fab := (u.quad j).fab, mem := (u.quad j).mem } ∧ SameBytes (s.quad j) (u.quad j)) ∧
      (d.mladcel = true →
        (AnswersHost (.sensorSample (.temp n t)) s fun x => x.fld (Reg.MGT_TEMP_T n.val) = t.toNat ∧ kept x ∧
          ((d.hist.get (2 * n.val) (0, 0)).1 = 3 → lim < t.toInt → d.fld (Reg.MGT_TEMP_WARN n.val) = 0 →
            x.fld (Reg.MGT_TEMP_WARN n.val) = 1 ∧ x.fld (Reg.MGT_TEMP_WARNS n.val) = 1 ∧ x.fld Reg.MGT_IRQST_TEMP = 1)) ∧
        (AnswersHost (.sensorSample (.rail n mv)) s fun x => x.fld (Reg.MGT_RAIL_MV n.val) = mv.toNat ∧ kept x ∧
          (n = 0 → x.coreLow = decide (mv.toNat < 728)) ∧ (n = 7 → x.hpLow = decide (mv.toNat < 1500)) ∧
          (n = 8 → mv.toNat ≤ 3150 → x.mgtOk = false)) ∧
        (AnswersHost (.sensorSample (.osc k ppm absent)) s fun x => x.fld (Reg.MGT_CLK_PPM k.val) = (if k = 4 then 0 else ppm.toNat) ∧
          x.fld (Reg.MGT_CLK_ABSENT k.val) = b2n absent ∧ kept x) ∧
        (AnswersHost (.sensorSample (.pll k a b)) s fun x => x.fld (Reg.MGT_CLK_ROOT k.val) = b2n a ∧
          x.fld (Reg.MGT_CLK_TIME k.val) = b2n (b && k != 4) ∧ kept x ∧
          (d.fld (Reg.MGT_CLK_ROOT k.val) = 1 → a = false → x.fld (Reg.MGT_CLK_FAULTS k.val) = 1 ∧ x.fld Reg.MGT_IRQST_CLK = 1)) ∧
        (∀ r rest, d.logDue = r :: rest →
          (d.logDeg = false → d.nvStop = false → AnswersHost (.logWrite false) s fun x =>
            SameHost { d with logDue := rest, log := (if d.logCap ≤ d.log.length then d.log.drop 2048 else d.log) ++ [some r] } x) ∧
          (d.logDeg = true → d.ramLog.length < 4096 → AnswersHost (.logWrite false) s fun x =>
            SameHost { d with logDue := rest, ramLog := d.ramLog ++ [r] } x)) ∧
        AnswersAll (.quadrantEventPass iq) s fun u =>
          u.dev.host.logDue.length = d.logDue.length + q.hp.events.length + (if q.hp.eventsLost = 0 then 0 else 1) ∧
            u.quad iq = { q with hp := { q.hp with events := [], eventsLost := 0, retiring := if d.nvStop then q.hp.retiring else 0 }, mem := (u.quad iq).mem } ∧ SameBytes q (u.quad iq) ∧
            u.dev.host.images = d.images ∧ u.dev.host.log = d.log ∧
            (∀ j, j ≠ iq → u.quad j = s.quad j) ∧ (d.pers.length = 2 → d.nvStop = false → u.dev.host.retired iq = d.retired iq ||| q.hp.retiring)) ∧
      (mgt < 3050 → d.nvStop = false → AnswersHost (.supplySag mgt) s fun x =>
        torn x ∧
        SameHost { d.wr Reg.MGT_IRQST (d.rd Reg.MGT_IRQST ||| 32) with nvStop := true, mgtOk := false, log := x.log, freeCtr := x.freeCtr } x) ∧
      (3150 < mgt → d.nvStop = true → d.run = none → AnswersHost (.nvWriteResume mgt) s fun x => x.nvStop = false ∧ x.mgtOk = true ∧ x.run = none ∧ kept x ∧
        x.rd Reg.MGT_IRQST = (d.rd Reg.MGT_IRQST ||| 32) ∧ x.logDue.length = d.logDue.length + (if d.mladcel then 2 else 0)) ∧
      (∀ r, d.run = some r → r.todo = true ∨ d.nvStop = true ∧ (nvCommand r.op = true ∨ r.op = 7) ∧ r.status = 0 →
        AnswersHost .mgtCommandComplete s fun x => SameHost d x) ∧
      (∀ r l, d.run = some r → r.todo = false → r.moving = true → d.nvStop = false → d.burn = none → lifeOf r.a0.toNat = some l →
        AnswersAll .mgtCommandComplete s fun u => restarted u l) ∧
      (∀ r, d.run = some r → r.todo = false → r.moving = false → d.nvStop = false ∨ nvCommand r.op = false ∨ r.status ≠ 0 →
        AnswersHost .mgtCommandComplete s fun x => x.run = none ∧
          x.rd Reg.MGT_CMDSTAT = w32 (r.status + 256 * r.op) ∧ x.rd Reg.MGT_IRQST = (d.rd Reg.MGT_IRQST ||| 16) ∧
          (∀ v, r.arg1 = some v → x.rd (Reg.MGT_ARG 1) = v) ∧
          (r.activating = false → x = { d with run := none, regs := x.regs, staging := x.staging }) ∧
          (r.activating = true → d.boots.length = 2 → x.boot = d.bootNext r.a0.toNat (r.a1.getLsbD 0) ∧ x.logDue.length = d.logDue.length + 1 ∧
            x.images = d.images ∧ x.pers = d.pers))

/-- R458, R463, R464, R466, R468, R469, R471: the commands of Mladcel: what each changes while it runs, and that one given meanwhile is
counted and one that needs the flash waits while non-volatile writes are stopped. What runs a command while another runs, and the staging
of images, are the model's readings (log 94 to 96). -/
def Obligations.MladcelCommands : Prop :=
  ∀ (s : State) (target st : BitVec 3) (len off bytes seq confirm : W32) (auto : Bool) (k : Fin 4),
    let d := s.dev.host
    let g := target.toNat
    let arg (a b : W32) : HostDom := (d.wr (Reg.MGT_ARG 0) a).wr (Reg.MGT_ARG 1) b
    let ends (c : Instr) (op : Nat) (a b : W32) (status : Nat) (res : Option W32) (y : HostDom → HostDom) : Prop := AnswersHost c s fun x =>
      SameHost { y (arg a b) with run := some ⟨op, status, res, a, b, false⟩ } x
    let free := !d.selected g
    let bit : W32 := if auto then 1 else 0
    let l := ((if d.logDeg then d.ramLog else d.records).filter fun r => decide (seq.toNat ≤ r.seq.toNat)).take 1024
    let v := Config.recordView d.staging
    let ok := iszOk v.isz && (v.isz == d.persRec.isz || d.life == .blank || d.life == .open_)
    let bad := w32 0
    (d.run ≠ none → AnswersHost (.keyRevoke k) s fun x => x.fld Reg.HST_STAT_WREF = min (d.fld Reg.HST_STAT_WREF + 1) 0xFFFF ∧ x.run = d.run ∧
        x.revoked = d.revoked) ∧
      (d.mladcel = true → d.run = none → d.nvStop = true → AnswersHost (.stageOpen target len) s fun x =>
        SameHost { arg (target.setWidth 32) len with run := some ⟨1, 0, none, target.setWidth 32, len, true⟩ } x) ∧
      (d.mladcel = true → d.run = none →
        (AnswersHost (.logRead seq) s fun x => x.run = some ⟨5, 0, some (w32 l.length), seq, bad, false⟩ ∧
          (s.memWf → ∀ i, i < 32 * l.length → x.staging.read i = ((l.map LogRec.bytes).flatten).getD i 0) ∧ x.log = d.log ∧ x.images = d.images) ∧
        (∀ p, d.stage = some p → AnswersHost .stageVerify s fun x =>
          x.run = some ⟨3, if d.slotOk p.target p.slot then 0 else 0x10, none, bad, bad, false⟩ ∧
            x.stage = some { p with verified := d.slotOk p.target p.slot || p.verified } ∧ x.boots = d.boots ∧ x.logDue.length = d.logDue.length + 1) ∧
        (confirm ≠ 0x5EA1 → ends (.lifecycle st confirm) 7 (st.setWidth 32) confirm 0x10 none id)) ∧
      (d.mladcel = true → d.run = none → d.nvStop = false →
        (g ≤ 4 → d.stage = none → s.dev.taking g = false → len.toNat ≤ d.slotSize g → ends (.stageOpen target len) 1 (target.setWidth 32) len 0 none
          fun h => { h with stage := some ⟨g, free, false⟩, images := d.images.put (imageKey g free) ⟨[], len.toNat, false⟩ }) ∧
        (4 < g ∨ d.stage ≠ none → ends (.stageOpen target len) 1 (target.setWidth 32) len 0x10 none id) ∧
        (∀ p, d.stage = some p → bytes.toNat ≤ 32768 → off.toNat + bytes.toNat ≤ (d.image p.target p.slot).len →
          ends (.stageWrite off bytes) 2 off bytes 0 none fun h => { h with
            stage := some { p with verified := false }
            images := d.images.put (imageKey p.target p.slot)
              ⟨(d.image p.target p.slot).bytes.writeBytes off.toNat (d.staging.bytesAt 0 bytes.toNat), (d.image p.target p.slot).len, false⟩ }) ∧
        (g ≤ 4 → (d.image g free).verified = true → ends (.activate target auto) 4 (target.setWidth 32) bit 0 none id) ∧
        (g ≤ 4 → (d.bootNext g auto).seq = d.boot.seq + 1 ∧ (∀ j, j ≤ 4 → bitN (d.bootNext g auto).sel.toNat j =
            if j = g then free else d.selected j) ∧ (g ≠ 0 → (d.bootNext g auto).auto.getLsbD (g - 1) = auto) ∧
          (g = 0 → (d.bootNext g auto).auto = d.boot.auto)) ∧
        (4 < g ∨ (d.image g free).verified = false → ends (.activate target auto) 4 (target.setWidth 32) bit 0x10 none id) ∧
        (d.pers.length = 2 → AnswersHost .recordWrite s fun x => x.run = some ⟨6, if ok then 0 else 0x10, none, bad, bad, false⟩ ∧
          x.persRec.isz = (if ok then v.isz else d.persRec.isz) ∧ x.persRec.retired = d.persRec.retired ∧
          x.persRec.marker = d.persRec.marker ∧ (ok = true → x.persRec.board = some v.board) ∧ x.log = d.log) ∧
        (d.life = .blank ∨ d.life = .open_ → d.keys.getLsbD k.val = false → ends (.keyProgram k) 8 (w32 k.val) bad 0 none fun h => { h with
          keys := d.keys ||| BitVec.ofNat 4 (2 ^ k.val)
          keyFuse := d.keyFuse.put k.val (d.staging.filter fun c => decide (c.1 < 64))
          keyStore := d.keyStore.put k.val (d.staging.filter fun c => decide (c.1 < 64)) }) ∧
        (d.life ≠ .blank → d.life ≠ .open_ → ends (.keyProgram k) 8 (w32 k.val) bad 0x10 none id) ∧
        (d.life = .blank ∨ d.life = .open_ ∨ d.life = .sealed_ → d.keys.getLsbD k.val = true → ends (.keyRevoke k) 9 (w32 k.val) bad 0 none fun h =>
          { h with revoked := d.revoked ||| BitVec.ofNat 4 (2 ^ k.val) }) ∧
        (d.keys.getLsbD k.val = false → ends (.keyRevoke k) 9 (w32 k.val) bad 0x10 none id) ∧
        (∀ next, lifeOf st.toNat = some next → confirm = 0x5EA1 →
          (d.moveOk next = false ∨ d.stage ≠ none ∨ d.mgtOk = false → ends (.lifecycle st confirm) 7 (st.setWidth 32) confirm 0x10 none id) ∧
          (d.moveOk next = true → d.stage = none → d.mgtOk = true → AnswersHost (.lifecycle st confirm) s fun x =>
            x.run = some ⟨7, 0, none, st.setWidth 32, confirm, false⟩ ∧ x.life = d.life ∧ x.logDue = [] ∧ x.images = d.images ∧
              (d.logDeg = false → ∃ r, x.log.getLast? = some (some r) ∧ r.code = 0x50 ∧
                r.arg0 = w32 (d.life.code + 256 * next.code)))))

/-! ### Faults, spare cores and tests -/

/-- R473 to R475, R477 to R480, R483: the action of a class whose count reached its limit: nothing where none is due, HARDPAN from RUN with
the pair bound, unless HALT is due (R44), a skip counted otherwise, HALT; the end of a core test, in a rotation, a repair or by TEST:
passed, the position goes back or the spare is kept; failed, the core is retired and the spare is consumed, and a lockstep member that
waited for it brings HALT. The windows, and tests during a rotation, are the model's readings (log 71 to 74). -/
def Obligations.PolicyAndCoreTests : Prop :=
  (
    ∀ (s : State) (iq : QId) (cls : Fin 6),
      let q := s.quad iq
      let act := q.fld (Reg.FLT_POL_ACT cls.val)
      let done : Flt := { q.flt with due := q.flt.due.filter fun c => c != cls.val }
      let due := q.flt.due.contains cls.val
      (due = false → Answers (.faultPolicyAction iq cls) s iq fun r => r = { q with mem := r.mem } ∧ SameBytes q r) ∧
        (due = true → act = 0 ∨ act = 3 → Answers (.faultPolicyAction iq cls) s iq fun r => r = { q with flt := done, mem := r.mem } ∧ SameBytes q r) ∧
        (due = true → act = 1 → (q.mode = .run ∧ q.locked = true) → q.haltDue = true → Answers (.faultPolicyAction iq cls) s iq fun r => r = { q with flt := done, mem := r.mem } ∧ SameBytes q r) ∧
        (due = true → act = 1 → q.haltDue = false → (q.mode = .run ∧ q.locked = true) →
          (Answers (.faultPolicyAction iq cls) s iq fun r => r.mode = .hardpan) ∧
          (q.change = none → (∀ x ∈ q.sch.queue, x.bound = false) → q.sch.pref.toList.all Option.isNone = true →
            (∀ c i, (q.core c).assigned = some i → i.bound = false) → Answers (.faultPolicyAction iq cls) s iq fun r => RegsOnly [Reg.QCTL_MODE] { q with
              flt := done, mode := .hardpan, hp := { q.hp with irqSt := q.hp.irqSt ||| irqMode } } r ∧ r.fld Reg.QCTL_MODE_AUTO = 0)) ∧
        (due = true → act = 1 → ¬ (q.mode = .run ∧ q.locked = true) → Answers (.faultPolicyAction iq cls) s iq fun r =>
          RegsOnly [Reg.FLT_STAT] { q with flt := done } r ∧ r.fld Reg.FLT_STAT_POLSKIP = 1) ∧
        (due = true → act = 2 → q.mode ≠ .scour → Answers (.faultPolicyAction iq cls) s iq fun r => r.mode = .halt ∧
          (q.mode ≠ .halt → r.hp.irqSt.getLsbD 2 = true ∧ r.flt.rot = none ∧ r.flt.test = none ∧ r.change = none))) ∧
  (
    ∀ (s : State) (iq : QId) (c : Fin 17) (phase : BitVec 16) (pass : Bool),
      let q := s.quad iq
      let retired (r : Quad) : Prop := (r.core c).pos.val = 31 ∧ (r.rd Reg.FLT_RETIRED).getLsbD c.val = true ∧ r.fld Reg.FLT_SPARE_USED = 1 ∧
        r.fld Reg.FLT_SPARE_ROTREF = 1 ∧ r.fld (Reg.FLT_CNT_COUNT 1) = min 0xFFFFFFFF (q.fld (Reg.FLT_CNT_COUNT 1) + 1) ∧
        r.hp.irqSt.getLsbD 4 = true ∧ r.hp.retiring.getLsbD c.val = true ∧ r.flt.rot = none ∧ ∀ x, x ≠ c → r.core x = q.core x
      (∀ t, q.flt.test = some t → t.code = 1 → t.b.toNat = c.val → (∀ x, q.flt.rot = some x → x.phase ≠ .test) →
        (Answers (.coreTestDone iq true phase) s iq fun r => r.fld Reg.FLT_TRES_TEST = 1 ∧ r.fld Reg.FLT_TRES_STATUS = 0 ∧ r.fld Reg.FLT_TRES_DETAIL = 0 ∧
          Told q.hp r.hp (q.stamped 0 11 0 t.seq 0) ∧ RegsOnly [Reg.FLT_TRES] { q with flt := { q.flt with test := none }, hp := r.hp } r) ∧
        (Answers (.coreTestDone iq false phase) s iq fun r => r.flt.test = none ∧ r.fld Reg.FLT_TRES_TEST = 1 ∧ r.fld Reg.FLT_TRES_STATUS = 0x21 ∧
          r.fld Reg.FLT_TRES_DETAIL = phase.toNat ∧ (q.flt.rot = none → retired r) ∧
          ∃ x ∈ r.hp.kept, x.seq = t.seq ∧ x.op = 11 ∧ x.status = 0x21)) ∧
        ∀ x, q.flt.rot = some x → x.src = c.val →
          (x.phase ≠ .test → (∀ t, q.flt.test = some t → t.code ≠ 1) → Answers (.coreTestDone iq pass phase) s iq fun r => r = { q with mem := r.mem } ∧ SameBytes q r) ∧
          (x.phase = .test → x.repair = false →
            (Answers (.coreTestDone iq true phase) s iq fun r =>
              r = { q with flt := { q.flt with rot := some { x with phase := .back, since := q.tick, waited := 0, made := false } }, mem := r.mem } ∧ SameBytes q r) ∧
            (Answers (.coreTestDone iq false phase) s iq fun r => retired r ∧ ∀ m, x.cmd = some m → ∃ y ∈ r.hp.kept, y.seq = m ∧ y.op = 10 ∧ y.status = 0x21)) ∧
          (x.phase = .test → x.repair = true → (∀ y, y ≠ c → (q.core y).stopped = true → 16 ≤ (q.core y).pos.val) →
            (Answers (.coreTestDone iq true phase) s iq fun r => r.flt = { q.flt with rot := none } ∧ r.core c = { q.core c with stopped := false } ∧
              (∀ y, y ≠ c → r.core y = q.core y) ∧ r.regs = q.regs ∧ r.hp = q.hp ∧ SameBytes q r) ∧
            Answers (.coreTestDone iq false phase) s iq retired) ∧
          (x.phase = .test → x.repair = true → q.flt.pairRepair = true → q.mode ≠ .scour → (∃ y, y ≠ c ∧ (q.core y).stopped = true ∧ (q.core y).pos.val ≤ 1) →
            (∀ y, (q.core y).stopped = true → y = c ∨ (q.core y).pos.val ≤ 1) → Answers (.coreTestDone iq false phase) s iq fun r => r.mode = .halt))

/-- R477, R478, R479: ROTATE, the automatic rotation, the move of a position to the spare core and back with its memories and its registers,
the rotation given up, the repair of a core that stopped. The copy's end, and stores made to both cores up to the move, are the model's
readings (log 72, 73). -/
def Obligations.SpareCores : Prop :=
  ∀ (s : State) (iq : QId) (seq : W32) (p : BitVec 5) (c sp : Fin 17),
    let q := s.quad iq
    let alone (r : Quad) (f : Flt) : Prop := r = { q with flt := f, mem := r.mem } ∧ SameBytes q r
    let moved (made : Bool) (r : Quad) (a b : Fin 17) : Prop :=
      r.core b = { q.core a with coll := (q.core b).coll, stopped := false } ∧ r.core a = (q.core a).asSpare ∧
        (∀ x, x ≠ a → x ≠ b → r.core x = q.core x) ∧ r.sch = q.sch ∧ r.mode = q.mode ∧
        (made = true → SameBytes q r) ∧
        (made = false → s.memWf → (∀ x, x < 0x50000 → r.mem.read (winBase b + x) = q.mem.read (winBase a + x)) ∧ SameBytesBut (winBase b) 0x50000 q r)
    (q.takesCommand = true → q.seqOk seq = true → q.mode ≠ .halt →
      (q.rotOk p.toNat = true → q.coreAt p.toNat = some c → q.spareCore = some sp → Answers (.cmdRotate iq seq p) s iq fun r =>
        r = { q.accepted seq 10 with flt := { q.flt with rot := some ⟨p.toNat, c.val, sp.val, .copy, q.tick, some seq, false, 0, false⟩ }, mem := r.mem } ∧
          SameBytes q r) ∧
      (q.rotOk p.toNat = false → Answers (.cmdRotate iq seq p) s iq fun r =>
        Told (q.accepted seq 10).hp r.hp (q.stamped 0x10 10 0 seq 0) ∧ r = { q with hp := r.hp, mem := r.mem } ∧ SameBytes q r)) ∧
      (q.flag Reg.FLT_CTL_AUTO = true → q.flt.autoNext = p.toNat → p.toNat < 16 → q.rotOk p.toNat = true → q.coreAt p.toNat = some c →
        q.spareCore = some sp → Answers (.autoRotate iq) s iq fun r => alone r { q.flt with
          rot := some ⟨p.toNat, c.val, sp.val, .copy, q.tick, none, false, 0, false⟩, autoNext := (p.toNat + 1) % 16 }) ∧
      (q.flag Reg.FLT_CTL_AUTO = false ∨ (∀ n, n < 16 → q.rotOk n = false) → Answers (.autoRotate iq) s iq fun r => alone r q.flt) ∧
      (∀ x, q.flt.rot = some x → x.repair = false →
        (x.src = c.val → x.dst = sp.val → c ≠ sp → q.copied x = true →
          (x.phase = .copy → (q.core c).idle = true → Answers (.rotateMove iq) s iq fun r =>
            moved x.made r c sp ∧ r.flt = { q.flt with rot := some { x with phase := .test, since := q.tick, made := true } } ∧ r.regs = q.regs ∧ r.hp = q.hp) ∧
          (x.phase = .copy → x.made = true → (q.core c).idle = false → Answers (.rotateMove iq) s iq fun r => alone r q.flt) ∧
          (x.phase = .back → (q.core sp).idle = true → Answers (.rotateMove iq) s iq fun r => moved x.made r sp c ∧
            r.flt = { q.flt with rot := none, rotDone := q.flt.rotDone + 1 } ∧
            r.fld Reg.FLT_ROT_DONE = min 0xFFFF (q.fld Reg.FLT_ROT_DONE + 1) ∧
            (∀ m, x.cmd = some m → Told q.hp r.hp (q.stamped 0 10 0 m 0)) ∧ (x.cmd = none → r.hp = q.hp))) ∧
        (x.phase = .copy → 16 ≤ x.waited → Answers (.rotateAbandon iq) s iq fun r =>
          r = { q with flt := { q.flt with rot := none }, hp := r.hp, mem := r.mem } ∧ SameBytes q r ∧
            (∀ m, x.cmd = some m → Told q.hp r.hp (q.stamped 0x10 10 0 m 0)) ∧ (x.cmd = none → r.hp = q.hp)) ∧
        (x.phase ≠ .copy ∨ x.waited < 16 → Answers (.rotateAbandon iq) s iq fun r => alone r q.flt)) ∧
      ∀ x, q.flt.rot = some x → x.repair = true → x.phase = .copy → q.copied x = true → x.src = c.val → x.dst = sp.val → c ≠ sp →
        q.flt.pairRepair = false ∨ 2 ≤ x.pos → 4 ≤ (q.core c).pos.val → Answers (.coreRepairMove iq) s iq fun r =>
          r.core sp = { q.core c with coll := (q.core sp).coll, stopped := false, wait := .req, run := none } ∧ r.core c = (q.core c).asSpare ∧
            r.flt = { q.flt with rot := some { x with phase := .test, since := q.tick, made := true } } ∧ (x.made = true → SameBytes q r) ∧
            (x.made = false → s.memWf →
              (∀ y, y < 0x50000 → r.mem.read (winBase sp + y) = q.mem.read (winBase c + y)) ∧ SameBytesBut (winBase sp) 0x50000 q r) ∧
            (q.core c).pos.val ∈ r.sch.asks ∧ r.sch.queue = q.sch.queue ∧ r.hp = q.hp ∧ r.regs = q.regs

/-- R483, R443: TEST taken or refused, each of its codes; the end of a test with the memory that a BIST leaves zero. What a parameter that a
test does not use does is the model's reading (log 74). -/
def Obligations.Tests : Prop :=
  ∀ (s : State) (iq : QId) (seq b c : W32) (detail : BitVec 16) (pass : Bool),
    let q := s.quad iq
    let run (k : Instr) (code : Nat) : Prop := Answers k s iq fun r =>
      r = { q.accepted seq 11 with flt := { q.flt with test := some ⟨code, b, c, seq⟩ }, mem := r.mem } ∧ SameBytes q r
    let no (k : Instr) : Prop := Answers k s iq fun r =>
      Told (q.accepted seq 11).hp r.hp (q.stamped 0x10 11 0 seq 0) ∧ r = { q with hp := r.hp, mem := r.mem } ∧ SameBytes q r
    let unit (k : Instr) (code : Nat) (ok : Prop) : Prop := (q.testFree = true → ok → run k code) ∧ (q.testFree = false ∨ ¬ ok → no k)
    let service := q.mode = .service
    let grouped := ∃ g, g < 12 ∧ q.fld (Reg.ASR_GRP_EN g) = 1 ∧ (q.grpRange g).1 ≤ b.toNat ∧ b.toNat < (q.grpRange g).1 + (q.grpRange g).2
    (q.takesCommand = true → q.seqOk seq = true → q.mode ≠ .halt →
      unit (.testCore iq seq b c) 1 (q.mode ≠ .hardpan ∧ (∃ k, q.spareCore = some k ∧ k.val = b.toNat) ∧ c = 0) ∧
      unit (.testSramBist iq seq b c) 2 (service ∧ b.toNat ≤ 34 ∧ c = 0) ∧
      unit (.testDramBist iq seq b c) 3 (service ∧ 1 ≤ c.toNat ∧ 2 ^ 20 * (b.toNat + c.toNat) ≤ q.dramBytes) ∧
      (∀ p : Fin 2, b.toNat = p.val → q.link p ≠ 3 → unit (.testSerdesRecal iq seq b c) 4 (c.toNat ≤ 1)) ∧
      (∀ p : Fin 2, b.toNat = p.val → q.link p = 3 → c ≠ 1 ∨ q.wrapped = true → no (.testSerdesRecal iq seq b c)) ∧
      (∀ p : Fin 2, b.toNat = p.val → q.link p = 3 → c = 1 → q.wrapped = false → q.testFree = true →
        Answers (.testSerdesRecal iq seq b c) s iq fun r => r.link p = 1 ∧ r.flt.test = some ⟨4, b, c, seq⟩ ∧ (∀ p2, p2 ≠ p → r.link p2 = q.link p2) ∧
          r.hp = (q.accepted seq 11).hp ∧ r.cores = q.cores ∧ SameBytes q r) ∧
      (1 < b.toNat → no (.testSerdesRecal iq seq b c)) ∧
      unit (.testDecimator iq seq b c) 5 (b.toNat < 64 ∧ c = 0 ∧ q.fld (Reg.DEC_CH_EN b.toNat) = 0) ∧
      unit (.testAsrc iq seq b c) 6 (b.toNat < 128 ∧ c = 0 ∧ ¬ grouped) ∧
      unit (.testEthLoopback iq seq b c) 7 (service ∧ b.toNat ≤ 1 ∧ c = 0) ∧
      unit (.testFabric iq seq b c) 8 (service ∧ b = 0 ∧ c = 0) ∧
      (q.testFree = true → service → b.toNat < 4096 → c = 0 →
        (q.refused165 b.toNat = true → no (.testCustomer iq seq b c)) ∧
        (q.refused165 b.toNat = false → q.room168 b.toNat = true → Answers (.testCustomer iq seq b c) s iq fun r =>
          r.flt = { q.flt with test := some ⟨16, b, c, seq⟩, testInst := r.sch.queue.getLast? } ∧ r.cores = q.cores ∧ r.hp = (q.accepted seq 11).hp ∧ SameBytes q r ∧
            ∃ x, r.sch.queue = q.sch.queue ++ [x] ∧ x.task = b.toNat ∧ x.bound = false) ∧
        (q.refused165 b.toNat = false → q.room168 b.toNat = false → Answers (.testCustomer iq seq b c) s iq fun r =>
          r.flt = q.flt ∧ r.sch = q.sch ∧ Told (q.accepted seq 11).hp r.hp (q.stamped 0x11 11 0 seq 0))) ∧
      (q.testFree = false ∨ ¬ service ∨ 4096 ≤ b.toNat ∨ c ≠ 0 → no (.testCustomer iq seq b c))) ∧
      (∀ t, q.flt.test = some t →
        (t.code = 1 ∨ t.code = 16 → Answers (.testDone iq pass detail) s iq fun r => r = { q with mem := r.mem } ∧ SameBytes q r) ∧
        (4 ≤ t.code → t.code ≤ 8 → Answers (.testDone iq true detail) s iq fun r => r.fld Reg.FLT_TRES_TEST = t.code ∧ r.fld Reg.FLT_TRES_STATUS = 0 ∧
          r.fld Reg.FLT_TRES_DETAIL = 0 ∧ Told q.hp r.hp (q.stamped 0 11 0 t.seq 0) ∧
          RegsOnly [Reg.FLT_TRES] { q with flt := { q.flt with test := none }, hp := r.hp } r) ∧
        (t.code = 3 → s.memWf → Answers (.testDone iq true detail) s iq fun r => r.flt.test = none ∧ r.fld Reg.FLT_TRES_STATUS = 0 ∧
          (∀ x, 0x800000000 + 2 ^ 20 * t.b.toNat ≤ x → x < 0x800000000 + 2 ^ 20 * (t.b.toNat + t.c.toNat) → r.mem.read x = 0 ∧ r.eccAt x = .clean) ∧
          SameBytesBut (0x800000000 + 2 ^ 20 * t.b.toNat) (2 ^ 20 * t.c.toNat) q r) ∧
        (t.code = 2 → t.b.toNat < 32 → s.memWf → Answers (.testDone iq true detail) s iq fun r => r.flt.test = none ∧ r.fld Reg.FLT_TRES_STATUS = 0 ∧
          (∀ x, 0x10000000 + 0x40000 * t.b.toNat ≤ x → x < 0x10000000 + 0x40000 * (t.b.toNat + 1) → r.mem.read x = 0) ∧
          SameBytesBut (0x10000000 + 0x40000 * t.b.toNat) 0x40000 q r) ∧
        (4 ≤ t.code → t.code ≤ 8 → Answers (.testDone iq false detail) s iq fun r => r.flt.test = none ∧ r.fld Reg.FLT_TRES_TEST = t.code ∧
          r.fld Reg.FLT_TRES_STATUS = 0x21 ∧ r.fld Reg.FLT_TRES_DETAIL = detail.toNat ∧ r.cores = q.cores ∧ r.hp.irqSt.getLsbD 4 = true ∧
          r.fld (Reg.FLT_CNT_COUNT 5) = min 0xFFFFFFFF (q.fld (Reg.FLT_CNT_COUNT 5) + 1)))

/-! ### The machine as a whole -/

/-- One step of the device carries out the command at the front of the queue with the queue's rest; with none waiting it is a cycle of CCLK (the
model's choice, log 4), which changes no register, no mode and nothing in a quadrant that is in reset; memory changes by the copy of a core's
memories alone, in the cycle that ends it. -/
def Obligations.StepRunsFront : Prop :=
  ∀ (s : State) (c : Instr) (rest : List Instr),
    (s.pending = c :: rest → step s = exec c { s with pending := rest }) ∧
      (s.pending = [] → ∃ t, step s = .next t ∧ t.pending = [] ∧ t.dev.host = s.dev.host ∧ ∀ i,
        ((s.quad i).rst = .held ∨ (s.quad i).rst = .released → t.quad i = s.quad i) ∧
        ((s.quad i).rst ≠ .held → (s.quad i).rst ≠ .released →
          (t.quad i = { s.quad i with cores := (t.quad i).cores, tim := (t.quad i).tim, cclk := (s.quad i).cclk + 1, phase := (t.quad i).phase } ∨
            ∃ x b, (s.quad i).flt.rot = some x ∧ x.made = false ∧ (s.memWf → SameBytesBut (winBase b) 0x50000 (s.quad i) (t.quad i)) ∧
              t.quad i = { s.quad i with
                cores := (t.quad i).cores, tim := (t.quad i).tim, cclk := (s.quad i).cclk + 1, phase := (t.quad i).phase, mem := (t.quad i).mem
                ecc := (t.quad i).ecc, flt := { (s.quad i).flt with rot := some { x with made := true } } }) ∧
            ∀ n, (t.quad i).core n = ((s.quad i).core n).cycle (cclkPerTick (s.quad i).fi)))

/-- R18, R19, R22: a command of one quadrant, whatever it is and whatever state it meets, changes nothing outside it but the host domain
where it acts on that as well; what it makes of its quadrant depends on that quadrant alone; and no command makes another wait or stops
the device. Stalls are one cycle of the quadrant's own (log 21), and no meaning refuses. -/
def Obligations.QuadrantsAreApart : Prop :=
  ∀ (s s2 : State) (c : Instr),
    ∃ t t2, exec c s = .next t ∧ exec c s2 = .next t2 ∧ t.pending = s.pending ∧ ∀ i both, homeOf c = some (i, both) →
      (∀ j, j ≠ i → t.quad j = s.quad j) ∧ (both = false → t.dev.host = s.dev.host) ∧
      (s.quad i = s2.quad i → (both = true → s.dev.host = s2.dev.host) → t.quad i = t2.quad i)

/-- R42: HARDPAN is never left by itself: whatever command comes, a quadrant that has started and is in HARDPAN stays there, or goes to HALT,
or is reset, or the command carries out a change of mode that was pending and due: to the mode that a command asked for, or the autonomous
entry to RUN. That no command but those named changes the mode rests on the model's events (log 66, 67, 86, 98). -/
def Obligations.HardpanIsNotLeft : Prop :=
  ∀ (s t : State) (c : Instr) (i : QId), exec c s = .next t → (s.quad i).mode = .hardpan → (s.quad i).rst = .past →
    (t.quad i).mode = .hardpan ∨ (t.quad i).mode = .halt ∨ (t.quad i).mode = .scour ∨
      (c = .modeChangeEffect i ∧ ∃ x, (s.quad i).change = some x ∧ x.left = 0 ∧
        ((∃ n a, x.by_ = .command n a ∧ x.target = (t.quad i).mode) ∨
          ∃ b, x.by_ = .auto b ∧ x.target ≠ .standby ∧ x.target ≠ .hardpan ∧ (t.quad i).mode = .run))

/-- R106: every step from a state in which every memory is in its one canonical form answers a state in which every memory is. The form is
the model's own (log 111), and no rule names it. -/
def Obligations.MemoryStaysCanonical : Prop := ∀ s t : State, s.memWf → Next s t → t.memWf

/-- R10, R49, R50, R53, R61, R67: the device after POR_N: each quadrant in SCOUR with its cause recorded, position n on core n with boot
fetch in progress, registers at their reset values, memory zero and in canonical form, nothing under way, no command waiting. What memory
reads before SCOUR has zeroed it, and that return stacks and pipelines of a core are empty, are the model's choice (log 1). QCTL_RST_CAUSE
shows the cause (log 38), and POR_N just released is the state that the model starts in (log 5). -/
def Obligations.ResetState : Prop :=
  State.reset.pending = [] ∧ State.reset.memWf ∧ ∀ i,
    let q := State.reset.quad i
    q.mode = .scour ∧ q.rst = .released ∧ q.rd Reg.QCTL_RST_CAUSE = 1 ∧ (∀ a, q.mem.read a = 0) ∧
      (∀ o, o ≠ Reg.QCTL_RST_CAUSE → q.rd o = quadReset o) ∧ q.fld Reg.FLT_SPARE_USED = 0 ∧
      (∀ c : Fin 17, (q.core c).pos.val = c.val ∧ (q.core c).bootFetch = true ∧ (q.core c).pc = 0 ∧ (q.core c).set0 = {} ∧ (q.core c).set1 = {} ∧
        (q.core c).run = none) ∧
      q.sch.queue = [] ∧ q.sch.bound = [] ∧ q.kln.prepared = [] ∧ q.change = none ∧ q.running = false
end

