-- ==== Sys2Proof/Laws/State.lean ====
section
/-! SUPPORT. What each update of a quadrant leaves alone, field by field: the fields that an update does not name are those of the
quadrant before it. -/

namespace Sys2Proof.Machine.Laws

variable (q : Quad)

/-! ### `Quad.wr` changes `regs` -/

@[simp] theorem wr_mem (o : Nat) (v : W32) : (q.wr o v).mem = q.mem := rfl
@[simp] theorem wr_ecc (o : Nat) (v : W32) : (q.wr o v).ecc = q.ecc := rfl
@[simp] theorem wr_eccBack (o : Nat) (v : W32) : (q.wr o v).eccBack = q.eccBack := rfl
@[simp] theorem wr_cores (o : Nat) (v : W32) : (q.wr o v).cores = q.cores := rfl
@[simp] theorem wr_mode (o : Nat) (v : W32) : (q.wr o v).mode = q.mode := rfl
@[simp] theorem wr_change (o : Nat) (v : W32) : (q.wr o v).change = q.change := rfl
@[simp] theorem wr_sch (o : Nat) (v : W32) : (q.wr o v).sch = q.sch := rfl
@[simp] theorem wr_fab (o : Nat) (v : W32) : (q.wr o v).fab = q.fab := rfl
@[simp] theorem wr_kln (o : Nat) (v : W32) : (q.wr o v).kln = q.kln := rfl
@[simp] theorem wr_hpn (o : Nat) (v : W32) : (q.wr o v).hpn = q.hpn := rfl
@[simp] theorem wr_clk (o : Nat) (v : W32) : (q.wr o v).clk = q.clk := rfl
@[simp] theorem wr_tim (o : Nat) (v : W32) : (q.wr o v).tim = q.tim := rfl
@[simp] theorem wr_net (o : Nat) (v : W32) : (q.wr o v).net = q.net := rfl
@[simp] theorem wr_snx (o : Nat) (v : W32) : (q.wr o v).snx = q.snx := rfl
@[simp] theorem wr_prt (o : Nat) (v : W32) : (q.wr o v).prt = q.prt := rfl
@[simp] theorem wr_dec (o : Nat) (v : W32) : (q.wr o v).dec = q.dec := rfl
@[simp] theorem wr_dma (o : Nat) (v : W32) : (q.wr o v).dma = q.dma := rfl
@[simp] theorem wr_flt (o : Nat) (v : W32) : (q.wr o v).flt = q.flt := rfl
@[simp] theorem wr_hp (o : Nat) (v : W32) : (q.wr o v).hp = q.hp := rfl
@[simp] theorem wr_rst (o : Nat) (v : W32) : (q.wr o v).rst = q.rst := rfl
@[simp] theorem wr_gridDue (o : Nat) (v : W32) : (q.wr o v).gridDue = q.gridDue := rfl
@[simp] theorem wr_autoHpn (o : Nat) (v : W32) : (q.wr o v).autoHpn = q.autoHpn := rfl
@[simp] theorem wr_aged (o : Nat) (v : W32) : (q.wr o v).aged = q.aged := rfl
@[simp] theorem wr_bndFine (o : Nat) (v : W32) : (q.wr o v).bndFine = q.bndFine := rfl
@[simp] theorem wr_bndCclk (o : Nat) (v : W32) : (q.wr o v).bndCclk = q.bndCclk := rfl
@[simp] theorem wr_bndNs (o : Nat) (v : W32) : (q.wr o v).bndNs = q.bndNs := rfl
@[simp] theorem wr_bndFr (o : Nat) (v : W32) : (q.wr o v).bndFr = q.bndFr := rfl
@[simp] theorem wr_tick (o : Nat) (v : W32) : (q.wr o v).tick = q.tick := rfl
@[simp] theorem wr_running (o : Nat) (v : W32) : (q.wr o v).running = q.running := rfl
@[simp] theorem wr_gridRan (o : Nat) (v : W32) : (q.wr o v).gridRan = q.gridRan := rfl
@[simp] theorem wr_pinLow (o : Nat) (v : W32) : (q.wr o v).pinLow = q.pinLow := rfl
@[simp] theorem wr_tickHi (o : Nat) (v : W32) : (q.wr o v).tickHi = q.tickHi := rfl
@[simp] theorem wr_cclk (o : Nat) (v : W32) : (q.wr o v).cclk = q.cclk := rfl
@[simp] theorem wr_phase (o : Nat) (v : W32) : (q.wr o v).phase = q.phase := rfl
@[simp] theorem wr_freeCtr (o : Nat) (v : W32) : (q.wr o v).freeCtr = q.freeCtr := rfl

/-! ### `Quad.wrCopy` changes `regs` -/

@[simp] theorem wrCopy_mem (w : Writer) (o : Nat) (v : W32) : (q.wrCopy w o v).mem = q.mem := rfl
@[simp] theorem wrCopy_ecc (w : Writer) (o : Nat) (v : W32) : (q.wrCopy w o v).ecc = q.ecc := rfl
@[simp] theorem wrCopy_eccBack (w : Writer) (o : Nat) (v : W32) : (q.wrCopy w o v).eccBack = q.eccBack := rfl
@[simp] theorem wrCopy_cores (w : Writer) (o : Nat) (v : W32) : (q.wrCopy w o v).cores = q.cores := rfl
@[simp] theorem wrCopy_mode (w : Writer) (o : Nat) (v : W32) : (q.wrCopy w o v).mode = q.mode := rfl
@[simp] theorem wrCopy_change (w : Writer) (o : Nat) (v : W32) : (q.wrCopy w o v).change = q.change := rfl
@[simp] theorem wrCopy_sch (w : Writer) (o : Nat) (v : W32) : (q.wrCopy w o v).sch = q.sch := rfl
@[simp] theorem wrCopy_fab (w : Writer) (o : Nat) (v : W32) : (q.wrCopy w o v).fab = q.fab := rfl
@[simp] theorem wrCopy_kln (w : Writer) (o : Nat) (v : W32) : (q.wrCopy w o v).kln = q.kln := rfl
@[simp] theorem wrCopy_hpn (w : Writer) (o : Nat) (v : W32) : (q.wrCopy w o v).hpn = q.hpn := rfl
@[simp] theorem wrCopy_clk (w : Writer) (o : Nat) (v : W32) : (q.wrCopy w o v).clk = q.clk := rfl
@[simp] theorem wrCopy_tim (w : Writer) (o : Nat) (v : W32) : (q.wrCopy w o v).tim = q.tim := rfl
@[simp] theorem wrCopy_net (w : Writer) (o : Nat) (v : W32) : (q.wrCopy w o v).net = q.net := rfl
@[simp] theorem wrCopy_snx (w : Writer) (o : Nat) (v : W32) : (q.wrCopy w o v).snx = q.snx := rfl
@[simp] theorem wrCopy_prt (w : Writer) (o : Nat) (v : W32) : (q.wrCopy w o v).prt = q.prt := rfl
@[simp] theorem wrCopy_dec (w : Writer) (o : Nat) (v : W32) : (q.wrCopy w o v).dec = q.dec := rfl
@[simp] theorem wrCopy_dma (w : Writer) (o : Nat) (v : W32) : (q.wrCopy w o v).dma = q.dma := rfl
@[simp] theorem wrCopy_flt (w : Writer) (o : Nat) (v : W32) : (q.wrCopy w o v).flt = q.flt := rfl
@[simp] theorem wrCopy_hp (w : Writer) (o : Nat) (v : W32) : (q.wrCopy w o v).hp = q.hp := rfl
@[simp] theorem wrCopy_rst (w : Writer) (o : Nat) (v : W32) : (q.wrCopy w o v).rst = q.rst := rfl
@[simp] theorem wrCopy_gridDue (w : Writer) (o : Nat) (v : W32) : (q.wrCopy w o v).gridDue = q.gridDue := rfl
@[simp] theorem wrCopy_autoHpn (w : Writer) (o : Nat) (v : W32) : (q.wrCopy w o v).autoHpn = q.autoHpn := rfl
@[simp] theorem wrCopy_aged (w : Writer) (o : Nat) (v : W32) : (q.wrCopy w o v).aged = q.aged := rfl
@[simp] theorem wrCopy_bndFine (w : Writer) (o : Nat) (v : W32) : (q.wrCopy w o v).bndFine = q.bndFine := rfl
@[simp] theorem wrCopy_bndCclk (w : Writer) (o : Nat) (v : W32) : (q.wrCopy w o v).bndCclk = q.bndCclk := rfl
@[simp] theorem wrCopy_bndNs (w : Writer) (o : Nat) (v : W32) : (q.wrCopy w o v).bndNs = q.bndNs := rfl
@[simp] theorem wrCopy_bndFr (w : Writer) (o : Nat) (v : W32) : (q.wrCopy w o v).bndFr = q.bndFr := rfl
@[simp] theorem wrCopy_tick (w : Writer) (o : Nat) (v : W32) : (q.wrCopy w o v).tick = q.tick := rfl
@[simp] theorem wrCopy_running (w : Writer) (o : Nat) (v : W32) : (q.wrCopy w o v).running = q.running := rfl
@[simp] theorem wrCopy_gridRan (w : Writer) (o : Nat) (v : W32) : (q.wrCopy w o v).gridRan = q.gridRan := rfl
@[simp] theorem wrCopy_pinLow (w : Writer) (o : Nat) (v : W32) : (q.wrCopy w o v).pinLow = q.pinLow := rfl
@[simp] theorem wrCopy_tickHi (w : Writer) (o : Nat) (v : W32) : (q.wrCopy w o v).tickHi = q.tickHi := rfl
@[simp] theorem wrCopy_cclk (w : Writer) (o : Nat) (v : W32) : (q.wrCopy w o v).cclk = q.cclk := rfl
@[simp] theorem wrCopy_phase (w : Writer) (o : Nat) (v : W32) : (q.wrCopy w o v).phase = q.phase := rfl
@[simp] theorem wrCopy_freeCtr (w : Writer) (o : Nat) (v : W32) : (q.wrCopy w o v).freeCtr = q.freeCtr := rfl

/-! ### `Quad.setFld` changes `regs` -/

@[simp] theorem setFld_mem (f : Field) (v : Nat) : (q.setFld f v).mem = q.mem := rfl
@[simp] theorem setFld_ecc (f : Field) (v : Nat) : (q.setFld f v).ecc = q.ecc := rfl
@[simp] theorem setFld_eccBack (f : Field) (v : Nat) : (q.setFld f v).eccBack = q.eccBack := rfl
@[simp] theorem setFld_cores (f : Field) (v : Nat) : (q.setFld f v).cores = q.cores := rfl
@[simp] theorem setFld_mode (f : Field) (v : Nat) : (q.setFld f v).mode = q.mode := rfl
@[simp] theorem setFld_change (f : Field) (v : Nat) : (q.setFld f v).change = q.change := rfl
@[simp] theorem setFld_sch (f : Field) (v : Nat) : (q.setFld f v).sch = q.sch := rfl
@[simp] theorem setFld_fab (f : Field) (v : Nat) : (q.setFld f v).fab = q.fab := rfl
@[simp] theorem setFld_kln (f : Field) (v : Nat) : (q.setFld f v).kln = q.kln := rfl
@[simp] theorem setFld_hpn (f : Field) (v : Nat) : (q.setFld f v).hpn = q.hpn := rfl
@[simp] theorem setFld_clk (f : Field) (v : Nat) : (q.setFld f v).clk = q.clk := rfl
@[simp] theorem setFld_tim (f : Field) (v : Nat) : (q.setFld f v).tim = q.tim := rfl
@[simp] theorem setFld_net (f : Field) (v : Nat) : (q.setFld f v).net = q.net := rfl
@[simp] theorem setFld_snx (f : Field) (v : Nat) : (q.setFld f v).snx = q.snx := rfl
@[simp] theorem setFld_prt (f : Field) (v : Nat) : (q.setFld f v).prt = q.prt := rfl
@[simp] theorem setFld_dec (f : Field) (v : Nat) : (q.setFld f v).dec = q.dec := rfl
@[simp] theorem setFld_dma (f : Field) (v : Nat) : (q.setFld f v).dma = q.dma := rfl
@[simp] theorem setFld_flt (f : Field) (v : Nat) : (q.setFld f v).flt = q.flt := rfl
@[simp] theorem setFld_hp (f : Field) (v : Nat) : (q.setFld f v).hp = q.hp := rfl
@[simp] theorem setFld_rst (f : Field) (v : Nat) : (q.setFld f v).rst = q.rst := rfl
@[simp] theorem setFld_gridDue (f : Field) (v : Nat) : (q.setFld f v).gridDue = q.gridDue := rfl
@[simp] theorem setFld_autoHpn (f : Field) (v : Nat) : (q.setFld f v).autoHpn = q.autoHpn := rfl
@[simp] theorem setFld_aged (f : Field) (v : Nat) : (q.setFld f v).aged = q.aged := rfl
@[simp] theorem setFld_bndFine (f : Field) (v : Nat) : (q.setFld f v).bndFine = q.bndFine := rfl
@[simp] theorem setFld_bndCclk (f : Field) (v : Nat) : (q.setFld f v).bndCclk = q.bndCclk := rfl
@[simp] theorem setFld_bndNs (f : Field) (v : Nat) : (q.setFld f v).bndNs = q.bndNs := rfl
@[simp] theorem setFld_bndFr (f : Field) (v : Nat) : (q.setFld f v).bndFr = q.bndFr := rfl
@[simp] theorem setFld_tick (f : Field) (v : Nat) : (q.setFld f v).tick = q.tick := rfl
@[simp] theorem setFld_running (f : Field) (v : Nat) : (q.setFld f v).running = q.running := rfl
@[simp] theorem setFld_gridRan (f : Field) (v : Nat) : (q.setFld f v).gridRan = q.gridRan := rfl
@[simp] theorem setFld_pinLow (f : Field) (v : Nat) : (q.setFld f v).pinLow = q.pinLow := rfl
@[simp] theorem setFld_tickHi (f : Field) (v : Nat) : (q.setFld f v).tickHi = q.tickHi := rfl
@[simp] theorem setFld_cclk (f : Field) (v : Nat) : (q.setFld f v).cclk = q.cclk := rfl
@[simp] theorem setFld_phase (f : Field) (v : Nat) : (q.setFld f v).phase = q.phase := rfl
@[simp] theorem setFld_freeCtr (f : Field) (v : Nat) : (q.setFld f v).freeCtr = q.freeCtr := rfl

/-! ### `Quad.raise` changes `regs` -/

@[simp] theorem raise_mem (f : Field) : (q.raise f).mem = q.mem := rfl
@[simp] theorem raise_ecc (f : Field) : (q.raise f).ecc = q.ecc := rfl
@[simp] theorem raise_eccBack (f : Field) : (q.raise f).eccBack = q.eccBack := rfl
@[simp] theorem raise_cores (f : Field) : (q.raise f).cores = q.cores := rfl
@[simp] theorem raise_mode (f : Field) : (q.raise f).mode = q.mode := rfl
@[simp] theorem raise_change (f : Field) : (q.raise f).change = q.change := rfl
@[simp] theorem raise_sch (f : Field) : (q.raise f).sch = q.sch := rfl
@[simp] theorem raise_fab (f : Field) : (q.raise f).fab = q.fab := rfl
@[simp] theorem raise_kln (f : Field) : (q.raise f).kln = q.kln := rfl
@[simp] theorem raise_hpn (f : Field) : (q.raise f).hpn = q.hpn := rfl
@[simp] theorem raise_clk (f : Field) : (q.raise f).clk = q.clk := rfl
@[simp] theorem raise_tim (f : Field) : (q.raise f).tim = q.tim := rfl
@[simp] theorem raise_net (f : Field) : (q.raise f).net = q.net := rfl
@[simp] theorem raise_snx (f : Field) : (q.raise f).snx = q.snx := rfl
@[simp] theorem raise_prt (f : Field) : (q.raise f).prt = q.prt := rfl
@[simp] theorem raise_dec (f : Field) : (q.raise f).dec = q.dec := rfl
@[simp] theorem raise_dma (f : Field) : (q.raise f).dma = q.dma := rfl
@[simp] theorem raise_flt (f : Field) : (q.raise f).flt = q.flt := rfl
@[simp] theorem raise_hp (f : Field) : (q.raise f).hp = q.hp := rfl
@[simp] theorem raise_rst (f : Field) : (q.raise f).rst = q.rst := rfl
@[simp] theorem raise_gridDue (f : Field) : (q.raise f).gridDue = q.gridDue := rfl
@[simp] theorem raise_autoHpn (f : Field) : (q.raise f).autoHpn = q.autoHpn := rfl
@[simp] theorem raise_aged (f : Field) : (q.raise f).aged = q.aged := rfl
@[simp] theorem raise_bndFine (f : Field) : (q.raise f).bndFine = q.bndFine := rfl
@[simp] theorem raise_bndCclk (f : Field) : (q.raise f).bndCclk = q.bndCclk := rfl
@[simp] theorem raise_bndNs (f : Field) : (q.raise f).bndNs = q.bndNs := rfl
@[simp] theorem raise_bndFr (f : Field) : (q.raise f).bndFr = q.bndFr := rfl
@[simp] theorem raise_tick (f : Field) : (q.raise f).tick = q.tick := rfl
@[simp] theorem raise_running (f : Field) : (q.raise f).running = q.running := rfl
@[simp] theorem raise_gridRan (f : Field) : (q.raise f).gridRan = q.gridRan := rfl
@[simp] theorem raise_pinLow (f : Field) : (q.raise f).pinLow = q.pinLow := rfl
@[simp] theorem raise_tickHi (f : Field) : (q.raise f).tickHi = q.tickHi := rfl
@[simp] theorem raise_cclk (f : Field) : (q.raise f).cclk = q.cclk := rfl
@[simp] theorem raise_phase (f : Field) : (q.raise f).phase = q.phase := rfl
@[simp] theorem raise_freeCtr (f : Field) : (q.raise f).freeCtr = q.freeCtr := rfl

/-! ### `Quad.count` changes `regs` -/

@[simp] theorem count_mem (f : Field) (n : Nat) : (q.count f n).mem = q.mem := rfl
@[simp] theorem count_ecc (f : Field) (n : Nat) : (q.count f n).ecc = q.ecc := rfl
@[simp] theorem count_eccBack (f : Field) (n : Nat) : (q.count f n).eccBack = q.eccBack := rfl
@[simp] theorem count_cores (f : Field) (n : Nat) : (q.count f n).cores = q.cores := rfl
@[simp] theorem count_mode (f : Field) (n : Nat) : (q.count f n).mode = q.mode := rfl
@[simp] theorem count_change (f : Field) (n : Nat) : (q.count f n).change = q.change := rfl
@[simp] theorem count_sch (f : Field) (n : Nat) : (q.count f n).sch = q.sch := rfl
@[simp] theorem count_fab (f : Field) (n : Nat) : (q.count f n).fab = q.fab := rfl
@[simp] theorem count_kln (f : Field) (n : Nat) : (q.count f n).kln = q.kln := rfl
@[simp] theorem count_hpn (f : Field) (n : Nat) : (q.count f n).hpn = q.hpn := rfl
@[simp] theorem count_clk (f : Field) (n : Nat) : (q.count f n).clk = q.clk := rfl
@[simp] theorem count_tim (f : Field) (n : Nat) : (q.count f n).tim = q.tim := rfl
@[simp] theorem count_net (f : Field) (n : Nat) : (q.count f n).net = q.net := rfl
@[simp] theorem count_snx (f : Field) (n : Nat) : (q.count f n).snx = q.snx := rfl
@[simp] theorem count_prt (f : Field) (n : Nat) : (q.count f n).prt = q.prt := rfl
@[simp] theorem count_dec (f : Field) (n : Nat) : (q.count f n).dec = q.dec := rfl
@[simp] theorem count_dma (f : Field) (n : Nat) : (q.count f n).dma = q.dma := rfl
@[simp] theorem count_flt (f : Field) (n : Nat) : (q.count f n).flt = q.flt := rfl
@[simp] theorem count_hp (f : Field) (n : Nat) : (q.count f n).hp = q.hp := rfl
@[simp] theorem count_rst (f : Field) (n : Nat) : (q.count f n).rst = q.rst := rfl
@[simp] theorem count_gridDue (f : Field) (n : Nat) : (q.count f n).gridDue = q.gridDue := rfl
@[simp] theorem count_autoHpn (f : Field) (n : Nat) : (q.count f n).autoHpn = q.autoHpn := rfl
@[simp] theorem count_aged (f : Field) (n : Nat) : (q.count f n).aged = q.aged := rfl
@[simp] theorem count_bndFine (f : Field) (n : Nat) : (q.count f n).bndFine = q.bndFine := rfl
@[simp] theorem count_bndCclk (f : Field) (n : Nat) : (q.count f n).bndCclk = q.bndCclk := rfl
@[simp] theorem count_bndNs (f : Field) (n : Nat) : (q.count f n).bndNs = q.bndNs := rfl
@[simp] theorem count_bndFr (f : Field) (n : Nat) : (q.count f n).bndFr = q.bndFr := rfl
@[simp] theorem count_tick (f : Field) (n : Nat) : (q.count f n).tick = q.tick := rfl
@[simp] theorem count_running (f : Field) (n : Nat) : (q.count f n).running = q.running := rfl
@[simp] theorem count_gridRan (f : Field) (n : Nat) : (q.count f n).gridRan = q.gridRan := rfl
@[simp] theorem count_pinLow (f : Field) (n : Nat) : (q.count f n).pinLow = q.pinLow := rfl
@[simp] theorem count_tickHi (f : Field) (n : Nat) : (q.count f n).tickHi = q.tickHi := rfl
@[simp] theorem count_cclk (f : Field) (n : Nat) : (q.count f n).cclk = q.cclk := rfl
@[simp] theorem count_phase (f : Field) (n : Nat) : (q.count f n).phase = q.phase := rfl
@[simp] theorem count_freeCtr (f : Field) (n : Nat) : (q.count f n).freeCtr = q.freeCtr := rfl

/-! ### `Quad.setCore` changes `cores` -/

@[simp] theorem setCore_regs (c : Fin 17) (k : Core) : (q.setCore c k).regs = q.regs := rfl
@[simp] theorem setCore_mem (c : Fin 17) (k : Core) : (q.setCore c k).mem = q.mem := rfl
@[simp] theorem setCore_ecc (c : Fin 17) (k : Core) : (q.setCore c k).ecc = q.ecc := rfl
@[simp] theorem setCore_eccBack (c : Fin 17) (k : Core) : (q.setCore c k).eccBack = q.eccBack := rfl
@[simp] theorem setCore_mode (c : Fin 17) (k : Core) : (q.setCore c k).mode = q.mode := rfl
@[simp] theorem setCore_change (c : Fin 17) (k : Core) : (q.setCore c k).change = q.change := rfl
@[simp] theorem setCore_sch (c : Fin 17) (k : Core) : (q.setCore c k).sch = q.sch := rfl
@[simp] theorem setCore_fab (c : Fin 17) (k : Core) : (q.setCore c k).fab = q.fab := rfl
@[simp] theorem setCore_kln (c : Fin 17) (k : Core) : (q.setCore c k).kln = q.kln := rfl
@[simp] theorem setCore_hpn (c : Fin 17) (k : Core) : (q.setCore c k).hpn = q.hpn := rfl
@[simp] theorem setCore_clk (c : Fin 17) (k : Core) : (q.setCore c k).clk = q.clk := rfl
@[simp] theorem setCore_tim (c : Fin 17) (k : Core) : (q.setCore c k).tim = q.tim := rfl
@[simp] theorem setCore_net (c : Fin 17) (k : Core) : (q.setCore c k).net = q.net := rfl
@[simp] theorem setCore_snx (c : Fin 17) (k : Core) : (q.setCore c k).snx = q.snx := rfl
@[simp] theorem setCore_prt (c : Fin 17) (k : Core) : (q.setCore c k).prt = q.prt := rfl
@[simp] theorem setCore_dec (c : Fin 17) (k : Core) : (q.setCore c k).dec = q.dec := rfl
@[simp] theorem setCore_dma (c : Fin 17) (k : Core) : (q.setCore c k).dma = q.dma := rfl
@[simp] theorem setCore_flt (c : Fin 17) (k : Core) : (q.setCore c k).flt = q.flt := rfl
@[simp] theorem setCore_hp (c : Fin 17) (k : Core) : (q.setCore c k).hp = q.hp := rfl
@[simp] theorem setCore_rst (c : Fin 17) (k : Core) : (q.setCore c k).rst = q.rst := rfl
@[simp] theorem setCore_gridDue (c : Fin 17) (k : Core) : (q.setCore c k).gridDue = q.gridDue := rfl
@[simp] theorem setCore_autoHpn (c : Fin 17) (k : Core) : (q.setCore c k).autoHpn = q.autoHpn := rfl
@[simp] theorem setCore_aged (c : Fin 17) (k : Core) : (q.setCore c k).aged = q.aged := rfl
@[simp] theorem setCore_bndFine (c : Fin 17) (k : Core) : (q.setCore c k).bndFine = q.bndFine := rfl
@[simp] theorem setCore_bndCclk (c : Fin 17) (k : Core) : (q.setCore c k).bndCclk = q.bndCclk := rfl
@[simp] theorem setCore_bndNs (c : Fin 17) (k : Core) : (q.setCore c k).bndNs = q.bndNs := rfl
@[simp] theorem setCore_bndFr (c : Fin 17) (k : Core) : (q.setCore c k).bndFr = q.bndFr := rfl
@[simp] theorem setCore_tick (c : Fin 17) (k : Core) : (q.setCore c k).tick = q.tick := rfl
@[simp] theorem setCore_running (c : Fin 17) (k : Core) : (q.setCore c k).running = q.running := rfl
@[simp] theorem setCore_gridRan (c : Fin 17) (k : Core) : (q.setCore c k).gridRan = q.gridRan := rfl
@[simp] theorem setCore_pinLow (c : Fin 17) (k : Core) : (q.setCore c k).pinLow = q.pinLow := rfl
@[simp] theorem setCore_tickHi (c : Fin 17) (k : Core) : (q.setCore c k).tickHi = q.tickHi := rfl
@[simp] theorem setCore_cclk (c : Fin 17) (k : Core) : (q.setCore c k).cclk = q.cclk := rfl
@[simp] theorem setCore_phase (c : Fin 17) (k : Core) : (q.setCore c k).phase = q.phase := rfl
@[simp] theorem setCore_freeCtr (c : Fin 17) (k : Core) : (q.setCore c k).freeCtr = q.freeCtr := rfl

/-! ### `Quad.mapCores` changes `cores` -/

@[simp] theorem mapCores_regs (f : Fin 17 → Core → Core) : (q.mapCores f).regs = q.regs := rfl
@[simp] theorem mapCores_mem (f : Fin 17 → Core → Core) : (q.mapCores f).mem = q.mem := rfl
@[simp] theorem mapCores_ecc (f : Fin 17 → Core → Core) : (q.mapCores f).ecc = q.ecc := rfl
@[simp] theorem mapCores_eccBack (f : Fin 17 → Core → Core) : (q.mapCores f).eccBack = q.eccBack := rfl
@[simp] theorem mapCores_mode (f : Fin 17 → Core → Core) : (q.mapCores f).mode = q.mode := rfl
@[simp] theorem mapCores_change (f : Fin 17 → Core → Core) : (q.mapCores f).change = q.change := rfl
@[simp] theorem mapCores_sch (f : Fin 17 → Core → Core) : (q.mapCores f).sch = q.sch := rfl
@[simp] theorem mapCores_fab (f : Fin 17 → Core → Core) : (q.mapCores f).fab = q.fab := rfl
@[simp] theorem mapCores_kln (f : Fin 17 → Core → Core) : (q.mapCores f).kln = q.kln := rfl
@[simp] theorem mapCores_hpn (f : Fin 17 → Core → Core) : (q.mapCores f).hpn = q.hpn := rfl
@[simp] theorem mapCores_clk (f : Fin 17 → Core → Core) : (q.mapCores f).clk = q.clk := rfl
@[simp] theorem mapCores_tim (f : Fin 17 → Core → Core) : (q.mapCores f).tim = q.tim := rfl
@[simp] theorem mapCores_net (f : Fin 17 → Core → Core) : (q.mapCores f).net = q.net := rfl
@[simp] theorem mapCores_snx (f : Fin 17 → Core → Core) : (q.mapCores f).snx = q.snx := rfl
@[simp] theorem mapCores_prt (f : Fin 17 → Core → Core) : (q.mapCores f).prt = q.prt := rfl
@[simp] theorem mapCores_dec (f : Fin 17 → Core → Core) : (q.mapCores f).dec = q.dec := rfl
@[simp] theorem mapCores_dma (f : Fin 17 → Core → Core) : (q.mapCores f).dma = q.dma := rfl
@[simp] theorem mapCores_flt (f : Fin 17 → Core → Core) : (q.mapCores f).flt = q.flt := rfl
@[simp] theorem mapCores_hp (f : Fin 17 → Core → Core) : (q.mapCores f).hp = q.hp := rfl
@[simp] theorem mapCores_rst (f : Fin 17 → Core → Core) : (q.mapCores f).rst = q.rst := rfl
@[simp] theorem mapCores_gridDue (f : Fin 17 → Core → Core) : (q.mapCores f).gridDue = q.gridDue := rfl
@[simp] theorem mapCores_autoHpn (f : Fin 17 → Core → Core) : (q.mapCores f).autoHpn = q.autoHpn := rfl
@[simp] theorem mapCores_aged (f : Fin 17 → Core → Core) : (q.mapCores f).aged = q.aged := rfl
@[simp] theorem mapCores_bndFine (f : Fin 17 → Core → Core) : (q.mapCores f).bndFine = q.bndFine := rfl
@[simp] theorem mapCores_bndCclk (f : Fin 17 → Core → Core) : (q.mapCores f).bndCclk = q.bndCclk := rfl
@[simp] theorem mapCores_bndNs (f : Fin 17 → Core → Core) : (q.mapCores f).bndNs = q.bndNs := rfl
@[simp] theorem mapCores_bndFr (f : Fin 17 → Core → Core) : (q.mapCores f).bndFr = q.bndFr := rfl
@[simp] theorem mapCores_tick (f : Fin 17 → Core → Core) : (q.mapCores f).tick = q.tick := rfl
@[simp] theorem mapCores_running (f : Fin 17 → Core → Core) : (q.mapCores f).running = q.running := rfl
@[simp] theorem mapCores_gridRan (f : Fin 17 → Core → Core) : (q.mapCores f).gridRan = q.gridRan := rfl
@[simp] theorem mapCores_pinLow (f : Fin 17 → Core → Core) : (q.mapCores f).pinLow = q.pinLow := rfl
@[simp] theorem mapCores_tickHi (f : Fin 17 → Core → Core) : (q.mapCores f).tickHi = q.tickHi := rfl
@[simp] theorem mapCores_cclk (f : Fin 17 → Core → Core) : (q.mapCores f).cclk = q.cclk := rfl
@[simp] theorem mapCores_phase (f : Fin 17 → Core → Core) : (q.mapCores f).phase = q.phase := rfl
@[simp] theorem mapCores_freeCtr (f : Fin 17 → Core → Core) : (q.mapCores f).freeCtr = q.freeCtr := rfl

/-! ### `Quad.store` changes `mem`, `ecc` -/

@[simp] theorem store_regs (a : Nat) (b : List Byte) : (q.store a b).regs = q.regs := rfl
@[simp] theorem store_eccBack (a : Nat) (b : List Byte) : (q.store a b).eccBack = q.eccBack := rfl
@[simp] theorem store_cores (a : Nat) (b : List Byte) : (q.store a b).cores = q.cores := rfl
@[simp] theorem store_mode (a : Nat) (b : List Byte) : (q.store a b).mode = q.mode := rfl
@[simp] theorem store_change (a : Nat) (b : List Byte) : (q.store a b).change = q.change := rfl
@[simp] theorem store_sch (a : Nat) (b : List Byte) : (q.store a b).sch = q.sch := rfl
@[simp] theorem store_fab (a : Nat) (b : List Byte) : (q.store a b).fab = q.fab := rfl
@[simp] theorem store_kln (a : Nat) (b : List Byte) : (q.store a b).kln = q.kln := rfl
@[simp] theorem store_hpn (a : Nat) (b : List Byte) : (q.store a b).hpn = q.hpn := rfl
@[simp] theorem store_clk (a : Nat) (b : List Byte) : (q.store a b).clk = q.clk := rfl
@[simp] theorem store_tim (a : Nat) (b : List Byte) : (q.store a b).tim = q.tim := rfl
@[simp] theorem store_net (a : Nat) (b : List Byte) : (q.store a b).net = q.net := rfl
@[simp] theorem store_snx (a : Nat) (b : List Byte) : (q.store a b).snx = q.snx := rfl
@[simp] theorem store_prt (a : Nat) (b : List Byte) : (q.store a b).prt = q.prt := rfl
@[simp] theorem store_dec (a : Nat) (b : List Byte) : (q.store a b).dec = q.dec := rfl
@[simp] theorem store_dma (a : Nat) (b : List Byte) : (q.store a b).dma = q.dma := rfl
@[simp] theorem store_flt (a : Nat) (b : List Byte) : (q.store a b).flt = q.flt := rfl
@[simp] theorem store_hp (a : Nat) (b : List Byte) : (q.store a b).hp = q.hp := rfl
@[simp] theorem store_rst (a : Nat) (b : List Byte) : (q.store a b).rst = q.rst := rfl
@[simp] theorem store_gridDue (a : Nat) (b : List Byte) : (q.store a b).gridDue = q.gridDue := rfl
@[simp] theorem store_autoHpn (a : Nat) (b : List Byte) : (q.store a b).autoHpn = q.autoHpn := rfl
@[simp] theorem store_aged (a : Nat) (b : List Byte) : (q.store a b).aged = q.aged := rfl
@[simp] theorem store_bndFine (a : Nat) (b : List Byte) : (q.store a b).bndFine = q.bndFine := rfl
@[simp] theorem store_bndCclk (a : Nat) (b : List Byte) : (q.store a b).bndCclk = q.bndCclk := rfl
@[simp] theorem store_bndNs (a : Nat) (b : List Byte) : (q.store a b).bndNs = q.bndNs := rfl
@[simp] theorem store_bndFr (a : Nat) (b : List Byte) : (q.store a b).bndFr = q.bndFr := rfl
@[simp] theorem store_tick (a : Nat) (b : List Byte) : (q.store a b).tick = q.tick := rfl
@[simp] theorem store_running (a : Nat) (b : List Byte) : (q.store a b).running = q.running := rfl
@[simp] theorem store_gridRan (a : Nat) (b : List Byte) : (q.store a b).gridRan = q.gridRan := rfl
@[simp] theorem store_pinLow (a : Nat) (b : List Byte) : (q.store a b).pinLow = q.pinLow := rfl
@[simp] theorem store_tickHi (a : Nat) (b : List Byte) : (q.store a b).tickHi = q.tickHi := rfl
@[simp] theorem store_cclk (a : Nat) (b : List Byte) : (q.store a b).cclk = q.cclk := rfl
@[simp] theorem store_phase (a : Nat) (b : List Byte) : (q.store a b).phase = q.phase := rfl
@[simp] theorem store_freeCtr (a : Nat) (b : List Byte) : (q.store a b).freeCtr = q.freeCtr := rfl

/-! ### `Quad.partStore` changes `mem`, `ecc` -/

@[simp] theorem partStore_regs (a : Nat) (b : List Byte) : (q.partStore a b).regs = q.regs := rfl
@[simp] theorem partStore_eccBack (a : Nat) (b : List Byte) : (q.partStore a b).eccBack = q.eccBack := rfl
@[simp] theorem partStore_cores (a : Nat) (b : List Byte) : (q.partStore a b).cores = q.cores := rfl
@[simp] theorem partStore_mode (a : Nat) (b : List Byte) : (q.partStore a b).mode = q.mode := rfl
@[simp] theorem partStore_change (a : Nat) (b : List Byte) : (q.partStore a b).change = q.change := rfl
@[simp] theorem partStore_sch (a : Nat) (b : List Byte) : (q.partStore a b).sch = q.sch := rfl
@[simp] theorem partStore_fab (a : Nat) (b : List Byte) : (q.partStore a b).fab = q.fab := rfl
@[simp] theorem partStore_kln (a : Nat) (b : List Byte) : (q.partStore a b).kln = q.kln := rfl
@[simp] theorem partStore_hpn (a : Nat) (b : List Byte) : (q.partStore a b).hpn = q.hpn := rfl
@[simp] theorem partStore_clk (a : Nat) (b : List Byte) : (q.partStore a b).clk = q.clk := rfl
@[simp] theorem partStore_tim (a : Nat) (b : List Byte) : (q.partStore a b).tim = q.tim := rfl
@[simp] theorem partStore_net (a : Nat) (b : List Byte) : (q.partStore a b).net = q.net := rfl
@[simp] theorem partStore_snx (a : Nat) (b : List Byte) : (q.partStore a b).snx = q.snx := rfl
@[simp] theorem partStore_prt (a : Nat) (b : List Byte) : (q.partStore a b).prt = q.prt := rfl
@[simp] theorem partStore_dec (a : Nat) (b : List Byte) : (q.partStore a b).dec = q.dec := rfl
@[simp] theorem partStore_dma (a : Nat) (b : List Byte) : (q.partStore a b).dma = q.dma := rfl
@[simp] theorem partStore_flt (a : Nat) (b : List Byte) : (q.partStore a b).flt = q.flt := rfl
@[simp] theorem partStore_hp (a : Nat) (b : List Byte) : (q.partStore a b).hp = q.hp := rfl
@[simp] theorem partStore_rst (a : Nat) (b : List Byte) : (q.partStore a b).rst = q.rst := rfl
@[simp] theorem partStore_gridDue (a : Nat) (b : List Byte) : (q.partStore a b).gridDue = q.gridDue := rfl
@[simp] theorem partStore_autoHpn (a : Nat) (b : List Byte) : (q.partStore a b).autoHpn = q.autoHpn := rfl
@[simp] theorem partStore_aged (a : Nat) (b : List Byte) : (q.partStore a b).aged = q.aged := rfl
@[simp] theorem partStore_bndFine (a : Nat) (b : List Byte) : (q.partStore a b).bndFine = q.bndFine := rfl
@[simp] theorem partStore_bndCclk (a : Nat) (b : List Byte) : (q.partStore a b).bndCclk = q.bndCclk := rfl
@[simp] theorem partStore_bndNs (a : Nat) (b : List Byte) : (q.partStore a b).bndNs = q.bndNs := rfl
@[simp] theorem partStore_bndFr (a : Nat) (b : List Byte) : (q.partStore a b).bndFr = q.bndFr := rfl
@[simp] theorem partStore_tick (a : Nat) (b : List Byte) : (q.partStore a b).tick = q.tick := rfl
@[simp] theorem partStore_running (a : Nat) (b : List Byte) : (q.partStore a b).running = q.running := rfl
@[simp] theorem partStore_gridRan (a : Nat) (b : List Byte) : (q.partStore a b).gridRan = q.gridRan := rfl
@[simp] theorem partStore_pinLow (a : Nat) (b : List Byte) : (q.partStore a b).pinLow = q.pinLow := rfl
@[simp] theorem partStore_tickHi (a : Nat) (b : List Byte) : (q.partStore a b).tickHi = q.tickHi := rfl
@[simp] theorem partStore_cclk (a : Nat) (b : List Byte) : (q.partStore a b).cclk = q.cclk := rfl
@[simp] theorem partStore_phase (a : Nat) (b : List Byte) : (q.partStore a b).phase = q.phase := rfl
@[simp] theorem partStore_freeCtr (a : Nat) (b : List Byte) : (q.partStore a b).freeCtr = q.freeCtr := rfl

/-! ### `Quad.granted` changes `aged` -/

@[simp] theorem granted_regs (m : Nat) : (q.granted m).regs = q.regs := rfl
@[simp] theorem granted_mem (m : Nat) : (q.granted m).mem = q.mem := rfl
@[simp] theorem granted_ecc (m : Nat) : (q.granted m).ecc = q.ecc := rfl
@[simp] theorem granted_eccBack (m : Nat) : (q.granted m).eccBack = q.eccBack := rfl
@[simp] theorem granted_cores (m : Nat) : (q.granted m).cores = q.cores := rfl
@[simp] theorem granted_mode (m : Nat) : (q.granted m).mode = q.mode := rfl
@[simp] theorem granted_change (m : Nat) : (q.granted m).change = q.change := rfl
@[simp] theorem granted_sch (m : Nat) : (q.granted m).sch = q.sch := rfl
@[simp] theorem granted_fab (m : Nat) : (q.granted m).fab = q.fab := rfl
@[simp] theorem granted_kln (m : Nat) : (q.granted m).kln = q.kln := rfl
@[simp] theorem granted_hpn (m : Nat) : (q.granted m).hpn = q.hpn := rfl
@[simp] theorem granted_clk (m : Nat) : (q.granted m).clk = q.clk := rfl
@[simp] theorem granted_tim (m : Nat) : (q.granted m).tim = q.tim := rfl
@[simp] theorem granted_net (m : Nat) : (q.granted m).net = q.net := rfl
@[simp] theorem granted_snx (m : Nat) : (q.granted m).snx = q.snx := rfl
@[simp] theorem granted_prt (m : Nat) : (q.granted m).prt = q.prt := rfl
@[simp] theorem granted_dec (m : Nat) : (q.granted m).dec = q.dec := rfl
@[simp] theorem granted_dma (m : Nat) : (q.granted m).dma = q.dma := rfl
@[simp] theorem granted_flt (m : Nat) : (q.granted m).flt = q.flt := rfl
@[simp] theorem granted_hp (m : Nat) : (q.granted m).hp = q.hp := rfl
@[simp] theorem granted_rst (m : Nat) : (q.granted m).rst = q.rst := rfl
@[simp] theorem granted_gridDue (m : Nat) : (q.granted m).gridDue = q.gridDue := rfl
@[simp] theorem granted_autoHpn (m : Nat) : (q.granted m).autoHpn = q.autoHpn := rfl
@[simp] theorem granted_bndFine (m : Nat) : (q.granted m).bndFine = q.bndFine := rfl
@[simp] theorem granted_bndCclk (m : Nat) : (q.granted m).bndCclk = q.bndCclk := rfl
@[simp] theorem granted_bndNs (m : Nat) : (q.granted m).bndNs = q.bndNs := rfl
@[simp] theorem granted_bndFr (m : Nat) : (q.granted m).bndFr = q.bndFr := rfl
@[simp] theorem granted_tick (m : Nat) : (q.granted m).tick = q.tick := rfl
@[simp] theorem granted_running (m : Nat) : (q.granted m).running = q.running := rfl
@[simp] theorem granted_gridRan (m : Nat) : (q.granted m).gridRan = q.gridRan := rfl
@[simp] theorem granted_pinLow (m : Nat) : (q.granted m).pinLow = q.pinLow := rfl
@[simp] theorem granted_tickHi (m : Nat) : (q.granted m).tickHi = q.tickHi := rfl
@[simp] theorem granted_cclk (m : Nat) : (q.granted m).cclk = q.cclk := rfl
@[simp] theorem granted_phase (m : Nat) : (q.granted m).phase = q.phase := rfl
@[simp] theorem granted_freeCtr (m : Nat) : (q.granted m).freeCtr = q.freeCtr := rfl

/-! ### `Quad.irq` changes `hp` -/

@[simp] theorem irq_regs (c : BitVec 5) : (q.irq c).regs = q.regs := rfl
@[simp] theorem irq_mem (c : BitVec 5) : (q.irq c).mem = q.mem := rfl
@[simp] theorem irq_ecc (c : BitVec 5) : (q.irq c).ecc = q.ecc := rfl
@[simp] theorem irq_eccBack (c : BitVec 5) : (q.irq c).eccBack = q.eccBack := rfl
@[simp] theorem irq_cores (c : BitVec 5) : (q.irq c).cores = q.cores := rfl
@[simp] theorem irq_mode (c : BitVec 5) : (q.irq c).mode = q.mode := rfl
@[simp] theorem irq_change (c : BitVec 5) : (q.irq c).change = q.change := rfl
@[simp] theorem irq_sch (c : BitVec 5) : (q.irq c).sch = q.sch := rfl
@[simp] theorem irq_fab (c : BitVec 5) : (q.irq c).fab = q.fab := rfl
@[simp] theorem irq_kln (c : BitVec 5) : (q.irq c).kln = q.kln := rfl
@[simp] theorem irq_hpn (c : BitVec 5) : (q.irq c).hpn = q.hpn := rfl
@[simp] theorem irq_clk (c : BitVec 5) : (q.irq c).clk = q.clk := rfl
@[simp] theorem irq_tim (c : BitVec 5) : (q.irq c).tim = q.tim := rfl
@[simp] theorem irq_net (c : BitVec 5) : (q.irq c).net = q.net := rfl
@[simp] theorem irq_snx (c : BitVec 5) : (q.irq c).snx = q.snx := rfl
@[simp] theorem irq_prt (c : BitVec 5) : (q.irq c).prt = q.prt := rfl
@[simp] theorem irq_dec (c : BitVec 5) : (q.irq c).dec = q.dec := rfl
@[simp] theorem irq_dma (c : BitVec 5) : (q.irq c).dma = q.dma := rfl
@[simp] theorem irq_flt (c : BitVec 5) : (q.irq c).flt = q.flt := rfl
@[simp] theorem irq_rst (c : BitVec 5) : (q.irq c).rst = q.rst := rfl
@[simp] theorem irq_gridDue (c : BitVec 5) : (q.irq c).gridDue = q.gridDue := rfl
@[simp] theorem irq_autoHpn (c : BitVec 5) : (q.irq c).autoHpn = q.autoHpn := rfl
@[simp] theorem irq_aged (c : BitVec 5) : (q.irq c).aged = q.aged := rfl
@[simp] theorem irq_bndFine (c : BitVec 5) : (q.irq c).bndFine = q.bndFine := rfl
@[simp] theorem irq_bndCclk (c : BitVec 5) : (q.irq c).bndCclk = q.bndCclk := rfl
@[simp] theorem irq_bndNs (c : BitVec 5) : (q.irq c).bndNs = q.bndNs := rfl
@[simp] theorem irq_bndFr (c : BitVec 5) : (q.irq c).bndFr = q.bndFr := rfl
@[simp] theorem irq_tick (c : BitVec 5) : (q.irq c).tick = q.tick := rfl
@[simp] theorem irq_running (c : BitVec 5) : (q.irq c).running = q.running := rfl
@[simp] theorem irq_gridRan (c : BitVec 5) : (q.irq c).gridRan = q.gridRan := rfl
@[simp] theorem irq_pinLow (c : BitVec 5) : (q.irq c).pinLow = q.pinLow := rfl
@[simp] theorem irq_tickHi (c : BitVec 5) : (q.irq c).tickHi = q.tickHi := rfl
@[simp] theorem irq_cclk (c : BitVec 5) : (q.irq c).cclk = q.cclk := rfl
@[simp] theorem irq_phase (c : BitVec 5) : (q.irq c).phase = q.phase := rfl
@[simp] theorem irq_freeCtr (c : BitVec 5) : (q.irq c).freeCtr = q.freeCtr := rfl

/-! ### `Quad.log` changes `hp` -/

@[simp] theorem log_regs (c : BitVec 16) (v : BitVec 8) (a : W32) (b : BitVec 16) : (q.log c v a b).regs = q.regs := by unfold Quad.log; split <;> rfl
@[simp] theorem log_mem (c : BitVec 16) (v : BitVec 8) (a : W32) (b : BitVec 16) : (q.log c v a b).mem = q.mem := by unfold Quad.log; split <;> rfl
@[simp] theorem log_ecc (c : BitVec 16) (v : BitVec 8) (a : W32) (b : BitVec 16) : (q.log c v a b).ecc = q.ecc := by unfold Quad.log; split <;> rfl
@[simp] theorem log_eccBack (c : BitVec 16) (v : BitVec 8) (a : W32) (b : BitVec 16) : (q.log c v a b).eccBack = q.eccBack := by unfold Quad.log; split <;> rfl
@[simp] theorem log_cores (c : BitVec 16) (v : BitVec 8) (a : W32) (b : BitVec 16) : (q.log c v a b).cores = q.cores := by unfold Quad.log; split <;> rfl
@[simp] theorem log_mode (c : BitVec 16) (v : BitVec 8) (a : W32) (b : BitVec 16) : (q.log c v a b).mode = q.mode := by unfold Quad.log; split <;> rfl
@[simp] theorem log_change (c : BitVec 16) (v : BitVec 8) (a : W32) (b : BitVec 16) : (q.log c v a b).change = q.change := by unfold Quad.log; split <;> rfl
@[simp] theorem log_sch (c : BitVec 16) (v : BitVec 8) (a : W32) (b : BitVec 16) : (q.log c v a b).sch = q.sch := by unfold Quad.log; split <;> rfl
@[simp] theorem log_fab (c : BitVec 16) (v : BitVec 8) (a : W32) (b : BitVec 16) : (q.log c v a b).fab = q.fab := by unfold Quad.log; split <;> rfl
@[simp] theorem log_kln (c : BitVec 16) (v : BitVec 8) (a : W32) (b : BitVec 16) : (q.log c v a b).kln = q.kln := by unfold Quad.log; split <;> rfl
@[simp] theorem log_hpn (c : BitVec 16) (v : BitVec 8) (a : W32) (b : BitVec 16) : (q.log c v a b).hpn = q.hpn := by unfold Quad.log; split <;> rfl
@[simp] theorem log_clk (c : BitVec 16) (v : BitVec 8) (a : W32) (b : BitVec 16) : (q.log c v a b).clk = q.clk := by unfold Quad.log; split <;> rfl
@[simp] theorem log_tim (c : BitVec 16) (v : BitVec 8) (a : W32) (b : BitVec 16) : (q.log c v a b).tim = q.tim := by unfold Quad.log; split <;> rfl
@[simp] theorem log_net (c : BitVec 16) (v : BitVec 8) (a : W32) (b : BitVec 16) : (q.log c v a b).net = q.net := by unfold Quad.log; split <;> rfl
@[simp] theorem log_snx (c : BitVec 16) (v : BitVec 8) (a : W32) (b : BitVec 16) : (q.log c v a b).snx = q.snx := by unfold Quad.log; split <;> rfl
@[simp] theorem log_prt (c : BitVec 16) (v : BitVec 8) (a : W32) (b : BitVec 16) : (q.log c v a b).prt = q.prt := by unfold Quad.log; split <;> rfl
@[simp] theorem log_dec (c : BitVec 16) (v : BitVec 8) (a : W32) (b : BitVec 16) : (q.log c v a b).dec = q.dec := by unfold Quad.log; split <;> rfl
@[simp] theorem log_dma (c : BitVec 16) (v : BitVec 8) (a : W32) (b : BitVec 16) : (q.log c v a b).dma = q.dma := by unfold Quad.log; split <;> rfl
@[simp] theorem log_flt (c : BitVec 16) (v : BitVec 8) (a : W32) (b : BitVec 16) : (q.log c v a b).flt = q.flt := by unfold Quad.log; split <;> rfl
@[simp] theorem log_rst (c : BitVec 16) (v : BitVec 8) (a : W32) (b : BitVec 16) : (q.log c v a b).rst = q.rst := by unfold Quad.log; split <;> rfl
@[simp] theorem log_gridDue (c : BitVec 16) (v : BitVec 8) (a : W32) (b : BitVec 16) : (q.log c v a b).gridDue = q.gridDue := by unfold Quad.log; split <;> rfl
@[simp] theorem log_autoHpn (c : BitVec 16) (v : BitVec 8) (a : W32) (b : BitVec 16) : (q.log c v a b).autoHpn = q.autoHpn := by unfold Quad.log; split <;> rfl
@[simp] theorem log_aged (c : BitVec 16) (v : BitVec 8) (a : W32) (b : BitVec 16) : (q.log c v a b).aged = q.aged := by unfold Quad.log; split <;> rfl
@[simp] theorem log_bndFine (c : BitVec 16) (v : BitVec 8) (a : W32) (b : BitVec 16) : (q.log c v a b).bndFine = q.bndFine := by unfold Quad.log; split <;> rfl
@[simp] theorem log_bndCclk (c : BitVec 16) (v : BitVec 8) (a : W32) (b : BitVec 16) : (q.log c v a b).bndCclk = q.bndCclk := by unfold Quad.log; split <;> rfl
@[simp] theorem log_bndNs (c : BitVec 16) (v : BitVec 8) (a : W32) (b : BitVec 16) : (q.log c v a b).bndNs = q.bndNs := by unfold Quad.log; split <;> rfl
@[simp] theorem log_bndFr (c : BitVec 16) (v : BitVec 8) (a : W32) (b : BitVec 16) : (q.log c v a b).bndFr = q.bndFr := by unfold Quad.log; split <;> rfl
@[simp] theorem log_tick (c : BitVec 16) (v : BitVec 8) (a : W32) (b : BitVec 16) : (q.log c v a b).tick = q.tick := by unfold Quad.log; split <;> rfl
@[simp] theorem log_running (c : BitVec 16) (v : BitVec 8) (a : W32) (b : BitVec 16) : (q.log c v a b).running = q.running := by unfold Quad.log; split <;> rfl
@[simp] theorem log_gridRan (c : BitVec 16) (v : BitVec 8) (a : W32) (b : BitVec 16) : (q.log c v a b).gridRan = q.gridRan := by unfold Quad.log; split <;> rfl
@[simp] theorem log_pinLow (c : BitVec 16) (v : BitVec 8) (a : W32) (b : BitVec 16) : (q.log c v a b).pinLow = q.pinLow := by unfold Quad.log; split <;> rfl
@[simp] theorem log_tickHi (c : BitVec 16) (v : BitVec 8) (a : W32) (b : BitVec 16) : (q.log c v a b).tickHi = q.tickHi := by unfold Quad.log; split <;> rfl
@[simp] theorem log_cclk (c : BitVec 16) (v : BitVec 8) (a : W32) (b : BitVec 16) : (q.log c v a b).cclk = q.cclk := by unfold Quad.log; split <;> rfl
@[simp] theorem log_phase (c : BitVec 16) (v : BitVec 8) (a : W32) (b : BitVec 16) : (q.log c v a b).phase = q.phase := by unfold Quad.log; split <;> rfl
@[simp] theorem log_freeCtr (c : BitVec 16) (v : BitVec 8) (a : W32) (b : BitVec 16) : (q.log c v a b).freeCtr = q.freeCtr := by unfold Quad.log; split <;> rfl

/-! ### `Quad.completeRec` changes `hp` -/

@[simp] theorem completeRec_regs (r : CplRec) : (q.completeRec r).regs = q.regs := rfl
@[simp] theorem completeRec_mem (r : CplRec) : (q.completeRec r).mem = q.mem := rfl
@[simp] theorem completeRec_ecc (r : CplRec) : (q.completeRec r).ecc = q.ecc := rfl
@[simp] theorem completeRec_eccBack (r : CplRec) : (q.completeRec r).eccBack = q.eccBack := rfl
@[simp] theorem completeRec_cores (r : CplRec) : (q.completeRec r).cores = q.cores := rfl
@[simp] theorem completeRec_mode (r : CplRec) : (q.completeRec r).mode = q.mode := rfl
@[simp] theorem completeRec_change (r : CplRec) : (q.completeRec r).change = q.change := rfl
@[simp] theorem completeRec_sch (r : CplRec) : (q.completeRec r).sch = q.sch := rfl
@[simp] theorem completeRec_fab (r : CplRec) : (q.completeRec r).fab = q.fab := rfl
@[simp] theorem completeRec_kln (r : CplRec) : (q.completeRec r).kln = q.kln := rfl
@[simp] theorem completeRec_hpn (r : CplRec) : (q.completeRec r).hpn = q.hpn := rfl
@[simp] theorem completeRec_clk (r : CplRec) : (q.completeRec r).clk = q.clk := rfl
@[simp] theorem completeRec_tim (r : CplRec) : (q.completeRec r).tim = q.tim := rfl
@[simp] theorem completeRec_net (r : CplRec) : (q.completeRec r).net = q.net := rfl
@[simp] theorem completeRec_snx (r : CplRec) : (q.completeRec r).snx = q.snx := rfl
@[simp] theorem completeRec_prt (r : CplRec) : (q.completeRec r).prt = q.prt := rfl
@[simp] theorem completeRec_dec (r : CplRec) : (q.completeRec r).dec = q.dec := rfl
@[simp] theorem completeRec_dma (r : CplRec) : (q.completeRec r).dma = q.dma := rfl
@[simp] theorem completeRec_flt (r : CplRec) : (q.completeRec r).flt = q.flt := rfl
@[simp] theorem completeRec_rst (r : CplRec) : (q.completeRec r).rst = q.rst := rfl
@[simp] theorem completeRec_gridDue (r : CplRec) : (q.completeRec r).gridDue = q.gridDue := rfl
@[simp] theorem completeRec_autoHpn (r : CplRec) : (q.completeRec r).autoHpn = q.autoHpn := rfl
@[simp] theorem completeRec_aged (r : CplRec) : (q.completeRec r).aged = q.aged := rfl
@[simp] theorem completeRec_bndFine (r : CplRec) : (q.completeRec r).bndFine = q.bndFine := rfl
@[simp] theorem completeRec_bndCclk (r : CplRec) : (q.completeRec r).bndCclk = q.bndCclk := rfl
@[simp] theorem completeRec_bndNs (r : CplRec) : (q.completeRec r).bndNs = q.bndNs := rfl
@[simp] theorem completeRec_bndFr (r : CplRec) : (q.completeRec r).bndFr = q.bndFr := rfl
@[simp] theorem completeRec_tick (r : CplRec) : (q.completeRec r).tick = q.tick := rfl
@[simp] theorem completeRec_running (r : CplRec) : (q.completeRec r).running = q.running := rfl
@[simp] theorem completeRec_gridRan (r : CplRec) : (q.completeRec r).gridRan = q.gridRan := rfl
@[simp] theorem completeRec_pinLow (r : CplRec) : (q.completeRec r).pinLow = q.pinLow := rfl
@[simp] theorem completeRec_tickHi (r : CplRec) : (q.completeRec r).tickHi = q.tickHi := rfl
@[simp] theorem completeRec_cclk (r : CplRec) : (q.completeRec r).cclk = q.cclk := rfl
@[simp] theorem completeRec_phase (r : CplRec) : (q.completeRec r).phase = q.phase := rfl
@[simp] theorem completeRec_freeCtr (r : CplRec) : (q.completeRec r).freeCtr = q.freeCtr := rfl

/-! ### `Quad.complete` changes `hp` -/

@[simp] theorem complete_regs (n : W32) (o t a : Nat) (r : W32) : (q.complete n o t a r).regs = q.regs := rfl
@[simp] theorem complete_mem (n : W32) (o t a : Nat) (r : W32) : (q.complete n o t a r).mem = q.mem := rfl
@[simp] theorem complete_ecc (n : W32) (o t a : Nat) (r : W32) : (q.complete n o t a r).ecc = q.ecc := rfl
@[simp] theorem complete_eccBack (n : W32) (o t a : Nat) (r : W32) : (q.complete n o t a r).eccBack = q.eccBack := rfl
@[simp] theorem complete_cores (n : W32) (o t a : Nat) (r : W32) : (q.complete n o t a r).cores = q.cores := rfl
@[simp] theorem complete_mode (n : W32) (o t a : Nat) (r : W32) : (q.complete n o t a r).mode = q.mode := rfl
@[simp] theorem complete_change (n : W32) (o t a : Nat) (r : W32) : (q.complete n o t a r).change = q.change := rfl
@[simp] theorem complete_sch (n : W32) (o t a : Nat) (r : W32) : (q.complete n o t a r).sch = q.sch := rfl
@[simp] theorem complete_fab (n : W32) (o t a : Nat) (r : W32) : (q.complete n o t a r).fab = q.fab := rfl
@[simp] theorem complete_kln (n : W32) (o t a : Nat) (r : W32) : (q.complete n o t a r).kln = q.kln := rfl
@[simp] theorem complete_hpn (n : W32) (o t a : Nat) (r : W32) : (q.complete n o t a r).hpn = q.hpn := rfl
@[simp] theorem complete_clk (n : W32) (o t a : Nat) (r : W32) : (q.complete n o t a r).clk = q.clk := rfl
@[simp] theorem complete_tim (n : W32) (o t a : Nat) (r : W32) : (q.complete n o t a r).tim = q.tim := rfl
@[simp] theorem complete_net (n : W32) (o t a : Nat) (r : W32) : (q.complete n o t a r).net = q.net := rfl
@[simp] theorem complete_snx (n : W32) (o t a : Nat) (r : W32) : (q.complete n o t a r).snx = q.snx := rfl
@[simp] theorem complete_prt (n : W32) (o t a : Nat) (r : W32) : (q.complete n o t a r).prt = q.prt := rfl
@[simp] theorem complete_dec (n : W32) (o t a : Nat) (r : W32) : (q.complete n o t a r).dec = q.dec := rfl
@[simp] theorem complete_dma (n : W32) (o t a : Nat) (r : W32) : (q.complete n o t a r).dma = q.dma := rfl
@[simp] theorem complete_flt (n : W32) (o t a : Nat) (r : W32) : (q.complete n o t a r).flt = q.flt := rfl
@[simp] theorem complete_rst (n : W32) (o t a : Nat) (r : W32) : (q.complete n o t a r).rst = q.rst := rfl
@[simp] theorem complete_gridDue (n : W32) (o t a : Nat) (r : W32) : (q.complete n o t a r).gridDue = q.gridDue := rfl
@[simp] theorem complete_autoHpn (n : W32) (o t a : Nat) (r : W32) : (q.complete n o t a r).autoHpn = q.autoHpn := rfl
@[simp] theorem complete_aged (n : W32) (o t a : Nat) (r : W32) : (q.complete n o t a r).aged = q.aged := rfl
@[simp] theorem complete_bndFine (n : W32) (o t a : Nat) (r : W32) : (q.complete n o t a r).bndFine = q.bndFine := rfl
@[simp] theorem complete_bndCclk (n : W32) (o t a : Nat) (r : W32) : (q.complete n o t a r).bndCclk = q.bndCclk := rfl
@[simp] theorem complete_bndNs (n : W32) (o t a : Nat) (r : W32) : (q.complete n o t a r).bndNs = q.bndNs := rfl
@[simp] theorem complete_bndFr (n : W32) (o t a : Nat) (r : W32) : (q.complete n o t a r).bndFr = q.bndFr := rfl
@[simp] theorem complete_tick (n : W32) (o t a : Nat) (r : W32) : (q.complete n o t a r).tick = q.tick := rfl
@[simp] theorem complete_running (n : W32) (o t a : Nat) (r : W32) : (q.complete n o t a r).running = q.running := rfl
@[simp] theorem complete_gridRan (n : W32) (o t a : Nat) (r : W32) : (q.complete n o t a r).gridRan = q.gridRan := rfl
@[simp] theorem complete_pinLow (n : W32) (o t a : Nat) (r : W32) : (q.complete n o t a r).pinLow = q.pinLow := rfl
@[simp] theorem complete_tickHi (n : W32) (o t a : Nat) (r : W32) : (q.complete n o t a r).tickHi = q.tickHi := rfl
@[simp] theorem complete_cclk (n : W32) (o t a : Nat) (r : W32) : (q.complete n o t a r).cclk = q.cclk := rfl
@[simp] theorem complete_phase (n : W32) (o t a : Nat) (r : W32) : (q.complete n o t a r).phase = q.phase := rfl
@[simp] theorem complete_freeCtr (n : W32) (o t a : Nat) (r : W32) : (q.complete n o t a r).freeCtr = q.freeCtr := rfl

/-! ### `Quad.ringStep` changes `regs` -/

@[simp] theorem ringStep_mem (l w r v : Field) : (q.ringStep l w r v).mem = q.mem := by unfold Quad.ringStep; dsimp only; split <;> rfl
@[simp] theorem ringStep_ecc (l w r v : Field) : (q.ringStep l w r v).ecc = q.ecc := by unfold Quad.ringStep; dsimp only; split <;> rfl
@[simp] theorem ringStep_eccBack (l w r v : Field) : (q.ringStep l w r v).eccBack = q.eccBack := by unfold Quad.ringStep; dsimp only; split <;> rfl
@[simp] theorem ringStep_cores (l w r v : Field) : (q.ringStep l w r v).cores = q.cores := by unfold Quad.ringStep; dsimp only; split <;> rfl
@[simp] theorem ringStep_mode (l w r v : Field) : (q.ringStep l w r v).mode = q.mode := by unfold Quad.ringStep; dsimp only; split <;> rfl
@[simp] theorem ringStep_change (l w r v : Field) : (q.ringStep l w r v).change = q.change := by unfold Quad.ringStep; dsimp only; split <;> rfl
@[simp] theorem ringStep_sch (l w r v : Field) : (q.ringStep l w r v).sch = q.sch := by unfold Quad.ringStep; dsimp only; split <;> rfl
@[simp] theorem ringStep_fab (l w r v : Field) : (q.ringStep l w r v).fab = q.fab := by unfold Quad.ringStep; dsimp only; split <;> rfl
@[simp] theorem ringStep_kln (l w r v : Field) : (q.ringStep l w r v).kln = q.kln := by unfold Quad.ringStep; dsimp only; split <;> rfl
@[simp] theorem ringStep_hpn (l w r v : Field) : (q.ringStep l w r v).hpn = q.hpn := by unfold Quad.ringStep; dsimp only; split <;> rfl
@[simp] theorem ringStep_clk (l w r v : Field) : (q.ringStep l w r v).clk = q.clk := by unfold Quad.ringStep; dsimp only; split <;> rfl
@[simp] theorem ringStep_tim (l w r v : Field) : (q.ringStep l w r v).tim = q.tim := by unfold Quad.ringStep; dsimp only; split <;> rfl
@[simp] theorem ringStep_net (l w r v : Field) : (q.ringStep l w r v).net = q.net := by unfold Quad.ringStep; dsimp only; split <;> rfl
@[simp] theorem ringStep_snx (l w r v : Field) : (q.ringStep l w r v).snx = q.snx := by unfold Quad.ringStep; dsimp only; split <;> rfl
@[simp] theorem ringStep_prt (l w r v : Field) : (q.ringStep l w r v).prt = q.prt := by unfold Quad.ringStep; dsimp only; split <;> rfl
@[simp] theorem ringStep_dec (l w r v : Field) : (q.ringStep l w r v).dec = q.dec := by unfold Quad.ringStep; dsimp only; split <;> rfl
@[simp] theorem ringStep_dma (l w r v : Field) : (q.ringStep l w r v).dma = q.dma := by unfold Quad.ringStep; dsimp only; split <;> rfl
@[simp] theorem ringStep_flt (l w r v : Field) : (q.ringStep l w r v).flt = q.flt := by unfold Quad.ringStep; dsimp only; split <;> rfl
@[simp] theorem ringStep_hp (l w r v : Field) : (q.ringStep l w r v).hp = q.hp := by unfold Quad.ringStep; dsimp only; split <;> rfl
@[simp] theorem ringStep_rst (l w r v : Field) : (q.ringStep l w r v).rst = q.rst := by unfold Quad.ringStep; dsimp only; split <;> rfl
@[simp] theorem ringStep_gridDue (l w r v : Field) : (q.ringStep l w r v).gridDue = q.gridDue := by unfold Quad.ringStep; dsimp only; split <;> rfl
@[simp] theorem ringStep_autoHpn (l w r v : Field) : (q.ringStep l w r v).autoHpn = q.autoHpn := by unfold Quad.ringStep; dsimp only; split <;> rfl
@[simp] theorem ringStep_aged (l w r v : Field) : (q.ringStep l w r v).aged = q.aged := by unfold Quad.ringStep; dsimp only; split <;> rfl
@[simp] theorem ringStep_bndFine (l w r v : Field) : (q.ringStep l w r v).bndFine = q.bndFine := by unfold Quad.ringStep; dsimp only; split <;> rfl
@[simp] theorem ringStep_bndCclk (l w r v : Field) : (q.ringStep l w r v).bndCclk = q.bndCclk := by unfold Quad.ringStep; dsimp only; split <;> rfl
@[simp] theorem ringStep_bndNs (l w r v : Field) : (q.ringStep l w r v).bndNs = q.bndNs := by unfold Quad.ringStep; dsimp only; split <;> rfl
@[simp] theorem ringStep_bndFr (l w r v : Field) : (q.ringStep l w r v).bndFr = q.bndFr := by unfold Quad.ringStep; dsimp only; split <;> rfl
@[simp] theorem ringStep_tick (l w r v : Field) : (q.ringStep l w r v).tick = q.tick := by unfold Quad.ringStep; dsimp only; split <;> rfl
@[simp] theorem ringStep_running (l w r v : Field) : (q.ringStep l w r v).running = q.running := by unfold Quad.ringStep; dsimp only; split <;> rfl
@[simp] theorem ringStep_gridRan (l w r v : Field) : (q.ringStep l w r v).gridRan = q.gridRan := by unfold Quad.ringStep; dsimp only; split <;> rfl
@[simp] theorem ringStep_pinLow (l w r v : Field) : (q.ringStep l w r v).pinLow = q.pinLow := by unfold Quad.ringStep; dsimp only; split <;> rfl
@[simp] theorem ringStep_tickHi (l w r v : Field) : (q.ringStep l w r v).tickHi = q.tickHi := by unfold Quad.ringStep; dsimp only; split <;> rfl
@[simp] theorem ringStep_cclk (l w r v : Field) : (q.ringStep l w r v).cclk = q.cclk := by unfold Quad.ringStep; dsimp only; split <;> rfl
@[simp] theorem ringStep_phase (l w r v : Field) : (q.ringStep l w r v).phase = q.phase := by unfold Quad.ringStep; dsimp only; split <;> rfl
@[simp] theorem ringStep_freeCtr (l w r v : Field) : (q.ringStep l w r v).freeCtr = q.freeCtr := by unfold Quad.ringStep; dsimp only; split <;> rfl

/-! ### `Quad.ringPush` changes `mem`, `ecc`, `regs` -/

@[simp] theorem ringPush_eccBack (b l w r v : Field) (x : List W32) : (q.ringPush b l w r v x).eccBack = q.eccBack := by simp [Quad.ringPush]
@[simp] theorem ringPush_cores (b l w r v : Field) (x : List W32) : (q.ringPush b l w r v x).cores = q.cores := by simp [Quad.ringPush]
@[simp] theorem ringPush_mode (b l w r v : Field) (x : List W32) : (q.ringPush b l w r v x).mode = q.mode := by simp [Quad.ringPush]
@[simp] theorem ringPush_change (b l w r v : Field) (x : List W32) : (q.ringPush b l w r v x).change = q.change := by simp [Quad.ringPush]
@[simp] theorem ringPush_sch (b l w r v : Field) (x : List W32) : (q.ringPush b l w r v x).sch = q.sch := by simp [Quad.ringPush]
@[simp] theorem ringPush_fab (b l w r v : Field) (x : List W32) : (q.ringPush b l w r v x).fab = q.fab := by simp [Quad.ringPush]
@[simp] theorem ringPush_kln (b l w r v : Field) (x : List W32) : (q.ringPush b l w r v x).kln = q.kln := by simp [Quad.ringPush]
@[simp] theorem ringPush_hpn (b l w r v : Field) (x : List W32) : (q.ringPush b l w r v x).hpn = q.hpn := by simp [Quad.ringPush]
@[simp] theorem ringPush_clk (b l w r v : Field) (x : List W32) : (q.ringPush b l w r v x).clk = q.clk := by simp [Quad.ringPush]
@[simp] theorem ringPush_tim (b l w r v : Field) (x : List W32) : (q.ringPush b l w r v x).tim = q.tim := by simp [Quad.ringPush]
@[simp] theorem ringPush_net (b l w r v : Field) (x : List W32) : (q.ringPush b l w r v x).net = q.net := by simp [Quad.ringPush]
@[simp] theorem ringPush_snx (b l w r v : Field) (x : List W32) : (q.ringPush b l w r v x).snx = q.snx := by simp [Quad.ringPush]
@[simp] theorem ringPush_prt (b l w r v : Field) (x : List W32) : (q.ringPush b l w r v x).prt = q.prt := by simp [Quad.ringPush]
@[simp] theorem ringPush_dec (b l w r v : Field) (x : List W32) : (q.ringPush b l w r v x).dec = q.dec := by simp [Quad.ringPush]
@[simp] theorem ringPush_dma (b l w r v : Field) (x : List W32) : (q.ringPush b l w r v x).dma = q.dma := by simp [Quad.ringPush]
@[simp] theorem ringPush_flt (b l w r v : Field) (x : List W32) : (q.ringPush b l w r v x).flt = q.flt := by simp [Quad.ringPush]
@[simp] theorem ringPush_hp (b l w r v : Field) (x : List W32) : (q.ringPush b l w r v x).hp = q.hp := by simp [Quad.ringPush]
@[simp] theorem ringPush_rst (b l w r v : Field) (x : List W32) : (q.ringPush b l w r v x).rst = q.rst := by simp [Quad.ringPush]
@[simp] theorem ringPush_gridDue (b l w r v : Field) (x : List W32) : (q.ringPush b l w r v x).gridDue = q.gridDue := by simp [Quad.ringPush]
@[simp] theorem ringPush_autoHpn (b l w r v : Field) (x : List W32) : (q.ringPush b l w r v x).autoHpn = q.autoHpn := by simp [Quad.ringPush]
@[simp] theorem ringPush_aged (b l w r v : Field) (x : List W32) : (q.ringPush b l w r v x).aged = q.aged := by simp [Quad.ringPush]
@[simp] theorem ringPush_bndFine (b l w r v : Field) (x : List W32) : (q.ringPush b l w r v x).bndFine = q.bndFine := by simp [Quad.ringPush]
@[simp] theorem ringPush_bndCclk (b l w r v : Field) (x : List W32) : (q.ringPush b l w r v x).bndCclk = q.bndCclk := by simp [Quad.ringPush]
@[simp] theorem ringPush_bndNs (b l w r v : Field) (x : List W32) : (q.ringPush b l w r v x).bndNs = q.bndNs := by simp [Quad.ringPush]
@[simp] theorem ringPush_bndFr (b l w r v : Field) (x : List W32) : (q.ringPush b l w r v x).bndFr = q.bndFr := by simp [Quad.ringPush]
@[simp] theorem ringPush_tick (b l w r v : Field) (x : List W32) : (q.ringPush b l w r v x).tick = q.tick := by simp [Quad.ringPush]
@[simp] theorem ringPush_running (b l w r v : Field) (x : List W32) : (q.ringPush b l w r v x).running = q.running := by simp [Quad.ringPush]
@[simp] theorem ringPush_gridRan (b l w r v : Field) (x : List W32) : (q.ringPush b l w r v x).gridRan = q.gridRan := by simp [Quad.ringPush]
@[simp] theorem ringPush_pinLow (b l w r v : Field) (x : List W32) : (q.ringPush b l w r v x).pinLow = q.pinLow := by simp [Quad.ringPush]
@[simp] theorem ringPush_tickHi (b l w r v : Field) (x : List W32) : (q.ringPush b l w r v x).tickHi = q.tickHi := by simp [Quad.ringPush]
@[simp] theorem ringPush_cclk (b l w r v : Field) (x : List W32) : (q.ringPush b l w r v x).cclk = q.cclk := by simp [Quad.ringPush]
@[simp] theorem ringPush_phase (b l w r v : Field) (x : List W32) : (q.ringPush b l w r v x).phase = q.phase := by simp [Quad.ringPush]
@[simp] theorem ringPush_freeCtr (b l w r v : Field) (x : List W32) : (q.ringPush b l w r v x).freeCtr = q.freeCtr := by simp [Quad.ringPush]

/-! ### `Quad.fault` changes `mem`, `ecc`, `regs`, `hp`, `flt` -/

@[simp] theorem fault_eccBack (a b c d : Nat) (e : W32) : (q.fault a b c d e).eccBack = q.eccBack := by unfold Quad.fault; dsimp only; split <;> simp
@[simp] theorem fault_cores (a b c d : Nat) (e : W32) : (q.fault a b c d e).cores = q.cores := by unfold Quad.fault; dsimp only; split <;> simp
@[simp] theorem fault_mode (a b c d : Nat) (e : W32) : (q.fault a b c d e).mode = q.mode := by unfold Quad.fault; dsimp only; split <;> simp
@[simp] theorem fault_change (a b c d : Nat) (e : W32) : (q.fault a b c d e).change = q.change := by unfold Quad.fault; dsimp only; split <;> simp
@[simp] theorem fault_sch (a b c d : Nat) (e : W32) : (q.fault a b c d e).sch = q.sch := by unfold Quad.fault; dsimp only; split <;> simp
@[simp] theorem fault_fab (a b c d : Nat) (e : W32) : (q.fault a b c d e).fab = q.fab := by unfold Quad.fault; dsimp only; split <;> simp
@[simp] theorem fault_kln (a b c d : Nat) (e : W32) : (q.fault a b c d e).kln = q.kln := by unfold Quad.fault; dsimp only; split <;> simp
@[simp] theorem fault_hpn (a b c d : Nat) (e : W32) : (q.fault a b c d e).hpn = q.hpn := by unfold Quad.fault; dsimp only; split <;> simp
@[simp] theorem fault_clk (a b c d : Nat) (e : W32) : (q.fault a b c d e).clk = q.clk := by unfold Quad.fault; dsimp only; split <;> simp
@[simp] theorem fault_tim (a b c d : Nat) (e : W32) : (q.fault a b c d e).tim = q.tim := by unfold Quad.fault; dsimp only; split <;> simp
@[simp] theorem fault_net (a b c d : Nat) (e : W32) : (q.fault a b c d e).net = q.net := by unfold Quad.fault; dsimp only; split <;> simp
@[simp] theorem fault_snx (a b c d : Nat) (e : W32) : (q.fault a b c d e).snx = q.snx := by unfold Quad.fault; dsimp only; split <;> simp
@[simp] theorem fault_prt (a b c d : Nat) (e : W32) : (q.fault a b c d e).prt = q.prt := by unfold Quad.fault; dsimp only; split <;> simp
@[simp] theorem fault_dec (a b c d : Nat) (e : W32) : (q.fault a b c d e).dec = q.dec := by unfold Quad.fault; dsimp only; split <;> simp
@[simp] theorem fault_dma (a b c d : Nat) (e : W32) : (q.fault a b c d e).dma = q.dma := by unfold Quad.fault; dsimp only; split <;> simp
@[simp] theorem fault_rst (a b c d : Nat) (e : W32) : (q.fault a b c d e).rst = q.rst := by unfold Quad.fault; dsimp only; split <;> simp
@[simp] theorem fault_gridDue (a b c d : Nat) (e : W32) : (q.fault a b c d e).gridDue = q.gridDue := by unfold Quad.fault; dsimp only; split <;> simp
@[simp] theorem fault_autoHpn (a b c d : Nat) (e : W32) : (q.fault a b c d e).autoHpn = q.autoHpn := by unfold Quad.fault; dsimp only; split <;> simp
@[simp] theorem fault_aged (a b c d : Nat) (e : W32) : (q.fault a b c d e).aged = q.aged := by unfold Quad.fault; dsimp only; split <;> simp
@[simp] theorem fault_bndFine (a b c d : Nat) (e : W32) : (q.fault a b c d e).bndFine = q.bndFine := by unfold Quad.fault; dsimp only; split <;> simp
@[simp] theorem fault_bndCclk (a b c d : Nat) (e : W32) : (q.fault a b c d e).bndCclk = q.bndCclk := by unfold Quad.fault; dsimp only; split <;> simp
@[simp] theorem fault_bndNs (a b c d : Nat) (e : W32) : (q.fault a b c d e).bndNs = q.bndNs := by unfold Quad.fault; dsimp only; split <;> simp
@[simp] theorem fault_bndFr (a b c d : Nat) (e : W32) : (q.fault a b c d e).bndFr = q.bndFr := by unfold Quad.fault; dsimp only; split <;> simp
@[simp] theorem fault_tick (a b c d : Nat) (e : W32) : (q.fault a b c d e).tick = q.tick := by unfold Quad.fault; dsimp only; split <;> simp
@[simp] theorem fault_running (a b c d : Nat) (e : W32) : (q.fault a b c d e).running = q.running := by unfold Quad.fault; dsimp only; split <;> simp
@[simp] theorem fault_gridRan (a b c d : Nat) (e : W32) : (q.fault a b c d e).gridRan = q.gridRan := by unfold Quad.fault; dsimp only; split <;> simp
@[simp] theorem fault_pinLow (a b c d : Nat) (e : W32) : (q.fault a b c d e).pinLow = q.pinLow := by unfold Quad.fault; dsimp only; split <;> simp
@[simp] theorem fault_tickHi (a b c d : Nat) (e : W32) : (q.fault a b c d e).tickHi = q.tickHi := by unfold Quad.fault; dsimp only; split <;> simp
@[simp] theorem fault_cclk (a b c d : Nat) (e : W32) : (q.fault a b c d e).cclk = q.cclk := by unfold Quad.fault; dsimp only; split <;> simp
@[simp] theorem fault_phase (a b c d : Nat) (e : W32) : (q.fault a b c d e).phase = q.phase := by unfold Quad.fault; dsimp only; split <;> simp
@[simp] theorem fault_freeCtr (a b c d : Nat) (e : W32) : (q.fault a b c d e).freeCtr = q.freeCtr := by unfold Quad.fault; dsimp only; split <;> simp

/-! ### `Quad.mapSch` changes `sch` -/

@[simp] theorem mapSch_regs (f : Sched → Sched) : (q.mapSch f).regs = q.regs := rfl
@[simp] theorem mapSch_mem (f : Sched → Sched) : (q.mapSch f).mem = q.mem := rfl
@[simp] theorem mapSch_ecc (f : Sched → Sched) : (q.mapSch f).ecc = q.ecc := rfl
@[simp] theorem mapSch_eccBack (f : Sched → Sched) : (q.mapSch f).eccBack = q.eccBack := rfl
@[simp] theorem mapSch_cores (f : Sched → Sched) : (q.mapSch f).cores = q.cores := rfl
@[simp] theorem mapSch_mode (f : Sched → Sched) : (q.mapSch f).mode = q.mode := rfl
@[simp] theorem mapSch_change (f : Sched → Sched) : (q.mapSch f).change = q.change := rfl
@[simp] theorem mapSch_fab (f : Sched → Sched) : (q.mapSch f).fab = q.fab := rfl
@[simp] theorem mapSch_kln (f : Sched → Sched) : (q.mapSch f).kln = q.kln := rfl
@[simp] theorem mapSch_hpn (f : Sched → Sched) : (q.mapSch f).hpn = q.hpn := rfl
@[simp] theorem mapSch_clk (f : Sched → Sched) : (q.mapSch f).clk = q.clk := rfl
@[simp] theorem mapSch_tim (f : Sched → Sched) : (q.mapSch f).tim = q.tim := rfl
@[simp] theorem mapSch_net (f : Sched → Sched) : (q.mapSch f).net = q.net := rfl
@[simp] theorem mapSch_snx (f : Sched → Sched) : (q.mapSch f).snx = q.snx := rfl
@[simp] theorem mapSch_prt (f : Sched → Sched) : (q.mapSch f).prt = q.prt := rfl
@[simp] theorem mapSch_dec (f : Sched → Sched) : (q.mapSch f).dec = q.dec := rfl
@[simp] theorem mapSch_dma (f : Sched → Sched) : (q.mapSch f).dma = q.dma := rfl
@[simp] theorem mapSch_flt (f : Sched → Sched) : (q.mapSch f).flt = q.flt := rfl
@[simp] theorem mapSch_hp (f : Sched → Sched) : (q.mapSch f).hp = q.hp := rfl
@[simp] theorem mapSch_rst (f : Sched → Sched) : (q.mapSch f).rst = q.rst := rfl
@[simp] theorem mapSch_gridDue (f : Sched → Sched) : (q.mapSch f).gridDue = q.gridDue := rfl
@[simp] theorem mapSch_autoHpn (f : Sched → Sched) : (q.mapSch f).autoHpn = q.autoHpn := rfl
@[simp] theorem mapSch_aged (f : Sched → Sched) : (q.mapSch f).aged = q.aged := rfl
@[simp] theorem mapSch_bndFine (f : Sched → Sched) : (q.mapSch f).bndFine = q.bndFine := rfl
@[simp] theorem mapSch_bndCclk (f : Sched → Sched) : (q.mapSch f).bndCclk = q.bndCclk := rfl
@[simp] theorem mapSch_bndNs (f : Sched → Sched) : (q.mapSch f).bndNs = q.bndNs := rfl
@[simp] theorem mapSch_bndFr (f : Sched → Sched) : (q.mapSch f).bndFr = q.bndFr := rfl
@[simp] theorem mapSch_tick (f : Sched → Sched) : (q.mapSch f).tick = q.tick := rfl
@[simp] theorem mapSch_running (f : Sched → Sched) : (q.mapSch f).running = q.running := rfl
@[simp] theorem mapSch_gridRan (f : Sched → Sched) : (q.mapSch f).gridRan = q.gridRan := rfl
@[simp] theorem mapSch_pinLow (f : Sched → Sched) : (q.mapSch f).pinLow = q.pinLow := rfl
@[simp] theorem mapSch_tickHi (f : Sched → Sched) : (q.mapSch f).tickHi = q.tickHi := rfl
@[simp] theorem mapSch_cclk (f : Sched → Sched) : (q.mapSch f).cclk = q.cclk := rfl
@[simp] theorem mapSch_phase (f : Sched → Sched) : (q.mapSch f).phase = q.phase := rfl
@[simp] theorem mapSch_freeCtr (f : Sched → Sched) : (q.mapSch f).freeCtr = q.freeCtr := rfl

/-! ### `Quad.mapFab` changes `fab` -/

@[simp] theorem mapFab_regs (f : Fabric → Fabric) : (q.mapFab f).regs = q.regs := rfl
@[simp] theorem mapFab_mem (f : Fabric → Fabric) : (q.mapFab f).mem = q.mem := rfl
@[simp] theorem mapFab_ecc (f : Fabric → Fabric) : (q.mapFab f).ecc = q.ecc := rfl
@[simp] theorem mapFab_eccBack (f : Fabric → Fabric) : (q.mapFab f).eccBack = q.eccBack := rfl
@[simp] theorem mapFab_cores (f : Fabric → Fabric) : (q.mapFab f).cores = q.cores := rfl
@[simp] theorem mapFab_mode (f : Fabric → Fabric) : (q.mapFab f).mode = q.mode := rfl
@[simp] theorem mapFab_change (f : Fabric → Fabric) : (q.mapFab f).change = q.change := rfl
@[simp] theorem mapFab_sch (f : Fabric → Fabric) : (q.mapFab f).sch = q.sch := rfl
@[simp] theorem mapFab_kln (f : Fabric → Fabric) : (q.mapFab f).kln = q.kln := rfl
@[simp] theorem mapFab_hpn (f : Fabric → Fabric) : (q.mapFab f).hpn = q.hpn := rfl
@[simp] theorem mapFab_clk (f : Fabric → Fabric) : (q.mapFab f).clk = q.clk := rfl
@[simp] theorem mapFab_tim (f : Fabric → Fabric) : (q.mapFab f).tim = q.tim := rfl
@[simp] theorem mapFab_net (f : Fabric → Fabric) : (q.mapFab f).net = q.net := rfl
@[simp] theorem mapFab_snx (f : Fabric → Fabric) : (q.mapFab f).snx = q.snx := rfl
@[simp] theorem mapFab_prt (f : Fabric → Fabric) : (q.mapFab f).prt = q.prt := rfl
@[simp] theorem mapFab_dec (f : Fabric → Fabric) : (q.mapFab f).dec = q.dec := rfl
@[simp] theorem mapFab_dma (f : Fabric → Fabric) : (q.mapFab f).dma = q.dma := rfl
@[simp] theorem mapFab_flt (f : Fabric → Fabric) : (q.mapFab f).flt = q.flt := rfl
@[simp] theorem mapFab_hp (f : Fabric → Fabric) : (q.mapFab f).hp = q.hp := rfl
@[simp] theorem mapFab_rst (f : Fabric → Fabric) : (q.mapFab f).rst = q.rst := rfl
@[simp] theorem mapFab_gridDue (f : Fabric → Fabric) : (q.mapFab f).gridDue = q.gridDue := rfl
@[simp] theorem mapFab_autoHpn (f : Fabric → Fabric) : (q.mapFab f).autoHpn = q.autoHpn := rfl
@[simp] theorem mapFab_aged (f : Fabric → Fabric) : (q.mapFab f).aged = q.aged := rfl
@[simp] theorem mapFab_bndFine (f : Fabric → Fabric) : (q.mapFab f).bndFine = q.bndFine := rfl
@[simp] theorem mapFab_bndCclk (f : Fabric → Fabric) : (q.mapFab f).bndCclk = q.bndCclk := rfl
@[simp] theorem mapFab_bndNs (f : Fabric → Fabric) : (q.mapFab f).bndNs = q.bndNs := rfl
@[simp] theorem mapFab_bndFr (f : Fabric → Fabric) : (q.mapFab f).bndFr = q.bndFr := rfl
@[simp] theorem mapFab_tick (f : Fabric → Fabric) : (q.mapFab f).tick = q.tick := rfl
@[simp] theorem mapFab_running (f : Fabric → Fabric) : (q.mapFab f).running = q.running := rfl
@[simp] theorem mapFab_gridRan (f : Fabric → Fabric) : (q.mapFab f).gridRan = q.gridRan := rfl
@[simp] theorem mapFab_pinLow (f : Fabric → Fabric) : (q.mapFab f).pinLow = q.pinLow := rfl
@[simp] theorem mapFab_tickHi (f : Fabric → Fabric) : (q.mapFab f).tickHi = q.tickHi := rfl
@[simp] theorem mapFab_cclk (f : Fabric → Fabric) : (q.mapFab f).cclk = q.cclk := rfl
@[simp] theorem mapFab_phase (f : Fabric → Fabric) : (q.mapFab f).phase = q.phase := rfl
@[simp] theorem mapFab_freeCtr (f : Fabric → Fabric) : (q.mapFab f).freeCtr = q.freeCtr := rfl

/-! ### `Quad.mapKln` changes `kln` -/

@[simp] theorem mapKln_regs (f : Kiln → Kiln) : (q.mapKln f).regs = q.regs := rfl
@[simp] theorem mapKln_mem (f : Kiln → Kiln) : (q.mapKln f).mem = q.mem := rfl
@[simp] theorem mapKln_ecc (f : Kiln → Kiln) : (q.mapKln f).ecc = q.ecc := rfl
@[simp] theorem mapKln_eccBack (f : Kiln → Kiln) : (q.mapKln f).eccBack = q.eccBack := rfl
@[simp] theorem mapKln_cores (f : Kiln → Kiln) : (q.mapKln f).cores = q.cores := rfl
@[simp] theorem mapKln_mode (f : Kiln → Kiln) : (q.mapKln f).mode = q.mode := rfl
@[simp] theorem mapKln_change (f : Kiln → Kiln) : (q.mapKln f).change = q.change := rfl
@[simp] theorem mapKln_sch (f : Kiln → Kiln) : (q.mapKln f).sch = q.sch := rfl
@[simp] theorem mapKln_fab (f : Kiln → Kiln) : (q.mapKln f).fab = q.fab := rfl
@[simp] theorem mapKln_hpn (f : Kiln → Kiln) : (q.mapKln f).hpn = q.hpn := rfl
@[simp] theorem mapKln_clk (f : Kiln → Kiln) : (q.mapKln f).clk = q.clk := rfl
@[simp] theorem mapKln_tim (f : Kiln → Kiln) : (q.mapKln f).tim = q.tim := rfl
@[simp] theorem mapKln_net (f : Kiln → Kiln) : (q.mapKln f).net = q.net := rfl
@[simp] theorem mapKln_snx (f : Kiln → Kiln) : (q.mapKln f).snx = q.snx := rfl
@[simp] theorem mapKln_prt (f : Kiln → Kiln) : (q.mapKln f).prt = q.prt := rfl
@[simp] theorem mapKln_dec (f : Kiln → Kiln) : (q.mapKln f).dec = q.dec := rfl
@[simp] theorem mapKln_dma (f : Kiln → Kiln) : (q.mapKln f).dma = q.dma := rfl
@[simp] theorem mapKln_flt (f : Kiln → Kiln) : (q.mapKln f).flt = q.flt := rfl
@[simp] theorem mapKln_hp (f : Kiln → Kiln) : (q.mapKln f).hp = q.hp := rfl
@[simp] theorem mapKln_rst (f : Kiln → Kiln) : (q.mapKln f).rst = q.rst := rfl
@[simp] theorem mapKln_gridDue (f : Kiln → Kiln) : (q.mapKln f).gridDue = q.gridDue := rfl
@[simp] theorem mapKln_autoHpn (f : Kiln → Kiln) : (q.mapKln f).autoHpn = q.autoHpn := rfl
@[simp] theorem mapKln_aged (f : Kiln → Kiln) : (q.mapKln f).aged = q.aged := rfl
@[simp] theorem mapKln_bndFine (f : Kiln → Kiln) : (q.mapKln f).bndFine = q.bndFine := rfl
@[simp] theorem mapKln_bndCclk (f : Kiln → Kiln) : (q.mapKln f).bndCclk = q.bndCclk := rfl
@[simp] theorem mapKln_bndNs (f : Kiln → Kiln) : (q.mapKln f).bndNs = q.bndNs := rfl
@[simp] theorem mapKln_bndFr (f : Kiln → Kiln) : (q.mapKln f).bndFr = q.bndFr := rfl
@[simp] theorem mapKln_tick (f : Kiln → Kiln) : (q.mapKln f).tick = q.tick := rfl
@[simp] theorem mapKln_running (f : Kiln → Kiln) : (q.mapKln f).running = q.running := rfl
@[simp] theorem mapKln_gridRan (f : Kiln → Kiln) : (q.mapKln f).gridRan = q.gridRan := rfl
@[simp] theorem mapKln_pinLow (f : Kiln → Kiln) : (q.mapKln f).pinLow = q.pinLow := rfl
@[simp] theorem mapKln_tickHi (f : Kiln → Kiln) : (q.mapKln f).tickHi = q.tickHi := rfl
@[simp] theorem mapKln_cclk (f : Kiln → Kiln) : (q.mapKln f).cclk = q.cclk := rfl
@[simp] theorem mapKln_phase (f : Kiln → Kiln) : (q.mapKln f).phase = q.phase := rfl
@[simp] theorem mapKln_freeCtr (f : Kiln → Kiln) : (q.mapKln f).freeCtr = q.freeCtr := rfl

/-! ### `Quad.mapClk` changes `clk` -/

@[simp] theorem mapClk_regs (f : Clk → Clk) : (q.mapClk f).regs = q.regs := rfl
@[simp] theorem mapClk_mem (f : Clk → Clk) : (q.mapClk f).mem = q.mem := rfl
@[simp] theorem mapClk_ecc (f : Clk → Clk) : (q.mapClk f).ecc = q.ecc := rfl
@[simp] theorem mapClk_eccBack (f : Clk → Clk) : (q.mapClk f).eccBack = q.eccBack := rfl
@[simp] theorem mapClk_cores (f : Clk → Clk) : (q.mapClk f).cores = q.cores := rfl
@[simp] theorem mapClk_mode (f : Clk → Clk) : (q.mapClk f).mode = q.mode := rfl
@[simp] theorem mapClk_change (f : Clk → Clk) : (q.mapClk f).change = q.change := rfl
@[simp] theorem mapClk_sch (f : Clk → Clk) : (q.mapClk f).sch = q.sch := rfl
@[simp] theorem mapClk_fab (f : Clk → Clk) : (q.mapClk f).fab = q.fab := rfl
@[simp] theorem mapClk_kln (f : Clk → Clk) : (q.mapClk f).kln = q.kln := rfl
@[simp] theorem mapClk_hpn (f : Clk → Clk) : (q.mapClk f).hpn = q.hpn := rfl
@[simp] theorem mapClk_tim (f : Clk → Clk) : (q.mapClk f).tim = q.tim := rfl
@[simp] theorem mapClk_net (f : Clk → Clk) : (q.mapClk f).net = q.net := rfl
@[simp] theorem mapClk_snx (f : Clk → Clk) : (q.mapClk f).snx = q.snx := rfl
@[simp] theorem mapClk_prt (f : Clk → Clk) : (q.mapClk f).prt = q.prt := rfl
@[simp] theorem mapClk_dec (f : Clk → Clk) : (q.mapClk f).dec = q.dec := rfl
@[simp] theorem mapClk_dma (f : Clk → Clk) : (q.mapClk f).dma = q.dma := rfl
@[simp] theorem mapClk_flt (f : Clk → Clk) : (q.mapClk f).flt = q.flt := rfl
@[simp] theorem mapClk_hp (f : Clk → Clk) : (q.mapClk f).hp = q.hp := rfl
@[simp] theorem mapClk_rst (f : Clk → Clk) : (q.mapClk f).rst = q.rst := rfl
@[simp] theorem mapClk_gridDue (f : Clk → Clk) : (q.mapClk f).gridDue = q.gridDue := rfl
@[simp] theorem mapClk_autoHpn (f : Clk → Clk) : (q.mapClk f).autoHpn = q.autoHpn := rfl
@[simp] theorem mapClk_aged (f : Clk → Clk) : (q.mapClk f).aged = q.aged := rfl
@[simp] theorem mapClk_bndFine (f : Clk → Clk) : (q.mapClk f).bndFine = q.bndFine := rfl
@[simp] theorem mapClk_bndCclk (f : Clk → Clk) : (q.mapClk f).bndCclk = q.bndCclk := rfl
@[simp] theorem mapClk_bndNs (f : Clk → Clk) : (q.mapClk f).bndNs = q.bndNs := rfl
@[simp] theorem mapClk_bndFr (f : Clk → Clk) : (q.mapClk f).bndFr = q.bndFr := rfl
@[simp] theorem mapClk_tick (f : Clk → Clk) : (q.mapClk f).tick = q.tick := rfl
@[simp] theorem mapClk_running (f : Clk → Clk) : (q.mapClk f).running = q.running := rfl
@[simp] theorem mapClk_gridRan (f : Clk → Clk) : (q.mapClk f).gridRan = q.gridRan := rfl
@[simp] theorem mapClk_pinLow (f : Clk → Clk) : (q.mapClk f).pinLow = q.pinLow := rfl
@[simp] theorem mapClk_tickHi (f : Clk → Clk) : (q.mapClk f).tickHi = q.tickHi := rfl
@[simp] theorem mapClk_cclk (f : Clk → Clk) : (q.mapClk f).cclk = q.cclk := rfl
@[simp] theorem mapClk_phase (f : Clk → Clk) : (q.mapClk f).phase = q.phase := rfl
@[simp] theorem mapClk_freeCtr (f : Clk → Clk) : (q.mapClk f).freeCtr = q.freeCtr := rfl

/-! ### `Quad.mapTim` changes `tim` -/

@[simp] theorem mapTim_regs (f : Tim → Tim) : (q.mapTim f).regs = q.regs := rfl
@[simp] theorem mapTim_mem (f : Tim → Tim) : (q.mapTim f).mem = q.mem := rfl
@[simp] theorem mapTim_ecc (f : Tim → Tim) : (q.mapTim f).ecc = q.ecc := rfl
@[simp] theorem mapTim_eccBack (f : Tim → Tim) : (q.mapTim f).eccBack = q.eccBack := rfl
@[simp] theorem mapTim_cores (f : Tim → Tim) : (q.mapTim f).cores = q.cores := rfl
@[simp] theorem mapTim_mode (f : Tim → Tim) : (q.mapTim f).mode = q.mode := rfl
@[simp] theorem mapTim_change (f : Tim → Tim) : (q.mapTim f).change = q.change := rfl
@[simp] theorem mapTim_sch (f : Tim → Tim) : (q.mapTim f).sch = q.sch := rfl
@[simp] theorem mapTim_fab (f : Tim → Tim) : (q.mapTim f).fab = q.fab := rfl
@[simp] theorem mapTim_kln (f : Tim → Tim) : (q.mapTim f).kln = q.kln := rfl
@[simp] theorem mapTim_hpn (f : Tim → Tim) : (q.mapTim f).hpn = q.hpn := rfl
@[simp] theorem mapTim_clk (f : Tim → Tim) : (q.mapTim f).clk = q.clk := rfl
@[simp] theorem mapTim_net (f : Tim → Tim) : (q.mapTim f).net = q.net := rfl
@[simp] theorem mapTim_snx (f : Tim → Tim) : (q.mapTim f).snx = q.snx := rfl
@[simp] theorem mapTim_prt (f : Tim → Tim) : (q.mapTim f).prt = q.prt := rfl
@[simp] theorem mapTim_dec (f : Tim → Tim) : (q.mapTim f).dec = q.dec := rfl
@[simp] theorem mapTim_dma (f : Tim → Tim) : (q.mapTim f).dma = q.dma := rfl
@[simp] theorem mapTim_flt (f : Tim → Tim) : (q.mapTim f).flt = q.flt := rfl
@[simp] theorem mapTim_hp (f : Tim → Tim) : (q.mapTim f).hp = q.hp := rfl
@[simp] theorem mapTim_rst (f : Tim → Tim) : (q.mapTim f).rst = q.rst := rfl
@[simp] theorem mapTim_gridDue (f : Tim → Tim) : (q.mapTim f).gridDue = q.gridDue := rfl
@[simp] theorem mapTim_autoHpn (f : Tim → Tim) : (q.mapTim f).autoHpn = q.autoHpn := rfl
@[simp] theorem mapTim_aged (f : Tim → Tim) : (q.mapTim f).aged = q.aged := rfl
@[simp] theorem mapTim_bndFine (f : Tim → Tim) : (q.mapTim f).bndFine = q.bndFine := rfl
@[simp] theorem mapTim_bndCclk (f : Tim → Tim) : (q.mapTim f).bndCclk = q.bndCclk := rfl
@[simp] theorem mapTim_bndNs (f : Tim → Tim) : (q.mapTim f).bndNs = q.bndNs := rfl
@[simp] theorem mapTim_bndFr (f : Tim → Tim) : (q.mapTim f).bndFr = q.bndFr := rfl
@[simp] theorem mapTim_tick (f : Tim → Tim) : (q.mapTim f).tick = q.tick := rfl
@[simp] theorem mapTim_running (f : Tim → Tim) : (q.mapTim f).running = q.running := rfl
@[simp] theorem mapTim_gridRan (f : Tim → Tim) : (q.mapTim f).gridRan = q.gridRan := rfl
@[simp] theorem mapTim_pinLow (f : Tim → Tim) : (q.mapTim f).pinLow = q.pinLow := rfl
@[simp] theorem mapTim_tickHi (f : Tim → Tim) : (q.mapTim f).tickHi = q.tickHi := rfl
@[simp] theorem mapTim_cclk (f : Tim → Tim) : (q.mapTim f).cclk = q.cclk := rfl
@[simp] theorem mapTim_phase (f : Tim → Tim) : (q.mapTim f).phase = q.phase := rfl
@[simp] theorem mapTim_freeCtr (f : Tim → Tim) : (q.mapTim f).freeCtr = q.freeCtr := rfl

/-! ### `Quad.mapSnx` changes `snx` -/

@[simp] theorem mapSnx_regs (f : Snx → Snx) : (q.mapSnx f).regs = q.regs := rfl
@[simp] theorem mapSnx_mem (f : Snx → Snx) : (q.mapSnx f).mem = q.mem := rfl
@[simp] theorem mapSnx_ecc (f : Snx → Snx) : (q.mapSnx f).ecc = q.ecc := rfl
@[simp] theorem mapSnx_eccBack (f : Snx → Snx) : (q.mapSnx f).eccBack = q.eccBack := rfl
@[simp] theorem mapSnx_cores (f : Snx → Snx) : (q.mapSnx f).cores = q.cores := rfl
@[simp] theorem mapSnx_mode (f : Snx → Snx) : (q.mapSnx f).mode = q.mode := rfl
@[simp] theorem mapSnx_change (f : Snx → Snx) : (q.mapSnx f).change = q.change := rfl
@[simp] theorem mapSnx_sch (f : Snx → Snx) : (q.mapSnx f).sch = q.sch := rfl
@[simp] theorem mapSnx_fab (f : Snx → Snx) : (q.mapSnx f).fab = q.fab := rfl
@[simp] theorem mapSnx_kln (f : Snx → Snx) : (q.mapSnx f).kln = q.kln := rfl
@[simp] theorem mapSnx_hpn (f : Snx → Snx) : (q.mapSnx f).hpn = q.hpn := rfl
@[simp] theorem mapSnx_clk (f : Snx → Snx) : (q.mapSnx f).clk = q.clk := rfl
@[simp] theorem mapSnx_tim (f : Snx → Snx) : (q.mapSnx f).tim = q.tim := rfl
@[simp] theorem mapSnx_net (f : Snx → Snx) : (q.mapSnx f).net = q.net := rfl
@[simp] theorem mapSnx_prt (f : Snx → Snx) : (q.mapSnx f).prt = q.prt := rfl
@[simp] theorem mapSnx_dec (f : Snx → Snx) : (q.mapSnx f).dec = q.dec := rfl
@[simp] theorem mapSnx_dma (f : Snx → Snx) : (q.mapSnx f).dma = q.dma := rfl
@[simp] theorem mapSnx_flt (f : Snx → Snx) : (q.mapSnx f).flt = q.flt := rfl
@[simp] theorem mapSnx_hp (f : Snx → Snx) : (q.mapSnx f).hp = q.hp := rfl
@[simp] theorem mapSnx_rst (f : Snx → Snx) : (q.mapSnx f).rst = q.rst := rfl
@[simp] theorem mapSnx_gridDue (f : Snx → Snx) : (q.mapSnx f).gridDue = q.gridDue := rfl
@[simp] theorem mapSnx_autoHpn (f : Snx → Snx) : (q.mapSnx f).autoHpn = q.autoHpn := rfl
@[simp] theorem mapSnx_aged (f : Snx → Snx) : (q.mapSnx f).aged = q.aged := rfl
@[simp] theorem mapSnx_bndFine (f : Snx → Snx) : (q.mapSnx f).bndFine = q.bndFine := rfl
@[simp] theorem mapSnx_bndCclk (f : Snx → Snx) : (q.mapSnx f).bndCclk = q.bndCclk := rfl
@[simp] theorem mapSnx_bndNs (f : Snx → Snx) : (q.mapSnx f).bndNs = q.bndNs := rfl
@[simp] theorem mapSnx_bndFr (f : Snx → Snx) : (q.mapSnx f).bndFr = q.bndFr := rfl
@[simp] theorem mapSnx_tick (f : Snx → Snx) : (q.mapSnx f).tick = q.tick := rfl
@[simp] theorem mapSnx_running (f : Snx → Snx) : (q.mapSnx f).running = q.running := rfl
@[simp] theorem mapSnx_gridRan (f : Snx → Snx) : (q.mapSnx f).gridRan = q.gridRan := rfl
@[simp] theorem mapSnx_pinLow (f : Snx → Snx) : (q.mapSnx f).pinLow = q.pinLow := rfl
@[simp] theorem mapSnx_tickHi (f : Snx → Snx) : (q.mapSnx f).tickHi = q.tickHi := rfl
@[simp] theorem mapSnx_cclk (f : Snx → Snx) : (q.mapSnx f).cclk = q.cclk := rfl
@[simp] theorem mapSnx_phase (f : Snx → Snx) : (q.mapSnx f).phase = q.phase := rfl
@[simp] theorem mapSnx_freeCtr (f : Snx → Snx) : (q.mapSnx f).freeCtr = q.freeCtr := rfl

/-! ### `Quad.mapPrt` changes `prt` -/

@[simp] theorem mapPrt_regs (f : Ports → Ports) : (q.mapPrt f).regs = q.regs := rfl
@[simp] theorem mapPrt_mem (f : Ports → Ports) : (q.mapPrt f).mem = q.mem := rfl
@[simp] theorem mapPrt_ecc (f : Ports → Ports) : (q.mapPrt f).ecc = q.ecc := rfl
@[simp] theorem mapPrt_eccBack (f : Ports → Ports) : (q.mapPrt f).eccBack = q.eccBack := rfl
@[simp] theorem mapPrt_cores (f : Ports → Ports) : (q.mapPrt f).cores = q.cores := rfl
@[simp] theorem mapPrt_mode (f : Ports → Ports) : (q.mapPrt f).mode = q.mode := rfl
@[simp] theorem mapPrt_change (f : Ports → Ports) : (q.mapPrt f).change = q.change := rfl
@[simp] theorem mapPrt_sch (f : Ports → Ports) : (q.mapPrt f).sch = q.sch := rfl
@[simp] theorem mapPrt_fab (f : Ports → Ports) : (q.mapPrt f).fab = q.fab := rfl
@[simp] theorem mapPrt_kln (f : Ports → Ports) : (q.mapPrt f).kln = q.kln := rfl
@[simp] theorem mapPrt_hpn (f : Ports → Ports) : (q.mapPrt f).hpn = q.hpn := rfl
@[simp] theorem mapPrt_clk (f : Ports → Ports) : (q.mapPrt f).clk = q.clk := rfl
@[simp] theorem mapPrt_tim (f : Ports → Ports) : (q.mapPrt f).tim = q.tim := rfl
@[simp] theorem mapPrt_net (f : Ports → Ports) : (q.mapPrt f).net = q.net := rfl
@[simp] theorem mapPrt_snx (f : Ports → Ports) : (q.mapPrt f).snx = q.snx := rfl
@[simp] theorem mapPrt_dec (f : Ports → Ports) : (q.mapPrt f).dec = q.dec := rfl
@[simp] theorem mapPrt_dma (f : Ports → Ports) : (q.mapPrt f).dma = q.dma := rfl
@[simp] theorem mapPrt_flt (f : Ports → Ports) : (q.mapPrt f).flt = q.flt := rfl
@[simp] theorem mapPrt_hp (f : Ports → Ports) : (q.mapPrt f).hp = q.hp := rfl
@[simp] theorem mapPrt_rst (f : Ports → Ports) : (q.mapPrt f).rst = q.rst := rfl
@[simp] theorem mapPrt_gridDue (f : Ports → Ports) : (q.mapPrt f).gridDue = q.gridDue := rfl
@[simp] theorem mapPrt_autoHpn (f : Ports → Ports) : (q.mapPrt f).autoHpn = q.autoHpn := rfl
@[simp] theorem mapPrt_aged (f : Ports → Ports) : (q.mapPrt f).aged = q.aged := rfl
@[simp] theorem mapPrt_bndFine (f : Ports → Ports) : (q.mapPrt f).bndFine = q.bndFine := rfl
@[simp] theorem mapPrt_bndCclk (f : Ports → Ports) : (q.mapPrt f).bndCclk = q.bndCclk := rfl
@[simp] theorem mapPrt_bndNs (f : Ports → Ports) : (q.mapPrt f).bndNs = q.bndNs := rfl
@[simp] theorem mapPrt_bndFr (f : Ports → Ports) : (q.mapPrt f).bndFr = q.bndFr := rfl
@[simp] theorem mapPrt_tick (f : Ports → Ports) : (q.mapPrt f).tick = q.tick := rfl
@[simp] theorem mapPrt_running (f : Ports → Ports) : (q.mapPrt f).running = q.running := rfl
@[simp] theorem mapPrt_gridRan (f : Ports → Ports) : (q.mapPrt f).gridRan = q.gridRan := rfl
@[simp] theorem mapPrt_pinLow (f : Ports → Ports) : (q.mapPrt f).pinLow = q.pinLow := rfl
@[simp] theorem mapPrt_tickHi (f : Ports → Ports) : (q.mapPrt f).tickHi = q.tickHi := rfl
@[simp] theorem mapPrt_cclk (f : Ports → Ports) : (q.mapPrt f).cclk = q.cclk := rfl
@[simp] theorem mapPrt_phase (f : Ports → Ports) : (q.mapPrt f).phase = q.phase := rfl
@[simp] theorem mapPrt_freeCtr (f : Ports → Ports) : (q.mapPrt f).freeCtr = q.freeCtr := rfl

/-! ### `Quad.mapDec` changes `dec` -/

@[simp] theorem mapDec_regs (f : Dec → Dec) : (q.mapDec f).regs = q.regs := rfl
@[simp] theorem mapDec_mem (f : Dec → Dec) : (q.mapDec f).mem = q.mem := rfl
@[simp] theorem mapDec_ecc (f : Dec → Dec) : (q.mapDec f).ecc = q.ecc := rfl
@[simp] theorem mapDec_eccBack (f : Dec → Dec) : (q.mapDec f).eccBack = q.eccBack := rfl
@[simp] theorem mapDec_cores (f : Dec → Dec) : (q.mapDec f).cores = q.cores := rfl
@[simp] theorem mapDec_mode (f : Dec → Dec) : (q.mapDec f).mode = q.mode := rfl
@[simp] theorem mapDec_change (f : Dec → Dec) : (q.mapDec f).change = q.change := rfl
@[simp] theorem mapDec_sch (f : Dec → Dec) : (q.mapDec f).sch = q.sch := rfl
@[simp] theorem mapDec_fab (f : Dec → Dec) : (q.mapDec f).fab = q.fab := rfl
@[simp] theorem mapDec_kln (f : Dec → Dec) : (q.mapDec f).kln = q.kln := rfl
@[simp] theorem mapDec_hpn (f : Dec → Dec) : (q.mapDec f).hpn = q.hpn := rfl
@[simp] theorem mapDec_clk (f : Dec → Dec) : (q.mapDec f).clk = q.clk := rfl
@[simp] theorem mapDec_tim (f : Dec → Dec) : (q.mapDec f).tim = q.tim := rfl
@[simp] theorem mapDec_net (f : Dec → Dec) : (q.mapDec f).net = q.net := rfl
@[simp] theorem mapDec_snx (f : Dec → Dec) : (q.mapDec f).snx = q.snx := rfl
@[simp] theorem mapDec_prt (f : Dec → Dec) : (q.mapDec f).prt = q.prt := rfl
@[simp] theorem mapDec_dma (f : Dec → Dec) : (q.mapDec f).dma = q.dma := rfl
@[simp] theorem mapDec_flt (f : Dec → Dec) : (q.mapDec f).flt = q.flt := rfl
@[simp] theorem mapDec_hp (f : Dec → Dec) : (q.mapDec f).hp = q.hp := rfl
@[simp] theorem mapDec_rst (f : Dec → Dec) : (q.mapDec f).rst = q.rst := rfl
@[simp] theorem mapDec_gridDue (f : Dec → Dec) : (q.mapDec f).gridDue = q.gridDue := rfl
@[simp] theorem mapDec_autoHpn (f : Dec → Dec) : (q.mapDec f).autoHpn = q.autoHpn := rfl
@[simp] theorem mapDec_aged (f : Dec → Dec) : (q.mapDec f).aged = q.aged := rfl
@[simp] theorem mapDec_bndFine (f : Dec → Dec) : (q.mapDec f).bndFine = q.bndFine := rfl
@[simp] theorem mapDec_bndCclk (f : Dec → Dec) : (q.mapDec f).bndCclk = q.bndCclk := rfl
@[simp] theorem mapDec_bndNs (f : Dec → Dec) : (q.mapDec f).bndNs = q.bndNs := rfl
@[simp] theorem mapDec_bndFr (f : Dec → Dec) : (q.mapDec f).bndFr = q.bndFr := rfl
@[simp] theorem mapDec_tick (f : Dec → Dec) : (q.mapDec f).tick = q.tick := rfl
@[simp] theorem mapDec_running (f : Dec → Dec) : (q.mapDec f).running = q.running := rfl
@[simp] theorem mapDec_gridRan (f : Dec → Dec) : (q.mapDec f).gridRan = q.gridRan := rfl
@[simp] theorem mapDec_pinLow (f : Dec → Dec) : (q.mapDec f).pinLow = q.pinLow := rfl
@[simp] theorem mapDec_tickHi (f : Dec → Dec) : (q.mapDec f).tickHi = q.tickHi := rfl
@[simp] theorem mapDec_cclk (f : Dec → Dec) : (q.mapDec f).cclk = q.cclk := rfl
@[simp] theorem mapDec_phase (f : Dec → Dec) : (q.mapDec f).phase = q.phase := rfl
@[simp] theorem mapDec_freeCtr (f : Dec → Dec) : (q.mapDec f).freeCtr = q.freeCtr := rfl

/-! ### `Quad.mapDma` changes `dma` -/

@[simp] theorem mapDma_regs (f : Dma → Dma) : (q.mapDma f).regs = q.regs := rfl
@[simp] theorem mapDma_mem (f : Dma → Dma) : (q.mapDma f).mem = q.mem := rfl
@[simp] theorem mapDma_ecc (f : Dma → Dma) : (q.mapDma f).ecc = q.ecc := rfl
@[simp] theorem mapDma_eccBack (f : Dma → Dma) : (q.mapDma f).eccBack = q.eccBack := rfl
@[simp] theorem mapDma_cores (f : Dma → Dma) : (q.mapDma f).cores = q.cores := rfl
@[simp] theorem mapDma_mode (f : Dma → Dma) : (q.mapDma f).mode = q.mode := rfl
@[simp] theorem mapDma_change (f : Dma → Dma) : (q.mapDma f).change = q.change := rfl
@[simp] theorem mapDma_sch (f : Dma → Dma) : (q.mapDma f).sch = q.sch := rfl
@[simp] theorem mapDma_fab (f : Dma → Dma) : (q.mapDma f).fab = q.fab := rfl
@[simp] theorem mapDma_kln (f : Dma → Dma) : (q.mapDma f).kln = q.kln := rfl
@[simp] theorem mapDma_hpn (f : Dma → Dma) : (q.mapDma f).hpn = q.hpn := rfl
@[simp] theorem mapDma_clk (f : Dma → Dma) : (q.mapDma f).clk = q.clk := rfl
@[simp] theorem mapDma_tim (f : Dma → Dma) : (q.mapDma f).tim = q.tim := rfl
@[simp] theorem mapDma_net (f : Dma → Dma) : (q.mapDma f).net = q.net := rfl
@[simp] theorem mapDma_snx (f : Dma → Dma) : (q.mapDma f).snx = q.snx := rfl
@[simp] theorem mapDma_prt (f : Dma → Dma) : (q.mapDma f).prt = q.prt := rfl
@[simp] theorem mapDma_dec (f : Dma → Dma) : (q.mapDma f).dec = q.dec := rfl
@[simp] theorem mapDma_flt (f : Dma → Dma) : (q.mapDma f).flt = q.flt := rfl
@[simp] theorem mapDma_hp (f : Dma → Dma) : (q.mapDma f).hp = q.hp := rfl
@[simp] theorem mapDma_rst (f : Dma → Dma) : (q.mapDma f).rst = q.rst := rfl
@[simp] theorem mapDma_gridDue (f : Dma → Dma) : (q.mapDma f).gridDue = q.gridDue := rfl
@[simp] theorem mapDma_autoHpn (f : Dma → Dma) : (q.mapDma f).autoHpn = q.autoHpn := rfl
@[simp] theorem mapDma_aged (f : Dma → Dma) : (q.mapDma f).aged = q.aged := rfl
@[simp] theorem mapDma_bndFine (f : Dma → Dma) : (q.mapDma f).bndFine = q.bndFine := rfl
@[simp] theorem mapDma_bndCclk (f : Dma → Dma) : (q.mapDma f).bndCclk = q.bndCclk := rfl
@[simp] theorem mapDma_bndNs (f : Dma → Dma) : (q.mapDma f).bndNs = q.bndNs := rfl
@[simp] theorem mapDma_bndFr (f : Dma → Dma) : (q.mapDma f).bndFr = q.bndFr := rfl
@[simp] theorem mapDma_tick (f : Dma → Dma) : (q.mapDma f).tick = q.tick := rfl
@[simp] theorem mapDma_running (f : Dma → Dma) : (q.mapDma f).running = q.running := rfl
@[simp] theorem mapDma_gridRan (f : Dma → Dma) : (q.mapDma f).gridRan = q.gridRan := rfl
@[simp] theorem mapDma_pinLow (f : Dma → Dma) : (q.mapDma f).pinLow = q.pinLow := rfl
@[simp] theorem mapDma_tickHi (f : Dma → Dma) : (q.mapDma f).tickHi = q.tickHi := rfl
@[simp] theorem mapDma_cclk (f : Dma → Dma) : (q.mapDma f).cclk = q.cclk := rfl
@[simp] theorem mapDma_phase (f : Dma → Dma) : (q.mapDma f).phase = q.phase := rfl
@[simp] theorem mapDma_freeCtr (f : Dma → Dma) : (q.mapDma f).freeCtr = q.freeCtr := rfl

/-! ### `Quad.mapHp` changes `hp` -/

@[simp] theorem mapHp_regs (f : HostPort → HostPort) : (q.mapHp f).regs = q.regs := rfl
@[simp] theorem mapHp_mem (f : HostPort → HostPort) : (q.mapHp f).mem = q.mem := rfl
@[simp] theorem mapHp_ecc (f : HostPort → HostPort) : (q.mapHp f).ecc = q.ecc := rfl
@[simp] theorem mapHp_eccBack (f : HostPort → HostPort) : (q.mapHp f).eccBack = q.eccBack := rfl
@[simp] theorem mapHp_cores (f : HostPort → HostPort) : (q.mapHp f).cores = q.cores := rfl
@[simp] theorem mapHp_mode (f : HostPort → HostPort) : (q.mapHp f).mode = q.mode := rfl
@[simp] theorem mapHp_change (f : HostPort → HostPort) : (q.mapHp f).change = q.change := rfl
@[simp] theorem mapHp_sch (f : HostPort → HostPort) : (q.mapHp f).sch = q.sch := rfl
@[simp] theorem mapHp_fab (f : HostPort → HostPort) : (q.mapHp f).fab = q.fab := rfl
@[simp] theorem mapHp_kln (f : HostPort → HostPort) : (q.mapHp f).kln = q.kln := rfl
@[simp] theorem mapHp_hpn (f : HostPort → HostPort) : (q.mapHp f).hpn = q.hpn := rfl
@[simp] theorem mapHp_clk (f : HostPort → HostPort) : (q.mapHp f).clk = q.clk := rfl
@[simp] theorem mapHp_tim (f : HostPort → HostPort) : (q.mapHp f).tim = q.tim := rfl
@[simp] theorem mapHp_net (f : HostPort → HostPort) : (q.mapHp f).net = q.net := rfl
@[simp] theorem mapHp_snx (f : HostPort → HostPort) : (q.mapHp f).snx = q.snx := rfl
@[simp] theorem mapHp_prt (f : HostPort → HostPort) : (q.mapHp f).prt = q.prt := rfl
@[simp] theorem mapHp_dec (f : HostPort → HostPort) : (q.mapHp f).dec = q.dec := rfl
@[simp] theorem mapHp_dma (f : HostPort → HostPort) : (q.mapHp f).dma = q.dma := rfl
@[simp] theorem mapHp_flt (f : HostPort → HostPort) : (q.mapHp f).flt = q.flt := rfl
@[simp] theorem mapHp_rst (f : HostPort → HostPort) : (q.mapHp f).rst = q.rst := rfl
@[simp] theorem mapHp_gridDue (f : HostPort → HostPort) : (q.mapHp f).gridDue = q.gridDue := rfl
@[simp] theorem mapHp_autoHpn (f : HostPort → HostPort) : (q.mapHp f).autoHpn = q.autoHpn := rfl
@[simp] theorem mapHp_aged (f : HostPort → HostPort) : (q.mapHp f).aged = q.aged := rfl
@[simp] theorem mapHp_bndFine (f : HostPort → HostPort) : (q.mapHp f).bndFine = q.bndFine := rfl
@[simp] theorem mapHp_bndCclk (f : HostPort → HostPort) : (q.mapHp f).bndCclk = q.bndCclk := rfl
@[simp] theorem mapHp_bndNs (f : HostPort → HostPort) : (q.mapHp f).bndNs = q.bndNs := rfl
@[simp] theorem mapHp_bndFr (f : HostPort → HostPort) : (q.mapHp f).bndFr = q.bndFr := rfl
@[simp] theorem mapHp_tick (f : HostPort → HostPort) : (q.mapHp f).tick = q.tick := rfl
@[simp] theorem mapHp_running (f : HostPort → HostPort) : (q.mapHp f).running = q.running := rfl
@[simp] theorem mapHp_gridRan (f : HostPort → HostPort) : (q.mapHp f).gridRan = q.gridRan := rfl
@[simp] theorem mapHp_pinLow (f : HostPort → HostPort) : (q.mapHp f).pinLow = q.pinLow := rfl
@[simp] theorem mapHp_tickHi (f : HostPort → HostPort) : (q.mapHp f).tickHi = q.tickHi := rfl
@[simp] theorem mapHp_cclk (f : HostPort → HostPort) : (q.mapHp f).cclk = q.cclk := rfl
@[simp] theorem mapHp_phase (f : HostPort → HostPort) : (q.mapHp f).phase = q.phase := rfl
@[simp] theorem mapHp_freeCtr (f : HostPort → HostPort) : (q.mapHp f).freeCtr = q.freeCtr := rfl

/-! ### `Quad.commit` changes `mem` -/

@[simp] theorem commit_regs : (q.commit).regs = q.regs := rfl
@[simp] theorem commit_ecc : (q.commit).ecc = q.ecc := rfl
@[simp] theorem commit_eccBack : (q.commit).eccBack = q.eccBack := rfl
@[simp] theorem commit_cores : (q.commit).cores = q.cores := rfl
@[simp] theorem commit_mode : (q.commit).mode = q.mode := rfl
@[simp] theorem commit_change : (q.commit).change = q.change := rfl
@[simp] theorem commit_sch : (q.commit).sch = q.sch := rfl
@[simp] theorem commit_fab : (q.commit).fab = q.fab := rfl
@[simp] theorem commit_kln : (q.commit).kln = q.kln := rfl
@[simp] theorem commit_hpn : (q.commit).hpn = q.hpn := rfl
@[simp] theorem commit_clk : (q.commit).clk = q.clk := rfl
@[simp] theorem commit_tim : (q.commit).tim = q.tim := rfl
@[simp] theorem commit_net : (q.commit).net = q.net := rfl
@[simp] theorem commit_snx : (q.commit).snx = q.snx := rfl
@[simp] theorem commit_prt : (q.commit).prt = q.prt := rfl
@[simp] theorem commit_dec : (q.commit).dec = q.dec := rfl
@[simp] theorem commit_dma : (q.commit).dma = q.dma := rfl
@[simp] theorem commit_flt : (q.commit).flt = q.flt := rfl
@[simp] theorem commit_hp : (q.commit).hp = q.hp := rfl
@[simp] theorem commit_rst : (q.commit).rst = q.rst := rfl
@[simp] theorem commit_gridDue : (q.commit).gridDue = q.gridDue := rfl
@[simp] theorem commit_autoHpn : (q.commit).autoHpn = q.autoHpn := rfl
@[simp] theorem commit_aged : (q.commit).aged = q.aged := rfl
@[simp] theorem commit_bndFine : (q.commit).bndFine = q.bndFine := rfl
@[simp] theorem commit_bndCclk : (q.commit).bndCclk = q.bndCclk := rfl
@[simp] theorem commit_bndNs : (q.commit).bndNs = q.bndNs := rfl
@[simp] theorem commit_bndFr : (q.commit).bndFr = q.bndFr := rfl
@[simp] theorem commit_tick : (q.commit).tick = q.tick := rfl
@[simp] theorem commit_running : (q.commit).running = q.running := rfl
@[simp] theorem commit_gridRan : (q.commit).gridRan = q.gridRan := rfl
@[simp] theorem commit_pinLow : (q.commit).pinLow = q.pinLow := rfl
@[simp] theorem commit_tickHi : (q.commit).tickHi = q.tickHi := rfl
@[simp] theorem commit_cclk : (q.commit).cclk = q.cclk := rfl
@[simp] theorem commit_phase : (q.commit).phase = q.phase := rfl
@[simp] theorem commit_freeCtr : (q.commit).freeCtr = q.freeCtr := rfl

end Sys2Proof.Machine.Laws
end

