-- ==== Sys2Proof/Laws/Ops.lean ====
section
/-! SUPPORT. What the shared operations of Machine/Ops.lean do: fields and registers, memory, cores, and the four ways a command acts. -/

namespace Sys2Proof.Machine.Laws

/-- A number cut at two bit positions. -/
theorem cut (W lo n : Nat) : W = W / 2 ^ (lo + n) * 2 ^ (lo + n) + (W / 2 ^ lo % 2 ^ n) * 2 ^ lo + W % 2 ^ lo := by
  have h1 := Nat.div_add_mod (W / 2 ^ lo) (2 ^ n)
  have h2 := Nat.div_add_mod W (2 ^ lo)
  rw [Nat.div_div_eq_div_mul, ← Nat.pow_add] at h1
  have h3 : 2 ^ lo * (W / 2 ^ lo) = W / 2 ^ (lo + n) * 2 ^ (lo + n) + (W / 2 ^ lo % 2 ^ n) * 2 ^ lo := by
    conv_lhs => rw [← h1]
    rw [Nat.mul_add, Nat.pow_add]; ring
  omega

theorem put_toNat (f : Field) (w : W32) (v : Nat) (h : f.lo ≤ f.hi) (h' : f.hi < 32) :
    (f.put w v).toNat = w.toNat / 2 ^ (f.hi + 1) * 2 ^ (f.hi + 1) + (v % 2 ^ (f.hi - f.lo + 1)) * 2 ^ f.lo + w.toNat % 2 ^ f.lo := by
  have e : f.lo + (f.hi - f.lo + 1) = f.hi + 1 := by omega
  have hc := cut w.toNat f.lo (f.hi - f.lo + 1)
  rw [e] at hc
  have hw := w.isLt
  simp only [Field.put, Field.get, Nat.shiftRight_eq_div_pow, Nat.shiftLeft_eq, BitVec.toNat_ofNat]
  have hs : w.toNat - (w.toNat / 2 ^ f.lo % 2 ^ (f.hi - f.lo + 1)) * 2 ^ f.lo + (v % 2 ^ (f.hi - f.lo + 1)) * 2 ^ f.lo
      = w.toNat / 2 ^ (f.hi + 1) * 2 ^ (f.hi + 1) + (v % 2 ^ (f.hi - f.lo + 1)) * 2 ^ f.lo + w.toNat % 2 ^ f.lo := by omega
  rw [hs]
  apply Nat.mod_eq_of_lt
  have hlt : v % 2 ^ (f.hi - f.lo + 1) < 2 ^ (f.hi - f.lo + 1) := Nat.mod_lt _ (by positivity)
  have hl : w.toNat % 2 ^ f.lo < 2 ^ f.lo := Nat.mod_lt _ (by positivity)
  have h1 : (v % 2 ^ (f.hi - f.lo + 1)) * 2 ^ f.lo + w.toNat % 2 ^ f.lo < 2 ^ (f.hi + 1) := by
    calc _ < (v % 2 ^ (f.hi - f.lo + 1)) * 2 ^ f.lo + 2 ^ f.lo := by omega
      _ = (v % 2 ^ (f.hi - f.lo + 1) + 1) * 2 ^ f.lo := by ring
      _ ≤ 2 ^ (f.hi - f.lo + 1) * 2 ^ f.lo := Nat.mul_le_mul_right _ hlt
      _ = 2 ^ (f.hi + 1) := by rw [← Nat.pow_add]; congr 1; omega
  have e2 : (2:Nat) ^ 32 = 2 ^ (31 - f.hi) * 2 ^ (f.hi + 1) := by rw [← Nat.pow_add]; congr 1; omega
  have h2 : w.toNat / 2 ^ (f.hi + 1) < 2 ^ (31 - f.hi) := by
    apply Nat.div_lt_of_lt_mul; rw [Nat.mul_comm, ← e2]; exact hw
  calc _ < w.toNat / 2 ^ (f.hi + 1) * 2 ^ (f.hi + 1) + 2 ^ (f.hi + 1) := by omega
    _ = (w.toNat / 2 ^ (f.hi + 1) + 1) * 2 ^ (f.hi + 1) := by ring
    _ ≤ 2 ^ (31 - f.hi) * 2 ^ (f.hi + 1) := Nat.mul_le_mul_right _ h2
    _ = 2 ^ 32 := e2.symm

theorem get_put (f : Field) (w : W32) (v : Nat) (h : f.lo ≤ f.hi) (h' : f.hi < 32) :
    f.get (f.put w v) = v % 2 ^ (f.hi - f.lo + 1) := by
  have e : 2 ^ (f.hi + 1) = 2 ^ (f.hi - f.lo + 1) * 2 ^ f.lo := by rw [← Nat.pow_add]; congr 1; omega
  have hl : w.toNat % 2 ^ f.lo < 2 ^ f.lo := Nat.mod_lt _ (by positivity)
  rw [Field.get, put_toNat f w v h h', Nat.shiftRight_eq_div_pow, e, ← Nat.mul_assoc, ← Nat.add_mul, Nat.add_comm,
    Nat.add_mul_div_right _ _ (by positivity), Nat.div_eq_of_lt hl, Nat.zero_add, Nat.mul_add_mod_self_right, Nat.mod_mod]

theorem get_put_other (f g : Field) (w : W32) (v : Nat) (h : f.lo ≤ f.hi) (h' : f.hi < 32) (hg : g.lo ≤ g.hi)
    (hd : g.hi < f.lo ∨ f.hi < g.lo) : g.get (f.put w v) = g.get w := by
  have hp := put_toNat f w v h h'
  have hc := cut w.toNat f.lo (f.hi - f.lo + 1)
  have e : f.lo + (f.hi - f.lo + 1) = f.hi + 1 := by omega
  rw [e] at hc
  simp only [Field.get, Nat.shiftRight_eq_div_pow]
  rcases hd with hd | hd
  · -- below the field
    have key : ∀ x y : Nat, x % 2 ^ f.lo = y % 2 ^ f.lo → x / 2 ^ g.lo % 2 ^ (g.hi - g.lo + 1) = y / 2 ^ g.lo % 2 ^ (g.hi - g.lo + 1) := by
      intro x y hxy
      have : ∀ z : Nat, z / 2 ^ g.lo % 2 ^ (g.hi - g.lo + 1) = (z % 2 ^ f.lo) / 2 ^ g.lo % 2 ^ (g.hi - g.lo + 1) := by
        intro z
        apply Nat.eq_of_testBit_eq; intro i
        simp only [Nat.testBit_mod_two_pow, Nat.testBit_div_two_pow]
        by_cases hi : i < g.hi - g.lo + 1
        · have : i + g.lo < f.lo := by omega
          simp [hi, this]
        · simp [hi]
      rw [this x, this y, hxy]
    apply key
    rw [hp]
    have e2 : 2 ^ (f.hi + 1) = 2 ^ (f.hi - f.lo + 1) * 2 ^ f.lo := by rw [← Nat.pow_add]; congr 1; omega
    rw [e2, ← Nat.mul_assoc, ← Nat.add_mul, Nat.mul_add_mod_self_right, Nat.mod_mod]
  · have key : ∀ x y : Nat, x / 2 ^ (f.hi + 1) = y / 2 ^ (f.hi + 1) → x / 2 ^ g.lo = y / 2 ^ g.lo := by
      intro x y hxy
      have e3 : 2 ^ g.lo = 2 ^ (f.hi + 1) * 2 ^ (g.lo - (f.hi + 1)) := by rw [← Nat.pow_add]; congr 1; omega
      rw [e3, ← Nat.div_div_eq_div_mul, ← Nat.div_div_eq_div_mul, hxy]
    rw [key]
    rw [hp]
    have hl : w.toNat % 2 ^ f.lo < 2 ^ f.lo := Nat.mod_lt _ (by positivity)
    have hlt : v % 2 ^ (f.hi - f.lo + 1) < 2 ^ (f.hi - f.lo + 1) := Nat.mod_lt _ (by positivity)
    have h1 : (v % 2 ^ (f.hi - f.lo + 1)) * 2 ^ f.lo + w.toNat % 2 ^ f.lo < 2 ^ (f.hi + 1) := by
      calc _ < (v % 2 ^ (f.hi - f.lo + 1)) * 2 ^ f.lo + 2 ^ f.lo := by omega
        _ = (v % 2 ^ (f.hi - f.lo + 1) + 1) * 2 ^ f.lo := by ring
        _ ≤ 2 ^ (f.hi - f.lo + 1) * 2 ^ f.lo := Nat.mul_le_mul_right _ hlt
        _ = 2 ^ (f.hi + 1) := by rw [← Nat.pow_add]; congr 1; omega
    rw [Nat.add_assoc, Nat.add_comm, Nat.add_mul_div_right _ _ (by positivity), Nat.div_eq_of_lt h1, Nat.zero_add]

/-! ### Sparse maps and registers -/

@[simp] theorem find_put_self {α : Type} (m : SMap α) (k : Nat) (v : α) : (m.put k v).find k = some v := by
  induction m with
  | nil => simp [SMap.put, SMap.find]
  | cons e t ih =>
    obtain ⟨j, w⟩ := e
    simp only [SMap.put]
    split
    · simp [SMap.find]
    · split
      · simp [SMap.find]
      · rename_i h1 h2
        simp [SMap.find, Ne.symm h2, ih]

theorem find_put_ne {α : Type} (m : SMap α) {j k : Nat} (v : α) (h : j ≠ k) : (m.put k v).find j = m.find j := by
  induction m with
  | nil => simp [SMap.put, SMap.find, Ne.symm h]
  | cons e t ih =>
    obtain ⟨i, w⟩ := e
    simp only [SMap.put]
    split
    · simp [SMap.find, Ne.symm h]
    · split
      · rename_i h1 h2; subst h2; simp [SMap.find, Ne.symm h]
      · simp only [SMap.find]; split <;> simp_all

@[simp] theorem rd_wr (q : Quad) (o : Nat) (v : W32) : (q.wr o v).rd o = v := by simp [Quad.rd, Quad.wr]

theorem rd_wr_ne (q : Quad) {o p : Nat} (v : W32) (h : p ≠ o) : (q.wr o v).rd p = q.rd p := by
  simp [Quad.rd, Quad.wr, find_put_ne _ _ h]

/-- A field read back after it was set: the value cut to the field's width. -/
theorem fld_setFld (q : Quad) (f : Field) (v : Nat) (h : f.lo ≤ f.hi) (h' : f.hi < 32) :
    (q.setFld f v).fld f = v % 2 ^ (f.hi - f.lo + 1) := by
  simp [Quad.setFld, Quad.fld, get_put f _ v h h']

/-- A field of another register, or at other bits of the same register, is not touched by the setting of a field. -/
theorem fld_setFld_other (q : Quad) (f g : Field) (v : Nat) (h : f.lo ≤ f.hi) (h' : f.hi < 32) (hg : g.lo ≤ g.hi)
    (hd : g.off ≠ f.off ∨ g.hi < f.lo ∨ f.hi < g.lo) : (q.setFld f v).fld g = q.fld g := by
  by_cases e : g.off = f.off
  · have hd' : g.hi < f.lo ∨ f.hi < g.lo := hd.resolve_left (not_not.mpr e)
    simp [Quad.setFld, Quad.fld, e, get_put_other f g _ v h h' hg hd']
  · simp [Quad.setFld, Quad.fld, rd_wr_ne _ _ e]

/-- A register at another offset is not touched by the setting of a field. -/
theorem rd_setFld_ne (q : Quad) (f : Field) (v : Nat) {p : Nat} (h : p ≠ f.off) : (q.setFld f v).rd p = q.rd p :=
  rd_wr_ne _ _ h

/-! ### Memory -/

@[simp] theorem read_write_self (m : Memory) (hm : m.wf) (a : Nat) (b : Byte) : (m.write a b).read a = b := by
  induction m with
  | nil =>
    simp only [Memory.write]
    split
    · rename_i h; simp [Memory.read, h]
    · simp [Memory.read]
  | cons e t ih =>
    obtain ⟨k, c⟩ := e
    obtain ⟨hs, hz⟩ := hm
    rw [List.pairwise_cons] at hs
    have ht : Memory.wf t := ⟨hs.2, fun x hx => hz x (List.mem_cons_of_mem _ hx)⟩
    have absent : ∀ (l : Memory), (∀ x ∈ l, a < x.1) → l.read a = 0 := by
      intro l hl
      induction l with
      | nil => rfl
      | cons y l ihl =>
        have := hl y (List.mem_cons_self ..)
        simp only [Memory.read]
        rw [if_neg (by omega)]
        exact ihl fun x hx => hl x (List.mem_cons_of_mem _ hx)
    simp only [Memory.write]
    split
    · rename_i hlt
      by_cases h : b = 0
      · rw [if_pos h, h]
        apply absent
        intro x hx
        rcases List.mem_cons.mp hx with rfl | hx
        · exact hlt
        · exact Nat.lt_trans hlt (hs.1 x hx)
      · rw [if_neg h]; simp [Memory.read]
    · split
      · rename_i _ he
        by_cases h : b = 0
        · rw [if_pos h, h]
          exact absent t fun x hx => he ▸ hs.1 x hx
        · rw [if_neg h]; simp [Memory.read]
      · rename_i _ hne
        simp [Memory.read, Ne.symm hne, ih ht]

theorem read_write_ne (m : Memory) {a a' : Nat} (b : Byte) (h : a' ≠ a) : (m.write a b).read a' = m.read a' := by
  induction m with
  | nil => simp only [Memory.write]; split <;> simp [Memory.read, Ne.symm h]
  | cons e t ih =>
    obtain ⟨k, c⟩ := e
    simp only [Memory.write]
    split
    · split <;> simp [Memory.read, Ne.symm h]
    · split
      · rename_i _ he
        subst he
        split <;> simp [Memory.read, Ne.symm h]
      · simp only [Memory.read]; split <;> simp_all

/-- Every address of a written memory is the one written or was listed before. -/
theorem mem_write {m : Memory} {a : Nat} {b : Byte} {x : Nat × Byte} (h : x ∈ m.write a b) : x.1 = a ∨ x ∈ m := by
  induction m with
  | nil =>
    simp only [Memory.write] at h
    split at h
    · exact Or.inr h
    · exact Or.inl (congrArg Prod.fst (List.mem_singleton.mp h))
  | cons e t ih =>
    obtain ⟨k, c⟩ := e
    simp only [Memory.write] at h
    split at h
    · split at h
      · exact Or.inr h
      · rcases List.mem_cons.mp h with rfl | h
        · exact Or.inl rfl
        · exact Or.inr h
    · split at h
      · split at h
        · exact Or.inr (List.mem_cons_of_mem _ h)
        · rcases List.mem_cons.mp h with rfl | h
          · exact Or.inl rfl
          · exact Or.inr (List.mem_cons_of_mem _ h)
      · rcases List.mem_cons.mp h with rfl | h
        · exact Or.inr (List.mem_cons_self ..)
        · exact (ih h).imp id (List.mem_cons_of_mem _)

/-- A write keeps the canonical form. -/
theorem wf_write (m : Memory) (hm : m.wf) (a : Nat) (b : Byte) : (m.write a b).wf := by
  induction m with
  | nil =>
    simp only [Memory.write]
    split
    · exact hm
    · rename_i hb
      exact ⟨List.pairwise_singleton .., fun x hx => by rw [List.mem_singleton.mp hx]; exact hb⟩
  | cons e t ih =>
    obtain ⟨k, c⟩ := e
    obtain ⟨hs, hz⟩ := hm
    have hs' := List.pairwise_cons.mp hs
    have ht : Memory.wf t := ⟨hs'.2, fun x hx => hz x (List.mem_cons_of_mem _ hx)⟩
    simp only [Memory.write]
    split
    · rename_i hlt
      split
      · exact ⟨hs, hz⟩
      · rename_i hb
        refine ⟨List.pairwise_cons.mpr ⟨?_, hs⟩, ?_⟩
        · intro x hx
          rcases List.mem_cons.mp hx with rfl | hx
          · exact hlt
          · exact Nat.lt_trans hlt (hs'.1 x hx)
        · intro x hx
          rcases List.mem_cons.mp hx with rfl | hx
          · exact hb
          · exact hz x hx
    · split
      · rename_i _ he
        split
        · exact ht
        · rename_i hb
          refine ⟨List.pairwise_cons.mpr ⟨fun x hx => he ▸ hs'.1 x hx, hs'.2⟩, ?_⟩
          intro x hx
          rcases List.mem_cons.mp hx with rfl | hx
          · exact hb
          · exact ht.2 x hx
      · rename_i h1 h2
        obtain ⟨w1, w2⟩ := ih ht
        refine ⟨List.pairwise_cons.mpr ⟨?_, w1⟩, ?_⟩
        · intro x hx
          rcases mem_write hx with hx | hx
          · rw [hx]; show k < a; omega
          · exact hs'.1 x hx
        · intro x hx
          rcases List.mem_cons.mp hx with rfl | hx
          · exact hz _ (List.mem_cons_self ..)
          · exact w2 x hx

/-- A memory brought to canonical form has it. -/
theorem wf_normal (m : Memory) : m.normal.wf := by
  unfold Memory.normal
  induction m with
  | nil => exact ⟨List.Pairwise.nil, by simp⟩
  | cons e t ih => exact wf_write _ ih _ _

/-- A memory brought to canonical form holds the same bytes. -/
@[simp] theorem read_normal (m : Memory) (a : Nat) : m.normal.read a = m.read a := by
  induction m with
  | nil => rfl
  | cons e t ih =>
    obtain ⟨k, c⟩ := e
    show (Memory.write (Memory.normal t) k c).read a = _
    by_cases h : a = k
    · subst h; simp [read_write_self _ (wf_normal t), Memory.read]
    · rw [read_write_ne _ _ h, ih]; simp [Memory.read, Ne.symm h]

theorem write_below (m : Memory) (a : Nat) (b : Byte) (hb : b ≠ 0) (h : ∀ x ∈ m, a < x.1) : m.write a b = (a, b) :: m := by
  cases m with
  | nil => exact if_neg hb
  | cons e t =>
    have := h e (List.mem_cons_self ..)
    obtain ⟨k, c⟩ := e
    simp only [Memory.write]
    rw [if_pos this, if_neg hb]

/-- A memory in canonical form is already that. -/
@[simp] theorem normal_of_wf (m : Memory) (h : m.wf) : m.normal = m := by
  induction m with
  | nil => rfl
  | cons e t ih =>
    obtain ⟨k, c⟩ := e
    obtain ⟨hs, hz⟩ := h
    have hs' := List.pairwise_cons.mp hs
    show Memory.write (Memory.normal t) k c = _
    rw [ih ⟨hs'.2, fun x hx => hz x (List.mem_cons_of_mem _ hx)⟩]
    exact write_below _ _ _ (hz _ (List.mem_cons_self ..)) hs'.1

theorem readLE_congr {m m' : Memory} {a n : Nat} (h : ∀ x, a ≤ x → x < a + n → m.read x = m'.read x) : m.readLE a n = m'.readLE a n := by
  induction n generalizing a with
  | zero => rfl
  | succ n ih =>
    simp only [Memory.readLE]
    rw [h a (Nat.le_refl _) (by omega), ih fun x h1 h2 => h x (by omega) (by omega)]

@[simp] theorem readLE_normal (m : Memory) (a n : Nat) : m.normal.readLE a n = m.readLE a n := readLE_congr fun x _ _ => read_normal m x

@[simp] theorem word40_normal (m : Memory) (a : Nat) : m.normal.word40 a = m.word40 a := by simp [Memory.word40]

/-- Bytes written leave every other address. -/
theorem read_writeBytes_ne (m : Memory) (a x : Nat) (l : List Byte) (h : x < a ∨ a + l.length ≤ x) : (m.writeBytes a l).read x = m.read x := by
  induction l generalizing m a with
  | nil => rfl
  | cons b t ih =>
    simp only [List.length_cons] at h
    rw [Memory.writeBytes, ih _ _ (by omega), read_write_ne _ _ (by omega)]

theorem wf_writeBytes (m : Memory) (hm : m.wf) (a : Nat) (l : List Byte) : (m.writeBytes a l).wf := by
  induction l generalizing m a with
  | nil => exact hm
  | cons b t ih => exact ih _ (wf_write m hm a b) _

/-- Bytes written are those read back. -/
theorem read_writeBytes (m : Memory) (hm : m.wf) (a : Nat) (l : List Byte) (i : Nat) (h : i < l.length) :
    (m.writeBytes a l).read (a + i) = l[i] := by
  induction l generalizing m a i with
  | nil => simp at h
  | cons b t ih =>
    rw [Memory.writeBytes]
    cases i with
    | zero =>
      rw [read_writeBytes_ne _ _ _ _ (by omega)]
      exact read_write_self m hm a b
    | succ i =>
      have := ih (m.write a b) (wf_write m hm a b) (a + 1) i (by simpa using h)
      rw [show a + (i + 1) = a + 1 + i by omega, this]; rfl

@[simp] theorem bytesLE_length (v n : Nat) : (bytesLE v n).length = n := by
  induction n generalizing v with
  | zero => rfl
  | succ n ih => simp [bytesLE, ih]

theorem readLE_write_bytesLE (m : Memory) (hm : m.wf) (a v n : Nat) : (m.writeBytes a (bytesLE v n)).readLE a n = v % 256 ^ n := by
  induction n generalizing m a v with
  | zero => simp [Memory.readLE, Nat.mod_one]
  | succ n ih =>
    simp only [bytesLE, Memory.writeBytes, Memory.readLE]
    rw [ih _ (wf_write m hm a _), read_writeBytes_ne _ _ _ _ (by omega), read_write_self m hm]
    rw [BitVec.toNat_ofNat, show 256 ^ (n + 1) = 256 * 256 ^ n from Nat.pow_succ', Nat.mod_mul]

/-! ### Cores -/

@[simp] theorem core_setCore (q : Quad) (c : Fin 17) (k : Core) : (q.setCore c k).core c = k := by simp [Quad.setCore, Quad.core]

theorem core_setCore_ne (q : Quad) {c d : Fin 17} (k : Core) (h : d ≠ c) : (q.setCore c k).core d = q.core d := by
  have : c.val ≠ d.val := fun e => h (Fin.ext e.symm)
  simp [Quad.setCore, Quad.core, this]

@[simp] theorem setCore_setCore (q : Quad) (c : Fin 17) (k k' : Core) : (q.setCore c k).setCore c k' = q.setCore c k' := by
  simp [Quad.setCore, Vector.set_set]

/-! ### How a command acts on the device -/

@[simp] theorem quad_setQuad (d : Device) (i : QId) (q : Quad) : (d.setQuad i q).quad i = q := by cases i <;> rfl

theorem quad_setQuad_ne (d : Device) {i j : QId} (q : Quad) (h : j ≠ i) : (d.setQuad i q).quad j = d.quad j := by
  cases i <;> cases j <;> first | rfl | exact absurd rfl h

@[simp] theorem host_setQuad (d : Device) (i : QId) (q : Quad) : (d.setQuad i q).host = d.host := by cases i <;> rfl

/-- What a command on one quadrant answers: that quadrant changed and in canonical form, nothing else touched. -/
theorem onQ_next {i : QId} {f : Quad → Quad} {s t : State} (h : onQ i f s = .next t) :
    t.quad i = (f (s.quad i)).commit ∧ (∀ j, j ≠ i → t.quad j = s.quad j) ∧ t.dev.host = s.dev.host ∧ t.pending = s.pending := by
  obtain rfl : _ = t := by simpa [onQ] using h
  exact ⟨quad_setQuad .., fun j hj => quad_setQuad_ne _ _ hj, host_setQuad .., rfl⟩

/-- A command on one quadrant answers a next state. -/
theorem onQ_completes (i : QId) (f : Quad → Quad) (s : State) :
    ∃ t, onQ i f s = .next t ∧ t.quad i = (f (s.quad i)).commit ∧ (∀ j, j ≠ i → t.quad j = s.quad j) ∧
      t.dev.host = s.dev.host ∧ t.pending = s.pending := ⟨_, rfl, onQ_next rfl⟩

/-- What a command on the host domain answers. -/
theorem onH_completes (f : HostDom → HostDom) (s : State) :
    ∃ t, onH f s = .next t ∧ t.dev.host = { f s.dev.host with staging := (f s.dev.host).staging.normal } ∧
      (∀ j, t.quad j = s.quad j) ∧ t.pending = s.pending :=
  ⟨_, rfl, rfl, fun j => by cases j <;> rfl, rfl⟩

/-- What a command on a quadrant and the host domain answers. -/
theorem onQH_completes (i : QId) (f : Quad → HostDom → Quad × HostDom) (s : State) :
    ∃ t, onQH i f s = .next t ∧ t.quad i = (f (s.quad i) s.dev.host).1.commit ∧ (∀ j, j ≠ i → t.quad j = s.quad j) ∧
      t.dev.host = { (f (s.quad i) s.dev.host).2 with staging := (f (s.quad i) s.dev.host).2.staging.normal } ∧
      t.pending = s.pending := by
  refine ⟨_, rfl, ?_, fun j hj => ?_, rfl, rfl⟩
  · cases i <;> rfl
  · cases i <;> cases j <;> first | rfl | exact absurd rfl hj

/-- What a command on the whole device answers: every quadrant in canonical form. -/
theorem onAll_completes (f : Device → Device) (s : State) :
    ∃ t, onAll f s = .next t ∧ (∀ j, t.quad j = ((f s.dev).quad j).commit) ∧
      t.dev.host = { (f s.dev).host with staging := (f s.dev).host.staging.normal } ∧ t.pending = s.pending :=
  ⟨_, rfl, fun j => by cases j <;> rfl, rfl, rfl⟩

@[simp] theorem commit_mem_wf (q : Quad) : q.commit.mem.wf := wf_normal _

/-- A quadrant brought to canonical form reads the same. -/
@[simp] theorem commit_read (q : Quad) (a : Nat) : q.commit.mem.read a = q.mem.read a := read_normal _ _

@[simp] theorem commit_rd (q : Quad) (o : Nat) : q.commit.rd o = q.rd o := rfl
@[simp] theorem commit_fld (q : Quad) (f : Field) : q.commit.fld f = q.fld f := rfl
@[simp] theorem commit_core (q : Quad) (c : Fin 17) : q.commit.core c = q.core c := rfl

end Sys2Proof.Machine.Laws
end

