-- ==== Sys2Proof/Laws/Issue.lean ====
section
/-! SUPPORT. The issue of an instruction: what a cycle keeps of its core, and what the issue of an instruction without moves answers. -/

namespace Sys2Proof.Machine.Laws

/-! ### What a landing keeps -/

/-- What the landing of results leaves of a core: everything but its register sets, system registers and destinations. -/
structure Kept (k k' : Core) : Prop where
  act : k'.act = k.act
  pc : k'.pc = k.pc
  slots : k'.slots = k.slots
  target : k'.target = k.target
  rep : k'.rep = k.rep
  wait : k'.wait = k.wait
  evWait : k'.evWait = k.evWait
  run : k'.run = k.run
  assigned : k'.assigned = k.assigned
  evtRun : k'.evtRun = k.evtRun
  parked : k'.parked = k.parked
  bootFetch : k'.bootFetch = k.bootFetch
  stopped : k'.stopped = k.stopped
  pos : k'.pos = k.pos
  lock : k'.lock = k.lock
  pendEvt : k'.pendEvt = k.pendEvt
  pendTick : k'.pendTick = k.pendTick
  pendDbg : k'.pendDbg = k.pendDbg
  reqs : k.reqs = [] → k'.reqs = []
  ask : k.ask = none → k'.ask = none

theorem Kept.refl (k : Core) : Kept k k := by constructor <;> simp

theorem Kept.trans {a b c : Core} (h : Kept a b) (g : Kept b c) : Kept a c := by
  obtain ⟨⟩ := h
  obtain ⟨⟩ := g
  constructor <;> simp_all

theorem kept_setSet (k : Core) (b : Bool) (r : RegSet) : Kept k (k.setSet b r) := by
  cases b <;> constructor <;> simp [Core.setSet]

theorem kept_landOne (k : Core) (b : Bool) (d : Dst) : Kept k (k.landOne b d) := by
  cases d with
  | reg r v =>
    refine (kept_setSet k b ((k.getSet b).write r v)).trans ?_
    simp only [Core.landOne, Core.putReg]
    constructor <;> simp_all
  | acc n v m => exact kept_setSet ..
  | flags m v => exact kept_setSet ..
  | sticky x => exact kept_setSet ..
  | sys n v =>
    simp only [Core.landOne, Core.putSys]
    split <;> first | exact kept_setSet .. | (split <;> constructor <;> simp) | (constructor <;> simp)

theorem kept_foldl (l : List Flight) (k : Core) : Kept k (l.foldl (fun k f => k.landOne f.set f.dst) k) := by
  induction l generalizing k with
  | nil => exact Kept.refl k
  | cons f t ih => exact (kept_landOne k f.set f.dst).trans (ih _)

/-- What a cycle keeps of its core. -/
theorem kept_cycle (per : Nat) (k : Core) : Kept k (k.cycle per) := by
  have h0 : Kept k { k with flights := stepFlights [] k.flights } := by constructor <;> simp
  refine (h0.trans (kept_foldl (((k.flights.filter fun f => decide (f.due ≤ 1)).filter fun f => !f.isSticky) ++
    ((k.flights.filter fun f => decide (f.due ≤ 1)).filter fun f => f.isSticky)) { k with flights := stepFlights [] k.flights })).trans ?_
  constructor <;> simp [Core.cycle, Core.landDue]

/-! ### The issue of an instruction -/

@[simp] theorem issuer_act (s : State) (i : Issue) : (s.issuer i).act = ((s.quad i.q).core i.c).act := (kept_cycle (cclkPerTick (s.quad i.q).fi) ((s.quad i.q).core i.c)).act
@[simp] theorem issuer_pc (s : State) (i : Issue) : (s.issuer i).pc = ((s.quad i.q).core i.c).pc := (kept_cycle (cclkPerTick (s.quad i.q).fi) ((s.quad i.q).core i.c)).pc
@[simp] theorem issuer_slots (s : State) (i : Issue) : (s.issuer i).slots = ((s.quad i.q).core i.c).slots := (kept_cycle (cclkPerTick (s.quad i.q).fi) ((s.quad i.q).core i.c)).slots
@[simp] theorem issuer_target (s : State) (i : Issue) : (s.issuer i).target = ((s.quad i.q).core i.c).target := (kept_cycle (cclkPerTick (s.quad i.q).fi) ((s.quad i.q).core i.c)).target
@[simp] theorem issuer_rep (s : State) (i : Issue) : (s.issuer i).rep = ((s.quad i.q).core i.c).rep := (kept_cycle (cclkPerTick (s.quad i.q).fi) ((s.quad i.q).core i.c)).rep
@[simp] theorem issuer_wait (s : State) (i : Issue) : (s.issuer i).wait = ((s.quad i.q).core i.c).wait := (kept_cycle (cclkPerTick (s.quad i.q).fi) ((s.quad i.q).core i.c)).wait
@[simp] theorem issuer_evWait (s : State) (i : Issue) : (s.issuer i).evWait = ((s.quad i.q).core i.c).evWait := (kept_cycle (cclkPerTick (s.quad i.q).fi) ((s.quad i.q).core i.c)).evWait
@[simp] theorem issuer_run (s : State) (i : Issue) : (s.issuer i).run = ((s.quad i.q).core i.c).run := (kept_cycle (cclkPerTick (s.quad i.q).fi) ((s.quad i.q).core i.c)).run
@[simp] theorem issuer_assigned (s : State) (i : Issue) : (s.issuer i).assigned = ((s.quad i.q).core i.c).assigned := (kept_cycle (cclkPerTick (s.quad i.q).fi) ((s.quad i.q).core i.c)).assigned
@[simp] theorem issuer_evtRun (s : State) (i : Issue) : (s.issuer i).evtRun = ((s.quad i.q).core i.c).evtRun := (kept_cycle (cclkPerTick (s.quad i.q).fi) ((s.quad i.q).core i.c)).evtRun
@[simp] theorem issuer_bootFetch (s : State) (i : Issue) : (s.issuer i).bootFetch = ((s.quad i.q).core i.c).bootFetch := (kept_cycle (cclkPerTick (s.quad i.q).fi) ((s.quad i.q).core i.c)).bootFetch
@[simp] theorem issuer_stopped (s : State) (i : Issue) : (s.issuer i).stopped = ((s.quad i.q).core i.c).stopped := (kept_cycle (cclkPerTick (s.quad i.q).fi) ((s.quad i.q).core i.c)).stopped
@[simp] theorem issuer_pos (s : State) (i : Issue) : (s.issuer i).pos = ((s.quad i.q).core i.c).pos := (kept_cycle (cclkPerTick (s.quad i.q).fi) ((s.quad i.q).core i.c)).pos
@[simp] theorem issuer_lock (s : State) (i : Issue) : (s.issuer i).lock = ((s.quad i.q).core i.c).lock := (kept_cycle (cclkPerTick (s.quad i.q).fi) ((s.quad i.q).core i.c)).lock
@[simp] theorem issuer_pendEvt (s : State) (i : Issue) : (s.issuer i).pendEvt = ((s.quad i.q).core i.c).pendEvt := (kept_cycle (cclkPerTick (s.quad i.q).fi) ((s.quad i.q).core i.c)).pendEvt
@[simp] theorem issuer_pendTick (s : State) (i : Issue) : (s.issuer i).pendTick = ((s.quad i.q).core i.c).pendTick := (kept_cycle (cclkPerTick (s.quad i.q).fi) ((s.quad i.q).core i.c)).pendTick
@[simp] theorem issuer_pendDbg (s : State) (i : Issue) : (s.issuer i).pendDbg = ((s.quad i.q).core i.c).pendDbg := (kept_cycle (cclkPerTick (s.quad i.q).fi) ((s.quad i.q).core i.c)).pendDbg
@[simp] theorem issuer_parked (s : State) (i : Issue) : (s.issuer i).parked = false := rfl

theorem issuer_reqs (s : State) (i : Issue) (h : s.issues i) : (s.issuer i).reqs = [] :=
  (kept_cycle (cclkPerTick (s.quad i.q).fi) ((s.quad i.q).core i.c)).reqs h.2.2.2.2.2.2.1

theorem issuer_ask (s : State) (i : Issue) (h : s.issues i) : (s.issuer i).ask = none :=
  (kept_cycle (cclkPerTick (s.quad i.q).fi) ((s.quad i.q).core i.c)).ask h.2.2.2.2.2.2.2

@[simp] theorem setCore_core (q : Quad) (c : Fin 17) : q.setCore c (q.core c) = q := by
  obtain ⟨⟩ := q
  simp [Quad.setCore, Quad.core]

/-- A core that is not position 0 of the bound pair is alone in what happens to it. -/
theorem pairMap_alone (q : Quad) (c : Fin 17) (f : Core → Core) (h : q.pairStore c = false) : q.pairMap c f = q := by
  simp [Quad.pairMap, h]

/-- A core that can take an instruction by itself is not position 0 of the bound pair, whatever it comes to hold. -/
theorem issues_alone (s : State) (i : Issue) (h : s.issues i) (k : Core) (hk : k.pos = ((s.quad i.q).core i.c).pos) :
    ((s.quad i.q).setCore i.c k).pairStore i.c = false := by
  unfold Quad.pairStore
  rw [core_setCore]
  have hl : ((s.quad i.q).setCore i.c k).locked = (s.quad i.q).locked := rfl
  rw [hl]
  cases hlk : (s.quad i.q).locked with
  | false => rfl
  | true =>
    have h2 := h.2.2.2.1 hlk
    have : (k.pos == 0) = false := by
      apply beq_false_of_ne; intro e; rw [← hk, e] at h2; simp at h2
    simp [this]

/-- A core that is not position 0 of the bound pair fetches for itself alone. -/
theorem followFetch_alone (q : Quad) (c : Fin 17) (a : PAddr) (h : q.pairStore c = false) : q.followFetch c a = (none, q) := by
  simp only [Quad.followFetch, Quad.followRead, h, Bool.false_eq_true, if_false]
  split <;> rfl

/-- An instruction that needs no move, in a core that can take it, whose own causes are none: its results go out, then it acts. -/
theorem issue_open (s : State) (i : Issue) (plan : Quad → Core → Plan) (h : s.issues i) :
    let q := (s.quad i.q).setCore i.c (s.issuer i)
    let p := plan q (s.issuer i)
    p.moves = some {} → p.traps = [] → dupTraps p.writes [] = [] →
      (s.quad i.q).issue i plan = p.act (q.setCore i.c ((s.issuer i).putAll p.puts)) i.c := by
  intro q p hm ht hd
  have hcy := issues_alone s i h _ (kept_cycle (cclkPerTick (s.quad i.q).fi) ((s.quad i.q).core i.c)).pos
  have hal : q.pairStore i.c = false := issues_alone s i h (s.issuer i) (issuer_pos s i)
  obtain ⟨hu, hi, hr, hl, hc, hf, hq, ha⟩ := h
  have hreq := issuer_reqs s i ⟨hu, hi, hr, hl, hc, hf, hq, ha⟩
  have hask := issuer_ask s i ⟨hu, hi, hr, hl, hc, hf, hq, ha⟩
  have hfol : (s.quad i.q).follows i.c = false := by
    unfold Quad.follows
    cases hlk : (s.quad i.q).locked with
    | false => rfl
    | true =>
      have := hl hlk
      have : (((s.quad i.q).core i.c).pos == 1) = false := by
        apply beq_false_of_ne; intro e; rw [e] at this; simp at this
      simp [this]
  have hcl : ((s.quad i.q).setCore i.c (((s.quad i.q).core i.c).cycle (cclkPerTick (s.quad i.q).fi))).closed i.c = false := by
    rw [← hc]
    have hk := kept_cycle (cclkPerTick (s.quad i.q).fi) ((s.quad i.q).core i.c)
    simp only [Quad.closed, core_setCore, setCore_mode, hk.act, hk.wait, hk.evWait, hk.stopped, hk.pos]
  have hcore : q.core i.c = s.issuer i := core_setCore ..
  have hstrike : (s.quad i.q).strike i.upset = s.quad i.q := by rw [hu]; rfl
  have hpar : ((s.quad i.q).setCore i.c (((s.quad i.q).core i.c).cycle (cclkPerTick (s.quad i.q).fi))).setCore i.c
      { (((s.quad i.q).setCore i.c (((s.quad i.q).core i.c).cycle (cclkPerTick (s.quad i.q).fi))).core i.c) with parked := false } = q := by
    rw [core_setCore, setCore_setCore]; rfl
  have hatt : q.attempt i p = p.act (q.setCore i.c ((s.issuer i).putAll p.puts)) i.c := by
    have hfetch : (if (q.core i.c).rep = 0 then q.fetch i.c (q.core i.c).pc else (.clean, q)) = (Ecc.clean, q) := by
      split
      · rename_i h0
        rw [hcore, issuer_rep] at h0
        obtain ⟨hb, he⟩ := hf h0
        have he' : q.eccAt (pmAddr i.c ((s.quad i.q).core i.c).pc.toNat) = .clean := he
        simp [Quad.fetch, hcore, hb, he']
      · rfl
    have hff : q.followFetch i.c ((s.issuer i).pc) = (none, q) := by
      exact followFetch_alone q i.c _ hal
    have hst : (q.core i.c).stalls p {} = false := by
      simp [Core.stalls, Core.awaited, hcore, hreq, hask]
    have hit : q.issueTraps i p {} = [] := by
      have hw : p.writes ++ ({} : PMove).writes = p.writes := by simp [PMove.writes]
      have hs : ({} : PMove).stepped = [] := rfl
      simp only [Quad.issueTraps, hr, ht, hw, hs, hd]
      rfl
    simp only [Quad.attempt, hcore, hff, ite_self] at hfetch hst hit ⊢
    simp only [hfetch, hm, hst, hit]
    simp only [Quad.perform, hcore, Quad.doMoves]
    simp [PMove.accs]
  simp only [Quad.issue, hstrike, hfol, Bool.false_eq_true, if_false]
  rw [pairMap_alone _ _ _ hcy]
  simp only [hcl, hpar, hi, hal, Bool.false_and, Bool.false_eq_true, if_false, hcore]
  exact hatt

/-- An instruction that only gives results: its core alone changes, by the results and the advance of the program counter. -/
theorem issue_plain (s : State) (i : Issue) (plan : Quad → Core → Plan) (h : s.issues i) :
    let p := plan ((s.quad i.q).setCore i.c (s.issuer i)) (s.issuer i)
    p.moves = some {} → p.traps = [] → dupTraps p.writes [] = [] → p.act = (fun q c => q.setCore c (q.core c).advance) →
      onQ i.q (Quad.issue i plan) s = .next (s.withCore i.q i.c ((s.issuer i).putAll p.puts).advance) := by
  intro p hm ht hd ha
  have := issue_open s i plan h hm ht hd
  simp only [onQ, this]
  show Host.Outcome.next _ = Host.Outcome.next _
  rw [ha]
  simp only [core_setCore, setCore_setCore]
  rfl

end Sys2Proof.Machine.Laws
end

