-- ==== Sys2Proof/Laws/Records.lean ====
section
/-! SUPPORT. What the records of a quadrant change: completion records, kept events, ring records, fault records. -/

namespace Sys2Proof.Machine.Laws

/-! ### Completion records (R444) -/

/-- A completion record: told to the host, and nothing else changes. -/
theorem completeRec_told (q : Quad) (r : CplRec) : Told q.hp (q.completeRec r).hp r ∧ q.completeRec r = { q with hp := (q.completeRec r).hp } := by
  refine ⟨?_, rfl⟩
  unfold Told Quad.completeRec
  dsimp only
  split
  · rename_i h
    exact ⟨rfl, fun e => absurd (h.symm.trans e) (by decide)⟩
  · rename_i h
    exact ⟨rfl, fun _ => find_put_self ..⟩

/-- The record of a command: stamped now. -/
theorem complete_told (q : Quad) (seq : W32) (op status aux : Nat) (resA : W32) :
    Told q.hp (q.complete seq op status aux resA).hp (q.stamped status op aux seq resA) ∧
      q.complete seq op status aux resA = { q with hp := (q.complete seq op status aux resA).hp } := completeRec_told q _

/-! ### Kept events and interrupts -/

/-- A kept event changes the host port and nothing else. -/
theorem log_frame (q : Quad) (code : BitVec 16) (sev : BitVec 8) (a0 : W32) (a1 : BitVec 16) :
    q.log code sev a0 a1 = { q with hp := (q.log code sev a0 a1).hp } ∧
      (q.log code sev a0 a1).hp = { q.hp with events := (q.log code sev a0 a1).hp.events, eventsLost := (q.log code sev a0 a1).hp.eventsLost } := by
  unfold Quad.log; split <;> exact ⟨rfl, rfl⟩

/-! ### Ring records (R191) -/

/-- A ring record changes memory, its error marks and the ring's registers, and nothing else. -/
theorem ringPush_frame (q : Quad) (b l w r o : Field) (ws : List W32) :
    q.ringPush b l w r o ws = { q with regs := (q.ringPush b l w r o ws).regs, mem := (q.ringPush b l w r o ws).mem, ecc := (q.ringPush b l w r o ws).ecc } := by
  unfold Quad.ringPush Quad.partStore Quad.ringStep Quad.count; dsimp only; (repeat' split) <;> rfl

/-- A ring record writes its bytes and no others, at its place of the map; nothing where the boot ROM stands there. -/
theorem ringPush_mem (q : Quad) (b l w r o : Field) (ws : List W32) :
    let a := q.ringPlace b l w
    (q.ringPush b l w r o ws).mem = if q.inRom a then q.mem else q.mem.writeBytes (q.phys a) (recordBytes ws) := by
  simp only [Quad.ringPush, ringStep_mem]
  rfl

/-! ### Fault records (R472) -/

/-- A fault record changes memory, its error marks, registers, the host's causes and the policy's counts, and nothing else. -/
theorem fault_frame (q : Quad) (cls cause phys pos : Nat) (d : W32) :
    q.fault cls cause phys pos d = { q with
      regs := (q.fault cls cause phys pos d).regs
      mem := (q.fault cls cause phys pos d).mem
      ecc := (q.fault cls cause phys pos d).ecc
      hp := { q.hp with irqSt := q.hp.irqSt ||| irqFlt }
      flt := (q.fault cls cause phys pos d).flt } := by
  unfold Quad.fault; dsimp only
  generalize hr : q.ringPush _ _ _ _ _ _ = p
  have h := ringPush_frame q Reg.FLT_RG_BASE_BASE Reg.FLT_RG_LEN_LOG2 Reg.FLT_RG_WP_WP Reg.FLT_RG_RP_RP Reg.FLT_RG_OVWR_OVWR
    [w32 (cls + 256 * cause + 65536 * phys + 2097152 * pos), q.tick.setWidth 32, q.tim.ns.setWidth 32, d]
  rw [hr] at h
  split <;> (rw [h]; rfl)

/-- A fault record leaves every rotation, test and repair as it is. -/
theorem note_frame (f : Flt) (cls limit act : Nat) :
    (f.note cls limit act).rot = f.rot ∧ (f.note cls limit act).test = f.test ∧ (f.note cls limit act).pairRepair = f.pairRepair ∧
      (f.note cls limit act).autoNext = f.autoNext := by
  unfold Flt.note; dsimp only; split <;> exact ⟨rfl, rfl, rfl, rfl⟩

/-! ### Free values (log 2) -/

/-- A draw is the free value of its count; nothing but the count changes. -/
theorem draw_eq (q : Quad) : q.draw = (Config.free32 q.freeCtr, { q with freeCtr := q.freeCtr + 1 }) := rfl

end Sys2Proof.Machine.Laws
end

