-- ==== Sys2Proof/Laws/Shapes.lean ====
section
/-! SUPPORT. What the four shapes of a command keep: the canonical form of every memory, and what they do not reach; what an instruction
answers that its core cannot take, that waits, or that a rule makes illegal. -/

namespace Sys2Proof.Machine.Laws

/-! ### Memories stay canonical -/

theorem onQ_memWf (i : QId) (f : Quad → Quad) {s t : State} (hs : s.memWf) (h : onQ i f s = .next t) : t.memWf := by
  obtain ⟨h1, h2, h3, -⟩ := onQ_next h
  refine ⟨fun j => ?_, h3 ▸ hs.2⟩
  by_cases hj : j = i
  · subst hj; rw [h1]; exact commit_mem_wf _
  · rw [h2 j hj]; exact hs.1 j

theorem onH_memWf (f : HostDom → HostDom) {s t : State} (hs : s.memWf) (h : onH f s = .next t) : t.memWf := by
  obtain ⟨u, hu, h1, h2, -⟩ := onH_completes f s
  obtain rfl : u = t := by simpa [hu] using h
  exact ⟨fun j => h2 j ▸ hs.1 j, h1 ▸ wf_normal _⟩

theorem onQH_memWf (i : QId) (f : Quad → HostDom → Quad × HostDom) {s t : State} (hs : s.memWf) (h : onQH i f s = .next t) : t.memWf := by
  obtain ⟨u, hu, h1, h2, h3, -⟩ := onQH_completes i f s
  obtain rfl : u = t := by simpa [hu] using h
  refine ⟨fun j => ?_, h3 ▸ wf_normal _⟩
  by_cases hj : j = i
  · subst hj; rw [h1]; exact commit_mem_wf _
  · rw [h2 j hj]; exact hs.1 j

theorem onAll_memWf (f : Device → Device) {s t : State} (h : onAll f s = .next t) : t.memWf := by
  obtain ⟨u, hu, h1, h2, -⟩ := onAll_completes f s
  obtain rfl : u = t := by simpa [hu] using h
  exact ⟨fun j => h1 j ▸ commit_mem_wf _, h2 ▸ wf_normal _⟩

/-! ### What a shape does not reach -/

/-- A command on one quadrant makes of it what it makes of the same quadrant in any other state. -/
theorem onQ_local {i : QId} (f : Quad → Quad) {s s' t t' : State} (h : onQ i f s = .next t) (h' : onQ i f s' = .next t')
    (e : s.quad i = s'.quad i) : t.quad i = t'.quad i := by
  rw [(onQ_next h).1, (onQ_next h').1, e]

theorem onQ_only {i : QId} (f : Quad → Quad) {s t : State} (h : onQ i f s = .next t) : OnlyQuad i s t :=
  ⟨(onQ_next h).2.2.2, (onQ_next h).2.2.1, (onQ_next h).2.1⟩

/-! ### Instructions that are not carried out -/

/-- An instruction put to a core that issues nothing: the cycle passes, in the bound pair for both. -/
theorem issue_closed (i : Issue) (plan : Quad → Core → Plan) (q : Quad) (hu : i.upset = none) (hm : i.mism = false)
    (hf : q.follows i.c = false) :
    let r := (q.setCore i.c ((q.core i.c).cycle (cclkPerTick q.fi))).pairMap i.c fun k => k.cycle (cclkPerTick q.fi)
    r.closed i.c = true → q.issue i plan = r := by
  intro r hc
  have hs : q.strike i.upset = q := by rw [hu]; rfl
  simp only [Quad.issue, hs, hf, hm, Bool.false_and, Bool.false_eq_true, if_false]
  exact if_pos hc

/-- An instruction put to position 1 of the bound pair: nothing. -/
theorem issue_follows (i : Issue) (plan : Quad → Core → Plan) (q : Quad) (hu : i.upset = none) (hf : q.follows i.c = true) :
    q.issue i plan = q := by
  have hs : q.strike i.upset = q := by rw [hu]; rfl
  simp [Quad.issue, hs, hf]

/-- An instruction that waits leaves its core as it is. -/
theorem attempt_stalls (q : Quad) (i : Issue) (p : Plan) (m : PMove) (hm : p.moves = some m)
    (hp : q.pairStore i.c = false) (hf : (q.core i.c).rep = 0 → (q.fetch i.c (q.core i.c).pc).1 ≠ .uncorr) (hs : (q.core i.c).stalls p m = true) :
    q.attempt i p = q := by
  unfold Quad.attempt
  by_cases hr : (q.core i.c).rep = 0 <;> simp [hr, hm, hs, followFetch_alone q i.c _ hp]
  exact fun h => absurd h (hf hr)

/-- An instruction that a rule makes illegal raises the lowest of its causes and does nothing else. -/
theorem attempt_traps (q : Quad) (i : Issue) (p : Plan) (m : PMove) (c : Nat) (l : List Nat) (hm : p.moves = some m)
    (hr : (q.core i.c).rep ≠ 0) (hs : (q.core i.c).stalls p m = false) (ht : q.issueTraps i p m = c :: l) :
    q.attempt i p = q.trap i.c (lowest (c :: l)) := by
  simp [Quad.attempt, hr, hm, hs, ht]

/-- A trap from set 0 outside a Hardpan instance enters the handler. -/
theorem trap_enters (q : Quad) (c : Fin 17) (cause : Nat) (hh : q.hpnEntryOf c = none) (ha : (q.core c).act = false) :
    q.trap c cause = q.setCore c ((q.core c).enter (cclkPerTick q.fi) 0 cause
      (if (q.core c).rep > 1 then (q.core c).pc else (q.core c).nextPc)) := by
  simp [Quad.trap, hh, ha]

end Sys2Proof.Machine.Laws
end

