-- ==== Sys2Proof/Laws/Wire.lean ====
section
/-! SUPPORT. The bytes of a Stanex frame: fields read back, and the frame whose CRC is right (R334). -/

namespace Sys2Proof.Machine.Laws

theorem ofBytesLE_bytesLE (v n : Nat) : ofBytesLE (bytesLE v n) = v % 256 ^ n := by
  induction n generalizing v with
  | zero => simp [bytesLE, ofBytesLE, Nat.mod_one]
  | succ n ih =>
    simp only [bytesLE, ofBytesLE, ih]
    rw [BitVec.toNat_ofNat, show 256 ^ (n + 1) = 256 * 256 ^ n from Nat.pow_succ', Nat.mod_mul]

/-- A field that ends within a list of bytes reads the same in what that list begins. -/
theorem wle_append (a b : List Byte) (i n : Nat) (h : i + n ≤ a.length) : wle (a ++ b) i n = wle a i n := by
  simp only [wle]
  rw [List.drop_append_of_le_length (by omega), List.take_append_of_le_length (by simp; omega)]

/-- R334: bytes of a frame's length followed by their own CRC-32 are a frame whose CRC is right. -/
theorem frameOf_crcOk (b : List Byte) (h : b.length = 288 + chanLimit (wle b 28 1 % 4) / 8 + 20 * chanLimit (wle b 28 1 % 4)) :
    (frameOf (b ++ bytesLE (crc32 b).toNat 4)).crcOk = true := by
  have h0 : wle (b ++ bytesLE (crc32 b).toNat 4) 28 1 = wle b 28 1 := wle_append _ _ _ _ (by omega)
  simp only [frameOf, h0, ← h, List.length_append, bytesLE_length]
  simp [wbv, wle, ofBytesLE_bytesLE, List.take_of_length_le, Nat.mod_eq_of_lt (crc32 b).isLt]

end Sys2Proof.Machine.Laws
end

