-- ==== Sys2Proof/WellFormed.lean ====
section
/-! DEFINITION. Well-formed commands: what an operand must keep to for its command to stand for something the part or its
surroundings can bring (a pin count, a frame's length, the sizes of lists). `exec` is total and asks for none of it; the
checks name what a sender may send. -/

namespace Sys2Proof

/-- A Stanex frame on the link (R334): the bytes of 48 kHz and 96 kHz, or those of 192 kHz. -/
def snxBytesOk (l : List Byte) : Bool := l.length == 41508 || l.length == 20900

/-- A 36-bit byte address of an upset. -/
def Upset.ok (u : Upset) : Bool := decide (u.addr < 2 ^ 36)

/-- An issue whose upset lies in the address space. -/
def Issue.ok (i : Issue) : Bool := match i.upset with | some u => u.ok | none => true

/-- A register code that is not reserved (R150). -/
def regCodeOk (code : BitVec 6) : Bool := decide (code.toNat < 0x34)

/-- The well-formedness of a command. -/
def Instr.wf : Instr → Bool
  | .tickBoundary _ env => decide ((env.bits.map fun b => b.1).Nodup)
  | .serialFrame _ _ bits => decide (bits.length ≤ 1024)
  | .ethFrameReceive _ _ f => decide (14 ≤ f.bytes.length)
  | .streamPacketReceive _ _ _ k => decide (k.samples.length ≤ 384) && k.samples.all fun x => decide (x.length ≤ 256)
  | .stanexFramePass _ _ l => snxBytesOk l
  | .routeTableWrite _ _ o d => decide (1 ≤ d.length ∧ d.length ≤ 16 ∧ o.toNat + d.length ≤ 2 ^ 19)
  | .patrolScrub _ l => l.all Upset.ok
  | .quadrantResetPin _ n => decide (0 < n)
  | .clockLossReset _ l => decide (0 < l.ns)
  | .porRelease mv => decide (mv < 5000)
  | .supplyPorHold a b => decide (a < 2000 ∧ b < 5000)
  | .supplyHoldRelease a b => decide (a < 2000 ∧ b < 5000)
  | .delayProbeReceive _ _ r t => decide (t ≤ r)
  | .asrcFrameEdge _ _ d _ _ => decide (d.natAbs < 2 ^ 31)
  | .referenceEdge _ _ d _ => decide (d.natAbs < 2 ^ 31)
  | .mov i rd rs => i.ok && regCodeOk rd && regCodeOk rs
  | .ldi i rd _ => i.ok && regCodeOk rd
  | .xmov i rd rs _ => i.ok && regCodeOk rd && regCodeOk rs
  | .busAccess i _ r _ _ _ _ => i.ok && regCodeOk r
  | .xyAccess i _ r _ _ _ => i.ok && regCodeOk r
  | _ => true

end Sys2Proof
end

