-- ==== Sys2Proof/Tests/Slice0.lean ====
section
/-! SUPPORT. Tests: an ill-formed command for each check of WellFormed, single steps on small states whose expected values are worked out
from the rules, and for each statement of Obligations.lean states that meet its hypotheses, clause by clause (a memory in canonical form is
said quadrant by quadrant, and a premise about all that an option holds through `Option.all`). -/

open Sys2Proof Sys2Proof.Machine

namespace Sys2Proof.Tests

set_option Elab.async false

/-! ### States to start from -/

/-- A quadrant that runs in a mode, its memory zero and its registers at reset. -/
def quad (m : Mode) : Quad := { Quad.reset with mode := m, rst := .past, running := true, tick := 1000, cclk := 51200000 }
/-- The device with a given quadrant 0. -/
def st (q : Quad) : State := { State.reset with dev := { State.reset.dev with q0 := q } }
/-- The device with quadrant 0 running in a mode, changed by `f`. -/
def on (m : Mode) (f : Quad → Quad := id) : State := st (f (quad m))
/-- A core that no longer fetches from the boot ROM, changed by `f`. -/
def inCore (c : Fin 17) (f : Core → Core) (q : Quad) : Quad := q.setCore c (f { q.core c with bootFetch := false })
/-- Quadrant 0 in RUN with core 4 changed by `f`. -/
def core4 (f : Core → Core := id) : State := on .run (inCore 4 f)
/-- A state with its host domain changed. -/
def withHost (w : State) (f : HostDom → HostDom) : State := { w with dev := { w.dev with host := f w.dev.host } }
/-- The issue of an instruction by a core of quadrant 0. -/
def iss (c : Fin 17 := 4) (sat : Bool := false) : Issue := { q := .q0, c := c, sat := sat, pm := 0, rsv := false, upset := none, mism := false }
/-- An instance of a task. -/
def inst (t : Nat) (lvl : Nat := 1) (bound : Bool := false) (evt : Bool := false) (flow : Option (Nat × Nat) := none) : Inst :=
  ⟨t, lvl, 5, 999, bound, evt, flow⟩
/-- An instance that runs. -/
def runOf (x : Inst) : Run := ⟨x, 0, false, false, 0, none, 0⟩
/-- A field of a quadrant set. -/
def sf (f : Field) (v : Nat) (q : Quad) : Quad := q.setFld f v
/-- A word of memory set. -/
def w4 (a v : Nat) (q : Quad) : Quad := { q with mem := q.mem.writeLE a v 4 }
/-- A task descriptor: its first word without V's neighbour bits, its mask and the rest of word 1, its word 3. -/
def task (t w0 : Nat) (q : Quad) (mask : Nat := 0xFFFF) (w1 : Nat := 0) (w3 : Nat := 0) : Quad :=
  w4 (taskAddr t + 12) w3 (w4 (taskAddr t + 4) (mask + w1) (w4 (taskAddr t) (w0 + 65536) q))
/-- A valid entry of the route table, without CHECK. -/
def route (i src dst gain : Nat) (q : Quad) : Quad :=
  { q with mem := q.mem.writeLE (routeAddr i) (src + dst * 2 ^ 24 + gain * 2 ^ 36 + 2 ^ 120) 16 }
/-- Ethernet port 0 on, with a receive and a transmit ring. -/
def ringsOn (q : Quad) : Quad :=
  sf (Reg.NET_TRB_LOG2 0) 4 (sf (Reg.NET_TRB_BASE 0) 0x1005000 (sf (Reg.NET_RRB_LOG2 0) 4 (sf (Reg.NET_RRB_BASE 0) 0x1004000
    (sf Reg.NET_CTL_BCAST 3 (sf (Reg.NET_PCFG_LINK 0) 1 (sf (Reg.NET_PCFG_MODE 0) 1 q))))))
/-- A broadcast frame of `n` bytes and an EtherType 0x88tt. -/
def bcast (n : Nat) (t : Byte) : List Byte := List.replicate 6 0xFF ++ [1, 2, 3, 4, 5, 6, 0x88, t] ++ List.replicate (n - 14) 0
/-- Stream 5 described in both directions, one channel, 12 samples to a packet at 48 kHz. -/
def rtp (q : Quad) : Quad :=
  let q := sf (Reg.NET_TXDESC_CH 5) 1 (sf (Reg.NET_RXDESC_CH 5) 1 q)
  let q := sf (Reg.NET_RXDESC_OFS 5) 48 (sf (Reg.NET_RXDESC_FS 5) 1 (sf (Reg.NET_RXDESC_SPP 5) 12 (sf (Reg.NET_RXDESC_PORTS 5) 1 (ringsOn q))))
  sf (Reg.NET_TXDESC_OFS 5) 48 (sf (Reg.NET_TXDESC_FS 5) 1 (sf (Reg.NET_TXDESC_SPP 5) 12 (sf (Reg.NET_TXDESC_PORTS 5) 1 q)))
/-- The Stanex block in a state, its links in states. -/
def linked (state a b : Nat) (q : Quad) : Quad :=
  ((sf Reg.SNX_CFG_EN (if state = 0 then 0 else 1) (sf Reg.SNX_CFG_MID 5 (sf Reg.SNX_CFG_DOMID 7 (sf Reg.SNX_STAT_STATE state q)))).setLink 0 a).setLink 1 b
/-- The bytes of a Stanex frame of 48 kHz or 96 kHz of tick 1000, domain 7, origin 3, without its CRC-32. -/
def snxBody : List Byte := [0xE8, 3, 0, 0, 0, 0, 0, 0] ++ List.replicate 16 0 ++ [7, 0, 2, 3, 1, 0, 0, 0] ++ List.replicate 41472 0
/-- The same with it. -/
def snxBytes : List Byte := snxBody ++ bytesLE (crc32 snxBody).toNat 4
/-- R334: its CRC is right. -/
theorem snxBytes_crcOk : (frameOf snxBytes).crcOk = true := by
  have h : wle snxBody 28 1 = 1 := by decide +kernel
  refine Laws.frameOf_crcOk _ ?_
  rw [h]
  simp only [snxBody, List.length_append, List.length_replicate, List.length_cons, List.length_nil]
  decide
/-- Instruction words written to the program memory of core 0 from an entry on. -/
def prog (e : Nat) (l : List Nat) (q : Quad) : Quad :=
  { q with mem := q.mem.writeBytes (pmAddr 0 e) (l.flatMap fun w => bytesLE w 8) }
/-- Entry 0 of the Hardpan schedule: task 6 at entry 5 of the code, `allot` units of 16 cycles, to be verified. -/
def verifying (allot : Nat) (q : Quad) : Quad :=
  { sf (Reg.HPN_SCH_EN 0) 1 (sf (Reg.HPN_SCH_TASK 0) 6 (sf (Reg.HPN_SCH_ALLOT 0) allot q)) with hpn := { state := .verify, since := 998 } }
/-- Serial port 2 described: eight slots of 32 bits each way. -/
def tdm (q : Quad) : Quad :=
  sf (Reg.PRT_TDMCFG_OUTBASE 2) 200 (sf (Reg.PRT_TDMCFG_INBASE 2) 100 (sf (Reg.PRT_TDMCFG_INLEN 2) 8 (sf (Reg.PRT_TDMCFG_OUTLEN 2) 8
    (sf (Reg.PRT_TDMCFG_SLOTS 2) 7 (sf (Reg.PRT_TDMCFG_WIDTH 2) 31 (sf (Reg.PRT_TDMCFG_FLEN 2) 256 (sf (Reg.PRT_TDMCFG_FMT 2) 2
      (sf (Reg.PRT_TDMCFG_MS 2) 1 q))))))))
/-- A record of the log. -/
def logRec (n : W32) : LogRec := { seq := n, code := 5, src := 3, sev := 1, time := 9, boot := 1, up := 7, arg0 := 4, arg1 := 5 }

/-! ### Ill-formed commands -/

/-- A boundary that gives one input two captures. -/
theorem test_wf_boundary : (Instr.tickBoundary .q0 ⟨0, [(1, [true]), (1, [])], false⟩).wf = false := by decide +kernel
/-- A serial frame of more than 32 words. -/
theorem test_wf_serial : (Instr.serialFrame .q0 0 (List.replicate 1025 true)).wf = false := by decide +kernel
/-- An Ethernet frame without a whole header. -/
theorem test_wf_ethernet : (Instr.ethFrameReceive .q0 0 ⟨List.replicate 13 0, true⟩).wf = false := by decide +kernel
/-- A packet with too many sample times, and one with too many channels. -/
theorem test_wf_packet : (Instr.streamPacketReceive .q0 0 0 ⟨0, 0, 0, 0, List.replicate 385 []⟩).wf = false ∧
    (Instr.streamPacketReceive .q0 0 0 ⟨0, 0, 0, 0, [List.replicate 257 0]⟩).wf = false := by decide +kernel
/-- R334: a Stanex frame of too few bytes, and one of the bytes of 192 kHz. -/
theorem test_wf_stanex : (Instr.stanexFramePass .q0 0 (snxBody.take 288)).wf = false ∧ (Instr.stanexFramePass .q0 0 (List.replicate 20900 0)).wf = true := by
  refine ⟨by decide +kernel, ?_⟩
  simp only [Instr.wf, snxBytesOk, List.length_replicate]
  decide
/-- A write of the route table past its end. -/
theorem test_wf_route : (Instr.routeTableWrite .q0 16 0x7FFFF [1, 2]).wf = false ∧ (Instr.routeTableWrite .q0 16 0 []).wf = false := by decide +kernel
/-- An upset outside the address space, and an issue that brings one. -/
theorem test_wf_upset : (Instr.patrolScrub .q0 [⟨2 ^ 36, true, none⟩]).wf = false ∧ (Instr.mov { iss with upset := some ⟨2 ^ 36, true, none⟩ } 0 0).wf = false := by
  decide +kernel
/-- Pins held for no time, and voltages out of range. -/
theorem test_wf_pins : (Instr.quadrantResetPin .q0 0).wf = false ∧ (Instr.clockLossReset .q0 ⟨0, true⟩).wf = false ∧ (Instr.porRelease 5000).wf = false ∧
    (Instr.supplyPorHold 2000 0).wf = false ∧ (Instr.supplyHoldRelease 0 5000).wf = false := by decide +kernel
/-- A probe that comes back before it turned, and deviations no edge can have. -/
theorem test_wf_edges : (Instr.delayProbeReceive .q0 0 3 4).wf = false ∧ (Instr.asrcFrameEdge .q0 0 (2 ^ 31) 0 .x).wf = false ∧
    (Instr.referenceEdge .q0 0 (-2 ^ 31) ⟨0, true⟩).wf = false := by decide +kernel
/-- Reserved register codes. -/
theorem test_wf_codes : (Instr.mov iss 0x34 0).wf = false ∧ (Instr.ldi iss 0x3F 0).wf = false ∧ (Instr.xmov iss 0 0x34 true).wf = false ∧
    (Instr.busAccess iss true 0x34 0 0 0 0).wf = false ∧ (Instr.xyAccess iss true 0x34 0 0 0).wf = false ∧ (Instr.mov iss 0x33 0).wf = true := by
  decide +kernel

/-! ### Words written out from the tables of the spec -/

/-- R120, R126: `mac.s a1, d2, d3`, and a dual multiply `mpy a0, d1, d2 & msu a3, d4, d5`. -/
theorem test_word_multiply : wordCommand iss (2 ^ 58 + 2 ^ 56 + 2 ^ 48 + 2 ^ 46 + 2 * 2 ^ 42 + 3 * 2 ^ 38) = .mac (iss 4 true) 1 2 3 ∧
    wordCommand iss (2 * 2 ^ 58 + 2 * 2 ^ 50 + 2 ^ 42 + 2 * 2 ^ 38 + 3 * 2 ^ 36 + 4 * 2 ^ 32 + 5 * 2 ^ 28) = .dualMultiply iss 0 2 0 1 2 3 4 5 := by decide +kernel
/-- R120, R130: `ash a2, a1, #-1`. -/
theorem test_word_accumulator : wordCommand iss (4 * 2 ^ 58 + 7 * 2 ^ 48 + 2 * 2 ^ 46 + 2 ^ 44 + 127 * 2 ^ 31) = .ashAcc iss 2 1 127 := by decide +kernel
/-- R120, R134, R512: `ext.t d3, a2, #-1`. -/
theorem test_word_extract : wordCommand iss (5 * 2 ^ 58 + 3 * 2 ^ 44 + 2 * 2 ^ 42 + 2 ^ 40 + 63 * 2 ^ 34) = .ext iss 3 2 1 63 := by decide +kernel
/-- R139: `add d3, d3, #1`, `sub d1, d2, d3` and `sel d1, d2, d3, cc 5`. -/
theorem test_word_alu : wordCommand iss (6 * 2 ^ 58 + 3 * 2 ^ 44 + 3 * 2 ^ 40 + 2 ^ 35 + 2 ^ 24) = .add iss 3 3 (.imm 1) ∧
    wordCommand iss (6 * 2 ^ 58 + 2 ^ 48 + 2 ^ 44 + 2 * 2 ^ 40 + 3 * 2 ^ 36) = .sub iss 1 2 (.reg 3) ∧
    wordCommand iss (6 * 2 ^ 58 + 12 * 2 ^ 48 + 2 ^ 44 + 2 * 2 ^ 40 + 3 * 2 ^ 36 + 5 * 2 ^ 32) = .sel iss 1 2 3 5 := by decide +kernel
/-- R143: `xor d1, d2, d3`. -/
theorem test_word_logic : wordCommand iss (7 * 2 ^ 58 + 2 * 2 ^ 48 + 2 ^ 44 + 2 * 2 ^ 40 + 3 * 2 ^ 36) = .xor iss 1 2 3 := by decide +kernel
/-- R149: `st.p` of register 5 through (p3), `ld d2, (p4)` of Y, `fence`. -/
theorem test_word_moves : wordCommand iss (16 * 2 ^ 58 + 2 ^ 48 + 2 ^ 47 + 5 * 2 ^ 41 + 3 * 2 ^ 38 + 2 * 2 ^ 36) = .busAccess iss true 5 3 2 0 0 ∧
    wordCommand iss (16 * 2 ^ 58 + 2 * 2 ^ 48 + 2 * 2 ^ 41 + 4 * 2 ^ 38) = .xyAccess iss false 2 4 0 0 ∧
    wordCommand iss (16 * 2 ^ 58 + 3 * 2 ^ 48) = .fence iss := by decide +kernel
/-- R151: `mov`, `ldi d3, #5`, `mfs d3, CYC` and `mts EVM, d2`. -/
theorem test_word_registers : wordCommand iss (17 * 2 ^ 58 + 3 * 2 ^ 42 + 16 * 2 ^ 36) = .mov iss 3 16 ∧
    wordCommand iss (17 * 2 ^ 58 + 2 ^ 48 + 3 * 2 ^ 42 + 5 * 2 ^ 0) = .ldi iss 3 5 ∧
    wordCommand iss (17 * 2 ^ 58 + 2 * 2 ^ 48 + 3 * 2 ^ 44 + 6 * 2 ^ 40) = .mfs iss 3 6 ∧
    wordCommand iss (17 * 2 ^ 58 + 3 * 2 ^ 48 + 4 * 2 ^ 40 + 2 * 2 ^ 36) = .mts iss 4 2 := by decide +kernel
/-- R154: `br cc 3, 9`, `dbnz d2, 9` and `rep #8`. -/
theorem test_word_control : wordCommand iss (32 * 2 ^ 58 + 3 * 2 ^ 44 + 9 * 2 ^ 24) = .brTarget iss 3 9 ∧
    wordCommand iss (32 * 2 ^ 58 + 7 * 2 ^ 48 + 2 * 2 ^ 40 + 9 * 2 ^ 24) = .dbnz iss 2 9 ∧
    wordCommand iss (32 * 2 ^ 58 + 8 * 2 ^ 48 + 7 * 2 ^ 24) = .repImm iss 7 := by decide +kernel
/-- R157, R161: `done`, `spawn.nb d1, d2` and `kfg d3`. -/
theorem test_word_system : wordCommand iss (48 * 2 ^ 58 + 2 ^ 48) = .done iss ∧
    wordCommand iss (48 * 2 ^ 58 + 3 * 2 ^ 48 + 2 ^ 44 + 2 * 2 ^ 40) = .spawnNb iss 1 2 ∧
    wordCommand iss (49 * 2 ^ 58 + 2 ^ 48 + 3 * 2 ^ 44) = .kfg iss 3 := by decide +kernel
/-- R121, R512: bit 57, a field that must be zero, and a MINOR without a meaning are told by the command. -/
theorem test_word_reserved : wordCommand iss (7 * 2 ^ 58 + 2 ^ 57) = .and { iss with rsv := true } 0 0 0 ∧
    wordCommand iss (7 * 2 ^ 58 + 2 ^ 24) = .and { iss with rsv := true } 0 0 0 ∧
    wordCommand iss (5 * 2 ^ 58 + 5 * 2 ^ 48) = .nop { iss with rsv := true } ∧ wordCommand iss 0 = .nop iss := by decide +kernel

/-! ### Single steps -/

/-- The state that a step of a command answers, or the state itself. -/
def after (c : Instr) (s : State) : State := match step { s with pending := [c] } with | .next t => t | _ => s
/-- Core 4 of quadrant 0 after a command. -/
def core4After (c : Instr) (f : Core → Core := id) : Core := ((after c (core4 f)).quad .q0).core 4
/-- A core with D0, D1 and A0 set. -/
def withData (x y : W40) (a : W96) (k : Core) : Core := { k with set0 := { k.set0 with d := (k.set0.d.set 0 x).set 1 y, a := k.set0.a.set 0 a } }

/-- R126: 0.5 · 0.5 is 0.25: in Q17.62 2⁶⁰, on its way for three issues. -/
theorem test_mpy : (core4After (.mpy iss 1 0 1) (withData 0x40000000 0x40000000 0)).flights.head? = some ⟨false, 3, .acc 1 (2 ^ 60) true⟩ := by
  decide +kernel
/-- R127: the partial sum An + p is out of range, the whole is not: exact, no flag. -/
theorem test_mas2_fits_once : (core4After (.mas2 iss 0 0 0 0 0) (withData 0x40000000 0 0x7FFFFFFFFFFFFFFFFFFFFFFF)).flights =
    [⟨false, 3, .acc 0 0x7FFFFFFFFFFFFFFFFFFFFFFF true⟩, ⟨false, 3, .flags mV 0⟩] := by decide +kernel
/-- R122, R139: the largest number plus one saturates with S, and wraps without. -/
theorem test_add_overflow : (core4After (.add (iss 4 true) 2 0 (.imm 1)) (withData 0x7FFFFFFFFF 0 0)).set0.d[2] = (0x7FFFFFFFFF : W40) ∧
    (core4After (.add (iss 4 false) 2 0 (.imm 1)) (withData 0x7FFFFFFFFF 0 0)).set0.d[2] = (0x8000000000 : W40) := by decide +kernel
/-- R140: the carry of a subtraction is the borrow of the unsigned operands. -/
theorem test_sub_borrow : (core4After (.sub iss 2 0 (.reg 1)) (withData 0 1 0)).set0.st = (0xA : W32) ∧
    (core4After (.sub iss 2 0 (.reg 1)) (withData 0 1 0)).set0.d[2] = (0xFFFFFFFFFF : W40) := by decide +kernel
/-- R142: a logical shift right by 39 leaves the sign bit, unsigned. -/
theorem test_lsr : (core4After (.lsr iss 2 0 (.imm 39)) (withData 0x8000000000 0 0)).set0.d[2] = (1 : W40) := by decide +kernel
/-- R143: andn takes the complement of its second operand. -/
theorem test_andn : (core4After (.andn iss 2 0 1) (withData 0xFF 0x0F 0)).set0.d[2] = (0xF0 : W40) := by decide +kernel
/-- R134: an accumulator of half a unit of its extract rounds up by default and is cut off with `t`. -/
theorem test_ext : (core4After (.ext iss 2 0 0 0) (withData 0 0 0x40000000)).flights.head? = some ⟨false, 2, .reg (.d 2) 1⟩ ∧
    (core4After (.ext iss 2 0 1 0) (withData 0 0 0x40000000)).flights.head? = some ⟨false, 2, .reg (.d 2) 0⟩ := by decide +kernel
/-- R132: 2³³ and more overflows: without S it writes zero. -/
theorem test_ex2_overflow : (core4After (.ex2 iss 1 0) (withData 0x1080000000 0 0)).flights.head? = some ⟨false, 3, .acc 1 0 false⟩ := by decide +kernel
/-- R155: the second instruction behind a taken branch is the last before its target. -/
theorem test_branch : (core4After (.brTarget iss 12 77)).slots = 2 ∧ (core4After (.brTarget iss 12 77)).target = some 77 := by decide +kernel
/-- R110, R154: `rep 1024` holds the next instruction. -/
theorem test_rep : (core4After (.repImm iss 1023) fun k => { k with pc := 9 }).rep = 1024 := by decide +kernel
/-- R85, R86: a reserved operation enters the TRAP handler at EVB with EPC behind it. -/
theorem test_trap : (core4After (.nop { iss with rsv := true }) fun k => { k with pc := 9, evb := 0x40 }).act = true ∧
    (core4After (.nop { iss with rsv := true }) fun k => { k with pc := 9, evb := 0x40 }).epc = 10 := by decide +kernel
/-- R46: a core issues nothing in HALT. -/
theorem test_halt : ((after (.nop iss) (on .halt (inCore 4 id))).quad .q0).core 4 = ((on .halt (inCore 4 fun k => { k with cyc := 1 })).quad .q0).core 4 := by
  decide +kernel
/-- R157: `req` on a requesting position asks the scheduler and waits. -/
theorem test_req : ((after (.req iss) core4).quad .q0).sch.asks = [4] ∧ (core4After (.req iss)).wait = .req := by decide +kernel
/-- R28: a boundary of a running grid numbers the next tick. -/
theorem test_boundary : ((after (.tickBoundary .q0 ⟨0, [], false⟩) (on .standby)).quad .q0).tick = 1001 := by decide +kernel
/-- R41: MODE SERVICE in STANDBY waits for its boundary, and MODE HALT in RUN too. -/
theorem test_mode : ((after (.modeService .q0 1) (on .standby)).quad .q0).change.isSome = true ∧
    ((after (.modeHalt .q0 1) (on .run)).quad .q0).change.isSome = true := by decide +kernel
/-- R41: HARDPAN without Hardpan enabled is refused. -/
theorem test_mode_hardpan : ((after (.modeHardpan .q0 1) (on .run)).quad .q0).hp.kept.map (·.status) = [0x10] := by decide +kernel
/-- R50: QRST_N low for 100 ns resets its quadrant; 99 ns do nothing. -/
theorem test_reset_pin : ((after (.quadrantResetPin .q0 100) (on .run)).quad .q0).mode = .scour ∧
    ((after (.quadrantResetPin .q0 99) (on .run)).quad .q0).mode = .run := by decide +kernel
/-- R18: a reset of quadrant 0 leaves quadrant 1 as it is. -/
theorem test_apart : (after (.quadrantResetPin .q0 100) (on .run)).quad .q1 = (on .run).quad .q1 := by decide +kernel
/-- R174: DISARM by the host reads DONE. -/
theorem test_disarm : ((after (.schArmDisarm .q0 16 6) (on .run (task 6 0x2123))).quad .q0).sch.bound = [] := by decide +kernel
/-- R218: a claim of a slot shows its kind. -/
theorem test_own : ((after (.xchOwnWrite .q0 100 3) (on .standby)).quad .q0).fld (Reg.XCH_OWN_KIND 100) = 3 := by decide +kernel
/-- R239: a commit later than tick T - 3 is too late, and ABORT of an unknown identifier is refused. -/
theorem test_abort : ((after (.abort .q0 1 9) (on .run)).quad .q0).hp.kept.map (·.status) = [0x10] := by decide +kernel
/-- R303: a read of the counter leaves it. -/
theorem test_counter_read : ((after (.timNowRead .q0 16) (on .run fun q => { q with tim := { q.tim with ns := 0x500000007 } })).quad .q0).tim.ns = 0x500000007 := by
  decide +kernel
/-- R313: a frame with a bad FCS is counted. -/
theorem test_bad_frame : ((after (.ethFrameReceive .q0 0 ⟨bcast 60 0, false⟩) (on .run ringsOn)).quad .q0).fld (Reg.NET_PSTAT_BAD 0) = 1 := by decide +kernel
/-- R442: a WRITE of a word of scratch memory writes its four bytes, least significant first. -/
theorem test_write : ((after (.cmdWrite .q0 1 0x10040000 15 0x11223344) (on .run)).quad .q0).mem.readLE 0x10040000 4 = 0x11223344 := by decide +kernel
/-- An empty queue: a cycle of CCLK (log 4). -/
theorem test_idle : (match step (on .run) with | .next t => (t.quad .q0).cclk | _ => 0) = 51200001 := by decide +kernel

/-! ### States that meet the hypotheses of the statements about every command -/

/-- A command that comes in HARDPAN, and one that carries out a change that is due. -/
theorem witness_HardpanIsNotLeft : (∃ t, exec (.modeHalt .q0 1) (on .hardpan) = .next t) ∧ ((on .hardpan).quad .q0).mode = .hardpan ∧
    ((on .hardpan).quad .q0).rst = .past ∧
    ((after (.modeChangeEffect .q0) (on .hardpan fun q => { q with change := some ⟨.standby, 0, .command 5 0⟩ })).quad .q0).mode = .standby :=
  ⟨⟨_, rfl⟩, rfl, rfl, by decide +kernel⟩
/-- A step from a state whose memories are canonical. -/
theorem witness_MemoryStaysCanonical : State.reset.memWf ∧ ∃ t, Next State.reset t := by
  refine ⟨⟨fun i => ?_, by decide +kernel⟩, _, rfl⟩
  cases i <;> decide +kernel
/-- A command of a quadrant, one of a quadrant and the host domain, one of the whole device. -/
theorem witness_QuadrantsAreApart : homeOf (.nop iss) = some (.q0, false) ∧ homeOf (.debugPortEvent .q3 4) = some (.q3, true) ∧ homeOf .porAssert = none :=
  ⟨rfl, rfl, rfl⟩
/-- The operands at which the clauses about `ex2` and `lg2` begin and end. -/
theorem witness_PowerAndLogarithm_operands :
    let s (x : W40) (a : W96) : State := core4 fun k => { k with set0 := { k.set0 with d := k.set0.d.set 1 x, a := k.set0.a.set 2 a } }
    let i : Issue := iss 4
    let x (v : Int) : Int := (((s (BitVec.ofInt 40 v) 0).issuer i).dr 1).toInt
    let a (v : Int) : Int := ((((s 0 (BitVec.ofInt 96 v)).issuer i).cur).a[2]).toInt
    ((s 0x1080000000 0).issues i ∧ i.pm = 0) ∧ 33 * 2 ^ 31 ≤ x (33 * 2 ^ 31) ∧ x (-62 * 2 ^ 31 - 1) < -62 * 2 ^ 31 ∧
      (-62 * 2 ^ 31 ≤ x (-62 * 2 ^ 31) ∧ x (-62 * 2 ^ 31) % 2 ^ 31 = 0) ∧ (x (32 * 2 ^ 31) < 33 * 2 ^ 31 ∧ x (32 * 2 ^ 31) % 2 ^ 31 = 0) ∧
      a 0 ≤ 0 ∧ 0 < a 1 ∧ a 1 = 2 ^ 0 ∧ a (2 ^ 94) = 2 ^ 94 := by decide +kernel
/-- The multiply whose result the last clause of MultiplyFamily reads. -/
theorem witness_MultiplyFamily_next :
    let s : State := core4 fun k => { k with set0 := { k.set0 with d := (k.set0.d.set 0 0x7FFFFFFFFF).set 1 2 } }
    (s.issues (iss 4) ∧ (iss 4).pm = 0) ∧ ∃ t, exec (.mpy (iss 4) 2 0 1) s = .next t := ⟨by decide +kernel, _, rfl⟩

/-! ### States that meet the hypotheses of the statements -/

theorem witness_FitRule_1 :
    let n : Nat := 8
    let e : Int := 127
    0 < n ∧ (
    let lo : Int := -2 ^ (n - 1)
    let hi : Int := 2 ^ (n - 1) - 1
    (lo ≤ e ∧ e ≤ hi)) := by decide +kernel

theorem witness_FitRule_2 :
    let n : Nat := 8
    let e : Int := -129
    let s : Bool := true
    0 < n ∧ (
    let lo : Int := -2 ^ (n - 1)
    let hi : Int := 2 ^ (n - 1) - 1
    (¬(lo ≤ e ∧ e ≤ hi)) ∧
    s = true) := by decide +kernel

theorem witness_FitRule_3 :
    let n : Nat := 8
    let e : Int := 128
    let s : Bool := false
    0 < n ∧ (
    let lo : Int := -2 ^ (n - 1)
    let hi : Int := 2 ^ (n - 1) - 1
    (¬(lo ≤ e ∧ e ≤ hi)) ∧
    s = false) := by decide +kernel

theorem witness_ResultsLand_1 :
    let k : Core := { flights := [⟨false, 4, .acc 1 5 true⟩] }
    let set : Bool := false
    let mul : Bool := true
    let due : Nat := 4
    let n : Fin 4 := 1
    let v : W96 := 5
    0 < due ∧
    k.flights = [⟨set, due, .acc n v mul⟩] ∧ (
    let m := 3
    m < due) := by decide +kernel

theorem witness_MultiplyFamily_1 :
    let s : State := core4 fun k => { k with set0 := { k.set0 with d := (k.set0.d.set 0 0x7FFFFFFFFF).set 1 2, a := k.set0.a.set 2 7 } }
    let i : Issue := iss 4
    let an : Fin 4 := 2
    let am : Fin 4 := 3
    s.issues i ∧
    i.pm = 0 ∧
    an ≠ am ∧ (
    let op1 : BitVec 2 := (0 : BitVec 2)
    let op2 : BitVec 2 := (2 : BitVec 2)
    op1 ≠ 3 ∧
    op2 ≠ 3) := by decide +kernel

theorem witness_AccumulatorArithmetic_1 :
    let s : State := core4 fun k => { k with set0 := { k.set0 with d := (k.set0.d.set 0 0x7FFFFFFFFF).set 1 2, a := k.set0.a.set 2 7 } }
    let i : Issue := iss 4
    s.issues i ∧
    i.pm = 0 := by decide +kernel

theorem witness_PowerAndLogarithm_1 :
    let s : State := core4 fun k => { k with set0 := { k.set0 with d := (k.set0.d.set 0 0x7FFFFFFFFF).set 1 2, a := k.set0.a.set 2 7 } }
    let i : Issue := iss 4
    s.issues i ∧
    i.pm = 0 := by decide +kernel

theorem witness_ExtractClass_1 :
    let s : State := core4 fun k => { k with set0 := { k.set0 with d := (k.set0.d.set 0 0x7FFFFFFFFF).set 1 2, a := k.set0.a.set 2 7 } }
    let i : Issue := iss 4
    let rnd : BitVec 2 := 2
    s.issues i ∧
    i.pm = 0 ∧
    rnd ≠ 3 := by decide +kernel

theorem witness_AddSubtract_1 :
    let s : State := core4 fun k => { k with set0 := { k.set0 with d := (k.set0.d.set 0 0x7FFFFFFFFF).set 1 2, a := k.set0.a.set 2 7 } }
    let i : Issue := iss 4
    s.issues i ∧
    i.pm = 0 := by decide +kernel

theorem witness_SelectAndCompare_1 :
    let s : State := core4 fun k => { k with set0 := { k.set0 with d := (k.set0.d.set 0 0x7FFFFFFFFF).set 1 2, a := k.set0.a.set 2 7 } }
    let i : Issue := iss 4
    let cc : BitVec 4 := 12
    s.issues i ∧
    i.pm = 0 ∧
    cc.toNat ≤ 12 := by decide +kernel

theorem witness_Shifts_1 :
    let s : State := core4 fun k => { k with set0 := { k.set0 with d := (k.set0.d.set 0 0x7FFFFFFFFF).set 1 2, a := k.set0.a.set 2 7 } }
    let i : Issue := iss 4
    let y : Src := .reg 1
    s.issues i ∧
    i.pm = 0 ∧
    (match y with | .imm m => decide (m.toNat ≤ 39) | .reg _ => true) = true ∧ (
    let k := s.issuer i
    let sn : Int := match y with | .reg d => ((k.dr d).setWidth 7).toInt | .imm m => m.toNat
    0 ≤ sn) := by decide +kernel

theorem witness_Shifts_2 :
    let s : State := core4 fun k => { k with set0 := { k.set0 with d := (k.set0.d.set 0 0x7FFFFFFFFF).set 1 0x7F, a := k.set0.a.set 2 7 } }
    let i : Issue := iss 4
    let y : Src := .reg 1
    s.issues i ∧
    i.pm = 0 ∧
    (match y with | .imm m => decide (m.toNat ≤ 39) | .reg _ => true) = true ∧ (
    let k := s.issuer i
    let sn : Int := match y with | .reg d => ((k.dr d).setWidth 7).toInt | .imm m => m.toNat
    sn < 0) := by decide +kernel

theorem witness_Logic_1 :
    let s : State := core4 fun k => { k with set0 := { k.set0 with d := (k.set0.d.set 0 0x7FFFFFFFFF).set 1 2, a := k.set0.a.set 2 7 } }
    let i : Issue := iss 4
    s.issues i ∧
    i.pm = 0 := by decide +kernel

theorem witness_RegisterWrites_1 :
    let s : RegSet := { l := (Vector.replicate 8 0).set 7 1 }
    let n : Fin 8 := 7
    s.l[n] ≠ 0 ∧
    (
    let r : Rg := Rg.b 7
    let r' : Rg := Rg.l 7
    r ≠ r') := by decide +kernel

theorem witness_RegisterWrites_2 :
    let s : RegSet := {}
    let n : Fin 8 := 7
    s.l[n] = 0 := by decide +kernel

theorem witness_RegisterMoves_1 :
    let s : State := core4 fun k => { k with set0 := { k.set0 with d := (k.set0.d.set 0 0x7FFFFFFFFF).set 1 2, a := k.set0.a.set 2 7 } }
    let i : Issue := iss 4
    let rd : BitVec 6 := 2
    let rs : BitVec 6 := 3
    let d : Rg := .d 2
    let r : Rg := .d 3
    s.issues i ∧
    gprOf rd = some d ∧
    (
    (
    i.pm = 0 ∧
    gprOf rd = some d ∧
    gprOf rs = some r) ∧
    (
    (
    i.pm = 0 ∧
    i.sat = false) ∧
    (
    gprOf rd = some d ∧
    gprOf rs = some r))) := by decide +kernel

theorem witness_SystemRegisters_1 :
    let s : State := core4 fun k => { k with act := true, evs := 0x105, epc := 77, evm := 3 }
    let i : Issue := iss 4
    let sys : BitVec 4 := 4
    let rd : BitVec 6 := 2
    let rs : BitVec 6 := 3
    let d : Rg := .d 2
    let r : Rg := .d 3
    s.issues i ∧
    i.pm = 0 ∧ (
    let k := s.issuer i
    sys.toNat ≤ 7 ∧
    (
    sys.toNat ≤ 4 ∧
    (
    (
    k.act = true ∧
    (∀ f ∈ k.flights, f.set = true) ∧
    gprOf rd = some d ∧
    gprOf rs = some r) ∧
    (
    k.act = true ∧
    (∀ f ∈ k.flights, f.set = true))))) := by decide +kernel

theorem witness_XyAccess_1 :
    let s : State := core4 fun k => { k with set0 := { k.set0 with p := k.set0.p.set 1 16383, d := k.set0.d.set 3 0x8123456789 } }
    let i : Issue := iss 4
    let code : BitVec 6 := 3
    let r : Rg := .d 3
    let p : Fin 8 := 1
    let mode : BitVec 3 := 0
    let val : BitVec 8 := 0
    let a : AMode := .plain
    s.issues i ∧
    ((∀ j ∈ [QId.q0, .q1, .q2, .q3], (s.quad j).mem.wf) ∧ s.dev.host.staging.wf) ∧
    i.pm = 0 ∧
    gprOf code = some r ∧
    amodeOf mode val = some a ∧ (
    let k := s.issuer i
    let o := addrOf k.cur p a
    o.traps = [] ∧
    o.ea < 16384) := by decide +kernel

theorem witness_XyAccess_2 :
    let s : State := core4 fun k => { k with set0 := { k.set0 with p := k.set0.p.set 1 16383, d := k.set0.d.set 3 0x8123456789 } }
    let i : Issue := iss 4
    let dd : Fin 16 := 5
    let d : Fin 16 := 2
    let pp : Fin 4 := 1
    let v : BitVec 3 := 0
    s.issues i ∧
    ((∀ j ∈ [QId.q0, .q1, .q2, .q3], (s.quad j).mem.wf) ∧ s.dev.host.staging.wf) ∧ (
    let q := s.quad i.q
    let k := s.issuer i
    let o := addrOf k.cur (fin8 pp.val) (if v = 0 then .plain else .stepK v.toInt)
    let w := xAddr i.c o.ea
    o.traps = [] ∧
    o.ea < 16384 ∧
    d ≠ dd ∧
    q.eccAt w = .clean) := by decide +kernel

theorem witness_XyAccess_3 :
    let s : State := core4 fun k => { k with set0 := { k.set0 with p := k.set0.p.set 1 16383, d := k.set0.d.set 3 0x8123456789 } }
    let i : Issue := iss 4
    let dd : Fin 16 := 2
    let d : Fin 16 := 2
    let pp : Fin 4 := 1
    let v : BitVec 3 := 1
    s.issues i ∧
    ((∀ j ∈ [QId.q0, .q1, .q2, .q3], (s.quad j).mem.wf) ∧ s.dev.host.staging.wf) ∧ (
    let k := s.issuer i
    let o := addrOf k.cur (fin8 pp.val) (if v = 0 then .plain else .stepK v.toInt)
    o.traps = [] ∧
    o.ea < 16384 ∧
    d = dd ∧
    k.act = false ∧
    k.rep = 0) := by decide +kernel

theorem witness_BusAccess_1 :
    let s : State := core4 fun k => { k with set0 := { k.set0 with p := k.set0.p.set 1 0x107FFFF8, d := k.set0.d.set 3 0x8123456789 } }
    let i : Issue := iss 4
    let code : BitVec 6 := 3
    let r : Rg := .d 3
    let p : Fin 8 := 1
    let w : BitVec 2 := 3
    let mode : BitVec 3 := 0
    let val : BitVec 8 := 0
    let a : AMode := .plain
    s.issues i ∧
    ((∀ j ∈ [QId.q0, .q1, .q2, .q3], (s.quad j).mem.wf) ∧ s.dev.host.staging.wf) ∧
    i.pm = 0 ∧
    gprOf code = some r ∧
    amodeOf mode val = some a ∧ (
    let q := s.quad i.q
    let k := s.issuer i
    let o := addrOf k.cur p a
    let n : Nat := if w = 0 then 1 else if w = 1 then 4 else if w = 2 then 5 else 8
    o.traps = [] ∧
    (q.access o.ea n = some .scratch ∨ q.access o.ea n = some .dram) ∧
    q.eccIn o.ea n = []) := by decide +kernel

theorem witness_NextInstruction_1 :
    let k : Core := { pc := 8190 }
    k.rep ≤ 1 ∧
    k.slots = 0 := by decide +kernel

theorem witness_NextInstruction_2 :
    let k : Core := { pc := 8191 }
    let n : Nat := 3
    1 ≤ n ∧
    k.slots = 0 ∧ (
    let j := 2
    j < n) := by decide +kernel

theorem witness_BranchesAndCalls_1 :
    let s : State := core4 fun k => { k with pc := 100, set0 := { k.set0 with d := k.set0.d.set 3 1, stack := [7, 8, 9, 10, 11, 12, 13] } }
    let i : Issue := iss 4
    let cc : BitVec 4 := 12
    s.issues i ∧
    i.pm = 0 ∧ (
    let k := s.issuer i
    k.slots = 0 ∧
    cc.toNat ≤ 12 ∧
    (
    k.cur.stack.length < 8 ∧
    (match k.cur.stack with
    | a :: rest => decide (
      True)
    | [] => false) = true)) := by decide +kernel

theorem witness_EventsEntered_1 :
    let s : State := core4 fun k => { k with act := true, evs := 2, epc := 500, pc := 100 }
    let i : Issue := iss 4
    s.issues i ∧
    i.pm = 0 ∧ (
    let k := s.issuer i
    k.act = true ∧
    k.evs.toNat % 4 ≠ 0 ∧
    k.slots = 0 ∧
    k.evtRun = none ∧
    k.assigned = none ∧
    (k.wait ≠ .req ∨ 4 ≤ k.pos.val ∨ (s.quad i.q).prefAt k.pos.val = none)) := by decide +kernel

theorem witness_EventsEntered_2 :
    let s : State := core4 fun k => { k with act := true, evs := 2, epc := 500, pc := 100, evtRun := some (runOf (inst 6 1 false true)) }
    let i : Issue := iss 4
    s.issues i ∧
    i.pm = 0 ∧ (
    let k := s.issuer i
    k.act = true ∧
    k.evs.toNat % 4 ≠ 0 ∧
    k.slots = 0 ∧
    (match k.evtRun with
    | some r => decide (
      r.inst.bound = false ∧
      r.inst.flow = none ∧
      k.assigned = none ∧
      4 ≤ k.pos.val ∧
      (s.quad i.q).flt.test = none ∧
      ((∀ j ∈ [QId.q0, .q1, .q2, .q3], (s.quad j).mem.wf) ∧ s.dev.host.staging.wf))
    | none => false) = true) := by decide +kernel

theorem witness_EventsEntered_3 :
    let s : State := core4 fun k => { k with pendTick := true, pendDbg := true }
    let iq : QId := .q0
    let c : Fin 17 := 4
    let q := s.quad iq
    let k := q.core c
    (q.locked = true → 2 ≤ k.pos.val) ∧
    q.mode ≠ .scour ∧
    q.mode ≠ .halt ∧
    k.act = false ∧
    k.rep = 0 ∧
    k.slots = 0 ∧
    k.stopped = false ∧
    k.pendEvt = none ∧
    k.pendTick = true := by decide +kernel

theorem witness_EventsEntered_4 :
    let s : State := core4 fun k => { k with pendDbg := true }
    let iq : QId := .q0
    let c : Fin 17 := 4
    let q := s.quad iq
    let k := q.core c
    (q.locked = true → 2 ≤ k.pos.val) ∧
    q.mode ≠ .scour ∧
    q.mode ≠ .halt ∧
    k.act = false ∧
    k.rep = 0 ∧
    k.slots = 0 ∧
    k.stopped = false ∧
    k.pendEvt = none ∧
    k.pendTick = false ∧
    k.pendDbg = true := by decide +kernel

theorem witness_EventsEntered_5 :
    let s : State := core4 fun k => { k with pendEvt := some (inst 6), pendTick := true, pendDbg := true }
    let iq : QId := .q0
    let c : Fin 17 := 4
    let q := s.quad iq
    let k := q.core c
    (q.locked = true → 2 ≤ k.pos.val) ∧
    q.mode ≠ .scour ∧
    q.mode ≠ .halt ∧
    k.act = false ∧
    k.rep = 0 ∧
    k.slots = 0 ∧
    k.stopped = false ∧
    k.pendEvt ≠ none := by decide +kernel

theorem witness_RepeatAndBreak_1 :
    let s : State := core4 fun k => { k with pc := 100, set0 := { k.set0 with d := (k.set0.d.set 4 1024).set 5 1025 } }
    let i : Issue := iss 4
    let dx : Fin 16 := 3
    s.issues i ∧
    i.pm = 0 ∧ (
    let q := s.quad i.q
    let k := s.issuer i
    k.slots = 0 ∧
    k.rep = 0 ∧
    k.bootFetch = false ∧
    q.eccAt (pmAddr i.c (k.pc + 1).toNat) = .clean ∧
    wRepOk (q.pmWord i.c (k.pc + 1).toNat) = true ∧
    k.dr dx = 0) := by decide +kernel

theorem witness_TrapCauses_1 :
    let s : State := core4 fun k => { k with pc := 100, slots := 2, target := some 9, set0 := { k.set0 with d := (k.set0.d.set 4 1024).set 5 1025 } }
    let i : Issue := iss 4
    let dx : Fin 16 := 5
    s.issues { i with rsv := false } ∧
    i.pm = 0 ∧ (
    let k := s.issuer i
    k.act = false ∧
    k.rep = 0 ∧
    (
    let w : W64 := (0x1405000000000000 : W64)
    wMajor w = 5 ∧
    5 ≤ wMinor w) ∧
    (
    i.rsv = false ∧
    (
    let dq : Fin 16 := 1
    dq.val % 4 ≠ 0) ∧
    (
    (
    let cc : BitVec 4 := 13
    12 < cc.toNat) ∧
    (
    (
    let m : BitVec 11 := 40
    39 < m.toNat) ∧
    (
    (
    let sys : BitVec 4 := 8
    7 < sys.toNat) ∧
    (
    (
    let sys : BitVec 4 := 8
    4 < sys.toNat) ∧
    (
    0 < k.slots ∧
    (
    k.run = none ∧
    (
    1024 < (k.dr dx).toInt ∧
    wRepOk ((s.quad i.q).codeWord i.c (k.pc + 1)) = true))))))))) := by decide +kernel

theorem witness_TrapCauses_2 :
    let s : State := core4 fun k => { k with pc := 100, run := some (runOf (inst 3)), set0 := { k.set0 with d := (k.set0.d.set 4 1024).set 5 1025, stack := [1, 2, 3, 4, 5, 6, 7, 8] } }
    let i : Issue := iss 4
    s.issues { i with rsv := false } ∧
    i.pm = 0 ∧ (
    let k := s.issuer i
    k.act = false ∧
    k.rep = 0 ∧
    i.rsv = false ∧
    k.run.isSome = true ∧
    (
    (
    k.slots = 0 ∧
    8 ≤ k.cur.stack.length) ∧
    (match k.run with
    | some r => decide (
      r.inst.flow = none)
    | none => false) = true)) := by decide +kernel

theorem witness_TrapCauses_3 :
    let s : State := core4 fun k => { k with pc := 100, set0 := { k.set0 with d := (k.set0.d.set 4 1024).set 5 1025 } }
    let i : Issue := { iss 4 with rsv := true }
    s.issues { i with rsv := false } ∧
    i.pm = 0 ∧ (
    let k := s.issuer i
    k.act = false ∧
    k.rep = 0 ∧
    i.rsv = true) := by decide +kernel

theorem witness_TrapCauses_4 :
    let s : State := core4 fun k => { k with set0 := { k.set0 with p := k.set0.p.set 1 0x800000, b := k.set0.b.set 1 0, l := k.set0.l.set 1 0 } }
    let i : Issue := iss 4
    let store : Bool := true
    let code : BitVec 6 := 3
    let r : Rg := .d 3
    let p : Fin 8 := 1
    let w : BitVec 2 := 3
    let mode : BitVec 3 := 0
    let val : BitVec 8 := 0
    let a : AMode := .plain
    s.issues i ∧
    i.pm = 0 ∧
    gprOf code = some r ∧
    amodeOf mode val = some a ∧ (
    let q := s.quad i.q
    let k := s.issuer i
    let o := addrOf k.cur p a
    let n : Nat := if w = 0 then 1 else if w = 1 then 4 else if w = 2 then 5 else 8
    let traps (c : Instr) (cause : Nat) : Prop := ∃ k2, exec c s = .next (s.withCore i.q i.c k2) ∧ k.entered (cclkPerTick q.fi) k2 0 cause k.nextPc
    k.act = false ∧
    k.rep = 0 ∧
    16384 ≤ o.ea ∧
    (
    o.traps = [] ∧
    q.access o.ea n = none ∧
    (store = true ∨ a.steps = false ∨ r ≠ .p p))) := by decide +kernel

theorem witness_TrapCauses_5 :
    let s : State := on .run fun q => inCore 4 id { q with mem := q.mem.writeLE (pmAddr 4 1) (2 ^ 57) 8 }
    let i : Issue := iss 4
    let code : BitVec 6 := 3
    let r : Rg := .d 3
    let mode : BitVec 3 := 0
    let val : BitVec 8 := 0
    let a : AMode := .plain
    s.issues i ∧
    i.pm = 0 ∧
    gprOf code = some r ∧
    amodeOf mode val = some a ∧ (
    let q := s.quad i.q
    let k := s.issuer i
    k.act = false ∧
    k.rep = 0 ∧
    wRepOk (q.codeWord i.c (k.pc + 1)) = false) := by decide +kernel

theorem witness_TrapCauses_6 :
    let s : State := core4 fun k => { k with pc := 100, set0 := { k.set0 with d := (k.set0.d.set 4 1024).set 5 1025 } }
    let i : Issue := iss 4
    s.issues { i with rsv := false } ∧
    i.pm = 0 ∧ (
    let k := s.issuer i
    k.act = false ∧
    k.rep = 0 ∧
    i.rsv = false ∧
    k.slots = 0 ∧
    k.cur.stack = []) := by decide +kernel

theorem witness_TrapCauses_7 :
    let s : State := core4 fun k => { k with set0 := { k.set0 with p := k.set0.p.set 1 100, b := k.set0.b.set 1 90, l := k.set0.l.set 1 4 } }
    let i : Issue := iss 4
    let code : BitVec 6 := 3
    let r : Rg := .d 3
    let p : Fin 8 := 1
    let mode : BitVec 3 := 1
    let val : BitVec 8 := 5
    let a : AMode := .stepK 5
    s.issues i ∧
    i.pm = 0 ∧
    gprOf code = some r ∧
    amodeOf mode val = some a ∧ (
    let k := s.issuer i
    let o := addrOf k.cur p a
    let l : Nat := k.cur.l[p].toNat
    let step : Int := match a with | .stepK m => m | .stepM j => k.cur.m[j].toInt | .offset m => m | _ => 0
    k.act = false ∧
    k.rep = 0 ∧
    o.ea < 16384 ∧
    0 < l ∧
    l < step.natAbs) := by decide +kernel

theorem witness_TrapCauses_8 :
    let s : State := core4 fun k => { k with set0 := { k.set0 with p := k.set0.p.set 1 100, b := k.set0.b.set 1 90, l := k.set0.l.set 1 4 } }
    let i : Issue := iss 4
    let code : BitVec 6 := 3
    let r : Rg := .d 3
    let p : Fin 8 := 1
    let mode : BitVec 3 := 0
    let val : BitVec 8 := 0
    let a : AMode := .plain
    s.issues i ∧
    i.pm = 0 ∧
    gprOf code = some r ∧
    amodeOf mode val = some a ∧ (
    let k := s.issuer i
    let o := addrOf k.cur p a
    let b : Nat := k.cur.b[p].toNat
    let l : Nat := k.cur.l[p].toNat
    let at_ : Nat := k.cur.p[p].toNat
    let step : Int := match a with | .stepK m => m | .stepM j => k.cur.m[j].toInt | .offset m => m | _ => 0
    k.act = false ∧
    k.rep = 0 ∧
    o.ea < 16384 ∧
    0 < l ∧
    step.natAbs ≤ l ∧
    (at_ < b ∨ b + l ≤ at_)) := by decide +kernel

theorem witness_TrapCauses_9 :
    let s : State := core4 fun k => { k with set0 := { k.set0 with p := k.set0.p.set 1 100, b := k.set0.b.set 1 0, l := k.set0.l.set 1 0 } }
    let i : Issue := iss 4
    let code : BitVec 6 := 3
    let r : Rg := .d 3
    let p : Fin 8 := 1
    let mode : BitVec 3 := 4
    let val : BitVec 8 := 0
    let a : AMode := .rev 0 false
    s.issues i ∧
    i.pm = 0 ∧
    gprOf code = some r ∧
    amodeOf mode val = some a ∧ (
    let k := s.issuer i
    let b : Nat := k.cur.b[p].toNat
    let l : Nat := k.cur.l[p].toNat
    let at_ : Nat := k.cur.p[p].toNat
    k.act = false ∧
    k.rep = 0 ∧ (
    let j := (0 : Fin 8)
    let r4 := false
    a = .rev j r4 ∧
    at_ < 16384 ∧
    (0 < l → b ≤ at_ ∧ at_ < b + l) ∧
    (∀ e : Nat, 1 ≤ e → e ≤ (if r4 then 11 else 23) → l ≠ (if r4 then 4 else 2) ^ e))) := by decide +kernel

theorem witness_TrapCauses_10 :
    let s : State := core4 fun k => { k with set0 := { k.set0 with p := k.set0.p.set 1 100, b := k.set0.b.set 1 0, l := k.set0.l.set 1 0 } }
    let i : Issue := iss 4
    let code : BitVec 6 := 3
    let r : Rg := .d 3
    let p : Fin 8 := 1
    let mode : BitVec 3 := 1
    let val : BitVec 8 := 3
    let a : AMode := .stepK 3
    s.issues i ∧
    i.pm = 0 ∧
    gprOf code = some r ∧
    amodeOf mode val = some a ∧ (
    let q := s.quad i.q
    let k := s.issuer i
    let o := addrOf k.cur p a
    let at_ : Nat := k.cur.p[p].toNat
    let traps (c : Instr) (cause : Nat) : Prop := ∃ k2, exec c s = .next (s.withCore i.q i.c k2) ∧ k.entered (cclkPerTick q.fi) k2 0 cause k.nextPc
    k.act = false ∧
    k.rep = 0 ∧ (
    let v : BitVec 3 := (1 : BitVec 3)
    p.val < 4 ∧
    a.steps = true ∧
    v ≠ 0 ∧
    o.traps = [] ∧
    (addrOf k.cur p (.stepK v.toInt)).traps = [] ∧
    at_ < 16384)) := by decide +kernel

theorem witness_TrapCauses_11 :
    let s : State := core4 fun k => { k with set0 := { k.set0 with p := k.set0.p.set 1 0x100, b := k.set0.b.set 1 0, l := k.set0.l.set 1 0 } }
    let i : Issue := iss 4
    let code : BitVec 6 := 3
    let r : Rg := .d 3
    let p : Fin 8 := 1
    let w : BitVec 2 := 3
    let mode : BitVec 3 := 0
    let val : BitVec 8 := 0
    let a : AMode := .plain
    s.issues i ∧
    i.pm = 0 ∧
    gprOf code = some r ∧
    amodeOf mode val = some a ∧ (
    let q := s.quad i.q
    let k := s.issuer i
    let o := addrOf k.cur p a
    let n : Nat := if w = 0 then 1 else if w = 1 then 4 else if w = 2 then 5 else 8
    let traps (c : Instr) (cause : Nat) : Prop := ∃ k2, exec c s = .next (s.withCore i.q i.c k2) ∧ k.entered (cclkPerTick q.fi) k2 0 cause k.nextPc
    k.act = false ∧
    k.rep = 0 ∧ (
    let t := Target.low
    o.traps = [] ∧
    q.access o.ea n = some t ∧
    (q.readOnly t = true ∨ ∃ c, t = .window c ∧ (q.core c).lock = true))) := by decide +kernel

theorem witness_TrapCauses_12 :
    let s : State := core4 fun k => { k with set0 := { k.set0 with p := k.set0.p.set 1 0xF0000000, b := k.set0.b.set 1 0, l := k.set0.l.set 1 0 } }
    let i : Issue := iss 4
    let code : BitVec 6 := 3
    let r : Rg := .d 3
    let p : Fin 8 := 1
    let w : BitVec 2 := 3
    let mode : BitVec 3 := 0
    let val : BitVec 8 := 0
    let a : AMode := .plain
    s.issues i ∧
    i.pm = 0 ∧
    gprOf code = some r ∧
    amodeOf mode val = some a ∧ (
    let q := s.quad i.q
    let k := s.issuer i
    let o := addrOf k.cur p a
    let n : Nat := if w = 0 then 1 else if w = 1 then 4 else if w = 2 then 5 else 8
    let traps (c : Instr) (cause : Nat) : Prop := ∃ k2, exec c s = .next (s.withCore i.q i.c k2) ∧ k.entered (cclkPerTick q.fi) k2 0 cause k.nextPc
    k.act = false ∧
    k.rep = 0 ∧
    o.traps = [] ∧
    q.access o.ea n = some .registers ∧
    4 ≤ k.pos.val) := by decide +kernel

theorem witness_HardpanLife_1 :
    let s : State := on .standby fun q => { task 6 0x82123 q with hpn := { state := .verify, since := 998, verified := some true } }
    let iq : QId := .q0
    let c0 : Fin 17 := 0
    let c1 : Fin 17 := 1
    let q := s.quad iq
    q.coreAt 0 = some c0 ∧
    q.coreAt 1 = some c1 ∧
    (
    q.mode = .standby ∧
    q.hpn.state ≠ .off) ∧
    (
    (
    q.hpn.state = .verify ∧
    q.hpn.verified = some true ∧
    ((∀ j ∈ [QId.q0, .q1, .q2, .q3], (s.quad j).mem.wf) ∧ s.dev.host.staging.wf) ∧
    q.change = none) ∧
    (
    q.hpn.state = .verify ∧
    q.hpn.verified = some true ∧
    q.hpn.since + 2 ≤ q.tick ∧
    ((∀ j ∈ [QId.q0, .q1, .q2, .q3], (s.quad j).mem.wf) ∧ s.dev.host.staging.wf))) := by decide +kernel

theorem witness_HardpanLife_2 :
    let s : State := on .hardpan fun q => { inCore 0 (fun k => { k with run := some { runOf (inst 6) with entry := some 2 } }) (sf (Reg.HPN_SCH_ALLOT 2) 100 (sf (Reg.HPN_SCH_TASK 2) 6 (sf (Reg.HPN_SCH_EN 2) 1 (task 6 0x82123 q)))) with hpn := { state := .live } }
    let iq : QId := .q0
    let c0 : Fin 17 := 0
    let c1 : Fin 17 := 1
    let q := s.quad iq
    q.coreAt 0 = some c0 ∧
    q.coreAt 1 = some c1 ∧
    (
    q.mode ≠ .standby ∧
    q.up ∧
    q.hpn.state ≠ .off) ∧
    (
    (
    (match q.hpnEntries with
    | n :: rest => decide (
      q.hpnRuns = true ∧
      q.running = true ∧
      q.hpn.next = none ∧
      q.hpn.mism = false ∧
      q.eccIn (taskAddr (q.fld (Reg.HPN_SCH_TASK n))) 32 = [])
    | [] => false) = true) ∧
    (match q.hpnRun with
    | some (c, x, n) => decide (
      True)
    | none => false) = true) := by decide +kernel

theorem witness_HardpanLife_3 :
    let s : State := on .standby fun q => verifying 5 (prog 5 [4900206665648832515, 9225344560815669248, 1729438366379802624, 1729438366379802624, 13835339530258874368] (task 6 0x80005 q))
    let iq : QId := .q0
    let c : Fin 17 := 0
    let n : Nat := 0
    let rest : List Nat := []
    let d : Nat := 2
    let imm : Nat := 3
    let q := s.quad iq
    let code (i : Nat) : W64 := q.pmWord c i
    let task := q.fld (Reg.HPN_SCH_TASK n)
    let e := q.tEntry task
    let allot (m : Nat) : Nat := 16 * q.fld (Reg.HPN_SCH_ALLOT m)
    let plain (i : Nat) : Prop := wFlow (code i) = .plain
    q.coreAt 0 = some c ∧
    q.hpn.state = .verify ∧
    q.hpn.verified = none ∧
    q.hpn.since + 1 ≤ q.tick ∧
    q.hpnEntries = n :: rest ∧
    q.tValid task = true ∧
    q.tHpn task = true ∧
    code e ≠ 0 ∧
    wLdi (code e) = some (d, imm) ∧
    wFlow (code (e + 1)) = .dbnz d (e + 1) ∧
    plain (e + 2) ∧
    plain (e + 3) ∧
    e + 4 < 8192 ∧
    wFlow (code (e + 4)) = .done ∧ (
    let cyc := 18
    let x := 0
    let y := 0
    1 ≤ imm ∧
    imm ≤ 65536 ∧
    d ∉ wWritesD (code (e + 2)) ∧
    d ∉ wWritesD (code (e + 3)) ∧
    cyc = 9 + imm * (1 + wCycles (code (e + 2)) + wCycles (code (e + 3))) ∧
    x = imm * ((wStores (code (e + 2))).1 + (wStores (code (e + 3))).1) ∧
    y = imm * ((wStores (code (e + 2))).2 + (wStores (code (e + 3))).2) ∧
    cyc ≤ allot n ∧
    rest = []) := by decide +kernel

theorem witness_HardpanLife_4 :
    let s : State := on .standby fun q => { q with hpn := { state := .verify, since := 998 } }
    let iq : QId := .q0
    let c : Fin 17 := 0
    let q := s.quad iq
    q.coreAt 0 = some c ∧
    q.hpn.state = .verify ∧
    q.hpn.verified = none ∧
    q.hpn.since + 1 ≤ q.tick ∧
    q.hpnEntries = [] := by decide +kernel

theorem witness_HardpanLife_5 :
    let s : State := on .standby fun q => verifying 5 (prog 5 [13835339530258874368] (task 6 5 q))
    let iq : QId := .q0
    let c : Fin 17 := 0
    let n : Nat := 0
    let rest : List Nat := []
    let q := s.quad iq
    let code (i : Nat) : W64 := q.pmWord c i
    let task := q.fld (Reg.HPN_SCH_TASK n)
    let e := q.tEntry task
    q.coreAt 0 = some c ∧
    q.hpn.state = .verify ∧
    q.hpn.verified = none ∧
    q.hpn.since + 1 ≤ q.tick ∧
    q.hpnEntries = n :: rest ∧
    (q.tValid task = false ∨ q.tHpn task = false ∨ (∀ i, e ≤ i → i < 8192 → code i = 0)) := by decide +kernel

theorem witness_HardpanLife_6 :
    let s : State := on .standby fun q => verifying 5 (prog 5 [13835058055282163712] (task 6 0x80005 q))
    let iq : QId := .q0
    let c : Fin 17 := 0
    let n : Nat := 0
    let rest : List Nat := []
    let q := s.quad iq
    let code (i : Nat) : W64 := q.pmWord c i
    let task := q.fld (Reg.HPN_SCH_TASK n)
    let e := q.tEntry task
    q.coreAt 0 = some c ∧
    q.hpn.state = .verify ∧
    q.hpn.verified = none ∧
    q.hpn.since + 1 ≤ q.tick ∧
    q.hpnEntries = n :: rest ∧
    q.tValid task = true ∧
    q.tHpn task = true ∧
    code e ≠ 0 ∧
    wFlow (code e) = .forbidden := by decide +kernel

theorem witness_HardpanLife_7 :
    let s : State := on .standby fun q => verifying 5 (prog 5 [9223583143171194880, 1729438366379802624, 1729438366379802624] (task 6 0x80005 q))
    let iq : QId := .q0
    let c : Fin 17 := 0
    let n : Nat := 0
    let rest : List Nat := []
    let q := s.quad iq
    let code (i : Nat) : W64 := q.pmWord c i
    let task := q.fld (Reg.HPN_SCH_TASK n)
    let e := q.tEntry task
    let plain (i : Nat) : Prop := wFlow (code i) = .plain
    q.coreAt 0 = some c ∧
    q.hpn.state = .verify ∧
    q.hpn.verified = none ∧
    q.hpn.since + 1 ≤ q.tick ∧
    q.hpnEntries = n :: rest ∧
    q.tValid task = true ∧
    q.tHpn task = true ∧
    code e ≠ 0 ∧
    wFlow (code e) = .br false e ∧
    e + 2 < 8192 ∧
    plain (e + 1) ∧
    plain (e + 2) := by decide +kernel

theorem witness_HardpanLife_8 :
    let s : State := on .standby fun q => verifying 5 (prog 8191 [1729438366379802624] (task 6 532479 q))
    let iq : QId := .q0
    let c : Fin 17 := 0
    let n : Nat := 0
    let rest : List Nat := []
    let q := s.quad iq
    let code (i : Nat) : W64 := q.pmWord c i
    let task := q.fld (Reg.HPN_SCH_TASK n)
    let e := q.tEntry task
    let plain (i : Nat) : Prop := wFlow (code i) = .plain
    q.coreAt 0 = some c ∧
    q.hpn.state = .verify ∧
    q.hpn.verified = none ∧
    q.hpn.since + 1 ≤ q.tick ∧
    q.hpnEntries = n :: rest ∧
    q.tValid task = true ∧
    q.tHpn task = true ∧
    code e ≠ 0 ∧
    e = 8191 ∧
    plain e := by decide +kernel

theorem witness_HardpanLife_9 :
    let s : State := on .standby fun q => verifying 0 (prog 5 [13835339530258874368] (task 6 0x80005 q))
    let iq : QId := .q0
    let c : Fin 17 := 0
    let n : Nat := 0
    let rest : List Nat := []
    let q := s.quad iq
    let code (i : Nat) : W64 := q.pmWord c i
    let task := q.fld (Reg.HPN_SCH_TASK n)
    let e := q.tEntry task
    let allot (m : Nat) : Nat := 16 * q.fld (Reg.HPN_SCH_ALLOT m)
    q.coreAt 0 = some c ∧
    q.hpn.state = .verify ∧
    q.hpn.verified = none ∧
    q.hpn.since + 1 ≤ q.tick ∧
    q.hpnEntries = n :: rest ∧
    q.tValid task = true ∧
    q.tHpn task = true ∧
    code e ≠ 0 ∧
    wFlow (code e) = .done ∧
    allot n < 8 := by decide +kernel

theorem witness_HardpanLife_10 :
    let s : State := on .standby fun q => verifying 5 (prog 5 [4900206665648832512, 9225344560815669248, 1729438366379802624, 1729438366379802624, 13835339530258874368] (task 6 0x80005 q))
    let iq : QId := .q0
    let c : Fin 17 := 0
    let n : Nat := 0
    let rest : List Nat := []
    let d : Nat := 2
    let imm : Nat := 0
    let q := s.quad iq
    let code (i : Nat) : W64 := q.pmWord c i
    let task := q.fld (Reg.HPN_SCH_TASK n)
    let e := q.tEntry task
    let plain (i : Nat) : Prop := wFlow (code i) = .plain
    q.coreAt 0 = some c ∧
    q.hpn.state = .verify ∧
    q.hpn.verified = none ∧
    q.hpn.since + 1 ≤ q.tick ∧
    q.hpnEntries = n :: rest ∧
    q.tValid task = true ∧
    q.tHpn task = true ∧
    code e ≠ 0 ∧
    wLdi (code e) = some (d, imm) ∧
    wFlow (code (e + 1)) = .dbnz d (e + 1) ∧
    plain (e + 2) ∧
    plain (e + 3) ∧
    e + 4 < 8192 ∧
    wFlow (code (e + 4)) = .done ∧
    (imm = 0 ∨ 65536 < imm ∨ d ∈ wWritesD (code (e + 2)) ∨ d ∈ wWritesD (code (e + 3))) := by decide +kernel

theorem witness_HardpanLife_11 :
    let s : State := on .standby fun q => verifying 1 (prog 5 [4900206665648832515, 9225344560815669248, 1729438366379802624, 1729438366379802624, 13835339530258874368] (task 6 0x80005 q))
    let iq : QId := .q0
    let c : Fin 17 := 0
    let n : Nat := 0
    let rest : List Nat := []
    let d : Nat := 2
    let imm : Nat := 3
    let q := s.quad iq
    let code (i : Nat) : W64 := q.pmWord c i
    let task := q.fld (Reg.HPN_SCH_TASK n)
    let e := q.tEntry task
    let allot (m : Nat) : Nat := 16 * q.fld (Reg.HPN_SCH_ALLOT m)
    let plain (i : Nat) : Prop := wFlow (code i) = .plain
    q.coreAt 0 = some c ∧
    q.hpn.state = .verify ∧
    q.hpn.verified = none ∧
    q.hpn.since + 1 ≤ q.tick ∧
    q.hpnEntries = n :: rest ∧
    q.tValid task = true ∧
    q.tHpn task = true ∧
    code e ≠ 0 ∧
    wLdi (code e) = some (d, imm) ∧
    wFlow (code (e + 1)) = .dbnz d (e + 1) ∧
    plain (e + 2) ∧
    plain (e + 3) ∧
    e + 4 < 8192 ∧
    wFlow (code (e + 4)) = .done ∧ (
    let cyc := 18
    let x := 0
    let y := 0
    1 ≤ imm ∧
    imm ≤ 65536 ∧
    d ∉ wWritesD (code (e + 2)) ∧
    d ∉ wWritesD (code (e + 3)) ∧
    cyc = 9 + imm * (1 + wCycles (code (e + 2)) + wCycles (code (e + 3))) ∧
    x = imm * ((wStores (code (e + 2))).1 + (wStores (code (e + 3))).1) ∧
    y = imm * ((wStores (code (e + 2))).2 + (wStores (code (e + 3))).2) ∧
    allot n < cyc) := by decide +kernel

theorem witness_HardpanLife_12 :
    let s : State := on .standby fun q => { task 6 0x82123 q with hpn := {} }
    let iq : QId := .q0
    let c0 : Fin 17 := 0
    let c1 : Fin 17 := 1
    let q := s.quad iq
    q.coreAt 0 = some c0 ∧
    q.coreAt 1 = some c1 ∧
    q.mode = .standby ∧
    q.hpn.state = .off := by decide +kernel

theorem witness_HardpanLife_13 :
    let s : State := on .standby fun q => { task 6 0x82123 q with hpn := { state := .verify, since := 999 } }
    let iq : QId := .q0
    let c0 : Fin 17 := 0
    let c1 : Fin 17 := 1
    let q := s.quad iq
    q.coreAt 0 = some c0 ∧
    q.coreAt 1 = some c1 ∧
    q.hpn.state = .verify ∧
    q.hpn.verified = none ∧
    q.hpn.since + 1 ≤ q.tick := by decide +kernel

theorem witness_HardpanLife_14 :
    let s : State := on .standby fun q => { task 6 0x82123 q with hpn := { state := .verify, since := 999, verified := some false, verr := 0x123 } }
    let iq : QId := .q0
    let c0 : Fin 17 := 0
    let c1 : Fin 17 := 1
    let q := s.quad iq
    q.coreAt 0 = some c0 ∧
    q.coreAt 1 = some c1 ∧
    q.hpn.state = .verify ∧
    q.hpn.verified = some false ∧
    q.change = none ∧
    ((∀ j ∈ [QId.q0, .q1, .q2, .q3], (s.quad j).mem.wf) ∧ s.dev.host.staging.wf) := by decide +kernel

theorem witness_CoresThatDoNotIssue_1 :
    let s : State := core4 fun k => { k with reqs := List.replicate 8 ⟨false, false, some (.d 2), 5, .clean, 0⟩ }
    let i : Issue := iss 4
    let dx : Fin 16 := 2
    let code : BitVec 6 := 3
    let store : Bool := true
    i.upset = none ∧
    i.mism = false ∧
    i.pm = 0 ∧
    ((s.quad i.q).locked = true → 2 ≤ ((s.quad i.q).core i.c).pos.val) ∧
    (s.quad i.q).closed i.c = false ∧
    (((s.quad i.q).core i.c).rep = 0 → ((s.quad i.q).core i.c).bootFetch = false ∧ (s.quad i.q).eccAt (pmAddr i.c ((s.quad i.q).core i.c).pc.toNat) = .clean) ∧ (
    let k := s.issuer i
    (k.reqs.any (fun x => !x.store && x.set == k.act && x.dst == some (.d dx)) = true) ∧
    (
    8 ≤ k.reqs.length ∧
    (gprOf code).isSome = true)) := by decide +kernel

theorem witness_CoresThatDoNotIssue_2 :
    let s : State := on .halt (inCore 4 id)
    let c : Instr := .nop (iss 4)
    let i : Issue := iss 4
    issueOf c = some i ∧
    i.upset = none ∧
    i.mism = false ∧
    ((s.quad i.q).locked = true → 2 ≤ ((s.quad i.q).core i.c).pos.val) ∧
    (s.quad i.q).closed i.c = true := by decide +kernel

theorem witness_CoresThatDoNotIssue_3 :
    let s : State := on .run fun q => { q with hpn := { state := .live } }
    let c : Instr := .nop (iss 1)
    let i : Issue := iss 1
    issueOf c = some i ∧
    i.upset = none ∧
    ((∀ j ∈ [QId.q0, .q1, .q2, .q3], (s.quad j).mem.wf) ∧ s.dev.host.staging.wf) ∧
    (s.quad i.q).locked = true ∧
    ((s.quad i.q).core i.c).pos = 1 := by decide +kernel

theorem witness_TaskEnds_1 :
    let s : State := core4
    let i : Issue := iss 4
    s.issues i ∧
    i.pm = 0 ∧ (
    let q := s.quad i.q
    let k := s.issuer i
    k.act = false ∧
    k.run = none ∧
    k.slots = 0 ∧
    (4 ≤ k.pos.val ∨ q.prefAt k.pos.val = none)) := by decide +kernel

theorem witness_TaskEnds_2 :
    let s : State := core4 fun k => { k with run := some (runOf (inst 6)) }
    let i : Issue := iss 4
    let r : Run := runOf (inst 6)
    s.issues i ∧
    ((∀ j ∈ [QId.q0, .q1, .q2, .q3], (s.quad j).mem.wf) ∧ s.dev.host.staging.wf) ∧
    i.pm = 0 ∧ (
    let q := s.quad i.q
    let k := s.issuer i
    k.act = false ∧
    k.flights = [] ∧
    k.slots = 0 ∧
    k.run = some r ∧
    k.assigned = none ∧
    4 ≤ k.pos.val ∧
    r.inst.flow = none ∧
    r.inst.bound = false ∧
    r.charged = false ∧
    q.flt.test = none) := by decide +kernel

theorem witness_SpawnAndQuestions_1 :
    let s : State := core4 fun k => { k with run := some { runOf (inst 6 1 false false (some (3, 5))) with frel := false } }
    let i : Issue := iss 4
    s.issues i ∧
    i.pm = 0 ∧ (
    let k := s.issuer i
    (match k.run with
    | some r => decide (
      k.act = false ∧
      r.inst.flow.isSome = true ∧
      r.frel = false)
    | none => false) = true) := by decide +kernel

theorem witness_SpawnAndQuestions_2 :
    let s : State := on .run fun q => inCore 4 (fun k => { k with set0 := { k.set0 with d := k.set0.d.set 2 6 } }) (sf (Reg.SCH_LVL_LIM_LIM 1) 1 (task 6 0x2123 q))
    let i : Issue := iss 4
    let dx : Fin 16 := 2
    s.issues i ∧
    ((∀ j ∈ [QId.q0, .q1, .q2, .q3], (s.quad j).mem.wf) ∧ s.dev.host.staging.wf) ∧
    i.pm = 0 ∧ (
    let q := s.quad i.q
    let k := s.issuer i
    let task := (k.dr dx).toNat % 4096
    q.eccIn (taskAddr task) 32 = [] ∧
    q.refused165 task = false ∧
    q.room168 task = true ∧
    q.tFvld task = false) := by decide +kernel

theorem witness_SpawnAndQuestions_3 :
    let s : State := on .run fun q => inCore 4 (fun k => { k with set0 := { k.set0 with d := k.set0.d.set 2 6 } }) (sf (Reg.SCH_LVL_LIM_LIM 1) 0 (task 6 0x2123 q))
    let i : Issue := iss 4
    let dx : Fin 16 := 2
    s.issues i ∧
    ((∀ j ∈ [QId.q0, .q1, .q2, .q3], (s.quad j).mem.wf) ∧ s.dev.host.staging.wf) ∧
    i.pm = 0 ∧ (
    let q := s.quad i.q
    let k := s.issuer i
    let task := (k.dr dx).toNat % 4096
    q.eccIn (taskAddr task) 32 = [] ∧
    q.refused165 task = false ∧
    q.room168 task = false) := by decide +kernel

theorem witness_SpawnAndQuestions_4 :
    let s : State := on .run fun q => inCore 4 (fun k => { k with set0 := { k.set0 with d := k.set0.d.set 2 7 } }) (sf (Reg.SCH_LVL_LIM_LIM 1) 1 (task 6 0x2123 q))
    let i : Issue := iss 4
    let dx : Fin 16 := 2
    s.issues i ∧
    ((∀ j ∈ [QId.q0, .q1, .q2, .q3], (s.quad j).mem.wf) ∧ s.dev.host.staging.wf) ∧
    i.pm = 0 ∧ (
    let q := s.quad i.q
    let k := s.issuer i
    let task := (k.dr dx).toNat % 4096
    q.eccIn (taskAddr task) 32 = [] ∧
    q.refused165 task = true) := by decide +kernel

theorem witness_SpawnAndQuestions_5 :
    let s : State := core4 fun k => { k with run := some { runOf (inst 6 1 false false (some (3, 5))) with frel := true } }
    let i : Issue := iss 4
    s.issues i ∧
    i.pm = 0 ∧ (
    let k := s.issuer i
    (match k.run with
    | some r => decide (
      k.act = false ∧
      r.inst.flow.isSome = true ∧
      r.frel = true)
    | none => false) = true) := by decide +kernel

theorem witness_BusRequestsComplete_1 :
    let s : State := core4 fun k => { k with reqs := [⟨false, false, some (.d 3), 77, .corr, 0⟩] }
    let iq : QId := .q0
    let c : Fin 17 := 4
    let x : BusReq := ⟨false, false, some (.d 3), 77, .corr, 0⟩
    let rest : List BusReq := []
    let q := s.quad iq
    let k := q.core c
    (q.locked = true → 2 ≤ k.pos.val) ∧
    k.reqs = x :: rest ∧
    x.store = false := by decide +kernel

theorem witness_BusRequestsComplete_2 :
    let s : State := core4 fun k => { k with reqs := [⟨true, false, none, 0, .clean, 0⟩] }
    let iq : QId := .q0
    let c : Fin 17 := 4
    let x : BusReq := ⟨true, false, none, 0, .clean, 0⟩
    let rest : List BusReq := []
    let q := s.quad iq
    let k := q.core c
    (q.locked = true → 2 ≤ k.pos.val) ∧
    k.reqs = x :: rest ∧
    x.store = true := by decide +kernel

theorem witness_CoreInputs_1 :
    let s : State := on .run fun q => { inCore 4 (fun k => { k with evm := 2, ask := some ⟨false, 5000, true, some 3⟩ }) (task 6 0x42123 q 0x10) with sch := { queue := [inst 6 1 false true] }, ecc := [(0x10040000, .corr)], eccBack := [0x10040000] }
    let iq : QId := .q0
    let c : Fin 17 := 4
    let pos : Fin 16 := 4
    let a : Nat := 0x10040000
    let x : Inst := inst 6 1 false true
    let v : W40 := 5000
    let set : Bool := true
    let dd : Fin 16 := 3
    let q := s.quad iq
    let k := q.core c
    (
    (∀ j ∈ q.sch.queue, q.tValid j.task = true) ∧
    q.coreAt pos.val = some c ∧
    k.pendEvt = none ∧
    k.evtRun = none ∧
    k.act = false ∧
    k.stopped = false ∧
    k.parked = false ∧
    (bestInst (q.sch.queue.filter fun i => i.evt && q.modeAllows i && bitN (q.effMask i.task) pos.val && q.tValid i.task && !(q.tSer i.task && q.running? i.task)) = some x)) ∧
    (
    (
    s.dev.host.life ≠ .sealed_ ∧
    s.dev.host.life ≠ .void_ ∧
    k.evm.getLsbD 1 = true ∧
    k.stopped = false) ∧
    (
    (
    a ∈ q.eccBack ∧
    q.eccAt a ≠ .uncorr) ∧
    (
    (q.locked = true → 2 ≤ k.pos.val) ∧
    k.ask = some ⟨false, v, set, some dd⟩ ∧
    4096 ≤ v.toNat))) := by decide +kernel

theorem witness_CoreInputs_2 :
    let s : State := on .run fun q => inCore 4 (fun k => { k with ask := some ⟨false, 6, true, some 3⟩ }) (sf (Reg.SCH_LVL_LIM_LIM 1) 5 (task 6 0x2123 q))
    let iq : QId := .q0
    let c : Fin 17 := 4
    let v : W40 := 6
    let set : Bool := true
    let dd : Fin 16 := 3
    let q := s.quad iq
    let k := q.core c
    q.locked = false ∧
    k.ask = some ⟨false, v, set, some dd⟩ ∧
    v.toNat < 4096 ∧
    q.eccIn (taskAddr v.toNat) 32 = [] ∧
    q.refused165 v.toNat = false ∧
    q.room168 v.toNat = true ∧
    q.tFvld v.toNat = false := by decide +kernel

theorem witness_CoreInputs_3 :
    let s : State := on .run fun q => inCore 4 (fun k => { k with ask := some ⟨false, 6, true, some 3⟩ }) (sf (Reg.SCH_LVL_LIM_LIM 1) 0 (task 6 0x2123 q))
    let iq : QId := .q0
    let c : Fin 17 := 4
    let v : W40 := 6
    let set : Bool := true
    let dd : Fin 16 := 3
    let q := s.quad iq
    let k := q.core c
    q.locked = false ∧
    k.ask = some ⟨false, v, set, some dd⟩ ∧
    v.toNat < 4096 ∧
    q.eccIn (taskAddr v.toNat) 32 = [] ∧
    q.refused165 v.toNat = false ∧
    q.room168 v.toNat = false := by decide +kernel

theorem witness_CoreInputs_4 :
    let s : State := withHost (on .run) fun h => { h with life := .sealed_ }
    (s.dev.host.life = .sealed_ ∨ s.dev.host.life = .void_) ∧
    ((∀ j ∈ [QId.q0, .q1, .q2, .q3], (s.quad j).mem.wf) ∧ s.dev.host.staging.wf) := by decide +kernel

theorem witness_Boundaries_1 :
    let s : State := on .standby
    let iq : QId := .q0
    let fi : W32 := 2
    let q := s.quad iq
    let k : Nat := 3 * q.tim.ns.toNat / t3 q.fi
    let now : Int := 3 * (q.tim.ns.toNat * 2 ^ 32 + q.tim.fr.toNat : Nat)
    let at_ : Int := (k * t3 q.fi * 2 ^ 32 : Nat)
    let first : Prop := k * t3 q.fi % 750000 = 0 ∧ at_ ≤ now ∧ ∀ v, q.tim.prev = some v → 3 * (v : Int) < at_
    q.running = true ∧
    (
    (
    (q.running = true ∨ q.gridDue = false ∨ ¬first) ∧
    ((∀ j ∈ [QId.q0, .q1, .q2, .q3], (s.quad j).mem.wf) ∧ s.dev.host.staging.wf)) ∧
    (
    fi.toNat ≤ 2 ∧
    q.mode = .standby ∧
    (∀ b ∈ q.sch.bound, b.last ≠ none))) := by decide +kernel

theorem witness_Boundaries_2 :
    let s : State := on .run fun q => { q with running := false, gridDue := true }
    let iq : QId := .q0
    let fi : W32 := 0
    let q := s.quad iq
    let k : Nat := 3 * q.tim.ns.toNat / t3 q.fi
    let now : Int := 3 * (q.tim.ns.toNat * 2 ^ 32 + q.tim.fr.toNat : Nat)
    let at_ : Int := (k * t3 q.fi * 2 ^ 32 : Nat)
    let first : Prop := k * t3 q.fi % 750000 = 0 ∧ at_ ≤ now ∧ ∀ v, q.tim.prev = some v → 3 * (v : Int) < at_
    (
    q.running = false ∧
    ((∀ j ∈ [QId.q0, .q1, .q2, .q3], (s.quad j).mem.wf) ∧ s.dev.host.staging.wf)) ∧
    (
    q.running = false ∧
    q.gridDue = true ∧
    q.rst = .past ∧
    first) := by decide +kernel

theorem witness_ModeCommands_1 :
    let s : State := on .standby fun q => { q with kln := { prepared := [⟨9, 3, 990, 1002, 10, [⟨false, 5⟩], some 0, false, false, false, 1, 0⟩] } }
    let iq : QId := .q0
    let seq : W32 := 44
    let q := s.quad iq
    let free : Prop := q.kln.prepared = [] ∧ q.kln.pend = []
    q.takesCommand = true ∧
    q.seqOk seq = true ∧
    q.change = none ∧
    q.mode ≠ .halt ∧
    (
    q.mode = .standby ∧
    (
    (¬free) ∧
    (
    (
    q.mode = .standby ∧
    (q.running = false ∨ q.hpnOn = false ∧ ∀ b ∈ q.sch.bound, b.last ≠ none)) ∧
    q.hpnOn = false))) := by decide +kernel

theorem witness_ModeCommands_2 :
    let s : State := on .standby fun q => { q with change := some ⟨.run, 0, .command 44 5⟩ }
    let iq : QId := .q0
    let seq : W32 := 44
    let q := s.quad iq
    (
    q.takesCommand = true ∧
    q.seqOk seq = true ∧
    q.change ≠ none ∧
    q.mode ≠ .halt) ∧
    (
    let m := Mode.run
    let acc := 5
    q.change = some ⟨m, 0, .command seq acc⟩ ∧
    q.up ∧
    m ≠ .scour ∧
    q.flt.due = [] ∧
    q.hpn.entry ≠ some 0) := by decide +kernel

theorem witness_ModeCommands_3 :
    let s : State := on .halt
    let iq : QId := .q0
    let seq : W32 := 44
    let q := s.quad iq
    q.takesCommand = true ∧
    q.seqOk seq = true ∧
    q.change = none ∧
    q.mode = .halt := by decide +kernel

theorem witness_ModeCommands_4 :
    let s : State := on .run fun q => { q with hpn := { state := .live, entry := some 0 } }
    let iq : QId := .q0
    let seq : W32 := 44
    let q := s.quad iq
    let free : Prop := q.kln.prepared = [] ∧ q.kln.pend = []
    (
    q.takesCommand = true ∧
    q.seqOk seq = true ∧
    q.change = none ∧
    (
    free ∧
    (q.mode = .run ∨ q.mode = .hardpan ∨ q.mode = .service ∧ q.flt.test = none)) ∧
    (
    (
    q.mode = .run ∧
    q.hpnOn = true) ∧
    q.mode = .run)) ∧
    (
    q.hpn.entry = some 0 ∧
    q.mode = .run ∧
    q.locked = true ∧
    q.flt.due = [] ∧
    q.haltDue = false) := by decide +kernel

theorem witness_ModeCommands_5 :
    let s : State := on .service fun q => { q with flt := { test := some ⟨1, 16, 0, 5⟩ } }
    let iq : QId := .q0
    let seq : W32 := 44
    let q := s.quad iq
    q.takesCommand = true ∧
    q.seqOk seq = true ∧
    q.change = none ∧
    q.mode = .service ∧
    (
    q.mode = .service ∧
    q.flt.test ≠ none) := by decide +kernel

theorem witness_ModeCommands_6 :
    let s : State := on .hardpan
    let iq : QId := .q0
    let seq : W32 := 44
    let q := s.quad iq
    q.takesCommand = true ∧
    q.seqOk seq = true ∧
    q.change = none ∧
    (q.mode = .standby ∧ q.runOk = true ∨ q.mode = .hardpan) ∧
    q.mode = .hardpan := by decide +kernel

theorem witness_ModeCommands_7 :
    let s : State := on .standby
    let iq : QId := .q0
    let seq : W32 := 44
    let q := s.quad iq
    let free : Prop := q.kln.prepared = [] ∧ q.kln.pend = []
    q.takesCommand = true ∧
    q.seqOk seq = true ∧
    q.change = none ∧
    free ∧
    q.mode = .standby := by decide +kernel

theorem witness_Resets_1 :
    let s : State := on .run
    let iq : QId := .q0
    let ns : Nat := 10001
    let core : Nat := 500
    let mgt : Nat := 2700
    let q := s.quad iq
    let h := s.dev.host
    (
    100 ≤ ns ∧
    q.rst ≠ .held) ∧
    (
    q.mode ≠ .scour ∧
    (
    (
    10000 < ns ∧
    q.rst ≠ .held) ∧
    (
    (
    h.holds = false ∧
    ((∀ j ∈ [QId.q0, .q1, .q2, .q3], (s.quad j).mem.wf) ∧ s.dev.host.staging.wf)) ∧
    (core < 620 ∨ mgt < 2800)))) := by decide +kernel

theorem witness_Resets_2 :
    let s : State := on .run fun q => { q with rst := .held }
    let iq : QId := .q0
    let ns : Nat := 10001
    let q := s.quad iq
    100 ≤ ns ∧
    q.rst = .held := by decide +kernel

theorem witness_Resets_3 :
    let s : State := withHost (on .run) fun h => { h with porLow := true }
    let h := s.dev.host
    h.porLow = true := by decide +kernel

theorem witness_Resets_4 :
    let s : State := withHost (on .run) fun h => { h with held := true }
    let core : Nat := 621
    let mgt : Nat := 2801
    let h := s.dev.host
    h.held = true ∧
    620 < core ∧
    2800 < mgt := by decide +kernel

theorem witness_StartUp_1 :
    let s : State := st { Quad.reset with rst := .released }
    let iq : QId := .q0
    let q := s.quad iq
    q.rst = .released := by decide +kernel

theorem witness_StartUp_2 :
    let s : State := st { Quad.reset with rst := .scouring }
    let iq : QId := .q0
    let q := s.quad iq
    q.rst = .scouring := by decide +kernel

theorem witness_StartUp_3 :
    let s : State := on .standby fun q => q.mapCores fun _ k => { k with parked := true }
    let iq : QId := .q0
    let q := s.quad iq
    (q.mode = .standby ∨ q.mode = .service) ∧
    q.othersParked = true ∧
    q.dma.items = [] ∧
    q.dma.copying = [] := by decide +kernel

theorem witness_StartUp_4 :
    let s : State := withHost (on .standby) fun h => { h with mladcel := true, boots := [some ⟨1, 0, 1⟩, none], images := [(2, ⟨[(5, 6)], 400, true⟩)] }
    let iq : QId := .q0
    let q := s.quad iq
    let h := s.dev.host
    h.mladcel = true ∧
    q.rst = .past ∧
    q.mode = .standby ∧
    h.deliveries.find iq.num = none ∧
    h.boot.auto.getLsbD iq.num = true ∧
    h.life.autoOk = true ∧
    0 < (h.image (iq.num + 1) (h.selected (iq.num + 1))).len := by decide +kernel

theorem witness_StartUp_5 :
    let s : State := withHost (on .standby) fun h => { h with mladcel := true, deliveries := [(0, ⟨false, false, true, none, 3, false⟩)] }
    let iq : QId := .q0
    let q := s.quad iq
    let h := s.dev.host
    (match h.deliveries.find iq.num with
    | some e => decide (
      h.mladcel = true ∧
      e.delivered = true ∧
      e.done = false ∧
      e.mode = none ∧
      q.rst = .past ∧
      q.mode ≠ .halt)
    | none => false) = true := by decide +kernel

theorem witness_StartUp_6 :
    let s : State := withHost (on .standby) fun h => { h with mladcel := true, deliveries := [(0, ⟨false, false, true, some .run, 3, false⟩)] }
    let iq : QId := .q0
    let q := s.quad iq
    let h := s.dev.host
    let e := ⟨false, false, true, some .run, 3, false⟩
    let m := Mode.run
    h.deliveries.find iq.num = some e ∧
    h.mladcel = true ∧
    e.delivered = true ∧
    e.done = false ∧
    e.mode = some m ∧
    q.rst = .past ∧
    q.mode = .standby := by decide +kernel

theorem witness_Arming_1 :
    let s : State := on .run fun q => { task 6 0x2123 q with sch := { bound := [⟨6, 5, none⟩], tickList := [⟨1010, 6, some 4, false⟩] } }
    let iq : QId := .q0
    let w : Writer := 16
    let task : BitVec 12 := 6
    let q := s.quad iq
    let t := task.toNat
    mayWrite w = true ∧
    q.up ∧
    q.tickB t = true ∧
    (
    (q.tickB t = true ∨ q.pmode t ≠ 0 ∨ q.tEvt t = true ∨ q.tFvld t = true ∨ 1024 ≤ q.reservation ∨ q.refused165 t = true) ∧
    (
    (q.tickB t = true ∨ q.pmode t ≠ 0 ∨ q.refused165 t = true) ∧
    (
    q.tf t 1 31 16 = 0 ∧
    (
    q.tf t 3 31 0 < 10000 ∧
    (
    (
    q.refused165 t = false ∧
    q.sch.tickList.length < 1024) ∧
    (
    (
    q.refused165 t = false ∧
    q.sch.timeList.length < 1024) ∧
    q.pmode t ≠ 0)))))) := by decide +kernel

theorem witness_Arming_2 :
    let s : State := on .run fun q => { task 6 0x2123 q 0xFFFF 0x50000 10000 with sch := { tickList := List.replicate 1024 ⟨1010, 9, none, false⟩ } }
    let iq : QId := .q0
    let w : Writer := 16
    let task : BitVec 12 := 6
    let q := s.quad iq
    let t := task.toNat
    mayWrite w = true ∧
    q.up ∧
    (
    q.tickB t = false ∧
    q.pmode t = 0 ∧
    q.tEvt t = false ∧
    q.tFvld t = false ∧
    q.reservation < 1024 ∧
    q.refused165 t = false) ∧
    (
    q.tickB t = false ∧
    (
    q.pmode t = 0 ∧
    (
    (
    q.refused165 t = false ∧
    1024 ≤ q.sch.tickList.length ∧
    q.tickB t = false ∧
    q.pmode t = 0 ∧
    q.tf t 1 31 16 ≠ 0) ∧
    (
    q.refused165 t = false ∧
    q.sch.timeList.length < 1024 ∧
    q.tickB t = false ∧
    q.pmode t = 0 ∧
    10000 ≤ q.tf t 3 31 0)))) := by decide +kernel

theorem witness_Arming_3 :
    let s : State := on .run fun q => { task 6 0x2123 q 0xFFFF 0x50000 10000 with sch := { timeList := List.replicate 1024 ⟨1010, 9, none, false⟩ } }
    let iq : QId := .q0
    let w : Writer := 16
    let task : BitVec 12 := 6
    let q := s.quad iq
    let t := task.toNat
    mayWrite w = true ∧
    q.up ∧
    (
    q.refused165 t = false ∧
    1024 ≤ q.sch.timeList.length ∧
    q.tickB t = false ∧
    q.pmode t = 0 ∧
    10000 ≤ q.tf t 3 31 0) ∧
    (
    q.refused165 t = false ∧
    q.sch.tickList.length < 1024 ∧
    q.tickB t = false ∧
    q.pmode t = 0 ∧
    q.tf t 1 31 16 ≠ 0) := by decide +kernel

theorem witness_Arming_4 :
    let s : State := on .run
    let iq : QId := .q0
    let w : Writer := 16
    let task : BitVec 12 := 7
    let q := s.quad iq
    let t := task.toNat
    mayWrite w = true ∧
    q.up ∧
    q.refused165 t = true := by decide +kernel

theorem witness_SchedulerEvents_1 :
    let s : State := on .run fun q => { sf (Reg.SCH_LVL_LIM_LIM 1) 5 (task 6 0x2123 q) with sch := { tickList := [⟨990, 6, none, false⟩], timeList := [⟨0, 6, none, false⟩] } }
    let iq : QId := .q0
    let v : W32 := 4095
    let q := s.quad iq
    let room (t : Nat) : Prop := q.refused165 t = false ∧ q.room168 t = true ∧ q.tFvld t = false ∧ q.eccIn (taskAddr t) 32 = []
    (
    (match q.sch.tickList with
    | e :: rest => decide (
      e.period = none ∧
      room e.task ∧
      q.mode ≠ .scour ∧
      e.key ≤ q.tick ∧
      e.expired = false)
    | [] => false) = true) ∧
    (
    (
    (match q.sch.timeList with
    | e :: rest => decide (
      e.period = none ∧
      room e.task ∧
      q.mode ≠ .scour ∧
      e.key ≤ q.tim.ns ∧
      e.expired = false)
    | [] => false) = true) ∧
    (
    v.toNat < 4096 ∧
    q.sch.mbox.length < 64 ∧ (
    let fromHost := true
    (fromHost = true ∨ q.up)))) := by decide +kernel

theorem witness_SchedulerEvents_2 :
    let s : State := on .run fun q => { inCore 2 id (task 6 0x2123 q) with sch := { queue := [inst 6], asks := [2] } }
    let iq : QId := .q0
    let pos : Fin 16 := 2
    let f : Fin 64 := 63
    let v : W32 := 5
    let q := s.quad iq
    (
    (match q.select pos.val with
    | some x => decide (
      (match q.coreAt pos.val with
      | some c => decide (
        pos.val < 4 ∧
        (∀ i ∈ q.sch.queue, q.tValid i.task = true) ∧
        q.swapPref = none ∧
        q.nextAsk = some pos.val ∧
        (q.core c).wait ≠ .req)
      | none => false) = true)
    | none => false) = true) ∧
    (
    q.up ∧
    (q.flow f.val).out = 0 ∧
    v.toNat % 4 ≠ 3) := by decide +kernel

theorem witness_SchedulerEvents_3 :
    let s : State := on .run fun q => { inCore 4 (fun k => { k with wait := .req }) (task 6 0x2123 q) with sch := { queue := [inst 6], asks := [4] } }
    let iq : QId := .q0
    let pos : Fin 16 := 4
    let q := s.quad iq
    (match q.select pos.val with
    | some x => decide (
      (match q.coreAt pos.val with
      | some c => decide (
        4 ≤ pos.val ∧
        (∀ i ∈ q.sch.queue, q.tValid i.task = true) ∧
        q.swapPref = none ∧
        q.nextAsk = some pos.val ∧
        (q.core c).act = false ∧
        (q.core c).eventPends = false)
      | none => false) = true)
    | none => false) = true := by decide +kernel

theorem witness_SchedulerEvents_4 :
    let s : State := on .run fun q => { sf (Reg.SCH_LVL_LIM_LIM 1) 5 (task 6 0x2123 q) with sch := { tickList := [⟨990, 6, none, true⟩] } }
    let iq : QId := .q0
    let q := s.quad iq
    let room (t : Nat) : Prop := q.refused165 t = false ∧ q.room168 t = true ∧ q.tFvld t = false ∧ q.eccIn (taskAddr t) 32 = []
    (match q.sch.tickList with
    | e :: rest => decide (
      e.period = none ∧
      room e.task ∧
      q.mode ≠ .scour ∧
      e.key ≤ q.tick ∧
      e.expired = true)
    | [] => false) = true := by decide +kernel

theorem witness_SchedulerEvents_5 :
    let s : State := on .run fun q => { sf (Reg.SCH_LVL_LIM_LIM 1) 5 (task 6 0x2123 q) with sch := { mbox := [6, 7] } }
    let iq : QId := .q0
    let q := s.quad iq
    let room (t : Nat) : Prop := q.refused165 t = false ∧ q.room168 t = true ∧ q.tFvld t = false ∧ q.eccIn (taskAddr t) 32 = []
    (match q.sch.mbox with
    | t :: rest => decide (
      q.sch.mboxHeld = false ∧
      q.mode ≠ .scour ∧
      room t)
    | [] => false) = true := by decide +kernel

theorem witness_SchedulerEvents_6 :
    let s : State := on .run fun q => { sf (Reg.SCH_LVL_LIM_LIM 1) 5 (task 6 0x2123 q) with sch := { mbox := [9, 7] } }
    let iq : QId := .q0
    let q := s.quad iq
    (match q.sch.mbox with
    | t :: rest => decide (
      q.sch.mboxHeld = false ∧
      q.mode ≠ .scour ∧
      q.refused165 t = true ∧
      q.eccIn (taskAddr t) 32 = [])
    | [] => false) = true := by decide +kernel

theorem witness_SchedulerEvents_7 :
    let s : State := on .run fun q => { sf (Reg.SCH_LVL_LIM_LIM 1) 0 (task 6 0x2123 q) with sch := { mbox := [6, 7] } }
    let iq : QId := .q0
    let q := s.quad iq
    (match q.sch.mbox with
    | t :: rest => decide (
      q.sch.mboxHeld = false ∧
      q.mode ≠ .scour ∧
      q.refused165 t = false ∧
      q.room168 t = false ∧
      q.eccIn (taskAddr t) 32 = [])
    | [] => false) = true := by decide +kernel

theorem witness_SchedulerEvents_8 :
    let s : State := on .run fun q => { sf (Reg.SCH_LVL_LIM_LIM 1) 5 (task 6 0x2123 q) with sch := { tickList := [⟨998, 6, some 7, false⟩] } }
    let iq : QId := .q0
    let q := s.quad iq
    let room (t : Nat) : Prop := q.refused165 t = false ∧ q.room168 t = true ∧ q.tFvld t = false ∧ q.eccIn (taskAddr t) 32 = []
    (match q.sch.tickList with
    | e :: rest => decide (
      let per := (7 : Nat)
      e.period = some per ∧
      0 < per ∧
      room e.task ∧
      q.mode ≠ .scour ∧
      e.key ≤ q.tick ∧
      q.tick.toNat < e.key.toNat + per ∧
      e.key.toNat + per < 2 ^ 64 ∧
      e.expired = false ∧
      q.tSer e.task = false ∧
      q.queued e.task = 0)
    | [] => false) = true := by decide +kernel

theorem witness_SchedulerEvents_9 :
    let s : State := on .run fun q => { sf (Reg.SCH_LVL_LIM_LIM 1) 5 (task 6 0x2123 q) with sch := { tickList := [⟨998, 6, some 7, false⟩, ⟨1003, 8, none, false⟩], queue := [inst 6] } }
    let iq : QId := .q0
    let q := s.quad iq
    let room (t : Nat) : Prop := q.refused165 t = false ∧ q.room168 t = true ∧ q.tFvld t = false ∧ q.eccIn (taskAddr t) 32 = []
    (match q.sch.tickList with
    | e :: rest => decide (
      let per := (7 : Nat)
      e.period = some per ∧
      0 < per ∧
      room e.task ∧
      q.mode ≠ .scour ∧
      e.key ≤ q.tick ∧
      q.tick.toNat < e.key.toNat + per ∧
      e.key.toNat + per < 2 ^ 64 ∧
      e.expired = false ∧
      q.tSer e.task = false ∧
      0 < q.queued e.task)
    | [] => false) = true := by decide +kernel

theorem witness_FabricSums_1 :
    let s : State := on .run fun q => { sf (Reg.XCH_OWN_KIND 101) 3 q with kln := { served := true } }
    let iq : QId := .q0
    let j : Fin 4 := 3
    let q := s.quad iq
    ((∀ j ∈ [QId.q0, .q1, .q2, .q3], (s.quad j).mem.wf) ∧ s.dev.host.staging.wf) ∧
    q.mode = .run ∧
    q.running = true ∧
    q.fab.passed = false ∧
    q.ecc = [] ∧
    q.kln.served = true ∧
    (∀ f ∈ q.kln.fades, f.i < f.len) ∧
    (∀ p ∈ q.kln.prepared, p.committed = true → p.t ≠ q.tick) ∧
    q.routes = [] ∧ (
    let d := (101 : Nat)
    d < slotLimit q.fi ∧
    q.kind d = 3) := by decide +kernel

theorem witness_FabricCommands_1 :
    let s : State := on .run fun q => { q with fab := { passed := true, retry := [⟨5, [0, 0, 0, 0], true, false, []⟩] } }
    let iq : QId := .q0
    let mper : BitVec 4 := 12
    let j : Fin 4 := 0
    let q := s.quad iq
    (
    q.fab.passed = true ∧
    q.fab.retry ≠ []) ∧
    (
    (
    let x := ⟨5, [0, 0, 0, 0], true, false, []⟩
    q.fab.passed = true ∧
    q.fab.retry = [x] ∧
    q.ecc = [] ∧
    x.dst < slotLimit q.fi ∧
    ((∀ j ∈ [QId.q0, .q1, .q2, .q3], (s.quad j).mem.wf) ∧ s.dev.host.staging.wf) ∧
    q.fab.mainEnd + (x.run.map q.rCost).sum ≤ q.halfCycles ∧
    q.runSums x.run = x.sums ∧
    (x.okA = true ∨ x.okB = true)) ∧
    (
    (q.mode = .run ∨ q.mode = .hardpan) ∧
    (
    (
    q.buffered = true ∧
    q.fab.dwWait.length ≤ 1024 - q.fab.dwq.length ∧
    q.kln.hold.length ≤ 4096 ∧
    (∀ b ∈ q.fab.dwWait, b.bytes ≠ [] ∧ ∀ x ∈ b.bytes, 0x21000000 ≤ x.1 ∧ x.1 < 0x21080000 ∧ q.role x.1 = .plain) ∧
    (∀ i ∈ q.dma.items, i.tail = none) ∧
    q.hp.writeWait = none ∧
    q.hp.load = none) ∧
    (
    q.up ∧
    mper.toNat ≤ 12)))) := by decide +kernel

theorem witness_FabricCommands_2 :
    let s : State := on .standby
    let iq : QId := .q0
    let offset : BitVec 19 := 0x7FFF8
    let data : List Byte := [1, 2]
    let j : Fin 4 := 0
    let q := s.quad iq
    (q.mode = .standby ∨ q.mode = .service) ∧
    (
    (q.mode = .standby ∨ q.mode = .service) ∧
    q.fab.dwWait = [] ∧
    q.kln.hold.length ≤ 4096 ∧
    ((∀ j ∈ [QId.q0, .q1, .q2, .q3], (s.quad j).mem.wf) ∧ s.dev.host.staging.wf) ∧
    (∀ k, k < data.length → q.role (0x21000000 + offset.toNat + k) = .plain)) := by decide +kernel

theorem witness_FabricCommands_3 :
    let s : State := on .run fun q => { q with fab := { passed := true, retry := [⟨5, [0, 0, 0, 0], false, false, []⟩] } }
    let iq : QId := .q0
    let j : Fin 4 := 0
    let q := s.quad iq
    let x := ⟨5, [0, 0, 0, 0], false, false, []⟩
    q.fab.passed = true ∧
    q.fab.retry = [x] ∧
    q.ecc = [] ∧
    x.dst < slotLimit q.fi ∧
    ((∀ j ∈ [QId.q0, .q1, .q2, .q3], (s.quad j).mem.wf) ∧ s.dev.host.staging.wf) ∧
    q.fab.mainEnd + (x.run.map q.rCost).sum ≤ q.halfCycles ∧
    q.runSums x.run = x.sums ∧
    x.okA = false ∧
    x.okB = false := by decide +kernel

theorem witness_FabricCommands_4 :
    let s : State := on .run fun q => { q with tick := 1024, fab := { accTicks := 5 } }
    let iq : QId := .q0
    let q := s.quad iq
    q.fab.mperPend = none ∧
    q.fab.accTicks ≠ 0 ∧
    q.tick.toNat % 2 ^ q.fld Reg.XCH_CTL_MPER = 0 := by decide +kernel

theorem witness_TimedCommits_1 :
    let s : State := on .standby fun q => { w4 0x10040004 6 (w4 0x10040000 5 (w4 0x23010034 1 (w4 0x23010030 0x1004000 (route 5 100 101 5 (sf Reg.KLN_CTL_ARM 1 q))))) with kln := {} }
    let iq : QId := .q0
    let seq : W32 := 44
    let id : BitVec 16 := 7
    let scene : BitVec 8 := 3
    let t : W64 := 1010
    let q := s.quad iq
    let reason := q.prepReason id scene.toNat t (q.tick.toNat + 3)
    q.takesCommand = true ∧
    q.seqOk seq = true ∧
    q.mode ≠ .halt ∧
    reason ≠ 0 ∧
    (
    (
    q.tick.toNat + 3 ≤ t.toNat ∧
    (q.mode = .standby ∨ q.mode = .service)) ∧
    q.preparedOf id = none) := by decide +kernel

theorem witness_TimedCommits_2 :
    let s : State := on .run fun q => { w4 0x10040004 6 (w4 0x10040000 5 (w4 0x23010034 1 (w4 0x23010030 0x1004000 (route 5 100 101 5 (sf Reg.KLN_CTL_ARM 1 q))))) with kln := { prepared := [⟨9, 3, 990, 1001, 10, [⟨false, 5⟩], some 0, false, false, false, 1, 0⟩] } }
    let iq : QId := .q0
    let id : BitVec 16 := 9
    let q := s.quad iq
    q.up ∧
    (
    (match q.preparedOf id with
    | some p => decide (
      p.committed = false ∧
      p.t.toNat ≤ q.tick.toNat + 1)
    | none => false) = true) ∧
    q.kln.served = false := by decide +kernel

theorem witness_TimedCommits_3 :
    let s : State := on .run fun q => { w4 0x10040004 6 (w4 0x10040000 5 (w4 0x23010034 1 (w4 0x23010030 0x1004000 (route 5 100 101 5 (sf Reg.KLN_CTL_ARM 1 q))))) with kln := { prepared := [⟨9, 3, 990, 1002, 10, [⟨false, 5⟩], some 0, false, false, false, 1, 0⟩] } }
    let iq : QId := .q0
    let seq : W32 := 44
    let id : BitVec 16 := 9
    let t : W64 := 1003
    let q := s.quad iq
    q.takesCommand = true ∧
    q.seqOk seq = true ∧
    q.mode ≠ .halt ∧
    (match q.preparedOf id with
    | some p => decide (
      q.tick.toNat + 2 ≤ p.t.toNat)
    | none => false) = true := by decide +kernel

theorem witness_TimedCommits_4 :
    let s : State := on .run fun q => { w4 0x10040004 6 (w4 0x10040000 5 (w4 0x23010034 1 (w4 0x23010030 0x1004000 (route 5 100 101 5 (sf Reg.KLN_CTL_ARM 1 q))))) with kln := {} }
    let iq : QId := .q0
    let seq : W32 := 44
    let id : BitVec 16 := 7
    let scene : BitVec 8 := 3
    let t : W64 := 1010
    let q := s.quad iq
    let reason := q.prepReason id scene.toNat t (q.tick.toNat + 3)
    q.takesCommand = true ∧
    q.seqOk seq = true ∧
    q.mode ≠ .halt ∧
    reason = 0 ∧
    q.sceneEcc scene.toNat = [] := by decide +kernel

theorem witness_TimedCommits_5 :
    let s : State := on .run fun q => { w4 0x10040004 6 (w4 0x10040000 5 (w4 0x23010034 1 (w4 0x23010030 0x1004000 (route 5 100 101 5 (sf Reg.KLN_CTL_ARM 1 q))))) with kln := {} }
    let iq : QId := .q0
    let seq : W32 := 44
    let t : W64 := 1002
    let q := s.quad iq
    q.takesCommand = true ∧
    q.seqOk seq = true ∧
    q.mode ≠ .halt ∧
    t.toNat < q.tick.toNat + 3 := by decide +kernel

theorem witness_TimedCommits_6 :
    let s : State := on .run (sf Reg.SNX_STAT_STATE snxManager)
    let iq : QId := .q0
    let seq : W32 := 44
    let q := s.quad iq
    q.takesCommand = true ∧
    q.seqOk seq = true ∧
    q.mode ≠ .halt ∧
    q.snxState = snxManager ∧
    q.snx.coll = none ∧
    q.snx.decided = [] := by decide +kernel

theorem witness_TimedCommits_7 :
    let s : State := on .run fun q => { w4 0x10040004 6 (w4 0x10040000 5 (w4 0x23010034 1 (w4 0x23010030 0x1004000 (route 5 100 101 5 (sf Reg.KLN_CTL_ARM 1 q))))) with kln := { prepared := [⟨9, 3, 990, 1001, 10, [⟨false, 5⟩], some 0, false, true, false, 1, 0⟩] } }
    let iq : QId := .q0
    let id : BitVec 16 := 9
    let q := s.quad iq
    q.up ∧
    (match q.preparedOf id with
    | some p => decide (
      p.committed = true ∧
      p.t.toNat = q.tick.toNat + 1)
    | none => false) = true := by decide +kernel

theorem witness_TimedCommits_8 :
    let s : State := on .run fun q => { w4 0x10040004 6 (w4 0x10040000 5 (w4 0x23010034 1 (w4 0x23010030 0x1004000 (route 5 100 101 5 (sf Reg.KLN_CTL_ARM 1 q))))) with kln := { prepared := [⟨9, 3, 990, 1000, 10, [⟨false, 5⟩], some 0, false, true, false, 1, 0⟩] } }
    let iq : QId := .q0
    let id : BitVec 16 := 9
    let q := s.quad iq
    q.up ∧
    (match q.preparedOf id with
    | some p => decide (
      p.committed = true ∧
      p.t = q.tick)
    | none => false) = true := by decide +kernel

theorem witness_TimedCommits_9 :
    let s : State := on .run fun q => { w4 0x10040004 6 (w4 0x10040000 5 (w4 0x23010034 1 (w4 0x23010030 0x1004000 (route 5 100 101 5 (sf Reg.KLN_CTL_ARM 1 q))))) with kln := { fades := [⟨0, 9, 900, 10, 10, [⟨false, 5⟩], true⟩] } }
    let iq : QId := .q0
    let g : Fin 16 := 0
    let q := s.quad iq
    q.up ∧
    (match (q.kln.fades.find? fun f => f.gen == g) with
    | some f => decide (
      f.len ≤ f.i ∧
      q.kln.pend = [])
    | none => false) = true := by decide +kernel

theorem witness_References_1 :
    let s : State := on .run fun q => { q with clk := { q.clk with cands := q.clk.cands.set 1 { q := .inactive, active := true, good := 255 } } }
    let iq : QId := .q0
    let n : Fin 10 := 1
    let dev : Int := 0
    let v : W32 := 0x91
    let fall : Bool := true
    let seq : W32 := 44
    let force : BitVec 4 := 9
    let mode : Bool := true
    let q := s.quad iq
    let c := q.clk.cands[n]
    (
    n.val < 2 ∧
    fall ≠ q.flag (Reg.CLK_REFCFG_POL n.val) ∧
    ((∀ j ∈ [QId.q0, .q1, .q2, .q3], (s.quad j).mem.wf) ∧ s.dev.host.staging.wf)) ∧
    (
    (
    n.val < 6 ∧
    c.q ≠ .disabled ∧
    (c.active = false ∨ c.missing + 1 < 4)) ∧
    (
    (
    q.up ∧
    Reg.CLK_SEL_FORCE.get v ≤ 9) ∧
    (
    (
    q.up ∧
    2 ≤ q.fld (Reg.CLK_REFCFG_PDIV n.val) ∧
    q.flag Reg.TIM_STAT_SUSPECT = false) ∧
    (
    q.takesCommand = true ∧
    q.seqOk seq = true ∧
    q.mode ≠ .halt ∧
    force.toNat ≤ 9)))) := by decide +kernel

theorem witness_References_2 :
    let s : State := on .run fun q => { q with clk := { q.clk with cands := q.clk.cands.set 5 { q := .inactive, active := true } } }
    let iq : QId := .q0
    let v : W32 := 0xA1
    let q := s.quad iq
    q.up ∧
    9 < Reg.CLK_SEL_FORCE.get v := by decide +kernel

theorem witness_References_3 :
    let s : State := on .run fun q => { sf Reg.CLK_CTL_REVERT 0 q with clk := { q.clk with cands := q.clk.cands.set 2 { q := .qualified, active := true } } }
    let iq : QId := .q0
    let n : Fin 10 := 2
    let q := s.quad iq
    q.qualified n = true ∧
    q.flag Reg.CLK_CTL_REVERT = false := by decide +kernel

theorem witness_References_4 :
    let s : State := on .run fun q => { sf (Reg.CLK_REFCFG_PDIV 5) 2560 (sf (Reg.PRT_AESRXCFG_EN 3) 1 q) with clk := { q.clk with cands := q.clk.cands.set 5 { q := .inactive, active := true, good := 255 } } }
    let iq : QId := .q0
    let n : Fin 10 := 5
    let dev : Int := 0
    let fall : Bool := false
    let q := s.quad iq
    let c := q.clk.cands[n]
    n.val < 6 ∧
    c.q ≠ .disabled ∧
    c.active = true ∧
    q.clk.sel ≠ n ∧
    16 * dev.natAbs ≤ q.pdiv n ∧
    (n.val < 2 → fall = q.flag (Reg.CLK_REFCFG_POL n.val)) ∧
    (2 ≤ n.val → q.flag (Reg.PRT_AESRXCFG_EN (n.val - 2)) = true) := by decide +kernel

theorem witness_References_5 :
    let s : State := on .run fun q => { q with clk := { q.clk with cands := q.clk.cands.set 2 { q := .qualified, active := true }, sel := 5, state := .locked } }
    let iq : QId := .q0
    let n : Fin 10 := 2
    let ppm : W32 := 0
    let q := s.quad iq
    let c := q.clk.cands[n]
    n ≠ 9 ∧
    c.active = true ∧
    q.heldOff n = false ∧
    c.q = .qualified ∧
    q.clk.state ≠ .freerun ∧
    10 * ppm.toInt.natAbs ≤ q.fld Reg.CLK_QUAL_REJECT * 2 ^ 24 := by decide +kernel

theorem witness_TimeCounter_1 :
    let s : State := on .run
    let iq : QId := .q0
    let w : Writer := 16
    let ns : BitVec 4 := 3
    let permit : Bool := true
    let q := s.quad iq
    let tim (r : Quad) (t : Tim) : Prop := r = { q with tim := t, regs := r.regs, mem := r.mem } ∧ SameBytes q r
    let fr := q.tim.heldFr.getD q.tim.incrFr
    let step : W64 := (q.rdCopy w Reg.TIM_ADJ_HI).setWidth 64 <<< 32 ||| (q.rdCopy w Reg.TIM_ADJ_LO).setWidth 64
    q.tim.slewLeft = 0 ∧
    (
    q.up ∧
    incrOk (ns.toNat * 2 ^ 32 + fr.toNat) = true ∧
    (
    incrOk ((q.tim.incrNs.toNat * 2 ^ 32 + q.tim.incrFr.toNat : Nat) + (BitVec.ofNat 24 (q.fld Reg.TIM_SLEW_DELTA)).toInt) = true ∧
    (
    mayWrite w = true ∧
    q.flag Reg.TIM_STAT_SUSPECT = false ∧
    (step.toInt.natAbs ≤ q.fld Reg.TIM_CTL_STEPTH ∨ permit = true) ∧
    (((step.toNat : Int) - q.tim.ns.toNat) ≤ q.fld Reg.TIM_CTL_STEPTH ∨ permit = true)))) := by decide +kernel

theorem witness_TimeCounter_2 :
    let s : State := on .run (sf Reg.TIM_STAT_SUSPECT 1)
    let iq : QId := .q0
    let ns : BitVec 4 := 5
    let q := s.quad iq
    let tim (r : Quad) (t : Tim) : Prop := r = { q with tim := t, regs := r.regs, mem := r.mem } ∧ SameBytes q r
    let fr := q.tim.heldFr.getD q.tim.incrFr
    q.up ∧
    incrOk (ns.toNat * 2 ^ 32 + fr.toNat) = false ∧
    q.flag Reg.TIM_STAT_SUSPECT = true := by decide +kernel

theorem witness_EthernetFrames_1 :
    let s : State := on .run (sf (Reg.NET_RRB_WP 0) 16 ∘ ringsOn)
    let iq : QId := .q0
    let p : Fin 2 := 0
    let l : List Byte := bcast 60 0
    let ok : Bool := true
    let up : Bool := true
    let q := s.quad iq
    let rrp := q.rd (Reg.NET_RRB p.val + 12)
    let rwp := q.rd (Reg.NET_RRB p.val + 8)
    let size := 2 ^ q.fld (Reg.NET_RRB_LOG2 p.val)
    let pause : Prop := etherType l = 0x8808 ∧ (fbe l (l3At l) 2 = 0x0001 ∨ fbe l (l3At l) 2 = 0x0101)
    (
    q.ethOn p = true ∧
    ok = true ∧
    60 ≤ l.length ∧
    l.length ≤ 1518 ∧
    (¬pause) ∧
    destMac l = 2 ^ 48 - 1 ∧
    q.flag Reg.NET_CTL_BRIDGE = false ∧
    q.rxStreamOf p l = none ∧
    bitN (q.fld Reg.NET_CTL_BCAST) p.val = true ∧
    size ≤ (rwp - rrp).toNat) ∧
    (
    q.up ∧
    (q.txPosted p = true ∨ q.ecc = [])) := by decide +kernel

theorem witness_EthernetFrames_2 :
    let s : State := on .run ringsOn
    let iq : QId := .q0
    let p : Fin 2 := 0
    let ok : Bool := false
    let q := s.quad iq
    q.ethOn p = true ∧
    ok = false := by decide +kernel

theorem witness_EthernetFrames_3 :
    let s : State := on .run ringsOn
    let iq : QId := .q0
    let p : Fin 2 := 0
    let l : List Byte := bcast 59 0
    let q := s.quad iq
    q.ethOn p = true ∧
    (l.length < 60 ∨ 1518 < l.length) := by decide +kernel

theorem witness_EthernetFrames_4 :
    let s : State := on .run (w4 0x100400F8 0x1006000 ∘ sf (Reg.NET_RRB_WP 0) 15 ∘ ringsOn)
    let iq : QId := .q0
    let p : Fin 2 := 0
    let l : List Byte := bcast 1518 0
    let ok : Bool := true
    let q := s.quad iq
    let rrp := q.rd (Reg.NET_RRB p.val + 12)
    let rwp := q.rd (Reg.NET_RRB p.val + 8)
    let size := 2 ^ q.fld (Reg.NET_RRB_LOG2 p.val)
    let desc := 16 * q.fld (Reg.NET_RRB_BASE p.val) + 16 * (rwp.toNat % size)
    let pd := q.phys desc
    let buf := 16 * q.mem.readLE (pd + 8) 4
    let pb := q.phys buf
    let free (x n : Nat) : Prop := q.ecc = [] ∧ (∀ c, (q.core c).dual = []) ∧ q.kln.hold.length ≤ 4096 ∧ ∀ k ∈ List.range n, q.role (x + k) = .plain ∧ q.hpnKept (x + k) = false
    let pause : Prop := etherType l = 0x8808 ∧ (fbe l (l3At l) 2 = 0x0001 ∨ fbe l (l3At l) 2 = 0x0101)
    q.ethOn p = true ∧
    ok = true ∧
    60 ≤ l.length ∧
    l.length ≤ 1518 ∧
    (¬pause) ∧
    destMac l = 2 ^ 48 - 1 ∧
    q.flag Reg.NET_CTL_BRIDGE = false ∧
    q.rxStreamOf p l = none ∧
    bitN (q.fld Reg.NET_CTL_BCAST) p.val = true ∧
    (rwp - rrp).toNat < size ∧
    q.sysRange buf l.length = true ∧
    q.sysRange desc 16 = true ∧
    free pb l.length ∧
    free pd 8 ∧
    ((∀ j ∈ [QId.q0, .q1, .q2, .q3], (s.quad j).mem.wf) ∧ s.dev.host.staging.wf) := by decide +kernel

theorem witness_EthernetFrames_5 :
    let s : State := on .run fun q => { ringsOn q with net := { (ringsOn q).net with ports := (ringsOn q).net.ports.set 0 { waiting := [⟨.ring, bcast 64 0, none, none, false, 0x10⟩] } } }
    let iq : QId := .q0
    let p : Fin 2 := 0
    let q := s.quad iq
    let e := q.net.ports[p]
    q.ethOn p = true ∧
    e.sending = none ∧
    (match e.waiting with
    | f :: rest => decide (
      q.txPosted p = false ∧
      f.ingress = none)
    | [] => false) = true := by decide +kernel

theorem witness_EthernetFrames_6 :
    let s : State := on .run fun q => sf (Reg.NET_TRB_WP 0) 1 (w4 0x10050004 60 (w4 0x10050000 0x1007000 (ringsOn q)))
    let iq : QId := .q0
    let p : Fin 2 := 0
    let q := s.quad iq
    let e := q.net.ports[p]
    q.ethOn p = true ∧
    e.sending = none ∧
    q.txPosted p = true ∧
    e.waiting = [] ∧
    e.headSeen = none ∧
    e.headLate = false ∧
    60 ≤ q.txWord p 1 % 2048 ∧
    q.txWord p 1 % 2048 ≤ 1518 ∧
    q.ecc = [] ∧
    q.sysRange (16 * q.txWord p 0) (q.txWord p 1 % 2048) = true := by decide +kernel

theorem witness_EthernetFrames_7 :
    let s : State := on .run fun q => { ringsOn q with net := { (ringsOn q).net with ports := (ringsOn q).net.ports.set 0 { sending := some (⟨.ring, bcast 64 0, none, none, false, 0x10⟩, 77) } } }
    let iq : QId := .q0
    let p : Fin 2 := 0
    let q := s.quad iq
    let e := q.net.ports[p]
    (match e.sending with
    | some (f, t) => decide (
      f.ring = none)
    | none => false) = true := by decide +kernel

theorem witness_EthernetFrames_8 :
    let s : State := on .run fun q => { ringsOn q with net := { (ringsOn q).net with ports := (ringsOn q).net.ports.set 0 { sending := some (⟨.ring, bcast 64 0, none, some 0, false, 0x10⟩, 77) } } }
    let iq : QId := .q0
    let p : Fin 2 := 0
    let q := s.quad iq
    let e := q.net.ports[p]
    let free (x n : Nat) : Prop := q.ecc = [] ∧ (∀ c, (q.core c).dual = []) ∧ q.kln.hold.length ≤ 4096 ∧ ∀ k ∈ List.range n, q.role (x + k) = .plain ∧ q.hpnKept (x + k) = false
    let a := q.txDesc p (q.rd (Reg.NET_TRB p.val + 12))
    let pa := q.phys a
    (match e.sending with
    | some (f, t) => decide (
      f.ring ≠ none ∧
      q.sysRange a 16 = true ∧
      free (pa + 4) 12 ∧
      ((∀ j ∈ [QId.q0, .q1, .q2, .q3], (s.quad j).mem.wf) ∧ s.dev.host.staging.wf))
    | none => false) = true := by decide +kernel

theorem witness_EthernetFrames_9 :
    let s : State := on .run ringsOn
    let iq : QId := .q0
    let p : Fin 2 := 0
    let l : List Byte := List.replicate 12 0 ++ [0x88, 0x08, 1, 1] ++ List.replicate 44 0
    let ok : Bool := true
    let q := s.quad iq
    let pause : Prop := etherType l = 0x8808 ∧ (fbe l (l3At l) 2 = 0x0001 ∨ fbe l (l3At l) 2 = 0x0101)
    q.ethOn p = true ∧
    ok = true ∧
    60 ≤ l.length ∧
    l.length ≤ 1518 ∧
    pause := by decide +kernel

theorem witness_GpioCommands_1 :
    let s : State := on .run fun q => sf (Reg.TIM_GPCFG_CAP 3) 3 q
    let iq : QId := .q0
    let pin : Fin 16 := 3
    let out : Fin 8 := 2
    let rise : Bool := true
    let q := s.quad iq
    let tim (r : Quad) (t : Tim) : Prop := r = { q with tim := t, mem := r.mem } ∧ SameBytes q r
    let l := q.tim.launches[out]
    let t := ext64 (q.rd (Reg.TIM_GPL out.val)) q.tim.ns
    (
    q.mode ≠ .scour ∧
    bitN (q.fld (Reg.TIM_GPCFG_CAP pin.val)) (if rise then 0 else 1) = true ∧
    q.tim.caps.length < 64) ∧
    (
    q.up ∧
    ((l.getLast?).all (fun x => decide (x.time ≤ t)) = true) ∧
    l.length < 16 ∧
    (q.tim.ns.toNat : Int) ≤ t) := by decide +kernel

theorem witness_GpioCommands_2 :
    let s : State := on .run fun q => { sf (Reg.TIM_GPCFG_CAP 3) 3 q with tim := { q.tim with caps := List.replicate 64 ⟨1, true, 5⟩ } }
    let iq : QId := .q0
    let pin : Fin 16 := 3
    let rise : Bool := true
    let q := s.quad iq
    let tim (r : Quad) (t : Tim) : Prop := r = { q with tim := t, mem := r.mem } ∧ SameBytes q r
    q.mode ≠ .scour ∧
    bitN (q.fld (Reg.TIM_GPCFG_CAP pin.val)) (if rise then 0 else 1) = true ∧
    64 ≤ q.tim.caps.length := by decide +kernel

theorem witness_GpioCommands_3 :
    let s : State := on .run fun q => { (q.wr (Reg.TIM_GPL 2) 100) with tim := { q.tim with ns := 0x500000000, launches := q.tim.launches.set 2 [⟨0x500000070, true, false, false⟩] } }
    let iq : QId := .q0
    let out : Fin 8 := 2
    let q := s.quad iq
    let tim (r : Quad) (t : Tim) : Prop := r = { q with tim := t, mem := r.mem } ∧ SameBytes q r
    let l := q.tim.launches[out]
    let t := ext64 (q.rd (Reg.TIM_GPL out.val)) q.tim.ns
    q.up ∧
    (match l.getLast? with
    | some x => decide (
      t < x.time)
    | none => false) = true := by decide +kernel

theorem witness_GpioCommands_4 :
    let s : State := on .run fun q => { q with tim := { q.tim with ns := 0x500000000, launches := q.tim.launches.set 2 [⟨0x500000000, true, false, false⟩] } }
    let iq : QId := .q0
    let out : Fin 8 := 2
    let lvl : Bool := true
    let q := s.quad iq
    let tim (r : Quad) (t : Tim) : Prop := r = { q with tim := t, mem := r.mem } ∧ SameBytes q r
    let l := q.tim.launches[out]
    (match l with
    | x :: rest => decide (
      (q.mode = .run ∨ q.mode = .halt) ∧
      x.time ≤ q.tim.ns.toNat ∧
      x.late = false ∧
      (q.flag (Reg.TIM_GPCFG_PER out.val) = false ∨ x.lvl = false))
    | [] => false) = true := by decide +kernel

theorem witness_GpioCommands_5 :
    let s : State := on .run fun q => { sf (Reg.TIM_GPCFG_PER 2) 1 q with tim := { q.tim with ns := 0x500000000, launches := q.tim.launches.set 2 [⟨0x500000000, true, false, false⟩] } }
    let iq : QId := .q0
    let out : Fin 8 := 2
    let lvl : Bool := true
    let q := s.quad iq
    let tim (r : Quad) (t : Tim) : Prop := r = { q with tim := t, mem := r.mem } ∧ SameBytes q r
    let l := q.tim.launches[out]
    (match l with
    | x :: rest => decide (
      (q.mode = .run ∨ q.mode = .halt) ∧
      x.time ≤ q.tim.ns.toNat ∧
      x.late = false ∧
      q.flag (Reg.TIM_GPCFG_PER out.val) = true ∧
      x.lvl = true ∧
      x.fall = false ∧
      rest = [])
    | [] => false) = true := by decide +kernel

theorem witness_Streams_1 :
    let s : State := on .run fun q => { sf (Reg.NET_RXDESC_EN 5) 1 (sf (Reg.NET_TXDESC_EN 5) 1 (rtp q)) with net := { q.net with rx := q.net.rx.set 5 { seqs := [5, 77], store := [(4000, []), (4001, []), (4002, []), (4003, [])] } } }
    let iq : QId := .q0
    let p : Fin 2 := 0
    let k : Fin 32 := 5
    let pkt : RtpPacket := ⟨77, 4005, 9, 96, List.replicate 12 [0x123456, 0x800000]⟩
    let q := s.quad iq
    let n := k.val
    let taken : Prop := q.ethOn p = true ∧ q.flag (Reg.NET_RXDESC_EN n) = true ∧ bitN (q.fld (Reg.NET_RXDESC_PORTS n)) p.val = true ∧ (q.fld (Reg.NET_RXDESC_PT n) = 0 ∨ q.fld (Reg.NET_RXDESC_PT n) = pkt.pt.toNat) ∧ (q.fld (Reg.NET_RXDESC_SSRC n) = 0 ∨ q.fld (Reg.NET_RXDESC_SSRC n) = pkt.ssrc.toNat) ∧ pkt.samples.length = q.fld (Reg.NET_RXDESC_SPP n) ∧ ∀ x ∈ pkt.samples, x.length = q.fld (Reg.NET_RXDESC_CH n) + 1
    let x := q.net.rx[k]
    (
    taken ∧
    pkt.seq ∈ x.seqs) ∧
    (
    (
    q.flag (Reg.NET_RXDESC_EN n) = true ∧
    q.mode ≠ .scour ∧
    (∀ j ∈ List.range 4, (x.store.find (4 * q.tick.toNat + j)).isSome = true)) ∧
    q.flag (Reg.NET_RXDESC_EN n) = true) := by decide +kernel

theorem witness_Streams_2 :
    let s : State := on .run fun q => rtp q
    let iq : QId := .q0
    let k : Fin 32 := 5
    let q := s.quad iq
    let n := k.val
    let rxFits : Prop := streamOk (q.fld (Reg.NET_RXDESC_FS n)) (q.fld (Reg.NET_RXDESC_CH n) + 1) (q.fld (Reg.NET_RXDESC_SPP n)) (q.fld (Reg.NET_RXDESC_L24 n) == 1) (q.fld (Reg.NET_RXDESC_IP6 n) == 1) = true ∧ q.streamTotal true n + (q.fld (Reg.NET_RXDESC_CH n) + 1) ≤ 256 ∧ q.fld (Reg.NET_RXDESC_SPP n) * (q.streamQ (q.fld (Reg.NET_RXDESC_FS n))).1 ≤ q.fld (Reg.NET_RXDESC_OFS n) * (q.streamQ (q.fld (Reg.NET_RXDESC_FS n))).2
    let txFits : Prop := streamOk (q.fld (Reg.NET_TXDESC_FS n)) (q.fld (Reg.NET_TXDESC_CH n) + 1) (q.fld (Reg.NET_TXDESC_SPP n)) (q.fld (Reg.NET_TXDESC_L24 n) == 1) (q.fld (Reg.NET_TXDESC_IP6 n) == 1) = true ∧ q.streamTotal false n + (q.fld (Reg.NET_TXDESC_CH n) + 1) ≤ 256 ∧ ((q.streamQ (q.fld (Reg.NET_TXDESC_FS n))).2 = 1 → q.fld (Reg.NET_TXDESC_OFS n) % (q.streamQ (q.fld (Reg.NET_TXDESC_FS n))).1 = 0)
    q.up ∧
    (
    q.flag (Reg.NET_RXDESC_EN n) = false ∧
    rxFits) ∧
    (
    q.flag (Reg.NET_TXDESC_EN n) = false ∧
    txFits) := by decide +kernel

theorem witness_Streams_3 :
    let s : State := on .run fun q => { sf (Reg.NET_RXDESC_EN 5) 1 (sf (Reg.NET_TXDESC_EN 5) 1 (rtp q)) with net := { q.net with tx := q.net.tx.set 5 { waiting := (List.range 14).map (fun i : Nat => (3982 + (i : Int), [1, 2])) } } }
    let iq : QId := .q0
    let p : Fin 2 := 0
    let k : Fin 32 := 5
    let pkt : RtpPacket := ⟨77, 4005, 9, 96, List.replicate 12 [0x123456, 0x800000]⟩
    let q := s.quad iq
    let n := k.val
    let taken : Prop := q.ethOn p = true ∧ q.flag (Reg.NET_RXDESC_EN n) = true ∧ bitN (q.fld (Reg.NET_RXDESC_PORTS n)) p.val = true ∧ (q.fld (Reg.NET_RXDESC_PT n) = 0 ∨ q.fld (Reg.NET_RXDESC_PT n) = pkt.pt.toNat) ∧ (q.fld (Reg.NET_RXDESC_SSRC n) = 0 ∨ q.fld (Reg.NET_RXDESC_SSRC n) = pkt.ssrc.toNat) ∧ pkt.samples.length = q.fld (Reg.NET_RXDESC_SPP n) ∧ ∀ x ∈ pkt.samples, x.length = q.fld (Reg.NET_RXDESC_CH n) + 1
    let x := q.net.rx[k]
    let t := q.net.tx[k]
    let spp := q.fld (Reg.NET_TXDESC_SPP n)
    let qr := q.streamQ (q.fld (Reg.NET_TXDESC_FS n))
    let w := t.waiting.dropWhile fun y => decide (y.1 % (spp : Int) ≠ 0)
    (
    taken ∧
    pkt.seq ∉ x.seqs) ∧
    (
    q.flag (Reg.NET_TXDESC_EN n) = true ∧
    q.flag (Reg.NET_TXDESC_SRC n) = false ∧
    q.mode = .run ∧
    q.ecc = [] ∧
    0 < spp ∧
    spp ≤ w.length ∧
    (∀ y ∈ w.take spp, y.1 * (qr.1 : Int) ≤ ((4 * q.tick.toNat + q.fld (Reg.NET_TXDESC_OFS n)) * qr.2 : Nat))) := by decide +kernel

theorem witness_Streams_4 :
    let s : State := on .run fun q => sf (Reg.NET_RXDESC_SPP 5) 13 (rtp q)
    let iq : QId := .q0
    let k : Fin 32 := 5
    let q := s.quad iq
    let n := k.val
    let rxFits : Prop := streamOk (q.fld (Reg.NET_RXDESC_FS n)) (q.fld (Reg.NET_RXDESC_CH n) + 1) (q.fld (Reg.NET_RXDESC_SPP n)) (q.fld (Reg.NET_RXDESC_L24 n) == 1) (q.fld (Reg.NET_RXDESC_IP6 n) == 1) = true ∧ q.streamTotal true n + (q.fld (Reg.NET_RXDESC_CH n) + 1) ≤ 256 ∧ q.fld (Reg.NET_RXDESC_SPP n) * (q.streamQ (q.fld (Reg.NET_RXDESC_FS n))).1 ≤ q.fld (Reg.NET_RXDESC_OFS n) * (q.streamQ (q.fld (Reg.NET_RXDESC_FS n))).2
    q.up ∧
    q.flag (Reg.NET_RXDESC_EN n) = false ∧
    (¬rxFits) := by decide +kernel

theorem witness_StanexFrames_1 :
    let s : State := on .run fun q => { linked 4 3 3 (q) with snx := {} }
    let iq : QId := .q0
    let p : Fin 2 := 1
    let bytes : List Byte := snxBytes
    let q := s.quad iq
    let x := q.snx
    let up (r : Quad) (p : Fin 2) : Bool := r.flag (if p = 0 then Reg.SNX_STAT_LINKA else Reg.SNX_STAT_LINKB)
    let f := frameOf bytes
    let due : W64 := if q.fi = 2 then q.tick - 1 else q.tick
    (
    q.up ∧
    q.flag Reg.SNX_CFG_EN = true ∧
    x.coll = none) ∧
    (
    (
    q.link p = 3 ∧
    x.wrapA = none) ∧
    (
    2 ≤ q.link p ∧
    (
    (
    q.snxState = 4 ∧
    q.wrapped = false ∧
    q.portUp p = true) ∧
    (
    (
    q.link p = 3 ∧
    (q.snxState = 3 ∨ q.snxState = 4) ∧
    f.origin.toNat ≠ q.mid ∧
    f.crcOk = true ∧
    f.domid.toNat = q.fld Reg.SNX_CFG_DOMID ∧
    f.fi.toNat = q.fi ∧
    f.tick = q.tick ∧
    x.inbox = []) ∧
    (
    q.snxState ≠ 0 ∧
    due ∉ x.startF ∧
    due ∉ x.missF))))) := by
  dsimp only
  repeat' apply And.intro
  all_goals first | with_reducible exact snxBytes_crcOk | decide +kernel

theorem witness_StanexFrames_2 :
    let s : State := on .run fun q => { linked 3 2 3 (q) with snx := { ports := Vector.replicate 2 ⟨List.replicate 16 100, true⟩ } }
    let iq : QId := .q0
    let p : Fin 2 := 0
    let q := s.quad iq
    let x := q.snx
    (
    q.link p = 2 ∧
    16 ≤ (x.ports[p]).dlys.length ∧
    x.wrapA = none ∧
    q.diverted p = false) ∧
    q.link p = 2 := by decide +kernel

theorem witness_StanexFrames_3 :
    let s : State := on .run fun q => { q with flt := { q.flt with test := some ⟨4, 0, 1, 5⟩ } }
    let iq : QId := .q0
    let p : Fin 2 := 0
    let q := s.quad iq
    let up (r : Quad) (p : Fin 2) : Bool := r.flag (if p = 0 then Reg.SNX_STAT_LINKA else Reg.SNX_STAT_LINKB)
    (
    q.up ∧
    q.flag Reg.SNX_CFG_EN = false ∧
    q.link 0 = 0 ∧
    q.fld Reg.SNX_CFG_ROLE ≠ 3) ∧
    q.diverted p = true := by decide +kernel

theorem witness_StanexFrames_4 :
    let s : State := on .run fun q => { linked 3 1 1 (q) with snx := {} }
    let iq : QId := .q0
    let p : Fin 2 := 0
    let q := s.quad iq
    q.link p = 1 ∧
    q.diverted p = false := by decide +kernel

theorem witness_StanexFrames_5 :
    let s : State := on .run fun q => { linked 3 3 3 (q) with snx := {} }
    let iq : QId := .q0
    let p : Fin 2 := 1
    let bytes : List Byte := snxBytes.take 32
    let q := s.quad iq
    let o := if p = 0 then (1 : Fin 2) else 0
    let f := frameOf bytes
    q.link p = 3 ∧
    (q.snxState = 3 ∨ q.snxState = 4) ∧
    f.origin.toNat ≠ q.mid ∧
    f.crcOk = false ∧
    q.portUp o = true := by decide +kernel

theorem witness_StanexDomain_1 :
    let s : State := on .run fun q => { linked 4 1 1 (q) with snx := { yieldA := some (1000, 3) } }
    let iq : QId := .q0
    let ymid : BitVec 6 := 3
    let q := s.quad iq
    let x := q.snx
    (
    q.up ∧
    (q.snxState = 3 ∨ q.snxState = 4)) ∧
    (
    (
    q.up ∧
    q.snxState = 4 ∧
    x.coll = none ∧
    x.decided = [] ∧
    x.wrapA = none ∧
    x.agg = none ∧
    ymid.toNat ≠ q.mid) ∧
    (
    (match x.yieldA with
    | some (h, m) => decide (
      (q.snxState = 3 ∨ q.snxState = 4) ∧
      h.toNat ≤ q.tick.toNat)
    | none => false) = true)) := by decide +kernel

theorem witness_StanexDomain_2 :
    let s : State := on .run fun q => { linked 4 3 3 (sf Reg.SNX_STAT_ORIGIN 1 q) with snx := { wrapA := some ⟨999, false, false, 990⟩ } }
    let iq : QId := .q0
    let q := s.quad iq
    let x := q.snx
    (
    (match x.wrapA with
    | some w => decide (
      w.made = false ∧
      w.at_.toNat ≤ q.tick.toNat ∧
      (q.snxState = 3 ∨ q.snxState = 4) ∧
      w.wrap = false)
    | none => false) = true) ∧
    (
    q.flag Reg.SNX_STAT_ORIGIN = true ∧
    q.link 1 = 3) := by decide +kernel

theorem witness_StanexDomain_3 :
    let s : State := on .run fun q => { sf Reg.SNX_CFG_EN 1 <| linked 0 1 1 (sf Reg.SNX_CFG_ROLE 1 q) with snx := {} }
    let iq : QId := .q0
    let q := s.quad iq
    let x := q.snx
    q.flag Reg.SNX_CFG_EN = true ∧
    q.fld Reg.SNX_CFG_ROLE = 1 ∧
    q.snxState = 0 ∧
    x.foreign = none ∧
    x.enAt.toNat + 3 ≤ q.tick.toNat := by decide +kernel

theorem witness_StanexDomain_4 :
    let s : State := on .run fun q => { linked 3 1 1 (sf Reg.SNX_CFG_ROLE 2 q) with snx := { missRun := 3, missAt := 999 } }
    let iq : QId := .q0
    let q := s.quad iq
    let x := q.snx
    q.snxState = 3 ∧
    q.fld Reg.SNX_CFG_ROLE = 2 ∧
    3 ≤ x.missRun ∧
    x.missAt.toNat + 1 + q.fld Reg.SNX_CFG_SPRI ≤ q.tick.toNat ∧
    (q.wrapped = false ∨ q.flag Reg.SNX_STAT_ORIGIN = true) := by decide +kernel

theorem witness_StanexDomain_5 :
    let s : State := on .run fun q => { linked 3 1 1 (sf Reg.SNX_STAT_WRAP 1 <| sf Reg.SNX_CFG_ROLE 2 q) with snx := { missRun := 3, missAt := 999 } }
    let iq : QId := .q0
    let q := s.quad iq
    let x := q.snx
    q.snxState = 3 ∧
    q.fld Reg.SNX_CFG_ROLE = 2 ∧
    3 ≤ x.missRun ∧
    x.missAt.toNat + 1 + q.fld Reg.SNX_CFG_SPRI ≤ q.tick.toNat ∧
    q.wrapped = true ∧
    q.flag Reg.SNX_STAT_ORIGIN = false ∧
    x.originF = none := by decide +kernel

theorem witness_StanexDomain_6 :
    let s : State := on .run fun q => { linked 1 1 1 (q) with snx := { heard := some (true, true) } }
    let iq : QId := .q0
    let q := s.quad iq
    let x := q.snx
    q.up ∧
    q.snxState = 1 ∧
    x.heard = some (true, true) := by decide +kernel

theorem witness_StanexDomain_7 :
    let s : State := on .run fun q => { linked 1 1 1 (q) with snx := {} }
    let iq : QId := .q0
    let q := s.quad iq
    let x := q.snx
    q.up ∧
    q.snxState = 1 ∧
    x.heard = none := by decide +kernel

theorem witness_StanexDomain_8 :
    let s : State := on .run fun q => { linked 1 1 1 (q) with snx := { heard := some (true, false) } }
    let iq : QId := .q0
    let q := s.quad iq
    let x := q.snx
    q.up ∧
    q.snxState = 1 ∧
    x.heard = some (true, false) := by decide +kernel

theorem witness_StanexDomain_9 :
    let s : State := on .run fun q => { linked 2 1 1 (q) with snx := { joinSent := 984 } }
    let iq : QId := .q0
    let q := s.quad iq
    let x := q.snx
    q.snxState = 2 ∧
    x.joinAt = none ∧
    x.joinSent.toNat + 16 ≤ q.tick.toNat := by decide +kernel

theorem witness_StanexDomain_10 :
    let s : State := on .run fun q => { linked 2 1 1 (q) with snx := { joinAt := some 1000 } }
    let iq : QId := .q0
    let q := s.quad iq
    let x := q.snx
    (match x.joinAt with
    | some j => decide (
      q.snxState = 2 ∧
      j.toNat ≤ q.tick.toNat ∧
      ((x.lvl).all (fun l => decide (l.made = true ∨ q.tick.toNat < l.at_.toNat)) = true))
    | none => false) = true := by decide +kernel

theorem witness_StanexDomain_11 :
    let s : State := on .run fun q => { linked 4 1 1 (q) with snx := { agg := some (0xFF, 1, 1, 1, 1) } }
    let iq : QId := .q0
    let ymid : BitVec 6 := 3
    let q := s.quad iq
    let x := q.snx
    q.up ∧
    q.snxState = 4 ∧
    x.coll = none ∧
    x.decided = [] ∧
    x.wrapA = none ∧
    (match x.agg with
    | some a => decide (
      a.1.getLsbD ymid.toNat = true)
    | none => false) = true := by decide +kernel

theorem witness_StanexDomain_12 :
    let s : State := on .run fun q => { linked 3 1 1 (q) with snx := { wrapA := some ⟨1000, true, false, 990⟩ } }
    let iq : QId := .q0
    let q := s.quad iq
    let x := q.snx
    (match x.wrapA with
    | some w => decide (
      w.made = false ∧
      w.at_.toNat ≤ q.tick.toNat ∧
      (q.snxState = 3 ∨ q.snxState = 4) ∧
      w.wrap = true)
    | none => false) = true := by decide +kernel

theorem witness_StanexDomain_13 :
    let s : State := on .run fun q => { linked 4 1 1 (q) with snx := { lvl := some ⟨1000, 9, 0x77, false, 990⟩ } }
    let iq : QId := .q0
    let q := s.quad iq
    let x := q.snx
    (match x.lvl with
    | some l => decide (
      l.made = false ∧
      l.at_.toNat ≤ q.tick.toNat ∧
      (q.snxState = 3 ∨ q.snxState = 4))
    | none => false) = true := by decide +kernel

theorem witness_StanexDomain_14 :
    let s : State := on .run fun q => { linked 2 1 1 (q) with snx := { joinAt := some 1000, lvl := some ⟨1000, 9, 0x77, false, 990⟩ } }
    let iq : QId := .q0
    let q := s.quad iq
    let x := q.snx
    (match x.joinAt with
    | some j => decide (
      q.snxState = 2 ∧
      j.toNat ≤ q.tick.toNat ∧
      (match x.lvl with
      | some l => decide (
        l.made = false ∧
        l.at_.toNat ≤ q.tick.toNat)
      | none => false) = true)
    | none => false) = true := by decide +kernel

theorem witness_SerialPorts_1 :
    let s : State := on .run fun q => tdm q
    let iq : QId := .q0
    let p : Fin 8 := 2
    let rx : Fin 4 := 1
    let tx : Fin 4 := 3
    let input : Bool := true
    let mask : W32 := 0xFF
    let q := s.quad iq
    let n := q.tdmSlots p.val
    let lim := if input then (if q.flag (Reg.PRT_TDMCFG_IMODE p.val) then q.fld (Reg.ASR_GRP_COUNT p.val) else q.fld (Reg.PRT_TDMCFG_INLEN p.val)) else q.fld (Reg.PRT_TDMCFG_OUTLEN p.val)
    q.up ∧
    (
    q.flag (Reg.PRT_TDMCFG_EN p.val) = false ∧
    q.tdmOk p.val = true) ∧
    (
    q.flag (Reg.PRT_AESRXCFG_EN rx.val) = false ∧
    (
    (
    q.flag (Reg.PRT_AESTXCFG_EN tx.val) = false ∧
    q.fld (Reg.PRT_AESTXCFG_RDIV tx.val) = 0) ∧
    (
    popcount32 mask ≤ lim ∧
    popcount32 mask ≤ n))) := by decide +kernel

theorem witness_SerialPorts_2 :
    let s : State := on .run
    let iq : QId := .q0
    let p : Fin 8 := 2
    let input : Bool := true
    let mask : W32 := 0x1FF
    let q := s.quad iq
    let n := q.tdmSlots p.val
    let lim := if input then (if q.flag (Reg.PRT_TDMCFG_IMODE p.val) then q.fld (Reg.ASR_GRP_COUNT p.val) else q.fld (Reg.PRT_TDMCFG_INLEN p.val)) else q.fld (Reg.PRT_TDMCFG_OUTLEN p.val)
    q.up ∧
    (
    q.flag (Reg.PRT_TDMCFG_EN p.val) = false ∧
    q.tdmOk p.val = false) ∧
    (lim < popcount32 mask ∨ n < popcount32 mask) := by decide +kernel

theorem witness_SerialPorts_3 :
    let s : State := on .run fun q => { sf (Reg.PRT_TDMCFG_EN 2) 1 (tdm q) with prt := { q.prt with tdm := q.prt.tdm.set 2 { inp := { pend := some 0xF0, mask := 5 } } } }
    let iq : QId := .q0
    let p : Fin 8 := 2
    let input : Bool := true
    let q := s.quad iq
    let t := q.prt.tdm[p]
    let d := if input then t.inp else t.out
    (match d.pend with
    | some m => decide (
      d.changed ≠ some q.tick ∧
      q.flag (Reg.PRT_TDMCFG_EN p.val) = true ∧
      (input = true → q.flag (Reg.PRT_TDMCFG_IMODE p.val) = false))
    | none => false) = true := by decide +kernel

theorem witness_SerialPorts_4 :
    let s : State := on .run fun q => { sf (Reg.PRT_TDMCFG_OEN 2) 1 (sf (Reg.PRT_TDMCFG_EN 2) 1 (tdm q)) with prt := { q.prt with tdm := q.prt.tdm.set 2 { outJ := 2 } } }
    let iq : QId := .q0
    let p : Fin 8 := 2
    let q := s.quad iq
    q.flag (Reg.PRT_TDMCFG_EN p.val) = true ∧
    q.mode = .run ∧
    q.tdmMaster p.val = true ∧
    q.tdmDiv p.val = 1 ∧
    q.ecc = [] ∧
    q.flag (Reg.PRT_TDMCFG_IEN p.val) = false ∧
    q.flag (Reg.PRT_TDMCFG_OEN p.val) = true := by decide +kernel

theorem witness_SerialPorts_5 :
    let s : State := on .run fun q => { sf (Reg.PRT_TDMCFG_IEN 2) 1 (sf (Reg.PRT_TDMCFG_EN 2) 1 (tdm q)) with prt := { q.prt with tdm := q.prt.tdm.set 2 { inJ := 3 } } }
    let iq : QId := .q0
    let p : Fin 8 := 2
    let input : Bool := true
    let q := s.quad iq
    let t := q.prt.tdm[p]
    let j := if input then t.inJ else t.outJ
    q.flag (Reg.PRT_TDMCFG_EN p.val) = true ∧
    q.mode = .run ∧
    q.tdmMaster p.val = true ∧
    q.tdmDiv p.val = 1 ∧
    q.ecc = [] ∧
    q.flag (Reg.PRT_TDMCFG_IEN p.val) = true ∧
    q.flag (Reg.PRT_TDMCFG_OEN p.val) = false ∧
    q.flag (Reg.PRT_TDMCFG_IMODE p.val) = false ∧
    t.inJ < 4 ∧
    ((∀ j ∈ [QId.q0, .q1, .q2, .q3], (s.quad j).mem.wf) ∧ s.dev.host.staging.wf) := by decide +kernel

theorem witness_SerialPorts_6 :
    let s : State := on .run fun q => { sf (Reg.PRT_TDMCFG_IEN 2) 1 (sf (Reg.PRT_TDMCFG_MS 2) 0 (sf (Reg.PRT_TDMCFG_EN 2) 1 (tdm q))) with prt := { q.prt with tdm := q.prt.tdm.set 2 { inJ := 3 } } }
    let iq : QId := .q0
    let p : Fin 8 := 2
    let q := s.quad iq
    q.flag (Reg.PRT_TDMCFG_EN p.val) = true ∧
    q.tdmMaster p.val = false ∧
    q.flag (Reg.PRT_TDMCFG_IEN p.val) = true ∧
    q.flag (Reg.PRT_TDMCFG_IMODE p.val) = false ∧
    q.mode ≠ .scour := by decide +kernel

theorem witness_SerialPorts_7 :
    let s : State := on .run fun q => { sf (Reg.PRT_TDMCFG_IMODE 2) 1 (sf (Reg.PRT_TDMCFG_EN 2) 1 (tdm q)) with prt := { q.prt with tdm := q.prt.tdm.set 2 { inp := { pend := some 0xF0, mask := 5 } } } }
    let iq : QId := .q0
    let p : Fin 8 := 2
    let q := s.quad iq
    let t := q.prt.tdm[p]
    (match t.inp.pend with
    | some m => decide (
      t.inp.changed ≠ some q.tick ∧
      q.flag (Reg.PRT_TDMCFG_EN p.val) = true ∧
      q.flag (Reg.PRT_TDMCFG_IMODE p.val) = true)
    | none => false) = true := by decide +kernel

theorem witness_AesAndConverters_1 :
    let s : State := on .run fun q => sf (Reg.PRT_TXCS_PEND 1) 1 (sf (Reg.PRT_AESTXCFG_EN 1) 1 q)
    let iq : QId := .q0
    let n : Fin 4 := 1
    let g : Fin 12 := 3
    let q := s.quad iq
    let prt (r : Quad) (y : Ports) : Prop := r = { q with prt := y, regs := r.regs, mem := r.mem }
    let tx := q.prt.tx[n]
    let qc := if g.val < 8 then q else q.setFld (Reg.ASR_GRP_COUNT g.val) 2
    q.up ∧
    (
    (
    q.flag (Reg.PRT_TXCS_PEND n.val) = true ∧
    tx.count = 0) ∧
    (
    (
    q.flag (Reg.PRT_AESTXCFG_EN n.val) = true ∧
    q.mode ≠ .scour ∧
    tx.count = 0 ∧
    q.flag (Reg.PRT_TXCS_PEND n.val) = true) ∧
    (
    q.up ∧
    q.flag (Reg.ASR_GRP_EN g.val) = false ∧
    qc.asrcOk g.val = false))) := by decide +kernel

theorem witness_AesAndConverters_2 :
    let s : State := on .run fun q => { sf (Reg.ASR_GRP_RATIO 3) 0x10000000 q with prt := { q.prt with asrc := q.prt.asrc.set 3 { state := .locked, good := 5 } } }
    let iq : QId := .q0
    let g : Fin 12 := 3
    let dev : Int := 10
    let ratio : W32 := 0x10000001
    let pre : Preamble := .z
    let q := s.quad iq
    let prt (r : Quad) (y : Ports) : Prop := r = { q with prt := y, regs := r.regs, mem := r.mem }
    let ag := q.prt.asrc[g]
    let first := pre != .y
    let inWin : Prop := 16 * dev.natAbs ≤ q.asrcPeriod g.val
    let begun : Asrc := if first then { ag with lastEdge := q.nsFine, glitched := false } else ag
    let taken : Asrc := { begun with good := if first then ag.good + 1 else ag.good, edge := q.nsFine, ratios := (q.nsFine, ratio) :: recentRatios q.nsFine ag.ratios }
    (
    ag.sinceGlitch = none ∧
    (ag.state = .locked ∧ inWin ∨ ag.state = .acquire ∧ (ag.good = 0 ∨ inWin) ∧ (taken.steady ratio = false ∨ taken.good < 16))) ∧
    ag.state = .locked := by decide +kernel

theorem witness_AesAndConverters_3 :
    let s : State := on .run fun q => { sf (Reg.ASR_GRP_RATIO 3) 0x10000000 q with prt := { q.prt with asrc := q.prt.asrc.set 3 { state := .acquire, good := 15 } } }
    let iq : QId := .q0
    let g : Fin 12 := 3
    let dev : Int := 10
    let ratio : W32 := 0x10000001
    let pre : Preamble := .x
    let q := s.quad iq
    let prt (r : Quad) (y : Ports) : Prop := r = { q with prt := y, regs := r.regs, mem := r.mem }
    let ag := q.prt.asrc[g]
    let first := pre != .y
    let inWin : Prop := 16 * dev.natAbs ≤ q.asrcPeriod g.val
    let begun : Asrc := if first then { ag with lastEdge := q.nsFine, glitched := false } else ag
    let taken : Asrc := { begun with good := if first then ag.good + 1 else ag.good, edge := q.nsFine, ratios := (q.nsFine, ratio) :: recentRatios q.nsFine ag.ratios }
    (
    ag.state = .acquire ∧
    (ag.good = 0 ∨ inWin) ∧
    taken.steady ratio = true ∧
    16 ≤ taken.good) ∧
    ag.state = .acquire := by decide +kernel

theorem witness_AesAndConverters_4 :
    let s : State := on .run fun q => sf (Reg.PRT_AESTXCFG_EN 1) 1 q
    let iq : QId := .q0
    let n : Fin 4 := 1
    let q := s.quad iq
    let prt (r : Quad) (y : Ports) : Prop := r = { q with prt := y, regs := r.regs, mem := r.mem }
    let tx := q.prt.tx[n]
    q.flag (Reg.PRT_AESTXCFG_EN n.val) = true ∧
    q.mode ≠ .scour ∧
    q.ecc = [] ∧
    q.fld (Reg.PRT_AESTXCFG_RDIV n.val) = 0 ∧
    q.fld (Reg.PRT_AESTXCFG_UBASE n.val) = 0 ∧
    tx.count ≠ 191 ∧
    (tx.count = 0 → q.flag (Reg.PRT_TXCS_PEND n.val) = false) := by decide +kernel

theorem witness_AesAndConverters_5 :
    let s : State := on .run fun q => sf (Reg.PRT_AESRXCFG_BASE 1) 0x1004000 (sf (Reg.PRT_AESRXCFG_LOG2 1) 8 (sf (Reg.PRT_AESRXCFG_EN 1) 1 q))
    let iq : QId := .q0
    let n : Fin 4 := 1
    let f : AesFrame := ⟨false, 0x812345, 0x7FFFFF, true, false, true, false, true, false, false⟩
    let g : Fin 12 := 3
    let dev : Int := 0
    let q := s.quad iq
    let wp := q.rd (Reg.PRT_AESRXCFG n.val + 12)
    let a := 16 * q.fld (Reg.PRT_AESRXCFG_BASE n.val) + wp.toNat % 2 ^ q.fld (Reg.PRT_AESRXCFG_LOG2 n.val)
    let z : Fin 4 := ⟨(g.val - 8) % 4, by omega⟩
    q.flag (Reg.PRT_AESRXCFG_EN n.val) = true ∧
    q.mode ≠ .scour ∧
    f.par = false ∧
    q.flag (Reg.PRT_AESRXCFG_VMUTE n.val) = false ∧
    f.z = false ∧
    (wp - q.rd (Reg.PRT_AESRXCFG n.val + 16)).toNat < 2 ^ q.fld (Reg.PRT_AESRXCFG_LOG2 n.val) ∧
    q.sysRange a 1 = true ∧
    ((∀ c : Fin 17, (q.core c).dual = []) ∧ q.kln.hold.length ≤ 4096 ∧ ∀ j ∈ List.range 1, q.role (q.phys a + j) = .plain) ∧
    q.hpnKept (q.phys a) = false ∧
    q.ecc = [] ∧
    ((∀ j ∈ [QId.q0, .q1, .q2, .q3], (s.quad j).mem.wf) ∧ s.dev.host.staging.wf) := by decide +kernel

theorem witness_AesAndConverters_6 :
    let s : State := on .run (sf (Reg.ASR_GRP_COUNT 3) 4)
    let iq : QId := .q0
    let g : Fin 12 := 3
    let q := s.quad iq
    let qc := if g.val < 8 then q else q.setFld (Reg.ASR_GRP_COUNT g.val) 2
    q.up ∧
    q.flag (Reg.ASR_GRP_EN g.val) = false ∧
    qc.asrcOk g.val = true := by decide +kernel

theorem witness_AesAndConverters_7 :
    let s : State := on .run fun q => { sf (Reg.ASR_GRP_RATIO 3) 0x10000000 q with prt := { q.prt with asrc := q.prt.asrc.set 3 { state := .acquire, good := 4 } } }
    let iq : QId := .q0
    let g : Fin 12 := 3
    let dev : Int := 1000000
    let pre : Preamble := .x
    let q := s.quad iq
    let prt (r : Quad) (y : Ports) : Prop := r = { q with prt := y, regs := r.regs, mem := r.mem }
    let ag := q.prt.asrc[g]
    let first := pre != .y
    let inWin : Prop := 16 * dev.natAbs ≤ q.asrcPeriod g.val
    (¬inWin) ∧
    first = true ∧
    ag.state = .acquire ∧
    ag.good ≠ 0 := by decide +kernel

theorem witness_AesAndConverters_8 :
    let s : State := on .run fun q => { sf (Reg.ASR_GRP_RATIO 3) 0x10000000 q with prt := { q.prt with asrc := q.prt.asrc.set 3 { state := .locked, good := 5 } } }
    let iq : QId := .q0
    let g : Fin 12 := 3
    let dev : Int := 1000000
    let pre : Preamble := .z
    let q := s.quad iq
    let prt (r : Quad) (y : Ports) : Prop := r = { q with prt := y, regs := r.regs, mem := r.mem }
    let ag := q.prt.asrc[g]
    let first := pre != .y
    let inWin : Prop := 16 * dev.natAbs ≤ q.asrcPeriod g.val
    (¬inWin) ∧
    first = true ∧
    ag.state = .locked ∧
    ag.sinceGlitch = none := by decide +kernel

theorem witness_AesAndConverters_9 :
    let s : State := on .run fun q => { sf (Reg.ASR_GRP_RATIO 3) 0x10000000 q with prt := { q.prt with asrc := q.prt.asrc.set 3 { state := .locked, good := 5, sinceGlitch := some 2 } } }
    let iq : QId := .q0
    let g : Fin 12 := 3
    let dev : Int := 1000000
    let pre : Preamble := .x
    let q := s.quad iq
    let prt (r : Quad) (y : Ports) : Prop := r = { q with prt := y, regs := r.regs, mem := r.mem }
    let ag := q.prt.asrc[g]
    let first := pre != .y
    let inWin : Prop := 16 * dev.natAbs ≤ q.asrcPeriod g.val
    (¬inWin) ∧
    first = true ∧
    ag.state = .locked ∧
    ag.sinceGlitch ≠ none := by decide +kernel

theorem witness_AesAndConverters_10 :
    let s : State := on .run fun q => { sf (Reg.ASR_GRP_RATIO 3) 0x10000000 q with prt := { q.prt with asrc := q.prt.asrc.set 3 { state := .lost, good := 5 } } }
    let iq : QId := .q0
    let g : Fin 12 := 3
    let q := s.quad iq
    let prt (r : Quad) (y : Ports) : Prop := r = { q with prt := y, regs := r.regs, mem := r.mem }
    let ag := q.prt.asrc[g]
    ag.state = .lost ∧
    ag.sinceGlitch = none := by decide +kernel

theorem witness_Decimators_1 :
    let s : State := on .run
    let iq : QId := .q0
    let c : Fin 8 := 2
    let n : Fin 64 := 17
    let key : W32 := 1002
    let q := s.quad iq
    let i := q.dec.ins[n]
    let t := ext64 key q.tick
    let osr := q.fld (Reg.DEC_CLK_OSR c.val)
    (
    q.up ∧
    (
    q.flag (Reg.DEC_CLK_EN c.val) = false ∧
    (osr < 2 ∨ osr = 2 ∧ q.fi ≠ 2)) ∧
    (
    (
    q.flag (Reg.DEC_CH_EN n.val) = false ∧
    q.decOk n.val = false) ∧
    (q.tick.toNat : Int) + 2 ≤ t)) ∧
    i.same < 4096 := by decide +kernel

theorem witness_Decimators_2 :
    let s : State := on .run (sf (Reg.DEC_CLK_EN 2) 1)
    let iq : QId := .q0
    let c : Fin 8 := 2
    let key : W32 := 1001
    let q := s.quad iq
    let t := ext64 key q.tick
    let busy := (List.range 8).any fun k => q.flag (Reg.DEC_CH_EN (8 * c.val + k))
    q.up ∧
    (
    q.flag (Reg.DEC_CLK_EN c.val) = true ∧
    busy = false) ∧
    t < (q.tick.toNat : Int) + 2 := by decide +kernel

theorem witness_Decimators_3 :
    let s : State := on .run fun q => sf (Reg.DEC_CH_EN 17) 1 (sf (Reg.DEC_CLK_EN 2) 1 q)
    let iq : QId := .q0
    let c : Fin 8 := 2
    let n : Fin 64 := 17
    let q := s.quad iq
    let busy := (List.range 8).any fun k => q.flag (Reg.DEC_CH_EN (8 * c.val + k))
    q.up ∧
    (
    q.flag (Reg.DEC_CLK_EN c.val) = true ∧
    busy = true) ∧
    q.flag (Reg.DEC_CH_EN n.val) = true := by decide +kernel

theorem witness_Decimators_4 :
    let s : State := on .run (sf (Reg.DEC_CLK_OSR 2) 3)
    let iq : QId := .q0
    let c : Fin 8 := 2
    let q := s.quad iq
    let osr := q.fld (Reg.DEC_CLK_OSR c.val)
    q.up ∧
    q.flag (Reg.DEC_CLK_EN c.val) = false ∧
    (osr = 3 ∨ osr = 2 ∧ q.fi = 2) := by decide +kernel

theorem witness_Decimators_5 :
    let s : State := on .run fun q => { sf (Reg.DEC_CH_EN 17) 1 q with dec := { q.dec with ins := q.dec.ins.set 17 { same := 4096 } } }
    let iq : QId := .q0
    let n : Fin 64 := 17
    let q := s.quad iq
    let i := q.dec.ins[n]
    q.flag (Reg.DEC_CH_EN n.val) = true ∧
    4096 ≤ i.same := by decide +kernel

theorem witness_Decimators_6 :
    let s : State := on .run fun q => sf (Reg.DEC_CH_TAPS 17) 8 (sf (Reg.DEC_CLK_EN 2) 1 q)
    let iq : QId := .q0
    let n : Fin 64 := 17
    let q := s.quad iq
    q.up ∧
    q.flag (Reg.DEC_CH_EN n.val) = false ∧
    q.decOk n.val = true ∧
    q.fld (Reg.DEC_CH_RCIC n.val) ≠ 3 ∧
    q.fld (Reg.DEC_CH_D n.val) ≠ 3 ∧
    q.fld (Reg.DEC_CH_RESP n.val) < 12 := by decide +kernel

theorem witness_DmaEngine_1 :
    let s : State := on .run fun q => { q with dma := { items := [⟨2, [0x10041000, 0x12341000 + 3 * 256, 0x10042003, 4, 0, 0, 0, 0xAABBCCDD], 4, false, none, none⟩] } }
    let iq : QId := .q0
    let w : Writer := 2
    let k : Nat := 0
    let q := s.quad iq
    let dma (r : Quad) (y : Dma) : Prop := r = { q with dma := y, regs := r.regs, mem := r.mem } ∧ SameBytes q r
    let place (k : Nat) := 16 * q.fld Reg.DMA_CR_BASE_BASE + 16 * ((q.fld Reg.DMA_CR_WP_WP + k) % 2 ^ q.fld Reg.DMA_CR_LEN_LOG2)
    let lands (k : Nat) : Prop := q.access (place k) 16 = none ∨ q.access (place k) 16 = some .scratch
    let still : Prop := q.kln = {} ∧ ∀ c, (q.core c).dual = []
    (
    mayWrite w = true ∧
    q.up ∧
    q.dma.copying.find w.val = none) ∧
    (
    (
    (match q.nextItem with
    | some i => decide (
      q.mayIssue = true ∧
      q.rowsOk i = true)
    | none => false) = true) ∧
    (
    q.up ∧
    (∀ i ∈ q.dma.items, i.issued = false ∧ i.held = none ∧ i.tail = none) ∧
    q.dma.copying = [] ∧
    still ∧
    (∀ k, k < q.dma.items.length → lands k) ∧
    q.fab.dwWait = [])) := by decide +kernel

theorem witness_DmaEngine_2 :
    let s : State := on .run fun q => { w4 0x107FFFEC 4 (w4 0x107FFFE8 0x10042000 (w4 0x107FFFE4 0x12340300 (w4 0x107FFFE0 0x10041000 q))) with dma := { copying := [(2, 0x107FFFE0)] } }
    let iq : QId := .q0
    let w : Writer := 2
    let q := s.quad iq
    let dma (r : Quad) (y : Dma) : Prop := r = { q with dma := y, regs := r.regs, mem := r.mem } ∧ SameBytes q r
    (
    mayWrite w = true ∧
    q.up ∧
    q.dma.copying.find w.val ≠ none) ∧
    (
    (match q.dma.copying.find w.val with
    | some a => decide (
      0x10040000 ≤ a ∧
      a + 32 ≤ 0x10800000 ∧
      q.ecc = [] ∧
      q.mode ≠ .halt ∧
      q.dma.items.length < 256 ∧ (
      let words := (List.range 8).map fun i => q.mem.readLE (a + 4 * i) 4
      a % 32 = 0 ∧
      dmaLayoutOk words = true))
    | none => false) = true) := by decide +kernel

theorem witness_DmaEngine_3 :
    let s : State := on .run fun q => { q with dma := { copying := [(2, 0x10040044)] } }
    let iq : QId := .q0
    let w : Writer := 2
    let q := s.quad iq
    let dma (r : Quad) (y : Dma) : Prop := r = { q with dma := y, regs := r.regs, mem := r.mem } ∧ SameBytes q r
    (match q.dma.copying.find w.val with
    | some a => decide (
      0x10040000 ≤ a ∧
      a + 32 ≤ 0x10800000 ∧
      q.ecc = [] ∧
      q.mode ≠ .halt ∧
      q.dma.items.length < 256 ∧ (
      let words := (List.range 8).map fun i => q.mem.readLE (a + 4 * i) 4
      (a % 32 ≠ 0 ∨ dmaLayoutOk words = false)))
    | none => false) = true := by decide +kernel

theorem witness_DmaEngine_4 :
    let s : State := on .run fun q => { q with dma := { items := [⟨2, [0x10041000, 0x12341000 + 3 * 256, 0x10042003, 4, 0, 0, 0, 0xAABBCCDD], 4, true, none, none⟩] } }
    let iq : QId := .q0
    let k : Nat := 0
    let q := s.quad iq
    let dma (r : Quad) (y : Dma) : Prop := r = { q with dma := y, regs := r.regs, mem := r.mem } ∧ SameBytes q r
    let place (k : Nat) := 16 * q.fld Reg.DMA_CR_BASE_BASE + 16 * ((q.fld Reg.DMA_CR_WP_WP + k) % 2 ^ q.fld Reg.DMA_CR_LEN_LOG2)
    let lands (k : Nat) : Prop := q.access (place k) 16 = none ∨ q.access (place k) 16 = some .scratch
    let still : Prop := q.kln = {} ∧ ∀ c, (q.core c).dual = []
    (match ((q.dma.items.filter fun i => i.issued && i.held.isNone && i.tail.isNone)[k]?) with
    | some i => decide (
      i.fill = true ∧
      i.taskr = false ∧
      i.rows = 1 ∧
      0x10040000 ≤ i.dst 0 ∧
      i.dst 0 + i.len ≤ 0x10800000 ∧
      i.dst 0 % 16 + i.len ≤ 16 ∧
      q.ecc = [] ∧
      q.hpnOn = false ∧
      still ∧
      ((∀ j ∈ [QId.q0, .q1, .q2, .q3], (s.quad j).mem.wf) ∧ s.dev.host.staging.wf) ∧
      lands 0)
    | none => false) = true := by decide +kernel

theorem witness_BusAndRegisters_1 :
    let s : State := on .run (inCore 4 fun k => { k with reqs := [⟨false, false, none, 0, .clean, 0⟩] })
    let iq : QId := .q0
    let m : Fin 23 := 4
    let w : Writer := 16
    let off : BitVec 20 := BitVec.ofNat 20 Reg.DEC_SYNCM0
    let q := s.quad iq
    (
    (match q.waitingQos m.val with
    | some k => decide (
      q.fld Reg.BUS_AGE_LIM ≠ 0 ∧
      k < 14 ∧
      m.val ∉ q.aged)
    | none => false) = true) ∧
    (
    (
    q.fld Reg.BUS_SCRUB_HOURS ≠ 0 ∧
    q.rst = .past ∧
    (∀ e ∈ q.ecc, e.2 = .corr ∧ q.patrolled e.1 = true)) ∧
    (
    mayWrite w = true ∧
    q.up ∧
    off.toNat ∈ [Reg.DEC_SYNCM0, Reg.DEC_SYNCM1, Reg.TIM_GPPER 0, Reg.FLT_RG_RP, Reg.KLN_RG_RP, Reg.DMA_CR_RP])) := by decide +kernel

theorem witness_BusAndRegisters_2 :
    let s : State := on .run (sf Reg.BUS_DDRSTAT_PRESENT 1)
    let iq : QId := .q0
    let w : Writer := 15
    let q := s.quad iq
    (
    q.rst = .past ∧
    q.flag Reg.BUS_DDRSTAT_PRESENT = true) ∧
    (
    4 ≤ w.val ∧
    w.val < 16) := by decide +kernel

theorem witness_HostPins_1 :
    let s : State := on .run fun q => { q with hp := { posted := [⟨0x10014, 6, 0x11223344⟩] } }
    let iq : QId := .q0
    let addr : BitVec 26 := 0
    let q := s.quad iq
    let h := q.hp
    let d := s.dev.host
    let a := addr.toNat / 4 * 4
    let off := a % 0x800000
    (
    d.deaf = false ∧
    a < 0x2000000 ∧
    windowWritable off = false) ∧
    (
    (
    (match h.posted with
    | p :: rest => decide (
      q.rst ≠ .held ∧
      0x10000 ≤ p.addr ∧
      p.addr < 0x11000 ∧
      h.slotBusy ((p.addr - 0x10000) / 16) = false)
    | [] => false) = true) ∧
    (
    (
    d.deaf = false ∧
    q.mode ≠ .scour ∧
    h.bulkR = []) ∧
    (
    d.deaf = false ∧
    (h.posted ≠ [] ∨ q.rst = .held) ∧
    h.posted.length < 64 ∧
    h.bref = false ∧
    h.cref = false))) := by decide +kernel

theorem witness_HostPins_2 :
    let s : State := withHost (on .run) fun h => { h with porLow := true }
    let d := s.dev.host
    d.deaf = true ∧
    ((∀ j ∈ [QId.q0, .q1, .q2, .q3], (s.quad j).mem.wf) ∧ s.dev.host.staging.wf) := by decide +kernel

theorem witness_HostPins_3 :
    let s : State := on .run fun q => { q with hp := {} }
    let iq : QId := .q0
    let addr : BitVec 26 := 0x11000
    let v : W32 := 1
    let q := s.quad iq
    let h := q.hp
    let d := s.dev.host
    let a := addr.toNat / 4 * 4
    let off := a % 0x800000
    let direct : Prop := h.posted = [] ∧ q.rst ≠ .held
    (
    d.deaf = false ∧
    a < 0x2000000 ∧
    qidOf (a / 0x800000) = iq ∧
    windowWritable off = true ∧
    h.posted.length < 64 ∧
    (0x30000 ≤ off → h.bref = false) ∧
    (off = 0x11000 → h.cref = false) ∧
    (off = 0x11008 → q.sch.mbox.length < 64)) ∧
    (
    (
    d.deaf = false ∧
    direct ∧
    h.bref = false ∧
    h.bulkW.length < 1024) ∧
    (
    (
    d.deaf = false ∧
    direct ∧
    h.cref = false ∧
    (v - h.cmdWp).toNat ≤ h.cmdFree) ∧
    (
    d.deaf = false ∧
    direct ∧
    (h.cplWp - h.cplRp).toNat < (v - h.cplRp).toNat))) := by decide +kernel

theorem witness_HostPins_4 :
    let s : State := on .run fun q => { q with hp := { bref := true, cref := true } }
    let iq : QId := .q0
    let v : W32 := 1
    let q := s.quad iq
    let h := q.hp
    let d := s.dev.host
    let direct : Prop := h.posted = [] ∧ q.rst ≠ .held
    (
    d.deaf = false ∧
    direct ∧
    h.bref = true ∧
    h.load = none) ∧
    (
    d.deaf = false ∧
    direct ∧
    (h.cref = true ∨ h.cmdFree < (v - h.cmdWp).toNat)) := by decide +kernel

theorem witness_HostPins_5 :
    let s : State := on .run fun q => { q with hp := { posted := List.replicate 64 ⟨0x11008, 15, 5⟩ } }
    let iq : QId := .q0
    let addr : BitVec 26 := 0x11008
    let q := s.quad iq
    let h := q.hp
    let d := s.dev.host
    let a := addr.toNat / 4 * 4
    let off := a % 0x800000
    d.deaf = false ∧
    a < 0x2000000 ∧
    qidOf (a / 0x800000) = iq ∧
    windowWritable off = true ∧
    64 ≤ h.posted.length ∧
    0x11000 ≤ off ∧
    off < 0x30000 := by decide +kernel

theorem witness_HostPins_6 :
    let s : State := on .run fun q => { q with hp := {} }
    let addr : BitVec 26 := BitVec.ofNat 26 (Reg.MGT_ARG 0)
    let d := s.dev.host
    let a := addr.toNat / 4 * 4
    d.deaf = false ∧
    0x2000000 ≤ a ∧
    hostWritable a = true ∧
    d.posted.length < 16 := by decide +kernel

theorem witness_HostPins_7 :
    let s : State := on .run fun q => { q with hp := { posted := [⟨0x11004, 15, 2⟩], cplWp := 5 } }
    let iq : QId := .q0
    let addr : BitVec 26 := 0
    let be : BitVec 4 := 15
    let v : W32 := 6
    let q := s.quad iq
    let h := q.hp
    let put (w : W32) (p : Posted) : W32 := (w &&& ~~~beMask p.be) ||| (p.v &&& beMask p.be)
    (match h.posted with
    | p :: rest => decide (
      q.rst ≠ .held ∧
      p.addr = 0x11004 ∧
      (put h.cplRp p - h.cplRp).toNat ≤ (h.cplWp - h.cplRp).toNat)
    | [] => false) = true := by decide +kernel

theorem witness_HostPins_8 :
    let s : State := on .run fun q => { q with hp := { cplWp := 5 } }
    let iq : QId := .q0
    let v : W32 := 5
    let q := s.quad iq
    let h := q.hp
    let d := s.dev.host
    let direct : Prop := h.posted = [] ∧ q.rst ≠ .held
    d.deaf = false ∧
    direct ∧
    (v - h.cplRp).toNat ≤ (h.cplWp - h.cplRp).toNat := by decide +kernel

theorem witness_HostPins_9 :
    let s : State := on .run fun q => { q with hp := { posted := [⟨0x30004, 6, 0x11223344⟩] } }
    let iq : QId := .q0
    let addr : BitVec 26 := 0
    let q := s.quad iq
    let h := q.hp
    (match h.posted with
    | p :: rest => decide (
      q.rst ≠ .held ∧
      0x30000 ≤ p.addr ∧
      p.addr < 0x40000 ∧
      h.bref = false ∧
      h.bulkW.length < 1024)
    | [] => false) = true := by decide +kernel

theorem witness_HostPins_10 :
    let s : State := withHost (on .run) fun d => { d with posted := [⟨Reg.MGT_ARG 0, 12, 0x11223344⟩] }
    let addr : BitVec 26 := 0
    let d := s.dev.host
    (match d.posted with
    | p :: rest => decide (
      d.porLow = false ∧
      d.held = false ∧
      p.addr = Reg.MGT_ARG 0)
    | [] => false) = true := by decide +kernel

theorem witness_HostPins_11 :
    let s : State := on .run fun q => { q with hp := { bulkR := [3, 4] } }
    let iq : QId := .q0
    let q := s.quad iq
    let h := q.hp
    let d := s.dev.host
    d.deaf = false ∧
    q.mode ≠ .scour ∧
    (match h.bulkR with
    | x :: rest => decide (
      True)
    | [] => false) = true := by decide +kernel

theorem witness_HostCommands_1 :
    let s : State := on .run fun q => { q with hp := {} }
    let iq : QId := .q0
    let seq : W32 := 44
    let addr : W36 := 0x107FFFFE
    let len : W32 := 67108865
    let n : BitVec 16 := 2
    let task : BitVec 12 := 6
    let q := s.quad iq
    let a := addr.toNat
    (
    q.takesCommand = true ∧
    q.seqOk seq = true ∧
    (
    q.mode ≠ .halt ∧
    (len = 0 ∨ 67108864 < len.toNat)) ∧
    (
    (
    q.mode ≠ .halt ∧
    a % 4 ≠ 0) ∧
    (
    (n = 0 ∨ a % 4 ≠ 0) ∧
    (
    q.mode ≠ .halt ∧
    (∀ x ∈ q.sch.queue, x.task ≠ task.toNat) ∧
    q.sch.pref.toList.all Option.isNone = true ∧
    q.sch.tickList = [] ∧
    q.sch.timeList = [])))) ∧
    s.dev.host.deaf = false := by decide +kernel

theorem witness_HostCommands_2 :
    let s : State := on .run fun q => { q with hp := { cmdWp := 1, ring := (List.range 4).foldl (fun r i => r.put i (([1, 77, 0, 0] : List W32).getD i 0)) [], lastSeq := some 5 } }
    let iq : QId := .q0
    let seq : W32 := 44
    let q := s.quad iq
    let h := q.hp
    let e := h.entry h.cmdRp
    (
    q.takesCommand = true ∧
    h.cmdWp ≠ h.cmdRp ∧
    (match h.lastSeq with
    | some l => decide (
      e.getD 1 0 ≠ l + 1)
    | none => false) = true) ∧
    (
    q.takesCommand = true ∧
    q.seqOk seq = false) := by decide +kernel

theorem witness_HostCommands_3 :
    let s : State := on .run fun q => { q with sch := { queue := [inst 6] } }
    let iq : QId := .q0
    let seq : W32 := 44
    let addr : W36 := 0x107FFFFC
    let len : W32 := 4
    let n : BitVec 16 := 5
    let task : BitVec 12 := 6
    let q := s.quad iq
    let h := q.hp
    let a := addr.toNat
    let plain (a n : Nat) : Prop := 0x10040000 ≤ a ∧ a + n ≤ 0x10800000 ∧ q.ecc = [] ∧ q.hpnOn = false ∧ q.kln = {} ∧ q.fab.dwWait = [] ∧ ((∀ j ∈ [QId.q0, .q1, .q2, .q3], (s.quad j).mem.wf) ∧ s.dev.host.staging.wf)
    let scratch (a n : Nat) : Prop := plain a n ∧ ∀ c, (q.core c).dual = []
    q.takesCommand = true ∧
    q.seqOk seq = true ∧
    (
    q.mode ≠ .halt ∧
    0 < len.toNat ∧
    len.toNat ≤ 67108864 ∧
    h.bulkW = []) ∧
    (
    (
    q.mode ≠ .halt ∧
    a % 4 = 0 ∧
    scratch a 4) ∧
    (
    (
    a % 4 = 0 ∧
    plain a 4) ∧
    (
    (match q.sch.queue with
    | [x] => decide (
      q.mode ≠ .halt ∧
      x.task = task.toNat ∧
      x.flow = none ∧
      q.sch.pref.toList.all Option.isNone = true ∧
      q.sch.tickList = [] ∧
      q.sch.timeList = [] ∧
      q.flt.test = none)
    | _ => false) = true))) := by decide +kernel

theorem witness_HostCommands_4 :
    let s : State := on .run fun q => { q with hp := { cmdWp := 1, ring := (List.range 4).foldl (fun r i => r.put i (([12, 77, 0, 0] : List W32).getD i 0)) [], lastSeq := some 76 } }
    let iq : QId := .q0
    let q := s.quad iq
    let h := q.hp
    let e := h.entry h.cmdRp
    q.takesCommand = true ∧
    h.cmdWp ≠ h.cmdRp ∧ (
    let m := (77 : W32)
    e = [12, m, 0, 0] ∧
    ((h.lastSeq).all (fun l => decide (m = l + 1)) = true)) := by decide +kernel

theorem witness_HostCommands_5 :
    let s : State := on .run fun q => { q with hp := { load := some ⟨9, 0x10040000, 0x10040010, 4, 16, none, [], [], 0⟩, bulkW := [0x44332211] } }
    let iq : QId := .q0
    let addr : W36 := 0
    let n : BitVec 16 := 0
    let dig : Bool := true
    let q := s.quad iq
    let h := q.hp
    let a := addr.toNat
    let plain (a n : Nat) : Prop := 0x10040000 ≤ a ∧ a + n ≤ 0x10800000 ∧ q.ecc = [] ∧ q.hpnOn = false ∧ q.kln = {} ∧ q.fab.dwWait = [] ∧ ((∀ j ∈ [QId.q0, .q1, .q2, .q3], (s.quad j).mem.wf) ∧ s.dev.host.staging.wf)
    let scratch (a n : Nat) : Prop := plain a n ∧ ∀ c, (q.core c).dual = []
    (match h.load with
    | some l => decide (
      l.left = 4 ∧
      l.buf = [] ∧
      l.dig = none ∧
      (match h.bulkW with
      | [w] => decide (
        l.pos % 4 = 0 ∧
        scratch l.pos 4)
      | _ => false) = true)
    | none => false) = true := by decide +kernel

theorem witness_HostCommands_6 :
    let s : State := on .run fun q => { q with hp := { read := some ⟨9, 0x10040010, 1, 7, 0⟩, bulkR := [5] } }
    let iq : QId := .q0
    let addr : W36 := 0
    let n : BitVec 16 := 0
    let q := s.quad iq
    let h := q.hp
    let a := addr.toNat
    let plain (a n : Nat) : Prop := 0x10040000 ≤ a ∧ a + n ≤ 0x10800000 ∧ q.ecc = [] ∧ q.hpnOn = false ∧ q.kln = {} ∧ q.fab.dwWait = [] ∧ ((∀ j ∈ [QId.q0, .q1, .q2, .q3], (s.quad j).mem.wf) ∧ s.dev.host.staging.wf)
    (match h.read with
    | some x => decide (
      x.left = 1 ∧
      h.bulkR.length < 1024 ∧
      x.addr % 4 = 0 ∧
      plain x.addr 4)
    | none => false) = true := by decide +kernel

theorem witness_HostCommands_7 :
    let s : State := on .standby fun q => { q with running := false }
    let iq : QId := .q0
    let q := s.quad iq
    q.running = false := by decide +kernel

theorem witness_HostCommands_8 :
    let s : State := on .run fun q => { q with hp := { away := true } }
    let iq : QId := .q0
    let q := s.quad iq
    let h := q.hp
    h.away = true := by decide +kernel

theorem witness_MladcelEvents_1 :
    let s : State := withHost (on .run) fun d => { d with mladcel := true, run := some ⟨5, 0, none, 0, 0, false⟩ }
    let mgt : Nat := 3049
    let d := s.dev.host
    d.mladcel = true ∧
    (
    (
    mgt < 3050 ∧
    d.nvStop = false) ∧
    (
    (match d.run with
    | some r => decide (
      r.todo = false ∧
      r.moving = false ∧
      (d.nvStop = false ∨ nvCommand r.op = false ∨ r.status ≠ 0))
    | none => false) = true)) := by decide +kernel

theorem witness_MladcelEvents_2 :
    let s : State := on .run
    let d := s.dev.host
    d.mladcel = false ∧
    d.porLow = false ∧
    d.held = false ∧
    d.burn = none := by decide +kernel

theorem witness_MladcelEvents_3 :
    let s : State := withHost (on .run) fun d => { d with mladcel := true, logDue := [logRec 1], log := [logRec 0] }
    let d := s.dev.host
    d.mladcel = true ∧
    (match d.logDue with
    | r :: rest => decide (
      d.logDeg = false ∧
      d.nvStop = false)
    | [] => false) = true := by decide +kernel

theorem witness_MladcelEvents_4 :
    let s : State := withHost (on .run) fun d => { d with mladcel := true, logDue := [logRec 1], logDeg := true }
    let d := s.dev.host
    d.mladcel = true ∧
    (match d.logDue with
    | r :: rest => decide (
      d.logDeg = true ∧
      d.ramLog.length < 4096)
    | [] => false) = true := by decide +kernel

theorem witness_MladcelEvents_5 :
    let s : State := withHost (on .run) fun d => { d with mladcel := true, nvStop := true }
    let mgt : Nat := 3151
    let d := s.dev.host
    3150 < mgt ∧
    d.nvStop = true ∧
    d.run = none := by decide +kernel

theorem witness_MladcelEvents_6 :
    let s : State := withHost (on .run) fun d => { d with mladcel := true, nvStop := true, run := some ⟨1, 0, none, 1, 400, true⟩ }
    let d := s.dev.host
    (match d.run with
    | some r => decide (
      (r.todo = true ∨ d.nvStop = true ∧ (nvCommand r.op = true ∨ r.op = 7) ∧ r.status = 0))
    | none => false) = true := by decide +kernel

theorem witness_MladcelEvents_7 :
    let s : State := withHost (on .run) fun d => { d with mladcel := true, run := some ⟨7, 0, none, 2, 0, false⟩ }
    let d := s.dev.host
    let r := (⟨7, 0, none, 2, 0, false⟩ : MgtRun)
    let l := Life.sealed_
    d.run = some r ∧
    r.todo = false ∧
    r.moving = true ∧
    d.nvStop = false ∧
    d.burn = none ∧
    lifeOf r.a0.toNat = some l := by decide +kernel

theorem witness_MladcelEvents_8 :
    let s : State := withHost (on .run) fun d => { d with burn := some .sealed_ }
    let d := s.dev.host
    let l := Life.sealed_
    d.mladcel = false ∧
    d.porLow = false ∧
    d.held = false ∧
    d.burn = some l := by decide +kernel

theorem witness_MladcelCommands_1 :
    let s : State := withHost (on .run) fun d => { d with mladcel := true, images := [(2, ⟨[(3, 4)], 400, true⟩), (3, ⟨[(3, 4)], 400, true⟩)], stage := some ⟨1, true, false⟩ }
    let target : BitVec 3 := 1
    let len : W32 := 400
    let off : W32 := 10
    let bytes : W32 := 6
    let confirm : W32 := 0
    let k : Fin 4 := 3
    let d := s.dev.host
    let g := target.toNat
    let free := !d.selected g
    (
    d.mladcel = true ∧
    d.run = none ∧
    d.stage ≠ none ∧
    confirm ≠ 0x5EA1) ∧
    (
    d.mladcel = true ∧
    d.run = none ∧
    d.nvStop = false ∧
    (4 < g ∨ d.stage ≠ none) ∧
    (
    (
    (match d.stage with
    | some p => decide (
      bytes.toNat ≤ 32768 ∧
      off.toNat + bytes.toNat ≤ (d.image p.target p.slot).len)
    | none => false) = true) ∧
    (
    (
    g ≤ 4 ∧
    (d.image g free).verified = true) ∧
    (
    (
    g ≤ 4 ∧
    g ≠ 0) ∧
    (
    d.pers.length = 2 ∧
    (
    (
    (d.life = .blank ∨ d.life = .open_) ∧
    d.keys.getLsbD k.val = false) ∧
    d.keys.getLsbD k.val = false)))))) := by decide +kernel

theorem witness_MladcelCommands_2 :
    let s : State := withHost (on .run) fun d => { d with mladcel := true, keys := 8 }
    let target : BitVec 3 := 1
    let st : BitVec 3 := 1
    let len : W32 := 400
    let confirm : W32 := 24225
    let k : Fin 4 := 3
    let d := s.dev.host
    let g := target.toNat
    let free := !d.selected g
    d.mladcel = true ∧
    d.run = none ∧
    d.nvStop = false ∧
    (
    g ≤ 4 ∧
    d.stage = none ∧
    s.dev.taking g = false ∧
    len.toNat ≤ d.slotSize g) ∧
    (
    (4 < g ∨ (d.image g free).verified = false) ∧
    (
    (
    (d.life = .blank ∨ d.life = .open_ ∨ d.life = .sealed_) ∧
    d.keys.getLsbD k.val = true) ∧
    (
    (match lifeOf st.toNat with
    | some next => decide (
      confirm = 0x5EA1 ∧
      (d.moveOk next = false ∨ d.stage ≠ none ∨ d.mgtOk = false))
    | none => false) = true))) := by decide +kernel

theorem witness_MladcelCommands_3 :
    let s : State := withHost (on .run) fun d => { d with mladcel := true }
    let target : BitVec 3 := 0
    let d := s.dev.host
    let g := target.toNat
    d.mladcel = true ∧
    d.run = none ∧
    d.nvStop = false ∧
    g ≤ 4 ∧
    g = 0 := by decide +kernel

theorem witness_MladcelCommands_4 :
    let s : State := withHost (on .run) fun d => { d with mladcel := true, run := some ⟨5, 0, none, 0, 0, false⟩ }
    let d := s.dev.host
    d.run ≠ none := by decide +kernel

theorem witness_MladcelCommands_5 :
    let s : State := withHost (on .run) fun d => { d with mladcel := true, nvStop := true }
    let d := s.dev.host
    d.mladcel = true ∧
    d.run = none ∧
    d.nvStop = true := by decide +kernel

theorem witness_MladcelCommands_6 :
    let s : State := withHost (on .run) fun d => { d with mladcel := true, life := .sealed_ }
    let d := s.dev.host
    d.mladcel = true ∧
    d.run = none ∧
    d.nvStop = false ∧
    d.life ≠ .blank ∧
    d.life ≠ .open_ := by decide +kernel

theorem witness_MladcelCommands_7 :
    let s : State := withHost (on .run) fun d => { d with mladcel := true, life := .open_ }
    let st : BitVec 3 := 2
    let confirm : W32 := 24225
    let d := s.dev.host
    d.mladcel = true ∧
    d.run = none ∧
    d.nvStop = false ∧
    (match lifeOf st.toNat with
    | some next => decide (
      confirm = 0x5EA1 ∧
      d.moveOk next = true ∧
      d.stage = none ∧
      d.mgtOk = true)
    | none => false) = true := by decide +kernel

theorem witness_PolicyAndCoreTests_1 :
    let s : State := on .run fun q => { sf (Reg.FLT_POL_ACT 2) 1 ({ q with hpn := { state := .live } }) with flt := { due := [2] } }
    let iq : QId := .q0
    let cls : Fin 6 := 2
    let q := s.quad iq
    let act := q.fld (Reg.FLT_POL_ACT cls.val)
    let due := q.flt.due.contains cls.val
    due = true ∧
    act = 1 ∧
    q.haltDue = false ∧
    (q.mode = .run ∧ q.locked = true) ∧
    q.change = none ∧
    (∀ x ∈ q.sch.queue, x.bound = false) ∧
    q.sch.pref.toList.all Option.isNone = true ∧
    (∀ c i, (q.core c).assigned = some i → i.bound = false) := by decide +kernel

theorem witness_PolicyAndCoreTests_2 :
    let s : State := on .run fun q => { q with flt := { test := some ⟨1, 5, 0, 77⟩ } }
    let iq : QId := .q0
    let c : Fin 17 := 5
    let phase : BitVec 16 := 9
    let q := s.quad iq
    (match q.flt.test with
    | some t => decide (
      t.code = 1 ∧
      t.b.toNat = c.val ∧
      ((q.flt.rot).all (fun x => decide (x.phase ≠ .test)) = true))
    | none => false) = true := by decide +kernel

theorem witness_PolicyAndCoreTests_3 :
    let s : State := on .run fun q => { q with flt := { rot := some ⟨5, 5, 16, .test, 9, some 4, false, 0, false⟩ } }
    let iq : QId := .q0
    let c : Fin 17 := 5
    let phase : BitVec 16 := 9
    let q := s.quad iq
    (match q.flt.rot with
    | some x => decide (
      x.src = c.val ∧
      x.phase = .test ∧
      x.repair = false)
    | none => false) = true := by decide +kernel

theorem witness_PolicyAndCoreTests_4 :
    let s : State := on .run fun q => { q with flt := { rot := some ⟨5, 5, 16, .test, 9, some 4, true, 0, false⟩ } }
    let iq : QId := .q0
    let c : Fin 17 := 5
    let phase : BitVec 16 := 9
    let q := s.quad iq
    (match q.flt.rot with
    | some x => decide (
      x.src = c.val ∧
      x.phase = .test ∧
      x.repair = true ∧
      (∀ y, y ≠ c → (q.core y).stopped = true → 16 ≤ (q.core y).pos.val))
    | none => false) = true := by decide +kernel

theorem witness_PolicyAndCoreTests_5 :
    let s : State := on .run fun q => { sf (Reg.FLT_POL_ACT 2) 0 (q) with flt := {} }
    let iq : QId := .q0
    let cls : Fin 6 := 2
    let q := s.quad iq
    let due := q.flt.due.contains cls.val
    due = false := by decide +kernel

theorem witness_PolicyAndCoreTests_6 :
    let s : State := on .run fun q => { sf (Reg.FLT_POL_ACT 2) 3 (q) with flt := { due := [2] } }
    let iq : QId := .q0
    let cls : Fin 6 := 2
    let q := s.quad iq
    let act := q.fld (Reg.FLT_POL_ACT cls.val)
    let due := q.flt.due.contains cls.val
    due = true ∧
    (act = 0 ∨ act = 3) := by decide +kernel

theorem witness_PolicyAndCoreTests_7 :
    let s : State := on .run fun q => { sf (Reg.FLT_POL_ACT 2) 1 (q) with flt := { due := [2] } }
    let iq : QId := .q0
    let cls : Fin 6 := 2
    let q := s.quad iq
    let act := q.fld (Reg.FLT_POL_ACT cls.val)
    let due := q.flt.due.contains cls.val
    due = true ∧
    act = 1 ∧
    (¬ (q.mode = .run ∧ q.locked = true)) := by decide +kernel

theorem witness_PolicyAndCoreTests_8 :
    let s : State := on .run fun q => { sf (Reg.FLT_POL_ACT 2) 2 (q) with flt := { due := [2] } }
    let iq : QId := .q0
    let cls : Fin 6 := 2
    let q := s.quad iq
    let act := q.fld (Reg.FLT_POL_ACT cls.val)
    let due := q.flt.due.contains cls.val
    due = true ∧
    act = 2 ∧
    q.mode ≠ .scour := by decide +kernel

theorem witness_PolicyAndCoreTests_9 :
    let s : State := on .run fun q => { sf (Reg.FLT_POL_ACT 2) 1 ({ q with change := some ⟨.halt, 0, .command 4 5⟩, hpn := { state := .live } }) with flt := { due := [2] } }
    let iq : QId := .q0
    let cls : Fin 6 := 2
    let q := s.quad iq
    let act := q.fld (Reg.FLT_POL_ACT cls.val)
    let due := q.flt.due.contains cls.val
    due = true ∧
    act = 1 ∧
    (q.mode = .run ∧ q.locked = true) ∧
    q.haltDue = true := by decide +kernel

theorem witness_PolicyAndCoreTests_10 :
    let s : State := on .run fun q => { q with flt := { rot := some ⟨5, 5, 16, .copy, 9, some 4, false, 0, false⟩ } }
    let iq : QId := .q0
    let c : Fin 17 := 5
    let phase : BitVec 16 := 9
    let q := s.quad iq
    (match q.flt.rot with
    | some x => decide (
      x.src = c.val ∧
      x.phase ≠ .test ∧
      ((q.flt.test).all (fun t => decide (t.code ≠ 1)) = true))
    | none => false) = true := by decide +kernel

theorem witness_PolicyAndCoreTests_11 :
    let s : State := on .run fun q => { inCore 0 (fun k => { k with stopped := true }) q with flt := { rot := some ⟨7, 5, 16, .test, 9, none, true, 0, true⟩, pairRepair := true } }
    let iq : QId := .q0
    let c : Fin 17 := 5
    let phase : BitVec 16 := 9
    let q := s.quad iq
    (match q.flt.rot with
    | some x => decide (
      x.src = c.val ∧
      x.phase = .test ∧
      x.repair = true ∧
      q.flt.pairRepair = true ∧
      q.mode ≠ .scour ∧
      (∃ y, y ≠ c ∧ (q.core y).stopped = true ∧ (q.core y).pos.val ≤ 1) ∧
      (∀ y, (q.core y).stopped = true → y = c ∨ (q.core y).pos.val ≤ 1))
    | none => false) = true := by decide +kernel

theorem witness_SpareCores_1 :
    let s : State := on .run fun q => { q with flt := { rot := some ⟨5, 5, 16, .copy, 9, some 4, false, 0, false⟩ } }
    let iq : QId := .q0
    let seq : W32 := 3
    let p : BitVec 5 := 5
    let c : Fin 17 := 5
    let sp : Fin 17 := 16
    let q := s.quad iq
    (
    q.takesCommand = true ∧
    q.seqOk seq = true ∧
    q.mode ≠ .halt ∧
    q.rotOk p.toNat = false) ∧
    (
    (q.flag Reg.FLT_CTL_AUTO = false ∨ (∀ n ∈ List.range 16, q.rotOk n = false)) ∧
    (
    (match q.flt.rot with
    | some x => decide (
      x.repair = false ∧
      (
      x.src = c.val ∧
      x.dst = sp.val ∧
      c ≠ sp ∧
      q.copied x = true ∧
      x.phase = .copy ∧
      (q.core c).idle = true) ∧
      (x.phase ≠ .copy ∨ x.waited < 16))
    | none => false) = true)) := by decide +kernel

theorem witness_SpareCores_2 :
    let s : State := on .run fun q => { sf Reg.FLT_CTL_AUTO 1 q with flt := { autoNext := 15 } }
    let iq : QId := .q0
    let seq : W32 := 3
    let p : BitVec 5 := 15
    let c : Fin 17 := 15
    let sp : Fin 17 := 16
    let q := s.quad iq
    (
    q.takesCommand = true ∧
    q.seqOk seq = true ∧
    q.mode ≠ .halt ∧
    q.rotOk p.toNat = true ∧
    q.coreAt p.toNat = some c ∧
    q.spareCore = some sp) ∧
    (
    q.flag Reg.FLT_CTL_AUTO = true ∧
    q.flt.autoNext = p.toNat ∧
    p.toNat < 16 ∧
    q.rotOk p.toNat = true ∧
    q.coreAt p.toNat = some c ∧
    q.spareCore = some sp) := by decide +kernel

theorem witness_SpareCores_3 :
    let s : State := on .run fun q => { inCore 5 (fun k => { k with run := some (runOf (inst 3)) }) q with flt := { rot := some ⟨5, 5, 16, .copy, 9, some 4, false, 16, false⟩ } }
    let iq : QId := .q0
    let q := s.quad iq
    (match q.flt.rot with
    | some x => decide (
      x.repair = false ∧
      x.phase = .copy ∧
      16 ≤ x.waited)
    | none => false) = true := by decide +kernel

theorem witness_SpareCores_4 :
    let s : State := on .run fun q => { q with flt := { rot := some ⟨5, 5, 16, .back, 9, some 4, false, 15, false⟩ } }
    let iq : QId := .q0
    let c : Fin 17 := 5
    let sp : Fin 17 := 16
    let q := s.quad iq
    (match q.flt.rot with
    | some x => decide (
      x.repair = false ∧
      x.src = c.val ∧
      x.dst = sp.val ∧
      c ≠ sp ∧
      q.copied x = true ∧
      x.phase = .back ∧
      (q.core sp).idle = true)
    | none => false) = true := by decide +kernel

theorem witness_SpareCores_5 :
    let s : State := on .run fun q => { q with flt := { rot := some ⟨5, 5, 16, .copy, 9, some 4, true, 0, false⟩ } }
    let iq : QId := .q0
    let c : Fin 17 := 5
    let sp : Fin 17 := 16
    let q := s.quad iq
    (match q.flt.rot with
    | some x => decide (
      x.repair = true ∧
      x.phase = .copy ∧
      q.copied x = true ∧
      x.src = c.val ∧
      x.dst = sp.val ∧
      c ≠ sp ∧
      (q.flt.pairRepair = false ∨ 2 ≤ x.pos) ∧
      4 ≤ (q.core c).pos.val)
    | none => false) = true := by decide +kernel

theorem witness_SpareCores_6 :
    let s : State := on .run fun q => { inCore 5 (fun k => { k with run := some (runOf (inst 3)) }) q with flt := { rot := some ⟨5, 5, 16, .copy, 9, some 4, false, 0, true⟩ } }
    let iq : QId := .q0
    let c : Fin 17 := 5
    let sp : Fin 17 := 16
    let q := s.quad iq
    (match q.flt.rot with
    | some x => decide (
      x.repair = false ∧
      x.src = c.val ∧
      x.dst = sp.val ∧
      c ≠ sp ∧
      q.copied x = true ∧
      x.phase = .copy ∧
      x.made = true ∧
      (q.core c).idle = false)
    | none => false) = true := by decide +kernel

theorem witness_Tests_1 :
    let s : State := on .run fun q => { q with flt := { test := some ⟨4, 1, 0, 77⟩ } }
    let iq : QId := .q0
    let seq : W32 := 3
    let b : W32 := 0
    let c : W32 := 0
    let q := s.quad iq
    let service := q.mode = .service
    let grouped := ∃ g ∈ List.range 12, q.fld (Reg.ASR_GRP_EN g) = 1 ∧ (q.grpRange g).1 ≤ b.toNat ∧ b.toNat < (q.grpRange g).1 + (q.grpRange g).2
    (
    q.takesCommand = true ∧
    q.seqOk seq = true ∧
    q.mode ≠ .halt ∧
    (q.testFree = false ∨ ¬ (q.mode ≠ .hardpan ∧ (∃ k, q.spareCore = some k ∧ k.val = b.toNat) ∧ c = 0)) ∧
    (
    (q.testFree = false ∨ ¬ (service ∧ b.toNat ≤ 34 ∧ c = 0)) ∧
    (
    (q.testFree = false ∨ ¬ (service ∧ 1 ≤ c.toNat ∧ 2 ^ 20 * (b.toNat + c.toNat) ≤ q.dramBytes)) ∧
    (
    (
    let p : Fin 2 := 0
    b.toNat = p.val ∧
    q.link p ≠ 3 ∧
    (q.testFree = false ∨ ¬ (c.toNat ≤ 1))) ∧
    (
    (q.testFree = false ∨ ¬ (b.toNat < 64 ∧ c = 0 ∧ q.fld (Reg.DEC_CH_EN b.toNat) = 0)) ∧
    (
    (q.testFree = false ∨ ¬ (b.toNat < 128 ∧ c = 0 ∧ ¬ grouped)) ∧
    (
    (q.testFree = false ∨ ¬ (service ∧ b.toNat ≤ 1 ∧ c = 0)) ∧
    (
    (q.testFree = false ∨ ¬ (service ∧ b = 0 ∧ c = 0)) ∧
    (q.testFree = false ∨ ¬ service ∨ 4096 ≤ b.toNat ∨ c ≠ 0))))))))) ∧
    (
    (match q.flt.test with
    | some t => decide (
      4 ≤ t.code ∧
      t.code ≤ 8)
    | none => false) = true) := by decide +kernel

theorem witness_Tests_2 :
    let s : State := on .service
    let iq : QId := .q0
    let seq : W32 := 3
    let b : W32 := 0
    let c : W32 := 0
    let q := s.quad iq
    let service := q.mode = .service
    let grouped := ∃ g ∈ List.range 12, q.fld (Reg.ASR_GRP_EN g) = 1 ∧ (q.grpRange g).1 ≤ b.toNat ∧ b.toNat < (q.grpRange g).1 + (q.grpRange g).2
    q.takesCommand = true ∧
    q.seqOk seq = true ∧
    q.mode ≠ .halt ∧
    (
    q.testFree = true ∧
    (service ∧ b.toNat ≤ 34 ∧ c = 0)) ∧
    (
    (
    let p : Fin 2 := 0
    b.toNat = p.val ∧
    q.link p ≠ 3 ∧
    q.testFree = true ∧
    (c.toNat ≤ 1)) ∧
    (
    (
    q.testFree = true ∧
    (b.toNat < 64 ∧ c = 0 ∧ q.fld (Reg.DEC_CH_EN b.toNat) = 0)) ∧
    (
    (
    q.testFree = true ∧
    (b.toNat < 128 ∧ c = 0 ∧ ¬ grouped)) ∧
    (
    (
    q.testFree = true ∧
    (service ∧ b.toNat ≤ 1 ∧ c = 0)) ∧
    (
    (
    q.testFree = true ∧
    (service ∧ b = 0 ∧ c = 0)) ∧
    (
    q.testFree = true ∧
    service ∧
    b.toNat < 4096 ∧
    c = 0 ∧
    q.refused165 b.toNat = true)))))) := by decide +kernel

theorem witness_Tests_3 :
    let s : State := on .run
    let iq : QId := .q0
    let seq : W32 := 3
    let b : W32 := 16
    let c : W32 := 0
    let q := s.quad iq
    q.takesCommand = true ∧
    q.seqOk seq = true ∧
    q.mode ≠ .halt ∧
    (
    q.testFree = true ∧
    (q.mode ≠ .hardpan ∧ (∃ k, q.spareCore = some k ∧ k.val = b.toNat) ∧ c = 0)) ∧
    1 < b.toNat := by decide +kernel

theorem witness_Tests_4 :
    let s : State := on .service fun q => sf Reg.BUS_DDRSTAT_TRAINED 1 (sf Reg.BUS_DDRSTAT_SIZE 1 (sf (Reg.SCH_LVL_LIM_LIM 1) 9 (task 6 0x2123 q)))
    let iq : QId := .q0
    let seq : W32 := 3
    let b : W32 := 6
    let c : W32 := 1
    let q := s.quad iq
    let service := q.mode = .service
    q.takesCommand = true ∧
    q.seqOk seq = true ∧
    q.mode ≠ .halt ∧
    q.testFree = true ∧
    (service ∧ 1 ≤ c.toNat ∧ 2 ^ 20 * (b.toNat + c.toNat) ≤ q.dramBytes) := by decide +kernel

theorem witness_Tests_5 :
    let s : State := on .service fun q => sf Reg.BUS_DDRSTAT_TRAINED 1 (sf Reg.BUS_DDRSTAT_SIZE 1 (sf (Reg.SCH_LVL_LIM_LIM 1) 9 (task 6 0x2123 q)))
    let iq : QId := .q0
    let seq : W32 := 3
    let b : W32 := 6
    let c : W32 := 0
    let q := s.quad iq
    let service := q.mode = .service
    q.takesCommand = true ∧
    q.seqOk seq = true ∧
    q.mode ≠ .halt ∧
    q.testFree = true ∧
    service ∧
    b.toNat < 4096 ∧
    c = 0 ∧
    q.refused165 b.toNat = false ∧
    q.room168 b.toNat = true := by decide +kernel

theorem witness_Tests_6 :
    let s : State := on .service fun q => sf (Reg.SCH_LVL_LIM_LIM 1) 0 (task 6 0x2123 q)
    let iq : QId := .q0
    let seq : W32 := 3
    let b : W32 := 6
    let c : W32 := 0
    let q := s.quad iq
    let service := q.mode = .service
    q.takesCommand = true ∧
    q.seqOk seq = true ∧
    q.mode ≠ .halt ∧
    q.testFree = true ∧
    service ∧
    b.toNat < 4096 ∧
    c = 0 ∧
    q.refused165 b.toNat = false ∧
    q.room168 b.toNat = false := by decide +kernel

theorem witness_Tests_7 :
    let s : State := on .run fun q => q.setLink 0 3
    let iq : QId := .q0
    let seq : W32 := 3
    let b : W32 := 0
    let c : W32 := 1
    let q := s.quad iq
    q.takesCommand = true ∧
    q.seqOk seq = true ∧
    q.mode ≠ .halt ∧ (
    let p : Fin 2 := 0
    b.toNat = p.val ∧
    q.link p = 3 ∧
    c = 1 ∧
    q.wrapped = false ∧
    q.testFree = true) := by decide +kernel

theorem witness_Tests_8 :
    let s : State := on .run fun q => q.setLink 0 3
    let iq : QId := .q0
    let seq : W32 := 3
    let b : W32 := 0
    let c : W32 := 0
    let q := s.quad iq
    q.takesCommand = true ∧
    q.seqOk seq = true ∧
    q.mode ≠ .halt ∧ (
    let p : Fin 2 := 0
    b.toNat = p.val ∧
    q.link p = 3 ∧
    (c ≠ 1 ∨ q.wrapped = true)) := by decide +kernel

theorem witness_Tests_9 :
    let s : State := on .run fun q => { q with flt := { test := some ⟨1, 16, 0, 77⟩ } }
    let iq : QId := .q0
    let q := s.quad iq
    (match q.flt.test with
    | some t => decide (
      (t.code = 1 ∨ t.code = 16))
    | none => false) = true := by decide +kernel

theorem witness_Tests_10 :
    let s : State := on .run fun q => { q with flt := { test := some ⟨3, 1, 2, 77⟩ } }
    let iq : QId := .q0
    let q := s.quad iq
    (match q.flt.test with
    | some t => decide (
      t.code = 3 ∧
      ((∀ j ∈ [QId.q0, .q1, .q2, .q3], (s.quad j).mem.wf) ∧ s.dev.host.staging.wf))
    | none => false) = true := by decide +kernel

theorem witness_Tests_11 :
    let s : State := on .run fun q => { q with flt := { test := some ⟨2, 31, 0, 77⟩ } }
    let iq : QId := .q0
    let b : W32 := 0
    let q := s.quad iq
    (match q.flt.test with
    | some t => decide (
      t.code = 2 ∧
      t.b.toNat < 32 ∧
      ((∀ j ∈ [QId.q0, .q1, .q2, .q3], (s.quad j).mem.wf) ∧ s.dev.host.staging.wf))
    | none => false) = true := by decide +kernel

theorem witness_StepRunsFront_1 :
    let s : State := { on .run with pending := [.nop (iss 4)] }
    let c : Instr := .nop (iss 4)
    let rest : List Instr := []
    s.pending = c :: rest := by decide +kernel

theorem witness_StepRunsFront_2 :
    let s : State := on .run
    s.pending = [] := by decide +kernel

theorem witness_Normalise_1 :
    let s : State := core4 fun k => { k with set0 := { k.set0 with d := (k.set0.d.set 0 0x7FFFFFFFFF).set 1 2, a := k.set0.a.set 2 7 } }
    let i : Issue := iss 4
    s.issues i ∧
    i.pm = 0 := by decide +kernel

end Sys2Proof.Tests
end

/-! The device after POR_N: what each quadrant of `State.reset` reads, register by register and core by core. -/

namespace Sys2Proof.Machine.Proofs

@[simp] theorem quad_reset (i : QId) : State.reset.quad i = Quad.reset := by cases i <;> rfl

theorem memWf_reset : State.reset.memWf := by
  have nil_wf : Memory.wf [] := ⟨.nil, by simp⟩
  refine ⟨fun i => ?_, nil_wf⟩
  rw [quad_reset]
  exact nil_wf

theorem rd_reset_rstCause : Quad.reset.rd Reg.QCTL_RST_CAUSE = 1 := rfl

/-- A quadrant after POR_N lists QCTL_RST_CAUSE alone, so every other register reads what R10 gives it. -/
theorem rd_reset_of_ne {o : Nat} (h : o ≠ Reg.QCTL_RST_CAUSE) : Quad.reset.rd o = quadReset o := by
  have absent : Quad.reset.regs.find o = none := if_neg (Ne.symm h)
  simp [Quad.rd, absent]

/-- No spare is in use: the field reads what the reset value of its register gives it (R10). -/
theorem fld_reset_spareUsed : Quad.reset.fld Reg.FLT_SPARE_USED = 0 := by
  have clear : Reg.FLT_SPARE_USED.get (quadReset Reg.FLT_SPARE_USED.off) = 0 := by decide
  rw [Quad.fld, rd_reset_of_ne (by decide), clear]

/-- R61: position `c` is on core `c`, whose other fields hold their defaults. -/
theorem core_reset (c : Fin 17) : Quad.reset.core c = { pos := ⟨c.val, by omega⟩ } := by
  simp [Quad.core, Quad.reset, coresReset]

/-- Settles O60: every quadrant is `Quad.reset`, whose registers, memory and cores are read by the lemmas above. -/
theorem resetState : Obligations.ResetState := by
  refine ⟨rfl, memWf_reset, fun i => ?_⟩
  rw [quad_reset]
  refine ⟨rfl, rfl, rd_reset_rstCause, fun _ => rfl, fun _ => rd_reset_of_ne, fld_reset_spareUsed, fun c => ?_, rfl, rfl, rfl, rfl, rfl⟩
  rw [core_reset]
  exact ⟨rfl, rfl, rfl, rfl, rfl, rfl⟩

end Sys2Proof.Machine.Proofs

/-! A cycle of CCLK with no command: what the copy of a core's memories changes (R477), what a cycle leaves of a quadrant (R24). -/

namespace Sys2Proof.Machine.Proofs

/-- Bytes listed behind a memory, none of them at `x`, do not change what the kept part of the memory reads there. -/
theorem read_filter_append (m l : Memory) (p : Nat → Bool) {x : Nat} (hp : p x = true) (hl : ∀ e ∈ l, e.1 ≠ x) :
    Memory.read ((m.filter fun e => p e.1) ++ l) x = m.read x := by
  induction m with
  | nil =>
    induction l with
    | nil => rfl
    | cons e l ih =>
      obtain ⟨hne, hl⟩ := List.forall_mem_cons.mp hl
      simpa [Memory.read, hne] using ih hl
  | cons e m ih =>
    by_cases hx : e.1 = x
    · simp [Memory.read, hx, hp]
    · by_cases he : p e.1 = true <;> simp [Memory.read, hx, he, ih]

/-- R477: a copy writes the window of the core it goes to and the error marks, and changes nothing else. -/
theorem copyCore_frame (q : Quad) (a b : Fin 17) :
    ∃ mem ecc, q.copyCore a b = { q with mem := mem, ecc := ecc } ∧ SameBytesBut (winBase b) 0x50000 q { q with mem := mem } := by
  unfold Quad.copyCore
  split
  · exact ⟨q.mem, q.ecc, rfl, fun _ _ => rfl⟩
  · refine ⟨_, _, rfl, fun x hx => ?_⟩
    rw [Laws.read_normal]
    refine read_filter_append q.mem _ (fun y => !decide (winBase b ≤ y ∧ y < winBase b + 0x50000)) (by simp; omega) ?_
    simp only [List.mem_map, List.mem_filter, decide_eq_true_eq]
    rintro _ ⟨y, ⟨-, hy⟩, rfl⟩
    dsimp only
    omega

/-- A copy that ends is the one a rotation or repair has under way; in any other cycle none is made. -/
theorem makeCopy_cases (q : Quad) : q.makeCopy = q ∨ ∃ x b mem ecc, q.flt.rot = some x ∧ x.made = false ∧
    SameBytesBut (winBase b) 0x50000 q { q with mem := mem } ∧
    q.makeCopy = { q with mem := mem, ecc := ecc, flt := { q.flt with rot := some { x with made := true } } } := by
  unfold Quad.makeCopy
  split
  · exact .inl rfl
  · next x hx =>
    split
    · exact .inl rfl
    · next hm =>
      have made : x.made = false := by
        simp only [Bool.or_eq_true, not_or, Bool.not_eq_true] at hm
        exact hm.1
      split
      · next a b _ =>
        obtain ⟨mem, ecc, copy, same⟩ := copyCore_frame q a b
        exact .inr ⟨x, b, mem, ecc, hx, made, same, by rw [copy]⟩
      · exact .inl rfl

theorem core_mapCores (q : Quad) (f : Fin 17 → Core → Core) (n : Fin 17) : (q.mapCores f).core n = f n (q.core n) := by
  simp [Quad.mapCores, Quad.core]

theorem cclkCycle_of_inReset {q : Quad} (h : q.rst = .held ∨ q.rst = .released) : q.cclkCycle = q := by
  rcases h with h | h <;> simp [Quad.cclkCycle, h]

/-- R24: out of reset every core, the counts and the time counter go on, and then a copy that ends in the cycle is made. -/
theorem cclkCycle_of_started {q : Quad} (h : q.rst ≠ .held) (h' : q.rst ≠ .released) : ∃ cores tim phase,
    q.cclkCycle = { q with cores := cores, tim := tim, cclk := q.cclk + 1, phase := phase }.makeCopy ∧
      ∀ n : Fin 17, cores[n] = (q.core n).cycle (cclkPerTick q.fi) := by
  rw [Quad.cclkCycle, if_neg (by simp [h, h'])]
  dsimp only [Quad.mapCores]
  exact ⟨_, _, _, rfl, core_mapCores q _⟩

theorem quad_cclkCycle (s : State) (i : QId) : { s with dev := s.dev.cclkCycle }.quad i = (s.quad i).cclkCycle := by
  cases i <;> rfl

/-- Settles O56: `step` is `exec` of the front of the queue; with none waiting every quadrant passes a cycle. -/
theorem stepRunsFront : Obligations.StepRunsFront := by
  intro s c rest
  constructor
  · intro front
    rw [step, front]
  · intro idle
    refine ⟨{ s with dev := s.dev.cclkCycle }, by rw [step, idle], idle, rfl, fun i => ?_⟩
    rw [quad_cclkCycle]
    refine ⟨cclkCycle_of_inReset, fun held released => ?_⟩
    obtain ⟨cores, tim, phase, cycle, landed⟩ := cclkCycle_of_started held released
    rw [cycle]
    rcases makeCopy_cases { s.quad i with cores := cores, tim := tim, cclk := (s.quad i).cclk + 1, phase := phase } with
      none | ⟨x, b, mem, ecc, rot, made, same, copy⟩
    · rw [none]
      exact ⟨.inl rfl, landed⟩
    · rw [copy]
      exact ⟨.inr ⟨x, b, rot, made, fun _ => same, rfl⟩, landed⟩

end Sys2Proof.Machine.Proofs

/-! Commands at the pins of the Nonor port act on their quadrant only while the host domain lets the port hear them (R494, R496). -/

namespace Sys2Proof.Machine.Proofs

theorem atPins_of_deaf {s : State} (r : State → Out) (h : s.dev.host.deaf = true) : atPins r s = .next s := if_pos h

theorem atPins_of_heard {s : State} (r : State → Out) (h : s.dev.host.deaf = false) : atPins r s = r s := by
  simp [atPins, h]

/-- STATUS_MODE_READ at a port that hears it ends the HALT cause (R452). -/
theorem statusModeRead_heard {s t : State} {i : QId} (h : s.dev.host.deaf = false) (e : exec (.statusModeRead i) s = .next t) :
    (t.quad i).hp.irqSt = (s.quad i).hp.irqSt &&& ~~~irqHalt := by
  have e' : onQ i (fun q => q.statusModeRead) s = .next t := (atPins_of_heard _ h).symm.trans e
  rw [(Laws.onQ_next e').1]
  rfl

/-- At a deaf port it does nothing. -/
theorem statusModeRead_deaf {s t : State} {i : QId} (h : s.dev.host.deaf = true) (e : exec (.statusModeRead i) s = .next t) : t = s := by
  have e' : Host.Outcome.next s = .next t := (atPins_of_deaf _ h).symm.trans e
  injection e' with e'
  exact e'.symm

/-- A quadrant in HALT, of which its cause in HST_IRQST tells the host (R452). -/
def halted : Quad := { Quad.reset with mode := .halt, rst := .past, hp := { irqSt := irqHalt } }

/-- The device with quadrant 0 in HALT, at a VDD_HP below 1.5 V or not. -/
def haltedAt (hpLow : Bool) : State := { dev := { State.reset.dev with q0 := halted, host := { hpLow := hpLow } }, pending := [] }

/-- Refutes O57: STATUS_MODE_READ is a command of one quadrant alone, but what it makes of that quadrant depends on the host domain: with
VDD_HP below 1.5 V the port sees every edge as idle (R496) and the HALT cause stands, above it the cause ends. -/
theorem not_quadrantsAreApart : ¬ Obligations.QuadrantsAreApart := by
  intro h
  obtain ⟨t, t2, ht, ht2, -, home⟩ := h (haltedAt false) (haltedAt true) (.statusModeRead .q0)
  obtain ⟨-, -, fromQuad⟩ := home .q0 false rfl
  have same : t.quad .q0 = t2.quad .q0 := fromQuad rfl (fun both => absurd both (by decide))
  have ended : (t.quad .q0).hp.irqSt = 0 := statusModeRead_heard rfl ht
  have stands : (t2.quad .q0).hp.irqSt = irqHalt := by rw [statusModeRead_deaf rfl ht2]; rfl
  rw [same, stands] at ended
  exact absurd ended (by decide)

end Sys2Proof.Machine.Proofs

/-! A lockstep mismatch takes a quadrant to HALT within a boundary, and the records of the DMA items that HALT ends are written before its
mode changes (R427, R428): where their ring lies on QCTL_RATE, they are taken as a write of Fi, which stops the grid. -/

namespace Sys2Proof.Machine.Proofs

/-- A quadrant in STANDBY on a running grid, its lockstep pair bound and after two mismatches, with a DMA item waiting whose completion ring
(R427) begins at QCTL_RATE: DMA_CR_BASE takes any base in STANDBY while the engine is idle. -/
def ringOnRate : Quad :=
  { Quad.reset with
    regs := [(Reg.QCTL_RST_CAUSE, 1), (Reg.DMA_CR_BASE, 0xF000010)]
    mode := .standby, rst := .past, running := true, tick := 1000
    hpn := { state := .live, run := 2 }
    dma := { items := [⟨Writer.host, [], 0, false, none, none⟩], order := 1 } }

/-- A boundary at which the comparison of the pair found a difference (R267). -/
def thirdMismatch : BoundaryEnv := { emg := 0, bits := [], mism := true }

/-- The state whose quadrant 0 is `ringOnRate`. -/
def rateAtRisk : State := { State.reset with dev := { State.reset.dev with q0 := ringOnRate } }

/-- The record of the waiting item, whose status is ABORTED_FAULT, 0x21, is written to QCTL_RATE while the mode is still STANDBY with no task
bound: it gives Fi 1, the grid stops (R26), and nothing that follows in the boundary starts it again. -/
theorem tickBoundary_stops_grid : (ringOnRate.tickBoundary thirdMismatch).running = false := by decide +kernel

theorem running_commit (q : Quad) : q.commit.running = q.running := rfl

/-- Refutes O27: a boundary of a running grid does not always leave the grid running. -/
theorem not_boundaries : ¬ Obligations.Boundaries := by
  intro h
  obtain ⟨numbers, -⟩ := h rateAtRisk .q0 thirdMismatch 0
  obtain ⟨t, ht, -, -, running, -⟩ := numbers rfl
  have stopped : (t.quad .q0).running = false := by
    have e : onQ .q0 (fun q => q.tickBoundary thirdMismatch) rateAtRisk = .next t := ht
    rw [(Laws.onQ_next e).1, running_commit]
    exact tickBoundary_stops_grid
  rw [stopped] at running
  exact absurd running (by decide)

end Sys2Proof.Machine.Proofs

/-! HALT writes the records of the DMA items that it ends before the MODE command that asked for it completes (R427, R428): where their
ring lies on TIM_ADJ, a record is taken as a step of the quadrant's time (R307), and the completion of the command bears the stepped
time. -/

namespace Sys2Proof.Machine.Proofs

/-- A DMA item with its bit for a task set, for task 5, held with its status and one byte written while its task is made ready (R187):
its record ends in the words 1, 0, 0 or the time, and 0x1005, whose two low bits ask TIM_ADJ_CTL for a step by the value of TIM_ADJ_LO and
TIM_ADJ_HI (R307) and whose bit 2 permits it. -/
def heldItem : DmaItem := ⟨Writer.host, [0, 8192, 0, 0, 5 * 65536, 0, 0, 0], 0, false, some (0, 1), none⟩

/-- A quadrant in STANDBY at the boundary of its MODE command to HALT, whose DMA ring (R427) begins 4 bytes below TIM_ADJ_LO. -/
def ringOnTime : Quad :=
  { Quad.reset with
    regs := [(Reg.QCTL_RST_CAUSE, 1), (Reg.DMA_CR_BASE, 0xF000602)]
    mode := .standby, rst := .past
    change := some ⟨.halt, 0, .command 5 0⟩
    dma := { items := [heldItem], order := 1 } }

/-- The state whose quadrant 0 is `ringOnTime`. -/
def timeAtRisk : State := { State.reset with dev := { State.reset.dev with q0 := ringOnTime } }

/-- The only completion record kept bears the time after the step, 1 ns, not that of the boundary. -/
theorem modeChangeEffect_stepped : (ringOnTime.modeChangeEffect 0).hp.kept = [⟨0, 4, false, 0, 5, 0, 1⟩] := by decide +kernel

theorem kept_commit (q : Quad) : q.commit.hp.kept = q.hp.kept := rfl

/-- Refutes O28: a MODE command to HALT does not always complete with the time of its boundary. -/
theorem not_modeCommands : ¬ Obligations.ModeCommands := by
  intro h
  obtain ⟨-, -, atBoundary, -⟩ := h timeAtRisk .q0 5
  obtain ⟨t, ht, -, -, completed, -⟩ :=
    atBoundary .halt 0 rfl ⟨by decide, by decide⟩ (by decide) rfl (by decide)
  have kept : (t.quad .q0).hp.kept = [⟨0, 4, false, 0, 5, 0, 1⟩] := by
    have e : onQ .q0 (fun q => q.modeChangeEffect 0) timeAtRisk = .next t := ht
    have at0 : timeAtRisk.quad .q0 = ringOnTime := rfl
    rw [(Laws.onQ_next e).1, kept_commit, at0]
    exact modeChangeEffect_stepped
  rw [kept] at completed
  exact absurd completed (by decide)

end Sys2Proof.Machine.Proofs

/-! A core that issues nothing (R40, R61, R62, R80, R89, R157): the instruction put to it lets one cycle of its issue pass. -/

namespace Sys2Proof.Machine.Proofs
open Laws

/-- Every command that is an instruction is one issue of its plan. -/
theorem exec_issue {c : Instr} {i : Issue} (h : issueOf c = some i) :
    ∃ plan : Quad → Core → Plan, ∀ s, exec c s = onQ i.q (Quad.issue i plan) s := by
  cases c <;> cases h <;> exact ⟨_, fun _ => rfl⟩

/-- A command that leaves its quadrant as it is leaves the state, whose memory is in its normal form. -/
theorem onQ_unchanged {i : QId} {f : Quad → Quad} {s : State} (hw : s.memWf) (h : f (s.quad i) = s.quad i) : onQ i f s = .next s := by
  have hq : (s.quad i).commit = s.quad i := by simp only [Quad.commit, normal_of_wf _ (hw.1 i)]
  unfold onQ
  rw [h, hq]
  cases i <;> rfl

/-- A command that puts one core into a state. -/
theorem onQ_setCore {i : QId} {c : Fin 17} {k : Core} {f : Quad → Quad} {s : State} (h : f (s.quad i) = (s.quad i).setCore c k) :
    onQ i f s = .next (s.withCore i c k) := by
  unfold onQ State.withCore
  rw [h]

/-- A core of position 2 or more does not follow position 0. -/
theorem follows_eq_false {q : Quad} {c : Fin 17} (h : q.locked = true → 2 ≤ (q.core c).pos.val) : q.follows c = false := by
  unfold Quad.follows
  rw [Bool.and_eq_false_iff, or_iff_not_imp_left]
  intro locked
  have two := h (by simpa using locked)
  exact beq_false_of_ne fun one => by rw [one] at two; exact absurd two (by decide)

/-- Nor does the core of position 1 follow it. -/
theorem pairStore_eq_false {q : Quad} {c : Fin 17} (h : q.locked = true → 2 ≤ (q.core c).pos.val) : q.pairStore c = false := by
  unfold Quad.pairStore
  rw [Bool.and_eq_false_iff, or_iff_not_imp_left]
  intro locked
  have two := h (by simpa using locked)
  exact beq_false_of_ne fun zero => by rw [zero] at two; exact absurd two (by decide)

/-- Who follows whom does not turn on what a core computes. -/
theorem pairStore_setCore {q : Quad} {c : Fin 17} {k : Core} (hk : k.pos = (q.core c).pos) : (q.setCore c k).pairStore c = q.pairStore c := by
  simp [Quad.pairStore, Quad.locked, hk]

/-- A cycle of the issue opens no core and closes none. -/
theorem closed_cycle (q : Quad) (c : Fin 17) (per : Nat) : (q.setCore c ((q.core c).cycle per)).closed c = q.closed c := by
  obtain ⟨⟩ := kept_cycle per (q.core c)
  simp_all [Quad.closed]

/-- The cycle of an issue by a core outside the bound pair. -/
theorem pairMap_cycle {q : Quad} {c : Fin 17} (h : q.locked = true → 2 ≤ (q.core c).pos.val) (per : Nat) :
    (q.setCore c ((q.core c).cycle per)).pairMap c (fun k => k.cycle per) = q.setCore c ((q.core c).cycle per) := by
  refine pairMap_alone _ _ _ ?_
  rw [pairStore_setCore (kept_cycle per (q.core c)).pos, pairStore_eq_false h]

/-- An instruction put to a closed core outside the bound pair. -/
theorem issue_closed_alone {q : Quad} {i : Issue} (plan : Quad → Core → Plan) (hu : i.upset = none) (hm : i.mism = false)
    (h2 : q.locked = true → 2 ≤ (q.core i.c).pos.val) (hc : q.closed i.c = true) :
    q.issue i plan = q.setCore i.c ((q.core i.c).cycle (cclkPerTick q.fi)) := by
  have cycled := pairMap_cycle h2 (cclkPerTick q.fi)
  rw [issue_closed i plan q hu hm (follows_eq_false h2) (by rw [cycled, closed_cycle, hc]), cycled]

/-- What lets an instruction wait at an open core: it runs alone, and its fetch brings no error. -/
structure Waits (s : State) (i : Issue) : Prop where
  upset : i.upset = none
  mism : i.mism = false
  alone : (s.quad i.q).locked = true → 2 ≤ ((s.quad i.q).core i.c).pos.val
  isOpen : (s.quad i.q).closed i.c = false
  fetch : ((s.quad i.q).core i.c).rep = 0 → ((s.quad i.q).core i.c).bootFetch = false ∧
    (s.quad i.q).eccAt (pmAddr i.c ((s.quad i.q).core i.c).pc.toNat) = .clean

/-- The fetch of an instruction at an address without an ECC error. -/
theorem fetch_clean {q : Quad} {c : Fin 17} {a : PAddr} (hb : (q.core c).bootFetch = false) (he : q.eccAt (pmAddr c a.toNat) = .clean) :
    (q.fetch c a).1 = .clean := by
  simp [Quad.fetch, hb, he]

/-- An instruction that waits: the cycle of its issue passes. -/
theorem issue_waits {s : State} {i : Issue} (h : Waits s i) {plan : Quad → Core → Plan} {m : PMove}
    (hm : (plan ((s.quad i.q).setCore i.c (s.issuer i)) (s.issuer i)).moves = some m)
    (hs : (s.issuer i).stalls (plan ((s.quad i.q).setCore i.c (s.issuer i)) (s.issuer i)) m = true) :
    onQ i.q (Quad.issue i plan) s = .next (s.withCore i.q i.c (s.issuer i)) := by
  obtain ⟨hu, hmis, h2, hc, hf⟩ := h
  refine onQ_setCore ?_
  have hcycle := pairMap_cycle h2 (cclkPerTick (s.quad i.q).fi)
  have hpair : ((s.quad i.q).setCore i.c (s.issuer i)).pairStore i.c = false := by
    rw [pairStore_setCore (issuer_pos s i), pairStore_eq_false h2]
  have hstrike : (s.quad i.q).strike i.upset = s.quad i.q := by rw [hu]; rfl
  have hissuer : { ((s.quad i.q).core i.c).cycle (cclkPerTick (s.quad i.q).fi) with parked := false } = s.issuer i := rfl
  have hattempt := attempt_stalls ((s.quad i.q).setCore i.c (s.issuer i)) i _ m hm hpair
    (fun hr => by
      rw [core_setCore, issuer_rep] at hr
      obtain ⟨hb, he⟩ := hf hr
      have clean := fetch_clean (q := (s.quad i.q).setCore i.c (s.issuer i)) (by rw [core_setCore, issuer_bootFetch, hb]) he
      rw [core_setCore, issuer_pc, clean]
      decide)
    (by rw [core_setCore]; exact hs)
  simp only [Quad.issue, hstrike, follows_eq_false h2, hcycle, closed_cycle, hc, core_setCore, setCore_setCore, hissuer, hattempt, hpair, hmis,
    Bool.false_and, Bool.false_eq_true, if_false]

/-- An instruction that reads a register which an outstanding bus load owes (R82). -/
theorem stalls_of_owed {k : Core} {p : Plan} {m : PMove} {r : Rg} (hr : r ∈ p.reads)
    (ho : k.reqs.any (fun x => !x.store && x.set == k.act && x.dst == some r) = true) : k.stalls p m = true := by
  have awaited : k.awaited k.act r = true := by rw [Core.awaited, ho, Bool.true_or]
  have reads : (p.reads ++ m.reads).any (fun r => k.awaited k.act r) = true := List.any_eq_true.mpr ⟨r, List.mem_append_left _ hr, awaited⟩
  rw [Core.stalls, reads, Bool.true_or, Bool.true_or]

/-- A bus access while eight requests are outstanding (R108). -/
theorem stalls_of_full {k : Core} {p : Plan} {m : PMove} (hb : m.bus.isSome = true) (hr : 8 ≤ k.reqs.length) : k.stalls p m = true := by
  rw [Core.stalls, hb, decide_eq_true hr, Bool.true_and, Bool.or_true, Bool.true_or]

theorem pmOf_zero : pmOf 0 = some {} := by decide

/-- The plan of a plain bus access without moves beside it. -/
theorem busPlan_moves {i : Issue} {store : Bool} {code : BitVec 6} {p : Fin 8} {w : BitVec 2} {r : Rg} (hpm : i.pm = 0)
    (hr : gprOf code = some r) : (busPlan i store code p w 0 0).moves = some { bus := some ⟨store, r, p, w, .plain⟩ } := by
  have ha : amodeOf 0 0 = some .plain := by decide
  have hx : xyMoves i = some {} := by rw [xyMoves, hpm]; decide
  simp only [busPlan, hr, ha, hx]

/-- Settles O22, by the branches of an issue: a closed core, the core that follows, and an instruction that waits. -/
theorem coresThatDoNotIssue : Obligations.CoresThatDoNotIssue := by
  refine ⟨?closed, ?follows, ?waits⟩
  case closed =>
    intro s c i hi hu hm h2 hc
    obtain ⟨plan, hplan⟩ := exec_issue hi
    rw [hplan]
    exact onQ_setCore (issue_closed_alone plan hu hm h2 hc)
  case follows =>
    intro s c i hi hu hw locked one
    obtain ⟨plan, hplan⟩ := exec_issue hi
    rw [hplan]
    exact onQ_unchanged hw (issue_follows i plan _ hu (by simp [Quad.follows, locked, one]))
  case waits =>
    intro s i dd dx dy code store p w hu hm hpm h2 hc hf
    have hw : Waits s i := ⟨hu, hm, h2, hc, hf⟩
    have hno : noMoves i = some {} := if_pos hpm
    have hmoves : pmOf i.pm = some {} := by rw [hpm, pmOf_zero]
    refine ⟨fun owed => ⟨?_, ?_, ?_, ?_⟩, fun full hg => ?_⟩
    · exact issue_waits hw hmoves (stalls_of_owed (List.mem_cons_self ..) owed)
    · exact issue_waits hw hmoves (stalls_of_owed (List.mem_cons_of_mem _ (List.mem_cons_self ..)) owed)
    · exact issue_waits hw hno (stalls_of_owed (List.mem_cons_self ..) owed)
    · exact issue_waits hw hno (stalls_of_owed (List.mem_cons_self ..) owed)
    · obtain ⟨r, hr⟩ := Option.isSome_iff_exists.mp hg
      exact issue_waits hw (busPlan_moves hpm hr) (stalls_of_full rfl full)

end Sys2Proof.Machine.Proofs

/-! The resets of a quadrant and of the device, and their ends (R49, R50, R453, R494, R495). -/

namespace Sys2Proof.Machine.Proofs
open Laws

/-! ### Operations on the host window of a quadrant -/

/-- Nothing but the host window of a quadrant changes. -/
def WindowOnly (q r : Quad) : Prop := r = { q with hp := r.hp }

theorem WindowOnly.refl (q : Quad) : WindowOnly q q := rfl

theorem WindowOnly.trans {p q r : Quad} (h : WindowOnly p q) (h' : WindowOnly q r) : WindowOnly p r := by
  unfold WindowOnly at *
  rw [h', h]

theorem WindowOnly.foldl {α : Type} {f : Quad → α → Quad} (h : ∀ q a, WindowOnly q (f q a)) (l : List α) (q : Quad) :
    WindowOnly q (l.foldl f q) := by
  induction l generalizing q with
  | nil => exact .refl q
  | cons a l ih => exact (h q a).trans (ih (f q a))

theorem windowOnly_log (q : Quad) (code : BitVec 16) (sev : BitVec 8) (a0 : W32) (a1 : BitVec 16) : WindowOnly q (q.log code sev a0 a1) :=
  (log_frame q code sev a0 a1).1

theorem windowOnly_complete (q : Quad) (seq : W32) (op status aux : Nat) (resA : W32) : WindowOnly q (q.complete seq op status aux resA) :=
  (complete_told q seq op status aux resA).2

theorem windowOnly_hp (q : Quad) (hp : HostPort) : WindowOnly q { q with hp := hp } := rfl

theorem windowOnly_abortCommands (q : Quad) : WindowOnly q q.abortCommands := by
  unfold Quad.abortCommands
  refine .trans (.trans (.trans (windowOnly_hp q _) (.foldl ?_ _ _)) (.foldl ?_ _ _)) (windowOnly_hp _ _)
  · exact fun p o => windowOnly_complete p _ _ _ _ _
  · exact fun p i => windowOnly_complete p _ _ _ _ _

theorem windowOnly_rewritePages (q : Quad) : WindowOnly q q.rewritePages := by
  unfold Quad.rewritePages
  refine .trans (windowOnly_hp q _) (.foldl ?_ _ _)
  exact fun p seq => windowOnly_complete p _ _ _ _ _

/-! ### The reset of a quadrant -/

/-- The registers and parts of a quadrant in reset, with what a reset keeps (R49, R50): the memory, the pin, the choices still to be made,
and the window. -/
def resetWith (q : Quad) (cause : Nat) (ph : RstPhase) : Quad :=
  { Quad.reset with
    regs := [(Reg.QCTL_RST_CAUSE, w32 cause)], mem := q.mem, ecc := q.ecc, hp := q.hp, freeCtr := q.freeCtr, pinLow := q.pinLow, rst := ph }

/-- A reset tells its cause and ends the commands in the window, and shows the pages anew. -/
theorem doReset_rewrites (q : Quad) (cause : Nat) (held : Bool) :
    ∃ p, WindowOnly q p ∧ q.doReset cause held = (resetWith p cause (if held then .held else .released)).rewritePages :=
  ⟨_, ((windowOnly_log q _ _ _ _).trans (windowOnly_abortCommands _)).trans (windowOnly_hp _ _), rfl⟩

/-- What a reset is, by its cause, its phase and the level of its pin (the statement's `resetTo`). -/
def ResetTo (low : Bool) (p r : Quad) (cause : Nat) (ph : RstPhase) : Prop :=
  SameBytes p r ∧ r = { Quad.reset with
    regs := [(Reg.QCTL_RST_CAUSE, w32 cause)], mem := r.mem, ecc := p.ecc, hp := r.hp, freeCtr := p.freeCtr, rst := ph, pinLow := low }

theorem resetTo_doReset (q : Quad) (cause : Nat) (held : Bool) :
    ResetTo q.pinLow q (q.doReset cause held) cause (if held then .held else .released) := by
  obtain ⟨p, ended, reset⟩ := doReset_rewrites q cause held
  have shown : WindowOnly (resetWith p cause (if held then .held else .released)) (q.doReset cause held) :=
    reset ▸ windowOnly_rewritePages _
  rw [shown, ended]
  exact ⟨fun _ => rfl, rfl⟩

theorem resetTo_porReset (q : Quad) : ResetTo q.pinLow q q.porReset 1 .held := ⟨fun _ => rfl, rfl⟩

theorem ResetTo.commit {low : Bool} {p r : Quad} {cause : Nat} {ph : RstPhase} (h : ResetTo low p r cause ph) :
    ResetTo low p r.commit cause ph := by
  obtain ⟨bytes, eq⟩ := h
  refine ⟨fun a => (commit_read r a).trans (bytes a), ?_⟩
  conv_lhs => rw [eq]
  rfl

theorem ResetTo.pin {low : Bool} {p r : Quad} {cause : Nat} {ph : RstPhase} (b : Bool) (h : ResetTo low p r cause ph) :
    ResetTo b p { r with pinLow := b } cause ph := by
  obtain ⟨bytes, eq⟩ := h
  refine ⟨bytes, ?_⟩
  conv_lhs => rw [eq]

/-- The flags of the host domain that a quadrant's window takes. -/
def flagged (q : Quad) (f : List W32) : Quad := q.mapHp fun h => { h with hostFlags := f }

theorem ResetTo.flagged {low : Bool} {p r : Quad} {cause : Nat} {ph : RstPhase} (f : List W32) (h : ResetTo low p r cause ph) :
    ResetTo low p (flagged r f) cause ph := by
  obtain ⟨bytes, eq⟩ := h
  refine ⟨bytes, ?_⟩
  conv_lhs => rw [eq]
  rfl

/-- A reset released where its pin is not low (the statement's `freed`). -/
def Freed (p r : Quad) : Prop :=
  r.rst = (if p.rst = .held ∧ p.pinLow = false then .released else p.rst) ∧ r.mode = p.mode ∧ SameBytes p r

theorem freed_release (q : Quad) : Freed q q.release := by
  unfold Quad.release Freed
  by_cases h : q.rst = .held ∧ q.pinLow = false <;> simp [h, SameBytes]

theorem Freed.commit {p r : Quad} (h : Freed p r) : Freed p r.commit := by
  obtain ⟨rst, mode, bytes⟩ := h
  exact ⟨rst, mode, fun a => (commit_read r a).trans (bytes a)⟩

theorem Freed.flagged {p r : Quad} (f : List W32) (h : Freed p r) : Freed p (flagged r f) := h

/-! ### The parts of the device -/

@[simp] theorem quad_mapQuad (d : Device) (i : QId) (f : Quad → Quad) : (d.mapQuad i f).quad i = f (d.quad i) := quad_setQuad ..

theorem quad_mapQuad_ne (d : Device) {i j : QId} (f : Quad → Quad) (h : j ≠ i) : (d.mapQuad i f).quad j = d.quad j := quad_setQuad_ne _ _ h

@[simp] theorem host_mapQuad (d : Device) (i : QId) (f : Quad → Quad) : (d.mapQuad i f).host = d.host := host_setQuad ..

@[simp] theorem quad_mapQuads (d : Device) (f : Quad → Quad) (j : QId) : (d.mapQuads f).quad j = f (d.quad j) := by cases j <;> rfl

@[simp] theorem host_mapQuads (d : Device) (f : Quad → Quad) : (d.mapQuads f).host = d.host := rfl

@[simp] theorem quad_mapHost (d : Device) (f : HostDom → HostDom) (j : QId) : (d.mapHost f).quad j = d.quad j := by cases j <;> rfl

@[simp] theorem host_mapHost (d : Device) (f : HostDom → HostDom) : (d.mapHost f).host = f d.host := rfl

@[simp] theorem quad_share (d : Device) (j : QId) : d.share.quad j = flagged (d.quad j) d.host.flags := quad_mapQuads ..

@[simp] theorem host_share (d : Device) : d.share.host = d.host := rfl

@[simp] theorem quad_clockAlarm (d : Device) (c : Nat) (j : QId) : (d.clockAlarm c).quad j = d.quad j := by
  simp [Device.clockAlarm, Device.note]

/-- A quadrant that only takes the flags of the host domain. -/
theorem sharedOnly_flagged (q : Quad) (f : List W32) : SharedOnly q (flagged q f).commit := ⟨rfl, commit_read q⟩

/-- What a command on one quadrant answers. -/
theorem answers_onQ {c : Instr} {s : State} {i : QId} {f : Quad → Quad} {P : Quad → Prop} (hc : exec c s = onQ i f s)
    (h : P (f (s.quad i)).commit) : Answers c s i P := by
  obtain ⟨t, ht, quad, others, host, pending⟩ := onQ_completes i f s
  exact ⟨t, hc.trans ht, ⟨pending, host, others⟩, quad ▸ h⟩

/-- What a command on the device answers, from what it makes of each quadrant and of the host domain. -/
theorem answersAll_onAll {c : Instr} {s : State} {f : Device → Device} {P : State → Prop} (hc : exec c s = onAll f s)
    (h : ∀ t : State, (∀ j, t.quad j = ((f s.dev).quad j).commit) →
      t.dev.host = { (f s.dev).host with staging := (f s.dev).host.staging.normal } → P t) : AnswersAll c s P := by
  obtain ⟨t, ht, quads, host, pending⟩ := onAll_completes f s
  exact ⟨t, hc.trans ht, pending, h t quads host⟩

/-! ### The host domain in a reset of the device -/

/-- What a reset of the host domain cuts short leaves the log and the record that sizes it, the levels and the state of life. -/
theorem cutFuses_cutActivate_kept (h : HostDom) :
    h.cutActivate.cutFuses.log = h.log ∧ h.cutActivate.cutFuses.pers = h.pers ∧ h.cutActivate.cutFuses.porLow = h.porLow ∧
      h.cutActivate.cutFuses.held = h.held := by
  have activate : h.cutActivate.log = h.log ∧ h.cutActivate.pers = h.pers ∧ h.cutActivate.porLow = h.porLow ∧ h.cutActivate.held = h.held := by
    unfold HostDom.cutActivate
    split
    · split <;> exact ⟨rfl, rfl, rfl, rfl⟩
    · exact ⟨rfl, rfl, rfl, rfl⟩
  unfold HostDom.cutFuses
  split
  · split <;> exact activate
  · exact activate

/-- A place of the log abandoned, or the log as it was. -/
theorem tearLog_kept (h : HostDom) :
    (h.tearLog.log = h.log ∨ h.tearLog.log = (h.place none).log) ∧ h.tearLog.porLow = h.porLow ∧ h.tearLog.held = h.held := by
  have drawn (h h' : HostDom) (n : Nat) (log : h'.log = h.log ∨ h'.log = (h.place none).log) (porLow : h'.porLow = h.porLow)
      (held : h'.held = h.held) : ({ h' with freeCtr := n }.log = h.log ∨ { h' with freeCtr := n }.log = (h.place none).log) ∧
      { h' with freeCtr := n }.porLow = h.porLow ∧ { h' with freeCtr := n }.held = h.held := ⟨log, porLow, held⟩
  unfold HostDom.tearLog
  split
  · exact ⟨.inl rfl, rfl, rfl⟩
  · refine drawn h _ _ ?_ ?_ ?_ <;> split <;> simp [HostDom.place]

/-- The log's next place depends on the log and on the record that sizes it. -/
theorem place_log_congr {h h' : HostDom} (log : h'.log = h.log) (pers : h'.pers = h.pers) (x : Option LogRec) :
    (h'.place x).log = (h.place x).log := by
  have cap : h'.logCap = h.logCap := by unfold HostDom.logCap HostDom.persRec; rw [pers]
  simp only [HostDom.place, log, cap]

/-- What is left of the host domain after a reset of the device. -/
theorem restart_kept (h : HostDom) (cause : Nat) :
    ((h.restart cause).log = h.log ∨ (h.restart cause).log = (h.place none).log) ∧ (h.restart cause).porLow = h.porLow ∧
      (h.restart cause).held = h.held ∧ (h.restart cause).mladcel = false := by
  obtain ⟨log, pers, porLow, held⟩ := cutFuses_cutActivate_kept h
  obtain ⟨torn, porLow', held'⟩ := tearLog_kept h.cutActivate.cutFuses
  rw [place_log_congr log pers, log] at torn
  exact ⟨torn, porLow'.trans porLow, held'.trans held, rfl⟩

/-- A start after a reset of the device releases every quadrant where nothing holds them. -/
theorem releaseAll_quad {d : Device} (porLow : d.host.porLow = false) (held : d.host.held = false) (life : d.host.life ≠ .void_)
    (burn : d.host.burn = none) (j : QId) : d.releaseAll.quad j = (d.quad j).release := by
  have compared : d.host.bootCompare.holds = false := by
    unfold HostDom.bootCompare HostDom.holds
    rw [burn]
    dsimp only
    split <;> simp [porLow, held, life]
  simp [Device.releaseAll, porLow, held, compared]

/-- It leaves the levels as they are. -/
theorem releaseAll_levels (d : Device) : d.releaseAll.host.porLow = d.host.porLow ∧ d.releaseAll.host.held = d.host.held ∧
    d.releaseAll.host.port33 = d.host.port33 := by
  have compared : d.host.bootCompare.porLow = d.host.porLow ∧ d.host.bootCompare.held = d.host.held ∧
      d.host.bootCompare.port33 = d.host.port33 := by
    unfold HostDom.bootCompare
    cases d.host.burn <;> dsimp only <;> split <;> exact ⟨rfl, rfl, rfl⟩
  unfold Device.releaseAll
  split
  · exact ⟨rfl, rfl, rfl⟩
  · dsimp only
    split <;> exact compared

/-! ### The resets as commands -/

section
variable (s : State) (iq : QId)

theorem resetPin_resets {ns : Nat} (long : 100 ≤ ns) (free : (s.quad iq).rst ≠ .held) :
    Answers (.quadrantResetPin iq ns) s iq fun r => ResetTo true (s.quad iq) r 2 .held := by
  refine answers_onQ (f := fun q => q.resetPin ns) rfl ?_
  have pin : (s.quad iq).resetPin ns = { (s.quad iq).doReset 2 true with pinLow := true } := by
    simp [Quad.resetPin, Nat.not_lt.mpr long, free]
  rw [pin]
  exact ((resetTo_doReset (s.quad iq) 2 true).pin true).commit

theorem resetPin_held {ns : Nat} (long : 100 ≤ ns) (held : (s.quad iq).rst = .held) :
    Answers (.quadrantResetPin iq ns) s iq fun r => r = { s.quad iq with pinLow := true, mem := r.mem } ∧ SameBytes (s.quad iq) r := by
  refine answers_onQ (f := fun q => q.resetPin ns) rfl ?_
  have pin : (s.quad iq).resetPin ns = { s.quad iq with pinLow := true } := by
    simp [Quad.resetPin, Nat.not_lt.mpr long, held]
  rw [pin]
  exact ⟨rfl, commit_read (s.quad iq)⟩

theorem softReset_resets (mode : (s.quad iq).mode ≠ .scour) :
    Answers (.softReset iq) s iq fun r => ResetTo (s.quad iq).pinLow (s.quad iq) r 4 .released := by
  refine answers_onQ (f := fun q => q.softReset) rfl ?_
  have soft : (s.quad iq).softReset = (s.quad iq).doReset 4 false := by simp [Quad.softReset, mode]
  rw [soft]
  exact (resetTo_doReset (s.quad iq) 4 false).commit

theorem clockLoss_resets {ns : Nat} {time : Bool} (long : 10000 < ns) (free : (s.quad iq).rst ≠ .held) :
    AnswersAll (.clockLossReset iq ⟨ns, time⟩) s fun t =>
      ResetTo (s.quad iq).pinLow (s.quad iq) (t.quad iq) 8 .released ∧ ∀ j, j ≠ iq → SharedOnly (s.quad j) (t.quad j) := by
  refine answersAll_onAll (f := fun d => (d.clockLoss iq ns time).share) rfl fun t quads _ => ?_
  have loss (j : QId) : (s.dev.clockLoss iq ns time).quad j =
      (s.dev.mapQuad iq fun q => if q.rst = .held then q else q.doReset 8 false).quad j := by
    rw [Device.clockLoss, if_neg (Nat.not_le.mpr long)]
    dsimp only
    split
    · exact quad_clockAlarm ..
    · rfl
  simp only [quad_share, loss] at quads
  have free' : (s.dev.quad iq).rst ≠ .held := free
  refine ⟨?_, fun j hj => ?_⟩
  · rw [quads iq, quad_mapQuad, if_neg free']
    exact ((resetTo_doReset (s.quad iq) 8 false).flagged _).commit
  · rw [quads j, quad_mapQuad_ne _ _ hj]
    exact sharedOnly_flagged ..

theorem resetRelease_frees (free : s.dev.host.holds = false) (hw : s.memWf) :
    Answers (.resetRelease iq) s iq fun r => r.pinLow = false ∧ Freed { s.quad iq with pinLow := false } r := by
  obtain ⟨t, ht, quad, others, host, pending⟩ := onQH_completes iq (fun q h => releaseQuad q h) s
  have released : (releaseQuad (s.quad iq) s.dev.host).1 = { s.quad iq with pinLow := false }.release := by simp [releaseQuad, free]
  rw [released] at quad
  have kept : t.dev.host = s.dev.host := by
    rw [host]
    simp only [releaseQuad, normal_of_wf _ hw.2]
  refine ⟨t, ht, ⟨pending, kept, others⟩, ?_, ?_⟩
  · rw [quad]
    unfold Quad.release
    split <;> rfl
  · rw [quad]
    exact (freed_release _).commit

/-- POR_N low, from the pin or from inside: every quadrant is reset. -/
theorem powerReset_quad (d : Device) (j : QId) : d.powerReset.share.quad j = flagged (d.quad j).porReset d.powerReset.host.flags := by
  simp [Device.powerReset]

theorem porAssert_resets : AnswersAll .porAssert s fun t => t.dev.host.porLow = true ∧ t.dev.host.mladcel = false ∧
    (t.dev.host.log = s.dev.host.log ∨ t.dev.host.log = (s.dev.host.place none).log) ∧
    ∀ j, ResetTo (s.quad j).pinLow (s.quad j) (t.quad j) 1 .held := by
  refine answersAll_onAll (f := fun d => d.porAssert.share) rfl fun t quads host => ?_
  obtain ⟨log, porLow, -, mladcel⟩ := restart_kept { s.dev.host with porLow := true } 0
  rw [place_log_congr (h := s.dev.host) (h' := { s.dev.host with porLow := true }) rfl rfl] at log
  rw [host]
  refine ⟨porLow, mladcel, log, fun j => ?_⟩
  rw [quads j, Device.porAssert, powerReset_quad, quad_mapHost]
  exact ((resetTo_porReset (s.quad j)).flagged _).commit

theorem porRelease_frees {mv : Nat} (low : s.dev.host.porLow = true) :
    AnswersAll (.porRelease mv) s fun t => t.dev.host.porLow = false ∧ t.dev.host.port33 = decide (2500 < mv) ∧
      (s.dev.host.held = false → s.dev.host.life ≠ .void_ → s.dev.host.burn = none → ∀ j, Freed (s.quad j) (t.quad j)) := by
  refine answersAll_onAll (f := fun d => (d.porRelease mv).share) rfl fun t quads host => ?_
  simp only [Device.porRelease, low, Bool.not_true, Bool.false_eq_true, if_false, quad_share, host_share] at quads host
  obtain ⟨porLow, -, port33⟩ := releaseAll_levels
    (s.dev.mapHost fun h => { h.railLevel 7 mv with porLow := false, port33 := decide (mv > 2500) })
  rw [host]
  refine ⟨porLow, port33, fun held life burn j => ?_⟩
  have released := releaseAll_quad (d := s.dev.mapHost fun h => { h.railLevel 7 mv with porLow := false, port33 := decide (mv > 2500) })
    rfl held life burn j
  rw [quads j, released, quad_mapHost]
  exact ((freed_release (s.quad j)).flagged _).commit

theorem supplyHold_resets {core mgt : Nat} (low : core < 620 ∨ mgt < 2800) :
    AnswersAll (.supplyPorHold core mgt) s fun t => t.dev.host.held = true ∧
      ∀ j, ResetTo (s.quad j).pinLow (s.quad j) (t.quad j) 1 .held := by
  refine answersAll_onAll (f := fun d => (d.supplyHold core mgt).share) rfl fun t quads host => ?_
  obtain ⟨-, -, held, -⟩ := restart_kept { (s.dev.host.railLevel 0 core).railLevel 8 mgt with held := true } 0
  simp only [Device.supplyHold, low, if_true] at quads host
  rw [host]
  refine ⟨held, fun j => ?_⟩
  rw [quads j, powerReset_quad, quad_mapHost, quad_mapHost]
  exact ((resetTo_porReset (s.quad j)).flagged _).commit

theorem supplyRelease_frees {core mgt : Nat} (was : s.dev.host.held = true) (hc : 620 < core) (hm : 2800 < mgt) :
    AnswersAll (.supplyHoldRelease core mgt) s fun t => t.dev.host.held = false ∧
      (s.dev.host.porLow = false → s.dev.host.life ≠ .void_ → s.dev.host.burn = none → ∀ j, Freed (s.quad j) (t.quad j)) := by
  refine answersAll_onAll (f := fun d => (d.supplyRelease core mgt).share) rfl fun t quads host => ?_
  have up : s.dev.supplyRelease core mgt = ((s.dev.mapHost fun h => (h.railLevel 0 core).railLevel 8 mgt).mapHost
      fun h => { h with held := false }).releaseAll := if_pos ⟨was, hc, hm⟩
  rw [up] at host
  simp only [up, quad_share] at quads
  obtain ⟨-, held, -⟩ := releaseAll_levels ((s.dev.mapHost fun h => (h.railLevel 0 core).railLevel 8 mgt).mapHost
    fun h => { h with held := false })
  rw [host]
  refine ⟨held, fun porLow life burn j => ?_⟩
  have released := releaseAll_quad (d := (s.dev.mapHost fun h => (h.railLevel 0 core).railLevel 8 mgt).mapHost
    fun h => { h with held := false }) porLow rfl life burn j
  rw [quads j, released, quad_mapHost, quad_mapHost]
  exact ((freed_release (s.quad j)).flagged _).commit

end

/-- Settles O29, by the resets one after another. -/
theorem resets : Obligations.Resets := fun s iq _ _ _ _ _ =>
  ⟨fun long free => resetPin_resets s iq long free, fun long held => resetPin_held s iq long held,
    fun mode => softReset_resets s iq mode, fun long free => clockLoss_resets s iq long free,
    fun free hw => resetRelease_frees s iq free hw, porAssert_resets s, fun low => porRelease_frees s low,
    fun low => supplyHold_resets s low, fun was hc hm => supplyRelease_frees s was hc hm⟩

end Sys2Proof.Machine.Proofs

/-! SCOUR and its end, REMAP, and an image delivered and checked (R53 to R60). -/

namespace Sys2Proof.Machine.Proofs
open Laws

/-! ### SCOUR -/

theorem scourStart_released {q : Quad} (h : q.rst = .released) (board : DramBoard) (rate : BitVec 2) :
    (q.scourStart board rate).rst = .scouring ∧ (q.scourStart board rate).ecc = [] ∧ (q.scourStart board rate).mem = [] ∧
      (q.scourStart board rate).tim.started = true ∧ (q.scourStart board rate).cores = q.cores := by
  simp [Quad.scourStart, h]

/-- SCOUR_START zeroes the memory and leaves the other quadrants alone. -/
theorem scourStart_answers {s : State} {iq : QId} {board : DramBoard} (h : (s.quad iq).rst = .released) :
    AnswersAll (.scourStart iq board) s fun t => (t.quad iq).rst = .scouring ∧ (t.quad iq).ecc = [] ∧ (∀ a, (t.quad iq).mem.read a = 0) ∧
      (t.quad iq).tim.started = true ∧ (t.quad iq).cores = (s.quad iq).cores ∧ ∀ j, j ≠ iq → t.quad j = s.quad j := by
  obtain ⟨t, ht, quad, others, -, pending⟩ := onQH_completes iq (fun q h => scourBegin iq board q h) s
  obtain ⟨rst, ecc, mem, started, cores⟩ :=
    scourStart_released h board ((s.dev.host.persRec.board.map Config.boardRate).getD 3)
  have logged (q : Quad) (fail : Bool) : WindowOnly q (if fail then q.log 0x0032 2 (w32 iq.num) 0 else q) := by
    split
    · exact windowOnly_log q _ _ _ _
    · exact .refl q
  have begun : WindowOnly ((s.quad iq).scourStart board ((s.dev.host.persRec.board.map Config.boardRate).getD 3))
      (scourBegin iq board (s.quad iq) s.dev.host).1 := by
    rw [scourBegin, if_neg (not_not.mpr h)]
    exact logged _ _
  refine ⟨t, ht, pending, ?_⟩
  dsimp only
  rw [quad, begun]
  exact ⟨rst, ecc, fun a => (commit_read _ a).trans (by rw [mem]; rfl), started, cores, others⟩

/-- The positions that the cores take: a retired one none, the others in order (R55, R479). -/
def assignedPos (retired : BitVec 17) (c : Fin 17) : Fin 32 :=
  if retired.getLsbD c.val then 31 else ⟨((physAll.filter fun c => !retired.getLsbD c.val).idxOf c) % 32, by omega⟩

theorem assignCores_core (q : Quad) (retired : BitVec 17) (c : Fin 17) :
    (q.assignCores retired).core c = { q.core c with pos := assignedPos retired c } := by
  have cores : (q.assignCores retired).cores = (q.mapCores fun c k => { k with pos := assignedPos retired c }).cores := by
    simp only [Quad.assignCores, setFld_cores, wr_cores, assignedPos]
  rw [Quad.core, cores]
  exact core_mapCores q _ c

@[simp] theorem assignCores_rest (q : Quad) (retired : BitVec 17) : (q.assignCores retired).rst = q.rst ∧
    (q.assignCores retired).mode = q.mode ∧ (q.assignCores retired).gridDue = q.gridDue ∧ (q.assignCores retired).mem = q.mem := by
  simp [Quad.assignCores]

theorem assignedPos_retired {retired : BitVec 17} {c : Fin 17} (h : retired.getLsbD c.val = true) : assignedPos retired c = 31 := if_pos h

/-- Where no core is retired each takes the position of its own number. -/
theorem assignedPos_none (c : Fin 17) : (assignedPos 0 c).val = c.val := by
  have all : (physAll.filter fun c => !(0 : BitVec 17).getLsbD c.val) = physAll := List.filter_eq_self.mpr fun a _ => by simp
  have healthy : (0 : BitVec 17).getLsbD c.val = false := BitVec.getLsbD_zero
  have small : c.val % 32 = c.val := Nat.mod_eq_of_lt (by omega)
  have first : (assignedPos 0 c).val = (physAll.filter fun c => !(0 : BitVec 17).getLsbD c.val).idxOf c % 32 := by
    rw [assignedPos, healthy, if_neg Bool.false_ne_true]
  rw [first, all, physAll, List.idxOf_finRange, small]

/-- A quadrant past its SCOUR, in STANDBY, with the cores at their positions, all parked but that of position 0 (R54, R55). -/
def scoured (q : Quad) (retired : BitVec 17) (emg : BitVec 4) : Quad :=
  ({ q with rst := .past, mode := .standby, gridDue := true, hpn := { q.hpn with pins := emg } }.assignCores retired).mapCores
    fun _ k => { k with parked := k.pos.val != 0 }

theorem scoured_core (q : Quad) (retired : BitVec 17) (emg : BitVec 4) (c : Fin 17) : (scoured q retired emg).core c =
    { q.core c with pos := assignedPos retired c, parked := decide ((assignedPos retired c).val ≠ 0) } := by
  have nonzero (n : Nat) : (n != 0) = decide (n ≠ 0) := by cases n <;> rfl
  rw [scoured, core_mapCores, assignCores_core, nonzero]
  rfl

/-- The end of SCOUR: what it does besides is in the scheduler, the registers and the window. -/
theorem scourComplete_scouring {q : Quad} (h : q.rst = .scouring) (retired : BitVec 17) (emg : BitVec 4) :
    (q.scourComplete retired emg).rst = .past ∧ (q.scourComplete retired emg).mode = .standby ∧
      (q.scourComplete retired emg).gridDue = true ∧ (q.scourComplete retired emg).mem = q.mem ∧
      (q.scourComplete retired emg).cores = (scoured q retired emg).cores := by
  unfold Quad.scourComplete
  rw [if_neg (not_not.mpr h)]
  dsimp only
  split <;> simp [scoured]

theorem markWiped_quad (d : Device) (j : QId) : d.markWiped.quad j = d.quad j := by
  unfold Device.markWiped
  dsimp only
  split
  · rfl
  · exact quad_mapHost ..

/-- SCOUR_COMPLETE, on the device. -/
theorem scourComplete_answers {s : State} {iq : QId} {emg : BitVec 4} (h : (s.quad iq).rst = .scouring) :
    let retired := s.dev.host.retired iq ||| (s.quad iq).hp.retiring
    AnswersAll (.scourComplete iq emg) s fun t => (t.quad iq).rst = .past ∧ (t.quad iq).mode = .standby ∧ (t.quad iq).gridDue = true ∧
      (∀ c, ((t.quad iq).core c).parked = decide (((t.quad iq).core c).pos.val ≠ 0)) ∧
      (∀ c : Fin 17, retired.getLsbD c.val = true → ((t.quad iq).core c).pos = 31) ∧
      (retired = 0 → ∀ c : Fin 17, ((t.quad iq).core c).pos.val = c.val) ∧ SameBytes (s.quad iq) (t.quad iq) ∧
      ∀ j, j ≠ iq → SharedOnly (s.quad j) (t.quad j) := by
  intro retired
  refine answersAll_onAll (f := fun d => (d.scourDone iq emg).share) rfl fun t quads _ => ?_
  simp only [quad_share, Device.scourDone, markWiped_quad] at quads
  obtain ⟨rst, mode, gridDue, mem, cores⟩ := scourComplete_scouring h retired emg
  have ended := quads iq
  rw [quad_mapQuad] at ended
  have coreOf (c : Fin 17) : (t.quad iq).core c =
      { (s.quad iq).core c with pos := assignedPos retired c, parked := decide ((assignedPos retired c).val ≠ 0) } := by
    have core : (t.quad iq).core c = (scoured (s.quad iq) retired emg).core c := by
      rw [ended]
      exact congrArg (·[c]) cores
    rw [core, scoured_core]
  refine ⟨?_, ?_, ?_, fun c => ?_, fun c hc => ?_, fun none c => ?_, fun a => ?_, fun j hj => ?_⟩
  · rw [ended]; exact rst
  · rw [ended]; exact mode
  · rw [ended]; exact gridDue
  · rw [coreOf]
  · rw [coreOf]; exact assignedPos_retired hc
  · rw [coreOf, none]; exact assignedPos_none c
  · rw [ended]; exact (commit_read _ a).trans (congrArg (·.read a) mem)
  · rw [quads j, quad_mapQuad_ne _ _ hj]
    exact sharedOnly_flagged ..

/-! ### REMAP -/

/-- A register field set changes no other register. -/
theorem regsOnly_setFld (q : Quad) (f : Field) (v : Nat) : RegsOnly [f.off] q (q.setFld f v).commit :=
  ⟨rfl, commit_read q, fun o ho => rd_setFld_ne q f v (by simpa using ho)⟩

theorem remap_setFld (q : Quad) (remap : Bool) : (q.setFld Reg.QCTL_CTL_REMAP (b2n remap)).commit.remap = remap := by
  have fld : (q.setFld Reg.QCTL_CTL_REMAP (b2n remap)).fld Reg.QCTL_CTL_REMAP = b2n remap := by
    rw [fld_setFld _ _ _ (by decide) (by decide)]
    cases remap <;> rfl
  simp only [Quad.remap, Quad.flag, commit_fld, fld]
  cases remap <;> rfl

/-- REMAP written in STANDBY or SERVICE with the other cores parked and the DMA idle (R56). -/
theorem remapWrite_answers {s : State} {iq : QId} {remap : Bool} (mode : (s.quad iq).mode = .standby ∨ (s.quad iq).mode = .service)
    (parked : (s.quad iq).othersParked = true) (items : (s.quad iq).dma.items = []) (copying : (s.quad iq).dma.copying = []) :
    Answers (.remapWrite iq remap) s iq fun r => r.remap = remap ∧ RegsOnly [Reg.QCTL_CTL] (s.quad iq) r := by
  refine answers_onQ (f := fun q => q.whenOpen 0 Reg.QCTL_CTL fun q => q.remapWrite remap) rfl ?_
  have isOpen : (s.quad iq).regOpen 0 Reg.QCTL_CTL = true := by
    obtain mode | mode := mode <;> rw [Quad.regOpen, mode] <;> rfl
  have writable : ((s.quad iq).mode == .standby || (s.quad iq).mode == .service) = true := by
    obtain mode | mode := mode <;> rw [mode] <;> rfl
  have written : (s.quad iq).whenOpen 0 Reg.QCTL_CTL (fun q => q.remapWrite remap) =
      (s.quad iq).setFld Reg.QCTL_CTL_REMAP (b2n remap) := by
    rw [Quad.whenOpen, if_pos isOpen, Quad.remapWrite, writable, parked, items, copying]
    rfl
  rw [written]
  exact ⟨remap_setFld _ _, regsOnly_setFld _ _ _⟩

/-! ### An image delivered and its digest checked -/

theorem bitN_toNat {w : Nat} (b : BitVec w) (n : Nat) : bitN b.toNat n = b.getLsbD n := by
  rw [BitVec.getLsbD, Nat.testBit_eq_decide_div_mod_eq, bitN, Nat.shiftRight_eq_div_pow]
  rfl

section
variable (i : QId) (now : W64) (q : Quad) (h : HostDom)

/-- The first delivery of a start (R58): the image of the selected slot, where it can be delivered. -/
theorem deliver_first (corrupt : Bool) (mladcel : h.mladcel = true) (rst : q.rst = .past) (mode : q.mode = .standby)
    (first : h.deliveries.find i.num = none) (auto : h.boot.auto.getLsbD i.num = true) (life : h.life.autoOk = true)
    (len : 0 < (h.image (i.num + 1) (h.selected (i.num + 1))).len) :
    (deliver i corrupt now q h).1 = q ∧ ∃ e, (deliver i corrupt now q h).2.deliveries.find i.num = some e ∧
      e.slot = h.selected (i.num + 1) ∧ e.delivered = h.slotOk (i.num + 1) e.slot ∧ e.done = (!e.delivered) ∧
      (corrupt = true → e.mode = none) := by
  have bit : bitN h.boot.auto.toNat i.num = true := by rw [bitN_toNat, auto]
  have some_ : ((h.image (i.num + 1) (h.selected (i.num + 1))).len == 0) = false := by simpa using len.ne'
  by_cases ok : h.slotOk (i.num + 1) (h.selected (i.num + 1)) = true
  · simp [deliver, mladcel, rst, mode, first, bit, life, some_, ok]
  · simp [deliver, mladcel, rst, mode, first, bit, life, some_, ok]

/-- A digest that differs (R59, R60): the other slot once, the quadrant as it is. -/
theorem digestCheck_differs {e : Delivery} (find : h.deliveries.find i.num = some e) (mladcel : h.mladcel = true)
    (delivered : e.delivered = true) (done : e.done = false) (differs : e.mode = none) (rst : q.rst = .past) (mode : q.mode ≠ .halt) :
    (digestCheck i now q h).1 = q ∧ (digestCheck i now q h).2.deliveries.find i.num = some (if e.second then { e with done := true }
      else { e with slot := !e.slot, second := true, delivered := false }) := by
  simp [digestCheck, find, mladcel, delivered, done, differs, rst, mode]

/-- The quadrant with the sections of an image written. -/
def sectionsWritten (e : Delivery) : Quad :=
  (Config.imageView (h.image (i.num + 1) e.slot).bytes).sections.foldl (fun q x => q.writeSection x.1 x.2 x.2.length) q

/-- The quadrant with the digest of an image in its window (R450). -/
def withDigest (q : Quad) (h : HostDom) (i : QId) (e : Delivery) : Quad :=
  let v := Config.imageView (h.image (i.num + 1) e.slot).bytes
  q.mapHp fun p => { p with digests := p.digests.put 0 ⟨sha256 ((h.image (i.num + 1) e.slot).bytes.bytesAt 256 v.length), 0, v.length⟩ }

/-- The change of mode that an autonomous start makes due (R59): of a quadrant still in STANDBY without a change. -/
def autoDue (q : Quad) (m : Mode) (slot : Bool) : Quad :=
  if q.change.isSome ∨ q.mode ≠ .standby then q
  else { q with change := some ⟨if m = .standby then .standby else .run, 2, .auto slot⟩, autoHpn := m == .hardpan }

theorem autoDue_rest (q : Quad) (m : Mode) (slot : Bool) : (autoDue q m slot).hp = q.hp ∧ (autoDue q m slot).mem = q.mem ∧
    (autoDue q m slot).regs = q.regs ∧ (autoDue q m slot).cores = q.cores ∧ (autoDue q m slot).mode = q.mode := by
  unfold autoDue
  split <;> exact ⟨rfl, rfl, rfl, rfl, rfl⟩

theorem autoDue_change (q : Quad) (m : Mode) (slot : Bool) : (autoDue q m slot).change =
    (if q.change = none ∧ q.mode = .standby then some ⟨if m = .standby then .standby else .run, 2, .auto slot⟩ else q.change) := by
  unfold autoDue
  cases due : q.change <;> by_cases standby : q.mode = .standby <;> simp [due, standby]

/-- A digest that matches (R59): the sections written, the digest kept, the delivery done, and a change of mode due. -/
theorem digestCheck_matches {e : Delivery} {m : Mode} (find : h.deliveries.find i.num = some e) (mladcel : h.mladcel = true)
    (delivered : e.delivered = true) (done : e.done = false) (modeOf : e.mode = some m) (rst : q.rst = .past) (mode : q.mode = .standby) :
    digestCheck i now q h = (autoDue (withDigest (sectionsWritten i q h e) h i e) m e.slot,
      { h with deliveries := h.deliveries.put i.num { e with done := true } }) := by
  simp only [digestCheck, find, mladcel, delivered, done, rst, mode, modeOf]
  rfl

end

/-- AUTOSTART_DELIVERY, on the quadrant and the host domain. -/
theorem autostartDelivery_answers {s : State} {iq : QId} {corrupt : Bool} (mladcel : s.dev.host.mladcel = true)
    (rst : (s.quad iq).rst = .past) (mode : (s.quad iq).mode = .standby) (first : s.dev.host.deliveries.find iq.num = none)
    (auto : s.dev.host.boot.auto.getLsbD iq.num = true) (life : s.dev.host.life.autoOk = true)
    (len : 0 < (s.dev.host.image (iq.num + 1) (s.dev.host.selected (iq.num + 1))).len) :
    AnswersAll (.autostartDelivery iq corrupt) s fun t => ∃ e, t.dev.host.deliveries.find iq.num = some e ∧
      e.slot = s.dev.host.selected (iq.num + 1) ∧ e.delivered = s.dev.host.slotOk (iq.num + 1) e.slot ∧ e.done = (!e.delivered) ∧
      (corrupt = true → e.mode = none) ∧ SameBytes (s.quad iq) (t.quad iq) ∧ ∀ j, j ≠ iq → t.quad j = s.quad j := by
  obtain ⟨t, ht, quad, others, host, pending⟩ := onQH_completes iq (fun q h => deliver iq corrupt s.dev.hostTime q h) s
  obtain ⟨same, e, find, slot, delivered, done, differs⟩ :=
    deliver_first iq s.dev.hostTime (s.quad iq) s.dev.host corrupt mladcel rst mode first auto life len
  refine ⟨t, ht, pending, e, ?_, slot, delivered, done, differs, fun a => ?_, others⟩
  · rw [host]; exact find
  · rw [quad, same]; exact commit_read _ a

/-- AUTOSTART_DIGEST_CHECK of a digest that differs. -/
theorem digestCheck_differs_answers {s : State} {iq : QId} {e : Delivery} (find : s.dev.host.deliveries.find iq.num = some e)
    (mladcel : s.dev.host.mladcel = true) (delivered : e.delivered = true) (done : e.done = false) (differs : e.mode = none)
    (rst : (s.quad iq).rst = .past) (mode : (s.quad iq).mode ≠ .halt) : AnswersAll (.autostartDigestCheck iq) s fun t =>
      t.dev.host.deliveries.find iq.num = some (if e.second then { e with done := true }
        else { e with slot := !e.slot, second := true, delivered := false }) ∧
      SameBytes (s.quad iq) (t.quad iq) ∧ (t.quad iq).mode = (s.quad iq).mode ∧ (t.quad iq).change = (s.quad iq).change ∧
      ∀ j, j ≠ iq → t.quad j = s.quad j := by
  obtain ⟨t, ht, quad, others, host, pending⟩ := onQH_completes iq (fun q h => digestCheck iq s.dev.hostTime q h) s
  obtain ⟨same, found⟩ :=
    digestCheck_differs iq s.dev.hostTime (s.quad iq) s.dev.host find mladcel delivered done differs rst mode
  rw [same] at quad
  refine ⟨t, ht, pending, ?_, fun a => ?_, ?_, ?_, others⟩
  · rw [host]; exact found
  · rw [quad]; exact commit_read _ a
  · rw [quad]; rfl
  · rw [quad]; rfl

/-- AUTOSTART_DIGEST_CHECK of a digest that matches. -/
theorem digestCheck_matches_answers {s : State} {iq : QId} {e : Delivery} {m : Mode}
    (find : s.dev.host.deliveries.find iq.num = some e) (mladcel : s.dev.host.mladcel = true) (delivered : e.delivered = true)
    (done : e.done = false) (modeOf : e.mode = some m) (rst : (s.quad iq).rst = .past) (mode : (s.quad iq).mode = .standby) :
    AnswersAll (.autostartDigestCheck iq) s fun t =>
      let img := s.dev.host.image (iq.num + 1) e.slot
      let v := Config.imageView img.bytes
      let q1 := v.sections.foldl (fun q x => q.writeSection x.1 x.2 x.2.length) (s.quad iq)
      let r := t.quad iq
      t.dev.host.deliveries.find iq.num = some { e with done := true } ∧
        r.hp.digests.find 0 = some ⟨sha256 (img.bytes.bytesAt 256 v.length), 0, v.length⟩ ∧ SameBytes q1 r ∧ r.regs = q1.regs ∧
        r.cores = q1.cores ∧ r.mode = q1.mode ∧
        r.change = (if q1.change = none ∧ q1.mode = .standby then some ⟨if m = .standby then .standby else .run, 2, .auto e.slot⟩
          else q1.change) ∧ ∀ j, j ≠ iq → t.quad j = s.quad j := by
  obtain ⟨t, ht, quad, others, host, pending⟩ := onQH_completes iq (fun q h => digestCheck iq s.dev.hostTime q h) s
  have checked := digestCheck_matches iq s.dev.hostTime (s.quad iq) s.dev.host find mladcel delivered done modeOf rst mode
  let q2 := withDigest (sectionsWritten iq (s.quad iq) s.dev.host e) s.dev.host iq e
  obtain ⟨hp, mem, regs, cores, kept⟩ := autoDue_rest q2 m e.slot
  have at_ : t.quad iq = (autoDue q2 m e.slot).commit := by rw [quad, checked]
  refine ⟨t, ht, pending, ?_, ?_, fun a => ?_, ?_, ?_, ?_, ?_, others⟩
  · rw [host, checked]; exact find_put_self ..
  · rw [at_]; exact (congrArg (·.digests.find 0) hp).trans (find_put_self ..)
  · rw [at_]; exact (commit_read _ a).trans (congrArg (·.read a) mem)
  · rw [at_]; exact regs
  · rw [at_]; exact cores
  · rw [at_]; exact kept
  · rw [at_]; exact autoDue_change q2 m e.slot

/-- Settles O30, by the commands of a start one after another. -/
theorem startUp : Obligations.StartUp := by
  intro s iq board emg remap corrupt
  refine ⟨scourStart_answers, scourComplete_answers, remapWrite_answers, autostartDelivery_answers, ?_, ?_⟩
  · exact fun e find mladcel delivered done differs rst mode =>
      digestCheck_differs_answers find mladcel delivered done differs rst mode
  · exact fun e m find mladcel delivered done modeOf rst mode =>
      digestCheck_matches_answers find mladcel delivered done modeOf rst mode

end Sys2Proof.Machine.Proofs

namespace Sys2Proof.Machine

/-- The mode of a quadrant with the change of mode that is pending. -/
def Quad.modes (q : Quad) : Mode × Option ModeChange := (q.mode, q.change)

namespace Proofs
open Laws

/-! ### The mode of a quadrant with the change that is pending

What every operation of a quadrant that is no change of mode, no HALT and no reset leaves as it is, in the order of the model's files. -/

@[simp] theorem mk_modes (q : Quad) : (q.mode, q.change) = q.modes := rfl

@[simp] theorem modes_mk (regs : SMap W32) (mem : Memory) (ecc : SMap Ecc) (eccBack : List Nat) (cores : Vector Core 17) (mode : Mode)
    (change : Option ModeChange) (sch : Sched) (fab : Fabric) (kln : Kiln) (hpn : Hpn) (clk : Clk) (tim : Tim) (net : Net) (snx : Snx)
    (prt : Ports) (dec : Dec) (dma : Dma) (flt : Flt) (hp : HostPort) (rst : RstPhase) (gridDue autoHpn : Bool) (aged : List Nat)
    (bndCclk : Nat) (bndNs : W64) (bndFr : W32) (bndFine : W64) (tick : W64) (running gridRan pinLow : Bool) (tickHi : W32)
    (cclk phase freeCtr : Nat) :
    (Quad.mk regs mem ecc eccBack cores mode change sch fab kln hpn clk tim net snx prt dec dma flt hp rst gridDue autoHpn aged bndCclk bndNs
      bndFr bndFine tick running gridRan pinLow tickHi cclk phase freeCtr).modes = (mode, change) := rfl

@[simp] theorem ite_modes {c : Prop} [Decidable c] (q r : Quad) : (if c then q else r).modes = if c then q.modes else r.modes :=
  apply_ite Quad.modes c q r

@[simp] theorem ite_fst_modes {α : Type} {c : Prop} [Decidable c] (q r : Quad × α) :
    (if c then q else r).1.modes = if c then q.1.modes else r.1.modes :=
  apply_ite (fun r : Quad × α => r.1.modes) c q r

@[simp] theorem foldl_modes {α : Type} (f : Quad → α → Quad) (l : List α) (q : Quad) (h : ∀ q a, (f q a).modes = q.modes)  :
    (l.foldl f q).modes = q.modes := by
  induction l generalizing q with
  | nil => rfl
  | cons a l ih => exact (ih _).trans (h q a)

@[simp] theorem foldl_fst_modes {α β : Type} (f : Quad × β → α → Quad × β) (l : List α) (r : Quad × β)
    (h : ∀ r a, (f r a).1.modes = r.1.modes) : (l.foldl f r).1.modes = r.1.modes := by
  induction l generalizing r with
  | nil => rfl
  | cons a l ih => exact (ih _).trans (h r a)

@[simp] theorem foldl_snd_modes {α β : Type} (f : β × Quad → α → β × Quad) (l : List α) (r : β × Quad)
    (h : ∀ r a, (f r a).2.modes = r.2.modes) : (l.foldl f r).2.modes = r.2.modes := by
  induction l generalizing r with
  | nil => rfl
  | cons a l ih => exact (ih _).trans (h r a)

theorem fst_modes_of_eq {α : Type} {p : Quad × α} {q r : Quad} {a : α} (e : p = (r, a)) (h : p.1.modes = q.modes) : r.modes = q.modes := by
  subst e; exact h

theorem snd_mk_modes {α : Type} (a : α) (q : Quad) : (a, q).2.modes = q.modes := rfl

theorem snd_snd_mk_modes {α β : Type} (a : α) (b : β) (q : Quad) : (a, b, q).2.2.modes = q.modes := rfl

theorem snd_modes_of_eq {α : Type} {p : α × Quad} {q r : Quad} {a : α} (e : p = (a, r)) (h : p.2.modes = q.modes) : r.modes = q.modes := by
  subst e; exact h

theorem snd_snd_modes_of_eq {α β : Type} {p : α × β × Quad} {q r : Quad} {a : α} {b : β} (e : p = (a, b, r)) (h : p.2.2.modes = q.modes) :
    r.modes = q.modes := by
  subst e; exact h

/-! #### The operations of Ops -/

@[simp] theorem wr_modes (q : Quad) (off : Nat) (v : W32) : (q.wr off v).modes = q.modes := (rfl)

@[simp] theorem wrCopy_modes (q : Quad) (w : Writer) (off : Nat) (v : W32) : (q.wrCopy w off v).modes = q.modes := (rfl)

@[simp] theorem setFld_modes (q : Quad) (f : Field) (v : Nat) : (q.setFld f v).modes = q.modes := (rfl)

@[simp] theorem raise_modes (q : Quad) (f : Field) : (q.raise f).modes = q.modes := (rfl)

@[simp] theorem count_modes (q : Quad) (f : Field) (n : Nat) : (q.count f n).modes = q.modes := (rfl)

@[simp] theorem draw_modes (q : Quad) : (q.draw).2.modes = q.modes := (rfl)

@[simp] theorem store_modes (q : Quad) (a : Nat) (bytes : List Byte) : (q.store a bytes).modes = q.modes := (rfl)

@[simp] theorem granted_modes (q : Quad) (m : Nat) : (q.granted m).modes = q.modes := (rfl)

@[simp] theorem setCore_modes (q : Quad) (c : Fin 17) (k : Core) : (q.setCore c k).modes = q.modes := (rfl)

@[simp] theorem mapCores_modes (q : Quad) (f : Fin 17 → Core → Core) : (q.mapCores f).modes = q.modes := by simp [Quad.mapCores]

@[simp] theorem ringStep_modes (q : Quad) (len wp rp ovwr : Field) : (q.ringStep len wp rp ovwr).modes = q.modes := by simp [Quad.ringStep]

@[simp] theorem log_modes (q : Quad) (code : BitVec 16) (sev : BitVec 8) (arg0 : W32) (arg1 : BitVec 16) :
    (q.log code sev arg0 arg1).modes = q.modes := by
  simp [Quad.log]

@[simp] theorem irq_modes (q : Quad) (c : BitVec 5) : (q.irq c).modes = q.modes := (rfl)

@[simp] theorem fault_modes (q : Quad) (cls cause phys pos : Nat) (detail : W32) : (q.fault cls cause phys pos detail).modes = q.modes := by
  simp [Quad.fault]

@[simp] theorem completeRec_modes (q : Quad) (r : CplRec) : (q.completeRec r).modes = q.modes := (rfl)

@[simp] theorem complete_modes (q : Quad) (seq : W32) (op status aux : Nat) (resA : W32) : (q.complete seq op status aux resA).modes = q.modes :=
  (rfl)

/-! #### The operations of RoleOps -/

@[simp] theorem setTf_modes (q : Quad) (t w hi lo v : Nat) : (q.setTf t w hi lo v).modes = q.modes := (rfl)

@[simp] theorem countTf_modes (q : Quad) (t w hi lo n : Nat) : (q.countTf t w hi lo n).modes = q.modes := (rfl)

@[simp] theorem mirrored_modes (q : Quad) (l : List (Nat × Byte)) : (q.mirrored l).modes = q.modes := by
  unfold Quad.mirrored
  split
  · rfl
  · split
    · exact foldl_modes _ _ _ fun _ _ => rfl
    · rfl

@[simp] theorem setRt_modes (q : Quad) (i hi lo v : Nat) : (q.setRt i hi lo v).modes = q.modes := by simp [Quad.setRt]

@[simp] theorem noteLoad_modes (q : Quad) : q.noteLoad.modes = q.modes := by simp [Quad.noteLoad]

@[simp] theorem setObj_modes (q : Quad) (o : Obj) (act fade : Bool) (gen : Nat) : (q.setObj o act fade gen).modes = q.modes := by simp [Quad.setObj]

@[simp] theorem kilnWrite_modes (q : Quad) (bytes : List (Nat × Byte)) : (q.kilnWrite bytes).1.modes = q.modes := by
  unfold Quad.kilnWrite
  dsimp only
  repeat' split
  all_goals simp

@[simp] theorem mapKln_modes (q : Quad) (f : Kiln → Kiln) : (q.mapKln f).modes = q.modes := (rfl)

/-! #### The operations of MemOps -/

@[simp] theorem uncorr_modes (q : Quad) (a : Nat) : (q.uncorr a).modes = q.modes := by
  unfold Quad.uncorr
  split <;> simp

@[simp] theorem corrected_modes (q : Quad) (a : Nat) : (q.corrected a).modes = q.modes := by
  unfold Quad.corrected
  split <;> simp

@[simp] theorem noteEcc_modes (q : Quad) (l : List (Nat × Ecc)) : (q.noteEcc l).modes = q.modes := by
  unfold Quad.noteEcc
  refine foldl_modes _ _ _ fun q x => ?_
  split <;> simp

@[simp] theorem memRead_modes (q : Quad) (a n : Nat) : (q.memRead a n).2.2.modes = q.modes := by simp [Quad.memRead]

@[simp] theorem memWrite_modes (q : Quad) (a : Nat) (bytes : List Byte) : (q.memWrite a bytes).1.modes = q.modes := by simp [Quad.memWrite]

@[simp] theorem memWriteAt_modes (q : Quad) (l : List (Nat × Byte)) : (q.memWriteAt l).1.modes = q.modes := by simp [Quad.memWriteAt]

@[simp] theorem partRead_modes (q : Quad) (a n : Nat) : (q.partRead a n).2.2.modes = q.modes := by
  unfold Quad.partRead
  split <;> simp

@[simp] theorem partBlock_modes (q : Quad) (a n : Nat) : (q.partBlock a n).2.modes = q.modes := by simp [Quad.partBlock]

@[simp] theorem noteTask_modes (q : Quad) (t : Nat) : (q.noteTask t).modes = q.modes := by simp [Quad.noteTask]

@[simp] theorem noteDual_modes (q : Quad) (c : Fin 17) (was : Memory) (l : List (Nat × Byte)) : (q.noteDual c was l).modes = q.modes := by
  simp [Quad.noteDual]

@[simp] theorem portB_modes (q : Quad) (m qos : Nat) (l : List (Nat × Byte)) : (q.portB m qos l).1.modes = q.modes := by
  unfold Quad.portB
  refine foldl_fst_modes _ _ _ fun q x => ?_
  repeat' split
  all_goals simp

@[simp] theorem sysPut_modes (q : Quad) (m : Nat) (l : List (Nat × Byte)) : (q.sysPut m l).modes = q.modes := by
  unfold Quad.sysPut
  split
  · next p e => simp [fst_modes_of_eq e (portB_modes ..)]
  · next p l e => simp [fst_modes_of_eq e (portB_modes ..)]

@[simp] theorem sysBeat_modes (q : Quad) (m a n : Nat) (l : List (Nat × Byte)) : (q.sysBeat m a n l).modes = q.modes := by
  unfold Quad.sysBeat
  dsimp only
  split
  · rfl
  · split
    · next p e => exact fst_modes_of_eq e (kilnWrite_modes ..)
    · next p l e => simp [fst_modes_of_eq e (kilnWrite_modes ..)]

@[simp] theorem sysWrite_modes (q : Quad) (m a : Nat) (bytes : List Byte) : (q.sysWrite m a bytes).modes = q.modes := by simp [Quad.sysWrite]

@[simp] theorem recordPush_modes (q : Quad) (m : Nat) (base len wp rp ovwr : Field) (words : List W32) :
    (q.recordPush m base len wp rp ovwr words).modes = q.modes := by
  simp [Quad.recordPush]

/-! #### The operations of Egress -/

@[simp] theorem mapPort_modes (q : Quad) (p : Fin 2) (f : EthPort → EthPort) : (q.mapPort p f).modes = q.modes := (rfl)

@[simp] theorem egress_modes (q : Quad) (p : Fin 2) (f : TxFrame) : (q.egress p f).modes = q.modes := (rfl)

@[simp] theorem rtpPacket_modes (q : Quad) (s : Nat) (seq : BitVec 16) (ts : Nat) (payload : List Byte) :
    (q.rtpPacket s seq ts payload).2.modes = q.modes := by
  simp [Quad.rtpPacket]

@[simp] theorem sendPacket_modes (q : Quad) (s : Nat) (bytes : List Byte) : (q.sendPacket s bytes).modes = q.modes := by
  have sent := foldl_modes (fun (q : Quad) (p : Fin 2) => q.egress p ⟨.stream, bytes, none, none, false, St.done⟩)
  unfold Quad.sendPacket
  dsimp only
  split <;> simp

@[simp] theorem flowPacket_modes (q : Quad) (s ctx : Nat) : (q.flowPacket s ctx).modes = q.modes := by simp [Quad.flowPacket]

/-! #### The operations of SchedOps -/

@[simp] theorem setFlow_modes (q : Quad) (f : Nat) (v : Flow) : (q.setFlow f v).modes = q.modes := (rfl)

@[simp] theorem enqueue_modes (q : Quad) (i : Inst) : (q.enqueue i).modes = q.modes := (rfl)

@[simp] theorem joinFlow_modes (q : Quad) (t : Nat) : (q.joinFlow t).1.modes = q.modes := by simp [Quad.joinFlow]

@[simp] theorem makeReady_modes (q : Quad) (t : Nat) : (q.makeReady t).1.modes = q.modes := by simp [Quad.makeReady]

@[simp] theorem taskRecord_modes (q : Quad) (i : Inst) (pos status : Nat) (skip ran : Bool) (stBits : Nat) :
    (q.taskRecord i pos status skip ran stBits).modes = q.modes := by
  simp [Quad.taskRecord]

@[simp] theorem releaseOne_modes (q : Quad) (f : Nat) : (q.releaseOne f).1.modes = q.modes := by
  unfold Quad.releaseOne
  dsimp only
  split
  · rfl
  · split
    · simp
    · split
      · split
        · next p e => simp [fst_modes_of_eq e (makeReady_modes ..)]
        · next p r _ e => simp [fst_modes_of_eq e (makeReady_modes ..)]
      · simp

@[simp] theorem releaseFlow_modes (q : Quad) (f : Nat) (x : Nat) : (q.releaseFlow f x).modes = q.modes := by
  induction x generalizing q with
  | zero => rfl
  | succ n ih =>
    rw [Quad.releaseFlow]
    split
    · next p e => rw [ih, fst_modes_of_eq e (releaseOne_modes ..)]
    · next p e => exact fst_modes_of_eq e (releaseOne_modes ..)

@[simp] theorem releasable_modes (q : Quad) (i : Inst) (ctx : Nat) (empty : Bool) : (q.releasable i ctx empty).modes = q.modes := by
  unfold Quad.releasable
  split <;> simp

@[simp] theorem customerEnd_modes (q : Quad) (i : Inst) (status : Nat) : (q.customerEnd i status).modes = q.modes := by
  unfold Quad.customerEnd
  split <;> simp

@[simp] theorem cancelled_modes (q : Quad) (i : Inst) (skip : Bool) : (q.cancelled i skip).modes = q.modes := by simp [Quad.cancelled]

@[simp] theorem cancelAll_modes (q : Quad) (skip : Bool) (x : List Inst) : (q.cancelAll skip x).modes = q.modes := by
  induction x generalizing q with
  | nil => rfl
  | cons i t ih => simp [Quad.cancelAll, ih]

@[simp] theorem ask_modes (q : Quad) (pos : Nat) : (q.ask pos).modes = q.modes := by simp [Quad.ask]

@[simp] theorem emptyPref_modes (q : Quad) (pos : Nat) : (q.emptyPref pos).modes = q.modes := by simp [Quad.emptyPref]

@[simp] theorem takePref_modes (q : Quad) (p : Inst → Bool) : (q.takePref p).1.modes = q.modes := by
  unfold Quad.takePref
  refine foldl_fst_modes _ _ _ fun q x => ?_
  repeat' split
  all_goals simp

@[simp] theorem takeQueue_modes (q : Quad) (p : Inst → Bool) : (q.takeQueue p).1.modes = q.modes := (rfl)

@[simp] theorem takeAssigned_modes (q : Quad) (p : Inst → Bool) : (q.takeAssigned p).1.modes = q.modes := by
  unfold Quad.takeAssigned
  refine foldl_fst_modes _ _ _ fun r pos => ?_
  split
  · rfl
  · dsimp only
    split <;> simp

@[simp] theorem takeWaiting_modes (q : Quad) (p : Inst → Bool) : (q.takeWaiting p).1.modes = q.modes := by simp [Quad.takeWaiting]

@[simp] theorem cancelEntry_modes (q : Quad) (e : DelayEntry) : (q.cancelEntry e).modes = q.modes := by simp [Quad.cancelEntry]

@[simp] theorem cancelTask_modes (q : Quad) (t : Nat) : (q.cancelTask t).1.modes = q.modes := by simp [Quad.cancelTask]

@[simp] theorem purgeInvalid_modes (q : Quad) : q.purgeInvalid.modes = q.modes := by simp [Quad.purgeInvalid]

@[simp] theorem dequeue_modes (q : Quad) (i : Inst) : (q.dequeue i).modes = q.modes := (rfl)

@[simp] theorem noteWait_modes (q : Quad) (i : Inst) : (q.noteWait i).modes = q.modes := by simp [Quad.noteWait]

@[simp] theorem startOn_modes (q : Quad) (c : Fin 17) (i : Inst) : (q.startOn c i).modes = q.modes := by simp [Quad.startOn]

@[simp] theorem give_modes (q : Quad) (c : Fin 17) (i : Inst) : (q.give c i).modes = q.modes := by simp [Quad.give]

@[simp] theorem startFromSlot_modes (q : Quad) (c : Fin 17) : (q.startFromSlot c).modes = q.modes := by
  unfold Quad.startFromSlot
  dsimp only
  repeat' split
  all_goals simp

@[simp] theorem startSlots_modes (q : Quad) : q.startSlots.modes = q.modes := by
  unfold Quad.startSlots
  refine foldl_modes _ _ _ fun q x => ?_
  split <;> simp

@[simp] theorem waitForWork_modes (q : Quad) (c : Fin 17) : (q.waitForWork c).modes = q.modes := by simp [Quad.waitForWork]

@[simp] theorem startAssigned_modes (q : Quad) (c : Fin 17) (i : Inst) : (q.startAssigned c i).modes = q.modes := by simp [Quad.startAssigned]

@[simp] theorem closeRun_modes (q : Quad) (pos : Nat) (r : Run) (status : Nat) (st : W32) (late empty : Bool) :
    (q.closeRun pos r status st late empty).modes = q.modes := by
  simp [Quad.closeRun]

@[simp] theorem endRun_modes (q : Quad) (pos : Nat) (r : Run) (status : Nat) (st : W32) (empty : Bool) :
    (q.endRun pos r status st empty).modes = q.modes := by
  simp [Quad.endRun]

@[simp] theorem abortEvt_modes (q : Quad) (pos : Nat) (i : Inst) (status : Nat) : (q.abortEvt pos i status).modes = q.modes := by simp [Quad.abortEvt]

@[simp] theorem abortCore_modes (q : Quad) (c : Fin 17) (status : Nat) : (q.abortCore c status).modes = q.modes := by
  unfold Quad.abortCore
  dsimp only
  repeat' split
  all_goals simp

@[simp] theorem mapSch_modes (q : Quad) (f : Sched → Sched) : (q.mapSch f).modes = q.modes := (rfl)

@[simp] theorem armStat_modes (q : Quad) (w : Writer) (status : Nat) : (q.armStat w status).modes = q.modes := (rfl)

@[simp] theorem armBind_modes (q : Quad) (w : Writer) (t : Nat) : (q.armBind w t).modes = q.modes := by simp [Quad.armBind]

@[simp] theorem armUnbind_modes (q : Quad) (w : Writer) (t : Nat) : (q.armUnbind w t).modes = q.modes := by simp [Quad.armUnbind]

@[simp] theorem armTick_modes (q : Quad) (w : Writer) (t : Nat) (periodic : Bool) : (q.armTick w t periodic).modes = q.modes := by simp [Quad.armTick]

@[simp] theorem armTime_modes (q : Quad) (w : Writer) (t : Nat) (periodic : Bool) : (q.armTime w t periodic).modes = q.modes := by simp [Quad.armTime]

@[simp] theorem armDisarm_modes (q : Quad) (w : Writer) (t : Nat) : (q.armDisarm w t).modes = q.modes := by simp [Quad.armDisarm]

@[simp] theorem armWrite_modes (q : Quad) (w : Writer) (v : W32) : (q.armWrite w v).modes = q.modes := by
  unfold Quad.armWrite
  dsimp only
  repeat' split
  all_goals simp

@[simp] theorem expireHead_modes (q : Quad) (tk : Bool) (now : Nat) : (q.expireHead tk now).modes = q.modes := by
  have after (r : Quad) (l : List DelayEntry) :
      (if tk then { r with sch := { r.sch with tickList := l } } else { r with sch := { r.sch with timeList := l } }).modes = r.modes := by
    simp
  unfold Quad.expireHead
  dsimp only
  split
  · rfl
  · split
    · rfl
    · split
      · split <;> simp
      · split
        · next p e => simp [fst_modes_of_eq e (makeReady_modes ..)]
        · next p r _ e => split <;> simp [fst_modes_of_eq e (makeReady_modes ..)]

/-! #### The operations of KilnOps -/

@[simp] theorem klnRecord_modes (q : Quad) (status typ reason : Nat) (id : BitVec 16) (tick : W32) (now defer : Nat) :
    (q.klnRecord status typ reason id tick now defer).modes = q.modes := by
  simp [Quad.klnRecord]

@[simp] theorem noteGen_modes (q : Quad) (g : Fin 16) (start : W32) (len : Nat) (id : BitVec 16) : (q.noteGen g start len id).modes = q.modes := (rfl)

@[simp] theorem prepare_modes (q : Quad) (id : BitVec 16) (scene : Nat) (t : W64) (soonest : Nat) (dom : Bool) :
    (q.prepare id scene t soonest dom).1.modes = q.modes := by
  unfold Quad.prepare
  dsimp only
  repeat' split
  all_goals simp

@[simp] theorem abandon_modes (q : Quad) (p : Prepared) (status reason : Nat) : (q.abandon p status reason).modes = q.modes := by simp [Quad.abandon]

@[simp] theorem commitId_modes (q : Quad) (id : BitVec 16) : (q.commitId id).1.modes = q.modes := by
  unfold Quad.commitId
  split <;> simp

@[simp] theorem abortColl_modes (q : Quad) (id : BitVec 16) : (q.abortColl id).modes = q.modes := by
  unfold Quad.abortColl
  split <;> simp

@[simp] theorem abortId_modes (q : Quad) (id : BitVec 16) : (q.abortId id).1.modes = q.modes := by
  unfold Quad.abortId
  repeat' split
  all_goals simp

@[simp] theorem replacePend_modes (q : Quad) (o : Obj) (new : BitVec 16) : (q.replacePend o new).modes = q.modes := by
  unfold Quad.replacePend
  split <;> simp

@[simp] theorem reach_modes (q : Quad) (p : Prepared) (x : List Obj) : (q.reach p x).1.modes = q.modes := by
  induction x generalizing q with
  | nil => rfl
  | cons o t ih =>
    unfold Quad.reach
    dsimp only
    split <;> simp [ih]

@[simp] theorem kilnWords_modes (q : Quad) : q.kilnWords.modes = q.modes := by simp [Quad.kilnWords]

@[simp] theorem takeEffect_modes (q : Quad) (p : Prepared) : (q.takeEffect p).modes = q.modes := by
  unfold Quad.takeEffect
  dsimp only
  split <;> simp

@[simp] theorem applyHold_modes (q : Quad) (o : Obj) : (q.applyHold o).modes = q.modes := by simp [Quad.applyHold]

@[simp] theorem endObj_modes (q : Quad) (o : Obj) : (q.endObj o).modes = q.modes := by simp [Quad.endObj]

@[simp] theorem markDue_modes (q : Quad) : q.markDue.modes = q.modes := (rfl)

@[simp] theorem serveGroup_modes (q : Quad) (key : Nat × Option W64) : (q.serveGroup key).modes = q.modes := by
  unfold Quad.serveGroup
  dsimp only
  repeat' split
  all_goals simp

@[simp] theorem serveGroups_modes (q : Quad) : q.serveGroups.modes = q.modes := by simp [Quad.serveGroups]

@[simp] theorem endFade_modes (q : Quad) (f : Fade) : (q.endFade f).modes = q.modes := by simp [Quad.endFade]

@[simp] theorem kilnHalt_modes (q : Quad) : q.kilnHalt.modes = q.modes := by simp [Quad.kilnHalt]

/-! #### The operations of AssignOps -/

@[simp] theorem assignTo_modes (q : Quad) (pos : Nat) (i : Inst) : (q.assignTo pos i).modes = q.modes := by
  unfold Quad.assignTo
  dsimp only
  repeat' split
  all_goals simp

@[simp] theorem taskAssign_modes (q : Quad) (pos : Nat) : (q.taskAssign pos).modes = q.modes := by
  unfold Quad.taskAssign
  dsimp only
  repeat' split
  all_goals simp

@[simp] theorem evtPost_modes (q : Quad) (pos : Nat) : (q.evtPost pos).modes = q.modes := by
  unfold Quad.evtPost
  dsimp only
  repeat' split
  all_goals simp

@[simp] theorem listExpiry_modes (q : Quad) (tk : Bool) : (q.listExpiry tk).modes = q.modes := by
  unfold Quad.listExpiry
  repeat' split
  all_goals simp

@[simp] theorem mboxRef_modes (q : Quad) : q.mboxRef.modes = q.modes := (rfl)

@[simp] theorem mailboxWrite_modes (q : Quad) (fromHost : Bool) (v : W32) : (q.mailboxWrite fromHost v).1.modes = q.modes := by
  simp [Quad.mailboxWrite]

@[simp] theorem mailboxOffer_modes (q : Quad) : q.mailboxOffer.modes = q.modes := by
  unfold Quad.mailboxOffer
  split
  · rfl
  · split
    all_goals next e => simp [fst_modes_of_eq e (makeReady_modes ..)]

@[simp] theorem mailboxDrain_modes (q : Quad) : q.mailboxDrain.modes = q.modes := by simp [Quad.mailboxDrain]

@[simp] theorem spawnAnswered_modes (q : Quad) (c : Fin 17) : (q.spawnAnswered c).modes = q.modes := (rfl)

@[simp] theorem flowCfgWrite_modes (q : Quad) (f : Nat) (v : W32) : (q.flowCfgWrite f v).modes = q.modes := by simp [Quad.flowCfgWrite]

/-! #### The operations of FabricOps -/

@[simp] theorem mapFab_modes (q : Quad) (f : Fabric → Fabric) : (q.mapFab f).modes = q.modes := (rfl)

@[simp] theorem slotStore_modes (q : Quad) (s j : Nat) (v : W40) : (q.slotStore s j v).modes = q.modes := by simp [Quad.slotStore]

@[simp] theorem slotStore4_modes (q : Quad) (s : Nat) (v : List W40) : (q.slotStore4 s v).modes = q.modes := by simp [Quad.slotStore4]

@[simp] theorem ioStore_modes (q : Quad) (kind s j : Nat) (v : W40) : (q.ioStore kind s j v).modes = q.modes := by simp [Quad.ioStore]

@[simp] theorem ioStore4_modes (q : Quad) (kind s : Nat) (v : List W40) : (q.ioStore4 kind s v).modes = q.modes := by simp [Quad.ioStore4]

@[simp] theorem noteSlot_modes (q : Quad) (s : Nat) (js : List Nat) : (q.noteSlot s js).modes = q.modes := by simp [Quad.noteSlot]

@[simp] theorem fabFault_modes (q : Quad) (dst cause : Nat) : (q.fabFault dst cause).modes = q.modes := by simp [Quad.fabFault]

@[simp] theorem readEntry_modes (q : Quad) (i : Nat) : (q.readEntry i).modes = q.modes := by simp [Quad.readEntry]

@[simp] theorem formRuns_modes (q : Quad) (x : List Nat) (y : Option (Nat × List Nat)) (z : List (Nat × List Nat)) :
    (q.formRuns x y z).1.modes = q.modes := by
  induction x generalizing q y z with
  | nil => rfl
  | cons i t ih =>
    unfold Quad.formRuns
    dsimp only
    repeat' split
    all_goals simp [ih]

@[simp] theorem countSources_modes (q : Quad) (run : List Nat) : (q.countSources run).modes = q.modes := by simp [Quad.countSources]

@[simp] theorem runWrite_modes (q : Quad) (dst : Nat) (sums : List W96) : (q.runWrite dst sums).modes = q.modes := by simp [Quad.runWrite]

@[simp] theorem mainPass_modes (q : Quad) (upsets : List RunUpset) (x : List (Nat × List Nat)) (y : Nat) :
    (q.mainPass upsets x y).1.modes = q.modes := by
  induction x generalizing q y with
  | nil => rfl
  | cons e t ih =>
    unfold Quad.mainPass
    dsimp only
    repeat' split
    all_goals simp [ih]

@[simp] theorem pass_modes (q : Quad) (upsets : List RunUpset) : (q.pass upsets).modes = q.modes := by simp [Quad.pass]

@[simp] theorem vote_modes (q : Quad) (r : Retry) : (q.vote r).modes = q.modes := by simp [Quad.vote]

@[simp] theorem votes_modes (q : Quad) (t : Nat) (x : List Retry) : (q.votes t x).modes = q.modes := by
  induction x generalizing q t with
  | nil => rfl
  | cons r l ih =>
    unfold Quad.votes
    dsimp only
    split <;> simp [ih]

@[simp] theorem fixTaps_modes (q : Quad) : q.fixTaps.modes = q.modes := (rfl)

@[simp] theorem meterAdd_modes (q : Quad) : q.meterAdd.modes = q.modes := (rfl)

/-! #### The operations of ExchOps -/

@[simp] theorem badWrite_modes (q : Quad) (s : Nat) : (q.badWrite s).modes = q.modes := (rfl)

@[simp] theorem slotWord_modes (q : Quad) (m : Master) (s j : Nat) (v : W40) : (q.slotWord m s j v).1.modes = q.modes := by simp [Quad.slotWord]

@[simp] theorem viewWrite_modes (q : Quad) (m : Master) (o : Nat) (bytes : List Byte) : (q.viewWrite m o bytes).1.modes = q.modes := by
  unfold Quad.viewWrite
  dsimp only
  split <;> simp

@[simp] theorem viewRead_modes (q : Quad) (o n : Nat) : (q.viewRead o n).2.2.modes = q.modes := by simp [Quad.viewRead]

@[simp] theorem routeBytes_modes (q : Quad) (keep : Bool) (bytes : List (Nat × Byte)) : (q.routeBytes keep bytes).modes = q.modes := by
  unfold Quad.routeBytes
  refine foldl_modes _ _ _ fun q x => ?_
  simp

@[simp] theorem routeClean_modes (q : Quad) (bytes : List (Nat × Byte)) : (q.routeClean bytes).modes = q.modes := by
  unfold Quad.routeClean
  refine foldl_modes _ _ _ fun q x => ?_
  simp

@[simp] theorem beatTake_modes (q : Quad) (b : Beat) : (q.beatTake b).1.modes = q.modes := by
  unfold Quad.beatTake
  split
  · next p e => exact fst_modes_of_eq e (kilnWrite_modes ..)
  · next p rest e =>
    rw [← fst_modes_of_eq e (kilnWrite_modes ..)]
    split
    · rfl
    · split <;> simp

@[simp] theorem routePlace_modes (q : Quad) (b : Beat) : (q.routePlace b).1.modes = q.modes := by simp [Quad.routePlace]

@[simp] theorem routeWriteL_modes (q : Quad) (by_ : BeatBy) (all : List (Nat × Byte)) : (q.routeWriteL by_ all).1.modes = q.modes := by
  simp [Quad.routeWriteL]

@[simp] theorem routeWrite_modes (q : Quad) (by_ : BeatBy) (a : Nat) (bytes : List Byte) : (q.routeWrite by_ a bytes).1.modes = q.modes := by
  simp [Quad.routeWrite]

@[simp] theorem applyDirect_modes (q : Quad) : q.applyDirect.modes = q.modes := by simp [Quad.applyDirect]

@[simp] theorem resumeDirect_modes (q : Quad) (x : Nat) : (q.resumeDirect x).1.modes = q.modes := by
  induction x generalizing q with
  | zero => rfl
  | succ n ih =>
    unfold Quad.resumeDirect
    split
    · rfl
    · split
      · rfl
      · simp [ih]

@[simp] theorem maskBeats_modes (q : Quad) (by_ : BeatBy) : (q.maskBeats by_).1.modes = q.modes := (rfl)

@[simp] theorem ownWrite_modes (q : Quad) (s : Nat) (v : W32) : (q.ownWrite s v).modes = q.modes := by
  unfold Quad.ownWrite
  split <;> simp

@[simp] theorem applyOwners_modes (q : Quad) : q.applyOwners.modes = q.modes := by
  unfold Quad.applyOwners
  refine foldl_modes _ _ _ fun q x => ?_
  simp

@[simp] theorem mperWrite_modes (q : Quad) (v : Nat) : (q.mperWrite v).modes = q.modes := by simp [Quad.mperWrite]

@[simp] theorem meterEnd_modes (q : Quad) : q.meterEnd.modes = q.modes := by simp [Quad.meterEnd]

/-! #### The operations of SnxOps -/

@[simp] theorem mapSnx_modes (q : Quad) (f : Snx → Snx) : (q.mapSnx f).modes = q.modes := (rfl)

@[simp] theorem setSnx_modes (q : Quad) (n : Nat) : (q.setSnx n).modes = q.modes := (rfl)

@[simp] theorem setLink_modes (q : Quad) (p : Fin 2) (n : Nat) : (q.setLink p n).modes = q.modes := (rfl)

@[simp] theorem snxOn_modes (q : Quad) : q.snxOn.modes = q.modes := by simp [Quad.snxOn]

@[simp] theorem collRecord_modes (q : Quad) (c : Collect) (reason : Nat) : (q.collRecord c reason).modes = q.modes := by simp [Quad.collRecord]

@[simp] theorem dropColl_modes (q : Quad) : q.dropColl.modes = q.modes := by
  unfold Quad.dropColl
  split <;> simp

@[simp] theorem snxOffAll_modes (q : Quad) : q.snxOffAll.modes = q.modes := by simp [Quad.snxOffAll]

@[simp] theorem queueCell_modes (q : Quad) (c : MsgCell) (n : Nat) : (q.queueCell c n).modes = q.modes := (rfl)

@[simp] theorem sendJoin_modes (q : Quad) : q.sendJoin.modes = q.modes := (rfl)

@[simp] theorem tryJoin_modes (q : Quad) : q.tryJoin.modes = q.modes := by
  unfold Quad.tryJoin
  repeat' split
  all_goals simp

@[simp] theorem fillCells_modes (q : Quad) (f : W64) (ring : Bool) (m : MsgArea) : (q.fillCells f ring m).1.modes = q.modes := (rfl)

@[simp] theorem insertChans_modes (q : Quad) (f : SnxFrame) : (q.insertChans f).1.modes = q.modes := by
  unfold Quad.insertChans
  dsimp only
  split <;> simp

@[simp] theorem rxPut_modes (q : Quad) (f : W64) (slot : Nat) (v : List W40) : (q.rxPut f slot v).modes = q.modes := by simp [Quad.rxPut]

@[simp] theorem takeChans_modes (q : Quad) (f : SnxFrame) : (q.takeChans f).modes = q.modes := by simp [Quad.takeChans]

@[simp] theorem zeroFill_modes (q : Quad) (f : W64) : (q.zeroFill f).modes = q.modes := by simp [Quad.zeroFill]

@[simp] theorem announceWrap_modes (q : Quad) (wrap : Bool) : (q.announceWrap wrap).modes = q.modes := by simp [Quad.announceWrap]

@[simp] theorem announceLevel_modes (q : Quad) (at_ : W64) (sl : BitVec 8) (fl : BitVec 16) : (q.announceLevel at_ sl fl).modes = q.modes := (rfl)

@[simp] theorem joinTake_modes (q : Quad) (c : MsgCell) : (q.joinTake c).modes = q.modes := by simp [Quad.joinTake]

@[simp] theorem joinAckTake_modes (q : Quad) (c : MsgCell) : (q.joinAckTake c).modes = q.modes := by simp [Quad.joinAckTake]

@[simp] theorem takeCell_modes (q : Quad) (c : MsgCell) : (q.takeCell c).modes = q.modes := by
  unfold Quad.takeCell
  split <;> simp

@[simp] theorem takePrepare_modes (q : Quad) (p : PrepRec) : (q.takePrepare p).modes = q.modes := by
  have prep (r : Quad) (a : W64) : (Quad.takePrepare.prep p r a).modes = r.modes := by simp [Quad.takePrepare.prep]
  have go (r : Quad) (a : W64) : (Quad.takePrepare.go p r a).modes = r.modes := by
    unfold Quad.takePrepare.go
    repeat' split
    all_goals simp [prep]
  unfold Quad.takePrepare
  dsimp only
  repeat' split
  all_goals simp [go]

@[simp] theorem takeDecision_modes (q : Quad) (d : Decision) : (q.takeDecision d).modes = q.modes := by
  unfold Quad.takeDecision
  repeat' split
  all_goals simp

@[simp] theorem takeAgg_modes (q : Quad) (m : MsgArea) : (q.takeAgg m).modes = q.modes := by simp [Quad.takeAgg]

@[simp] theorem takeLeff_modes (q : Quad) (m : MsgArea) : (q.takeLeff m).modes = q.modes := by
  unfold Quad.takeLeff
  repeat' split
  all_goals simp

@[simp] theorem takeMsg_modes (q : Quad) (i : InMsg) (cells : List MsgCell) : (q.takeMsg i cells).modes = q.modes := by
  have celled (q : Quad) : (cells.foldl (fun q c => q.takeCell c) q).modes = q.modes := foldl_modes _ _ _ fun q c => takeCell_modes ..
  unfold Quad.takeMsg
  extract_lets m mgr q1 q2 q3 q4 q5 q6
  have one : q1.modes = q.modes := by
    simp only [q1]
    split <;> simp
  clear_value q1
  have two : q2.modes = q1.modes := by
    simp only [q2]
    split
    · split <;> rfl
    · rfl
  clear_value q2
  have three : q3.modes = q2.modes := by
    simp only [q3]
    split <;> simp
  clear_value q3
  have four : q4.modes = q3.modes := foldl_modes _ _ _ fun q d => takeDecision_modes ..
  clear_value q4
  have five : q5.modes = q4.modes := takeLeff_modes ..
  clear_value q5
  have six : q6.modes = q4.modes := by
    simp only [q6]
    split
    · rfl
    · split
      · rw [ite_modes, mapSnx_modes, ite_self, five]
      · exact five
  clear_value q6
  split
  · rw [celled]
    split <;> simp
  · rw [celled, six, four, three, two, one]

@[simp] theorem takeAll_modes (q : Quad) (x : List InMsg) : (q.takeAll x).modes = q.modes := by
  induction x generalizing q with
  | nil => rfl
  | cons i t ih => simp [Quad.takeAll, ih]

@[simp] theorem takeInbox_modes (q : Quad) : q.takeInbox.modes = q.modes := by
  unfold Quad.takeInbox
  dsimp only
  repeat' split
  all_goals simp

@[simp] theorem keepMsg_modes (q : Quad) (f : W64) (own whole : Bool) (m : MsgArea) : (q.keepMsg f own whole m).modes = q.modes := (rfl)

@[simp] theorem decideDomain_modes (q : Quad) : q.decideDomain.modes = q.modes := by
  unfold Quad.decideDomain
  dsimp only
  repeat' split
  all_goals simp

@[simp] theorem residence_modes (q : Quad) : (q.residence).2.modes = q.modes := (rfl)

@[simp] theorem sendFrame_modes (q : Quad) (p : Fin 2) (f : SnxFrame) : (q.sendFrame p f).modes = q.modes := (rfl)

@[simp] theorem launchOn_modes (q : Quad) (p : Fin 2) : (q.launchOn p).modes = q.modes := by simp [Quad.launchOn]

@[simp] theorem launch_modes (q : Quad) : q.launch.modes = q.modes := by simp [Quad.launch]

@[simp] theorem recover_modes (q : Quad) (p : Fin 2) (f : SnxFrame) : (q.recover p f).modes = q.modes := by simp [Quad.recover]

@[simp] theorem frameEnd_modes (q : Quad) (f : SnxFrame) : (q.frameEnd f).modes = q.modes := by
  unfold Quad.frameEnd
  split <;> simp

@[simp] theorem forward_modes (q : Quad) (p : Fin 2) (f : SnxFrame) : (q.forward p f).modes = q.modes := by simp [Quad.forward]

@[simp] theorem noteForeign_modes (q : Quad) (f : SnxFrame) : (q.noteForeign f).modes = q.modes := by simp [Quad.noteForeign]

@[simp] theorem conflict_modes (q : Quad) (f : SnxFrame) : (q.conflict f).modes = q.modes := by simp [Quad.conflict]

@[simp] theorem tickCheck_modes (q : Quad) (f : SnxFrame) : (q.tickCheck f).modes = q.modes := by simp [Quad.tickCheck]

@[simp] theorem setLevels_modes (q : Quad) (sl : BitVec 8) (fl : BitVec 16) : (q.setLevels sl fl).modes = q.modes := (rfl)

@[simp] theorem hearLevels_modes (q : Quad) (f : SnxFrame) : (q.hearLevels f).modes = q.modes := by simp [Quad.hearLevels]

@[simp] theorem unwrap_modes (q : Quad) : q.unwrap.modes = q.modes := (rfl)

@[simp] theorem hearWrap_modes (q : Quad) (f : SnxFrame) : (q.hearWrap f).modes = q.modes := by simp [Quad.hearWrap]

@[simp] theorem framePass_modes (q : Quad) (p : Fin 2) (f : SnxFrame) : (q.framePass p f).modes = q.modes := by
  unfold Quad.framePass
  split
  · rfl
  · split
    · split <;> simp
    · extract_lets q1 mine q2 o q3 joined told timed good kept shown taken
      have one : q1.modes = q.modes := mapSnx_modes ..
      have bad : q2.modes = q.modes := (count_modes ..).trans one
      have other : q3.modes = q.modes := (mapSnx_modes ..).trans one
      have all : taken.modes = q.modes := by simp [taken, shown, kept, good, timed, told, joined, one]
      clear_value q1 q2 q3 taken
      repeat' split
      all_goals simp [bad, other, all]

@[simp] theorem frameMissing_modes (q : Quad) : q.frameMissing.modes = q.modes := by simp [Quad.frameMissing]

@[simp] theorem takeover_modes (q : Quad) : q.takeover.modes = q.modes := by simp [Quad.takeover]

@[simp] theorem managerStart_modes (q : Quad) : q.managerStart.modes = q.modes := by simp [Quad.managerStart]

@[simp] theorem snxJoin_modes (q : Quad) : q.snxJoin.modes = q.modes := by simp [Quad.snxJoin]

@[simp] theorem joinRetry_modes (q : Quad) : q.joinRetry.modes = q.modes := by simp [Quad.joinRetry]

@[simp] theorem levelChange_modes (q : Quad) : q.levelChange.modes = q.modes := by
  unfold Quad.levelChange
  split <;> simp

@[simp] theorem memberEntry_modes (q : Quad) : q.memberEntry.modes = q.modes := by
  unfold Quad.memberEntry
  dsimp only
  repeat' split
  all_goals simp

@[simp] theorem snxLeave_modes (q : Quad) : q.snxLeave.modes = q.modes := by simp [Quad.snxLeave]

@[simp] theorem snxYield_modes (q : Quad) (ymid : Nat) : (q.snxYield ymid).modes = q.modes := by simp [Quad.snxYield]

@[simp] theorem handover_modes (q : Quad) : q.handover.modes = q.modes := by
  unfold Quad.handover
  split <;> simp

@[simp] theorem wrapChange_modes (q : Quad) : q.wrapChange.modes = q.modes := by
  unfold Quad.wrapChange
  split <;> simp

@[simp] theorem snxHeal_modes (q : Quad) : q.snxHeal.modes = q.modes := by simp [Quad.snxHeal]

@[simp] theorem linkLock_modes (q : Quad) (p : Fin 2) : (q.linkLock p).modes = q.modes := by simp [Quad.linkLock]

@[simp] theorem linkUp_modes (q : Quad) (p : Fin 2) : (q.linkUp p).modes = q.modes := by simp [Quad.linkUp]

@[simp] theorem linkDown_modes (q : Quad) (p : Fin 2) : (q.linkDown p).modes = q.modes := by simp [Quad.linkDown]

@[simp] theorem delayProbe_modes (q : Quad) (p : Fin 2) (roundTrip turnaround : Nat) : (q.delayProbe p roundTrip turnaround).modes = q.modes := by
  simp [Quad.delayProbe]

@[simp] theorem passesEnded_modes (q : Quad) (f : W64) : (q.passesEnded f).2.modes = q.modes := by
  unfold Quad.passesEnded
  dsimp only
  repeat' split
  all_goals simp

@[simp] theorem snxEnd_modes (q : Quad) : q.snxEnd.modes = q.modes := by simp [Quad.snxEnd]

@[simp] theorem snxBegin_modes (q : Quad) : q.snxBegin.modes = q.modes := by
  unfold Quad.snxBegin
  dsimp only
  repeat' split
  all_goals simp

/-! #### The operations of PortOps -/

@[simp] theorem mapPrt_modes (q : Quad) (f : Ports → Ports) : (q.mapPrt f).modes = q.modes := (rfl)

@[simp] theorem mapTdm_modes (q : Quad) (p : Fin 8) (f : Tdm → Tdm) : (q.mapTdm p f).modes = q.modes := (rfl)

@[simp] theorem mapRx_modes (q : Quad) (r : Fin 4) (f : AesRx → AesRx) : (q.mapRx r f).modes = q.modes := (rfl)

@[simp] theorem mapTx_modes (q : Quad) (t : Fin 4) (f : AesTx → AesTx) : (q.mapTx t f).modes = q.modes := (rfl)

@[simp] theorem mapAsrc_modes (q : Quad) (g : Fin 12) (f : Asrc → Asrc) : (q.mapAsrc g f).modes = q.modes := (rfl)

@[simp] theorem mapBlock_modes (q : Quad) (b : Nat) (f : Block → Block) : (q.mapBlock b f).modes = q.modes := (rfl)

@[simp] theorem convert_modes (q : Quad) (kind : Nat) (hist : List W40) : (q.convert kind hist).2.modes = q.modes := by
  unfold Quad.convert
  split <;> simp

@[simp] theorem tdmStore_modes (q : Quad) (p j : Nat) (v : List W40) : (q.tdmStore p j v).modes = q.modes := by simp [Quad.tdmStore]

@[simp] theorem convertAll_modes (q : Quad) (kind : Nat) (x : List (List W40)) : (q.convertAll kind x).2.modes = q.modes := by
  induction x generalizing q with
  | nil => rfl
  | cons h t ih => simp [Quad.convertAll, ih]

@[simp] theorem tdmFeed_modes (q : Quad) (p : Fin 8) (j : Nat) (v : List W40) : (q.tdmFeed p j v).modes = q.modes := by simp [Quad.tdmFeed]

@[simp] theorem countMissing_modes (q : Quad) (p : Fin 8) (n : Nat) : (q.countMissing p n).modes = q.modes := (rfl)

@[simp] theorem slaveSample_modes (q : Quad) (p : Fin 8) (j : Nat) : (q.slaveSample p j).modes = q.modes := by simp [Quad.slaveSample]

@[simp] theorem slaveUpTo_modes (q : Quad) (p : Fin 8) (n : Nat) : (q.slaveUpTo p n).modes = q.modes := by simp [Quad.slaveUpTo]

@[simp] theorem asrcPush_modes (q : Quad) (g : Fin 12) (v : List W40) : (q.asrcPush g v).modes = q.modes := (rfl)

@[simp] theorem asrcReplace_modes (q : Quad) (g : Fin 12) (channel : Option Nat) : (q.asrcReplace g channel).modes = q.modes := (rfl)

@[simp] theorem asrcFrame_modes (q : Quad) (g : Fin 12) (v : List W40) : (q.asrcFrame g v).modes = q.modes := by simp [Quad.asrcFrame]

@[simp] theorem frameIn_modes (q : Quad) (p : Fin 8) (data : List Bool) : (q.frameIn p data).modes = q.modes := by simp [Quad.frameIn]

@[simp] theorem frameOut_modes (q : Quad) (p : Fin 8) : (q.frameOut p).modes = q.modes := by
  unfold Quad.frameOut
  dsimp only
  repeat' split
  all_goals simp

@[simp] theorem serialFrame_modes (q : Quad) (p : Fin 8) (bits : List Bool) : (q.serialFrame p bits).modes = q.modes := by simp [Quad.serialFrame]

@[simp] theorem serialLost_modes (q : Quad) (p : Fin 8) : (q.serialLost p).modes = q.modes := by simp [Quad.serialLost]

@[simp] theorem maskWrite_modes (q : Quad) (p : Fin 8) (input : Bool) (mask : W32) : (q.maskWrite p input mask).modes = q.modes := by
  simp [Quad.maskWrite]

@[simp] theorem maskEffect_modes (q : Quad) (p : Fin 8) (input : Bool) : (q.maskEffect p input).modes = q.modes := by simp [Quad.maskEffect]

@[simp] theorem setAsrc_modes (q : Quad) (g : Fin 12) (s : AsrcState) : (q.setAsrc g s).modes = q.modes := (rfl)

@[simp] theorem asrcLock_modes (q : Quad) (g : Fin 12) : (q.asrcLock g).modes = q.modes := by simp [Quad.asrcLock]

@[simp] theorem asrcLost_modes (q : Quad) (g : Fin 12) : (q.asrcLost g).modes = q.modes := (rfl)

@[simp] theorem asrcGlitch_modes (q : Quad) (g : Fin 12) : (q.asrcGlitch g).modes = q.modes := by
  unfold Quad.asrcGlitch
  dsimp only
  repeat' split
  all_goals simp

@[simp] theorem asrcAccept_modes (q : Quad) (g : Fin 12) (ratio : W32) (first : Bool) : (q.asrcAccept g ratio first).modes = q.modes := (rfl)

@[simp] theorem asrcEdge_modes (q : Quad) (g : Fin 12) (dev : Int) (ratio : W32) (pre : Preamble) : (q.asrcEdge g dev ratio pre).modes = q.modes := by
  unfold Quad.asrcEdge
  dsimp only
  split <;> simp

@[simp] theorem asrcMissing_modes (q : Quad) (g : Fin 12) : (q.asrcMissing g).modes = q.modes := by
  unfold Quad.asrcMissing
  dsimp only
  split <;> simp

@[simp] theorem asrcEnable_modes (q : Quad) (g : Fin 12) : (q.asrcEnable g).modes = q.modes := by simp [Quad.asrcEnable]

@[simp] theorem asrcDisable_modes (q : Quad) (g : Fin 12) : (q.asrcDisable g).modes = q.modes := (rfl)

@[simp] theorem asrcMap_modes (q : Quad) (g : Fin 12) (all : Bool) (j : Nat) : (q.asrcMap g all j).modes = q.modes := by
  unfold Quad.asrcMap
  dsimp only
  repeat' split
  all_goals simp

@[simp] theorem asrcSample_modes (q : Quad) (g : Fin 12) (j : Nat) : (q.asrcSample g j).modes = q.modes := by
  unfold Quad.asrcSample
  split <;> simp

@[simp] theorem asrcEnd_modes (q : Quad) (g : Fin 12) : (q.asrcEnd g).modes = q.modes := by simp [Quad.asrcEnd]

@[simp] theorem csCapture_modes (q : Quad) (r : Fin 4) (ts zidx : W32) : (q.csCapture r ts zidx).modes = q.modes := by simp [Quad.csCapture]

@[simp] theorem auxPush_modes (q : Quad) (r : Nat) (b : Byte) : (q.auxPush r b).modes = q.modes := by simp [Quad.auxPush]

@[simp] theorem aesReceive_modes (q : Quad) (r : Fin 4) (f : AesFrame) : (q.aesReceive r f).modes = q.modes := by
  unfold Quad.aesReceive
  dsimp only
  repeat' split
  all_goals simp

@[simp] theorem csLatch_modes (q : Quad) (w : Writer) (r : Fin 4) : (q.csLatch w r).modes = q.modes := by simp [Quad.csLatch]

@[simp] theorem txcsWrite_modes (q : Quad) (t : Fin 4) (word : Nat) (v : W32) : (q.txcsWrite t word v).modes = q.modes := by simp [Quad.txcsWrite]

@[simp] theorem txcsApply_modes (q : Quad) (t : Fin 4) : (q.txcsApply t).modes = q.modes := by simp [Quad.txcsApply]

@[simp] theorem userBits_modes (q : Quad) (t : Nat) : (q.userBits t).2.2.modes = q.modes := by
  unfold Quad.userBits
  dsimp only
  repeat' split
  all_goals simp

@[simp] theorem aesTransmit_modes (q : Quad) (t : Fin 4) : (q.aesTransmit t).modes = q.modes := by
  unfold Quad.aesTransmit
  dsimp only
  repeat' split
  all_goals simp

@[simp] theorem portEnable_modes (q : Quad) (x : PortBlock) : (q.portEnable x).modes = q.modes := by
  unfold Quad.portEnable
  split <;> simp

@[simp] theorem putHeader_modes (q : Quad) (b : Nat) (words : List W32) : (q.putHeader b words).modes = q.modes := (rfl)

@[simp] theorem clearHeaders_modes (q : Quad) : q.clearHeaders.modes = q.modes := (rfl)

@[simp] theorem tdmHeaders_modes (q : Quad) (p : Fin 8) : (q.tdmHeaders p).modes = q.modes := by simp [Quad.tdmHeaders]

@[simp] theorem rxHeader_modes (q : Quad) (r : Fin 4) : (q.rxHeader r).modes = q.modes := by simp [Quad.rxHeader]

@[simp] theorem txHeader_modes (q : Quad) (t : Fin 4) : (q.txHeader t).modes = q.modes := by simp [Quad.txHeader]

@[simp] theorem portsEnd_modes (q : Quad) : q.portsEnd.modes = q.modes := by simp [Quad.portsEnd]

/-! #### The operations of DecOps -/

@[simp] theorem mapDec_modes (q : Quad) (f : Dec → Dec) : (q.mapDec f).modes = q.modes := (rfl)

@[simp] theorem mapIn_modes (q : Quad) (n : Fin 64) (f : DecIn → DecIn) : (q.mapIn n f).modes = q.modes := (rfl)

@[simp] theorem modClock_modes (q : Quad) (c : Fin 8) (en : Bool) : (q.modClock c en).modes = q.modes := by simp [Quad.modClock]

@[simp] theorem decZero_modes (q : Quad) (n : Nat) : (q.decZero n).modes = q.modes := (rfl)

@[simp] theorem decEnable_modes (q : Quad) (n : Fin 64) (en : Bool) : (q.decEnable n en).modes = q.modes := by simp [Quad.decEnable]

@[simp] theorem syncArm_modes (q : Quad) (key : W32) : (q.syncArm key).modes = q.modes := by simp [Quad.syncArm]

@[simp] theorem decReset_modes (q : Quad) (n : Fin 64) : (q.decReset n).modes = q.modes := (rfl)

@[simp] theorem syncReset_modes (q : Quad) : q.syncReset.modes = q.modes := by simp [Quad.syncReset]

@[simp] theorem openDiv_modes (q : Quad) (e : Int) (d : Int) : (q.openDiv e d).2.modes = q.modes := by
  unfold Quad.openDiv
  split <;> simp

@[simp] theorem dcBlock_modes (q : Quad) (i : DecIn) (x : W40) : (q.dcBlock i x).2.2.modes = q.modes := by
  unfold Quad.dcBlock
  dsimp only
  repeat' split
  all_goals simp

@[simp] theorem expStep_modes (q : Quad) (k : Option Nat) (v old : Int) : (q.expStep k v old).2.modes = q.modes := by
  unfold Quad.expStep
  split <;> simp

@[simp] theorem detect_modes (q : Quad) (i : DecIn) (y : W40) : (q.detect i y).2.modes = q.modes := by
  unfold Quad.detect
  exact (snd_mk_modes _ _).trans ((expStep_modes ..).trans (expStep_modes ..))

@[simp] theorem decSample_modes (q : Quad) (n : Fin 64) : (q.decSample n).2.2.modes = q.modes := by
  unfold Quad.decSample
  extract_lets i
  split
  · rfl
  · split
    · exact (snd_snd_mk_modes _ _ _).trans (mapIn_modes ..)
    · split
      next y j r e =>
      split
      next k p e' =>
      refine (snd_snd_mk_modes _ _ _).trans ((mapIn_modes ..).trans ?_)
      exact (snd_modes_of_eq e' (detect_modes ..)).trans (snd_snd_modes_of_eq e (dcBlock_modes ..))

@[simp] theorem decTick_modes (q : Quad) (n : Fin 64) (bits : List Bool) : (q.decTick n bits).modes = q.modes := by
  unfold Quad.decTick
  extract_lets osr edge slot take first step
  have taken (q : Quad) (l : List Bool) : (take q l).modes = q.modes := mapIn_modes ..
  have stepped (r : Quad × Nat × Nat) (j : Nat) : (step r j).1.modes = r.1.modes :=
    (ioStore_modes ..).trans ((decSample_modes ..).trans (taken ..))
  split
  next r inv pk e =>
  have folded : r.modes = q.modes := fst_modes_of_eq e (foldl_fst_modes _ _ _ stepped)
  clear_value take step
  simp only [mapIn_modes, putHeader_modes, setFld_modes, raise_modes, ite_modes, ite_self, taken, folded]

@[simp] theorem decEnd_modes (q : Quad) (bits : List (Fin 64 × List Bool)) : (q.decEnd bits).modes = q.modes := by simp [Quad.decEnd]

@[simp] theorem stuckDetect_modes (q : Quad) (n : Fin 64) : (q.stuckDetect n).modes = q.modes := by simp [Quad.stuckDetect]

@[simp] theorem stuckClear_modes (q : Quad) (n : Fin 64) : (q.stuckClear n).modes = q.modes := by simp [Quad.stuckClear]

/-! #### The operations of ClkOps -/

@[simp] theorem mapClk_modes (q : Quad) (f : Clk → Clk) : (q.mapClk f).modes = q.modes := (rfl)

@[simp] theorem mapCand_modes (q : Quad) (n : Fin 10) (f : Cand → Cand) : (q.mapCand n f).modes = q.modes := (rfl)

@[simp] theorem noteDisagree_modes (q : Quad) : q.noteDisagree.modes = q.modes := by simp [Quad.noteDisagree]

@[simp] theorem dropSwitch_modes (q : Quad) : q.dropSwitch.modes = q.modes := by
  unfold Quad.dropSwitch
  split <;> simp

@[simp] theorem enterHoldover_modes (q : Quad) : q.enterHoldover.modes = q.modes := by simp [Quad.enterHoldover]

@[simp] theorem startSwitch_modes (q : Quad) (n : Fin 10) (freq : W32) : (q.startSwitch n freq).modes = q.modes := by simp [Quad.startSwitch]

@[simp] theorem freerun_modes (q : Quad) : q.freerun.modes = q.modes := by simp [Quad.freerun]

@[simp] theorem laterSwitch_modes (q : Quad) (n : Fin 10) : (q.laterSwitch n).modes = q.modes := by simp [Quad.laterSwitch]

@[simp] theorem loseSelected_modes (q : Quad) : q.loseSelected.modes = q.modes := by
  unfold Quad.loseSelected
  dsimp only
  repeat' split
  all_goals simp

@[simp] theorem revert_modes (q : Quad) : q.revert.modes = q.modes := by
  unfold Quad.revert
  repeat' split
  all_goals simp

@[simp] theorem leaveFreerun_modes (q : Quad) : q.leaveFreerun.modes = q.modes := by
  unfold Quad.leaveFreerun
  repeat' split
  all_goals simp

@[simp] theorem onQualify_modes (q : Quad) : q.onQualify.modes = q.modes := by
  unfold Quad.onQualify
  repeat' split
  all_goals simp

@[simp] theorem applySel_modes (q : Quad) : q.applySel.modes = q.modes := by
  unfold Quad.applySel
  dsimp only
  repeat' split
  all_goals simp

@[simp] theorem afterLeave_modes (q : Quad) (n : Fin 10) (was : QState) : (q.afterLeave n was).modes = q.modes := by simp [Quad.afterLeave]

@[simp] theorem goInactive_modes (q : Quad) (n : Fin 10) (cause : Nat) : (q.goInactive n cause).modes = q.modes := by simp [Quad.goInactive]

@[simp] theorem goActive_modes (q : Quad) (n : Fin 10) : (q.goActive n).modes = q.modes := (rfl)

@[simp] theorem rankSet_modes (q : Quad) (n : Fin 10) (rank : Nat) : (q.rankSet n rank).modes = q.modes := by simp [Quad.rankSet]

@[simp] theorem timeLockSet_modes (q : Quad) (lock : Bool) : (q.timeLockSet lock).modes = q.modes := by simp [Quad.timeLockSet]

@[simp] theorem afterRanks_modes (q : Quad) (was : Bool) : (q.afterRanks was).modes = q.modes := by simp [Quad.afterRanks]

@[simp] theorem rankWrite_modes (q : Quad) (n : Fin 10) (rank : Nat) : (q.rankWrite n rank).modes = q.modes := by simp [Quad.rankWrite]

@[simp] theorem gateEnd_modes (q : Quad) (n : Fin 10) (ppm : W32) : (q.gateEnd n ppm).modes = q.modes := by
  unfold Quad.gateEnd
  dsimp only
  repeat' split
  all_goals simp

@[simp] theorem wtrSet_modes (q : Quad) (old : Nat) : (q.wtrSet old).modes = q.modes := by simp [Quad.wtrSet]

@[simp] theorem wtrExpiry_modes (q : Quad) (n : Fin 10) : (q.wtrExpiry n).modes = q.modes := by simp [Quad.wtrExpiry]

@[simp] theorem setFreq_modes (q : Quad) (f : W32) : (q.setFreq f).modes = q.modes := by simp [Quad.setFreq]

@[simp] theorem realign_modes (q : Quad) (n : Fin 10) (gap : Nat) : (q.realign n gap).modes = q.modes := by simp [Quad.realign]

@[simp] theorem loop_modes (q : Quad) (n : Fin 10) (d : Int) : (q.loop n d).modes = q.modes := by simp [Quad.loop]

@[simp] theorem steer_modes (q : Quad) (n : Fin 10) (phase : Int) (gap : Nat) : (q.steer n phase gap).modes = q.modes := by
  unfold Quad.steer
  dsimp only
  split <;> simp

@[simp] theorem dpllEdge_modes (q : Quad) (n : Fin 10) (phase : Int) (gap : Nat) : (q.dpllEdge n phase gap).modes = q.modes := by
  unfold Quad.dpllEdge
  split <;> simp

@[simp] theorem refEdge_modes (q : Quad) (n : Fin 10) (dev : Int) (at_ : Int) (fall : Bool) : (q.refEdge n dev at_ fall).modes = q.modes := by
  simp [Quad.refEdge]

@[simp] theorem refMissing_modes (q : Quad) (n : Fin 10) : (q.refMissing n).modes = q.modes := by
  unfold Quad.refMissing
  dsimp only
  repeat' split
  all_goals simp

@[simp] theorem refsel_modes (q : Quad) (ranks sel mode : Bool) (force : Nat) (rank07 : W32) (rank89 : BitVec 8) :
    (q.refsel ranks sel mode force rank07 rank89).modes = q.modes := by
  simp [Quad.refsel]

@[simp] theorem selWrite_modes (q : Quad) (v : W32) : (q.selWrite v).modes = q.modes := by simp [Quad.selWrite]

@[simp] theorem clkRecheck_modes (q : Quad) : q.clkRecheck.modes = q.modes := by simp [Quad.clkRecheck]

@[simp] theorem freerunDrift_modes (q : Quad) : q.freerunDrift.modes = q.modes := by simp [Quad.freerunDrift]

/-! #### The operations of TimOps -/

@[simp] theorem mapTim_modes (q : Quad) (f : Tim → Tim) : (q.mapTim f).modes = q.modes := (rfl)

@[simp] theorem incrFrWrite_modes (q : Quad) (v : W32) : (q.incrFrWrite v).modes = q.modes := (rfl)

@[simp] theorem incrNsWrite_modes (q : Quad) (v : BitVec 4) : (q.incrNsWrite v).modes = q.modes := by simp [Quad.incrNsWrite]

@[simp] theorem nowRead_modes (q : Quad) (w : Writer) : (q.nowRead w).modes = q.modes := (rfl)

@[simp] theorem slewStart_modes (q : Quad) (cyc : W32) : (q.slewStart cyc).modes = q.modes := by simp [Quad.slewStart]

@[simp] theorem slewEnd_modes (q : Quad) : q.slewEnd.modes = q.modes := by simp [Quad.slewEnd]

@[simp] theorem suspectClear_modes (q : Quad) : q.suspectClear.modes = q.modes := by simp [Quad.suspectClear]

@[simp] theorem launchPassed_modes (q : Quad) (old : Nat) : (q.launchPassed old).modes = q.modes := (rfl)

@[simp] theorem timeStep_modes (q : Quad) (w : Writer) (set permit : Bool) : (q.timeStep w set permit).modes = q.modes := by simp [Quad.timeStep]

@[simp] theorem adjWrite_modes (q : Quad) (w : Writer) (v : W32) : (q.adjWrite w v).modes = q.modes := by
  unfold Quad.adjWrite
  split <;> simp

@[simp] theorem gpioCapture_modes (q : Quad) (pin : Fin 16) (rise : Bool) : (q.gpioCapture pin rise).modes = q.modes := by simp [Quad.gpioCapture]

@[simp] theorem gpioPop_modes (q : Quad) : q.gpioPop.modes = q.modes := (rfl)

@[simp] theorem gpFlag_modes (q : Quad) (f : Field) (pin : Nat) : (q.gpFlag f pin).modes = q.modes := (rfl)

@[simp] theorem mapQueue_modes (q : Quad) (pin : Fin 8) (f : List Launch → List Launch) : (q.mapQueue pin f).modes = q.modes := (rfl)

@[simp] theorem gpioDrive_modes (q : Quad) (pin : Fin 8) : (q.gpioDrive pin).modes = q.modes := by
  unfold Quad.gpioDrive
  split <;> simp

@[simp] theorem gpioLaunch_modes (q : Quad) (pin : Fin 8) : (q.gpioLaunch pin).modes = q.modes := by
  unfold Quad.gpioLaunch
  split <;> simp

@[simp] theorem gpioQueue_modes (q : Quad) (pin : Fin 8) (lvl : Bool) : (q.gpioQueue pin lvl).modes = q.modes := by simp [Quad.gpioQueue]

@[simp] theorem gpioRelease_modes (q : Quad) : q.gpioRelease.modes = q.modes := by simp [Quad.gpioRelease]

/-! #### The operations of NetOps -/

@[simp] theorem rxRing_modes (q : Quad) (p : Fin 2) (cls : Nat) (ts : W64) (l : List Byte) : (q.rxRing p cls ts l).modes = q.modes := by
  simp [Quad.rxRing]

@[simp] theorem headCheck_modes (q : Quad) (p : Fin 2) : (q.headCheck p).modes = q.modes := by simp [Quad.headCheck]

@[simp] theorem txRecord_modes (q : Quad) (p : Fin 2) (status : Nat) (ts : Option W64) : (q.txRecord p status ts).modes = q.modes := by
  simp [Quad.txRecord]

@[simp] theorem txPost_modes (q : Quad) (p : Fin 2) (wp : W32) : (q.txPost p wp).modes = q.modes := by simp [Quad.txPost]

@[simp] theorem txHead_modes (q : Quad) (p : Fin 2) : (q.txHead p).modes = q.modes := by
  unfold Quad.txHead
  dsimp only
  repeat' split
  all_goals simp

@[simp] theorem txLaunch_modes (q : Quad) (p : Fin 2) : (q.txLaunch p).modes = q.modes := by
  unfold Quad.txLaunch
  dsimp only
  repeat' split
  all_goals simp

@[simp] theorem txDone_modes (q : Quad) (p : Fin 2) : (q.txDone p).modes = q.modes := by
  unfold Quad.txDone
  split <;> simp

@[simp] theorem txAbort_modes (q : Quad) (p : Fin 2) : (q.txAbort p).modes = q.modes := by
  unfold Quad.txAbort
  dsimp only
  split <;> simp

@[simp] theorem ethLink_modes (q : Quad) (p : Fin 2) (up : Bool) : (q.ethLink p up).modes = q.modes := (rfl)

@[simp] theorem streamEnable_modes (q : Quad) (rx : Bool) (s : Nat) : (q.streamEnable rx s).modes = q.modes := by simp [Quad.streamEnable]

@[simp] theorem mapRxS_modes (q : Quad) (s : Fin 32) (f : RxStream → RxStream) : (q.mapRxS s f).modes = q.modes := (rfl)

@[simp] theorem mapTxS_modes (q : Quad) (s : Fin 32) (f : TxStream → TxStream) : (q.mapTxS s f).modes = q.modes := (rfl)

@[simp] theorem rxStore_modes (q : Quad) (s : Fin 32) (g ch : Nat) (v : W40) : (q.rxStore s g ch v).modes = q.modes := by simp [Quad.rxStore]

@[simp] theorem rxPlace_modes (q : Quad) (s : Fin 32) (g : Nat) (v : List W40) : (q.rxPlace s g v).modes = q.modes := by simp [Quad.rxPlace]

@[simp] theorem rxGrid_modes (q : Quad) (s : Fin 32) (g : Int) (v : List W40) : (q.rxGrid s g v).modes = q.modes := by simp [Quad.rxGrid]

@[simp] theorem rxTake_modes (q : Quad) (s : Fin 32) (qr : Nat × Nat) (m g : Int) (v : List W40) : (q.rxTake s qr m g v).modes = q.modes := by
  simp [Quad.rxTake]

@[simp] theorem rxSample_modes (q : Quad) (s : Fin 32) (qr : Nat × Nat) (m : Int) (v : List W40) : (q.rxSample s qr m v).modes = q.modes := by
  simp [Quad.rxSample]

@[simp] theorem streamPacket_modes (q : Quad) (p : Fin 2) (s : Fin 32) (k : RtpPacket) : (q.streamPacket p s k).modes = q.modes := by
  simp [Quad.streamPacket]

@[simp] theorem ethReceive_modes (q : Quad) (p : Fin 2) (f : EthFrame) : (q.ethReceive p f).modes = q.modes := by
  unfold Quad.ethReceive
  dsimp only
  repeat' split
  all_goals simp

@[simp] theorem streamDeadline_modes (q : Quad) (s : Fin 32) : (q.streamDeadline s).modes = q.modes := by simp [Quad.streamDeadline]

@[simp] theorem streamLost_modes (q : Quad) (s : Fin 32) : (q.streamLost s).modes = q.modes := by simp [Quad.streamLost]

@[simp] theorem streamsBegin_modes (q : Quad) : q.streamsBegin.modes = q.modes := by
  unfold Quad.streamsBegin
  dsimp only
  split
  · rfl
  · refine foldl_modes _ _ _ fun q s => ?_
    split
    · rfl
    · rw [foldl_modes _ _ _ fun q e => foldl_modes _ _ _ fun q x => rxStore_modes ..]
      simp

@[simp] theorem txPush_modes (q : Quad) (s : Fin 32) (media : Int) (v : List W40) : (q.txPush s media v).modes = q.modes := (rfl)

@[simp] theorem txTake_modes (q : Quad) (s : Fin 32) (g : Nat) (v : List W40) : (q.txTake s g v).modes = q.modes := by simp [Quad.txTake]

@[simp] theorem streamsTake_modes (q : Quad) (m : Mode) : (q.streamsTake m).modes = q.modes := by simp [Quad.streamsTake]

@[simp] theorem streamSend_modes (q : Quad) (s : Fin 32) : (q.streamSend s).modes = q.modes := by simp [Quad.streamSend]

/-! #### The operations of RegRead -/

@[simp] theorem clearRC_modes (q : Quad) (off : Nat) : (q.clearRC off).modes = q.modes := by
  unfold Quad.clearRC
  split <;> simp

@[simp] theorem regRead_modes (q : Quad) (w : Writer) (off : Nat) : (q.regRead w off).2.modes = q.modes := by
  unfold Quad.regRead
  dsimp only
  repeat' split
  all_goals simp

@[simp] theorem rcRead_modes (q : Quad) (w : Writer) (off : Nat) (counted : List Nat) : (q.rcRead w off counted).modes = q.modes := by
  simp [Quad.rcRead]

/-! #### The operations of RegWrite -/

@[simp] theorem w1c_modes (q : Quad) (x : RegW) : (q.w1c x).modes = q.modes := by simp [Quad.w1c]

@[simp] theorem plain_modes (q : Quad) (x : RegW) : (q.plain x).modes = q.modes := by simp [Quad.plain]

@[simp] theorem guarded_modes (q : Quad) (werr : Field) (x : RegW) (ok : Bool) : (q.guarded werr x ok).modes = q.modes := by simp [Quad.guarded]

@[simp] theorem tryWrite_modes (q : Quad) (werr : Field) (x : RegW) (f : Quad → Quad) (h : ∀ q, (f q).modes = q.modes) :
    (q.tryWrite werr x f).1.modes = q.modes := by
  simp [Quad.tryWrite, h]

@[simp] theorem rateWrite_modes (q : Quad) (fi : Nat) : (q.rateWrite fi).modes = q.modes := by simp [Quad.rateWrite]

@[simp] theorem remapWrite_modes (q : Quad) (remap : Bool) : (q.remapWrite remap).modes = q.modes := by simp [Quad.remapWrite]

@[simp] theorem writeQctl_modes (q : Quad) (x : RegW) : (q.writeQctl x).1.modes = q.modes := by simp [Quad.writeQctl]

@[simp] theorem writeSch_modes (q : Quad) (w : Writer) (x : RegW) : (q.writeSch w x).1.modes = q.modes := by
  unfold Quad.writeSch
  split
  · rfl
  · split
    · exact armWrite_modes ..
    · split
      · exact mailboxWrite_modes ..
      · refine tryWrite_modes _ _ _ _ fun q => ?_
        dsimp only
        repeat' split
        all_goals simp

@[simp] theorem writeXch_modes (q : Quad) (x : RegW) : (q.writeXch x).1.modes = q.modes := by
  unfold Quad.writeXch
  refine tryWrite_modes _ _ _ _ fun q => ?_
  dsimp only
  repeat' split
  all_goals simp

@[simp] theorem writeKln_modes (q : Quad) (x : RegW) : (q.writeKln x).1.modes = q.modes := by simp [Quad.writeKln]

@[simp] theorem returnPair_modes (q : Quad) : q.returnPair.modes = q.modes := by
  unfold Quad.returnPair
  refine foldl_modes _ _ _ fun q p => ?_
  dsimp only
  repeat' split
  all_goals simp

@[simp] theorem hpnEnable_modes (q : Quad) : q.hpnEnable.modes = q.modes := by simp [Quad.hpnEnable]

@[simp] theorem hpnDisable_modes (q : Quad) : q.hpnDisable.modes = q.modes := by
  unfold Quad.hpnDisable
  dsimp only
  split
  · simp
  · split
    · rfl
    · refine (foldl_modes _ _ _ fun q p => ?_).trans (by simp)
      repeat' split
      all_goals simp

@[simp] theorem writeHpn_modes (q : Quad) (x : RegW) : (q.writeHpn x).1.modes = q.modes := by simp [Quad.writeHpn]

@[simp] theorem writeClk_modes (q : Quad) (x : RegW) : (q.writeClk x).1.modes = q.modes := by
  unfold Quad.writeClk
  refine tryWrite_modes _ _ _ _ fun q => ?_
  dsimp only
  repeat' split
  all_goals simp

@[simp] theorem writeTim_modes (q : Quad) (w : Writer) (x : RegW) : (q.writeTim w x).1.modes = q.modes := by
  unfold Quad.writeTim
  split
  · rfl
  · refine tryWrite_modes _ _ _ _ fun q => ?_
    dsimp only
    repeat' split
    all_goals simp

@[simp] theorem portOff_modes (q : Quad) (p : Fin 2) : (q.portOff p).modes = q.modes := by simp [Quad.portOff]

@[simp] theorem streamOff_modes (q : Quad) (rx : Bool) (s : Nat) : (q.streamOff rx s).modes = q.modes := by simp [Quad.streamOff]

@[simp] theorem writeStream_modes (q : Quad) (x : RegW) (rx : Bool) (s word : Nat) : (q.writeStream x rx s word).modes = q.modes := by
  simp [Quad.writeStream]

@[simp] theorem writeNet_modes (q : Quad) (x : RegW) : (q.writeNet x).1.modes = q.modes := by
  unfold Quad.writeNet
  refine tryWrite_modes _ _ _ _ fun q => ?_
  dsimp only
  repeat' split
  all_goals simp

@[simp] theorem writeSnx_modes (q : Quad) (x : RegW) : (q.writeSnx x).1.modes = q.modes := by simp [Quad.writeSnx]

@[simp] theorem portDisable_modes (q : Quad) (x : PortBlock) : (q.portDisable x).modes = q.modes := by
  unfold Quad.portDisable
  split <;> simp

@[simp] theorem enWord_modes (q : Quad) (werr en : Field) (x : RegW) (nv : W32) (on off : Quad → Quad) (hon : ∀ q, (on q).modes = q.modes)
    (hoff : ∀ q, (off q).modes = q.modes) : (q.enWord werr en x nv on off).modes = q.modes := by
  unfold Quad.enWord
  dsimp only
  repeat' split
  all_goals simp [hon, hoff]

@[simp] theorem writePrt_modes (q : Quad) (x : RegW) : (q.writePrt x).1.modes = q.modes := by
  unfold Quad.writePrt
  repeat' split
  all_goals simp

@[simp] theorem writeAsr_modes (q : Quad) (x : RegW) : (q.writeAsr x).1.modes = q.modes := by
  unfold Quad.writeAsr
  refine tryWrite_modes _ _ _ _ fun q => ?_
  generalize (x.off - Reg.ASR_GRP 0) % 32 / 4 = n
  as_aux_lemma =>
    repeat' split
    all_goals simp

@[simp] theorem writeDec_modes (q : Quad) (x : RegW) : (q.writeDec x).1.modes = q.modes := by
  unfold Quad.writeDec
  refine tryWrite_modes _ _ _ _ fun q => ?_
  generalize (x.off - Reg.DEC_CH 0) % 16 / 4 = n
  as_aux_lemma =>
    repeat' split
    all_goals simp

@[simp] theorem writeBus_modes (q : Quad) (x : RegW) : (q.writeBus x).1.modes = q.modes := by
  unfold Quad.writeBus
  refine tryWrite_modes _ _ _ _ fun q => ?_
  split
  · split <;> simp
  · simp

@[simp] theorem dmaSubmit_modes (q : Quad) (w : Writer) (desc : W32) : (q.dmaSubmit w desc).modes = q.modes := by simp [Quad.dmaSubmit]

@[simp] theorem writeDma_modes (q : Quad) (w : Writer) (x : RegW) : (q.writeDma w x).1.modes = q.modes := by simp [Quad.writeDma]

@[simp] theorem writeFlt_modes (q : Quad) (x : RegW) : (q.writeFlt x).1.modes = q.modes := by
  unfold Quad.writeFlt
  refine tryWrite_modes _ _ _ _ fun q => ?_
  dsimp only
  repeat' split
  all_goals simp

@[simp] theorem regWrite0_modes (q : Quad) (w : Writer) (off : Nat) (m v : W32) : (q.regWrite0 w off m v).1.modes = q.modes := by
  unfold Quad.regWrite0
  split <;> simp

/-! #### The operations of Bus -/

@[simp] theorem windowRead_modes (q : Quad) (c : Fin 17) (a n : Nat) : (q.windowRead c a n).2.2.modes = q.modes := by simp [Quad.windowRead]

@[simp] theorem regionRead_modes (q : Quad) (w : Writer) (a n : Nat) : (q.regionRead w a n).2.modes = q.modes := by
  unfold Quad.regionRead
  refine (snd_mk_modes _ _).trans (foldl_snd_modes _ _ _ fun r wa => ?_)
  by_cases coef : inCoef wa
  · rw [if_pos coef]
  · rw [if_neg coef]
    exact (snd_mk_modes _ _).trans (regRead_modes ..)

@[simp] theorem busRead_modes (q : Quad) (w : Writer) (t : Target) (a n : Nat) : (q.busRead w t a n).2.2.modes = q.modes := by
  unfold Quad.busRead
  dsimp only
  repeat' split
  all_goals simp

@[simp] theorem tableWrite_modes (q : Quad) (bytes : List (Nat × Byte)) : (q.tableWrite bytes).1.modes = q.modes := by simp [Quad.tableWrite]

@[simp] theorem windowWrite_modes (q : Quad) (c : Fin 17) (bytes : List (Nat × Byte)) : (q.windowWrite c bytes).1.modes = q.modes := by
  simp [Quad.windowWrite]

@[simp] theorem coefWrite_modes (q : Quad) (m : Master) (bytes : List (Nat × Byte)) : (q.coefWrite m bytes).1.modes = q.modes := by
  unfold Quad.coefWrite
  repeat' split
  all_goals simp

@[simp] theorem portsMeet_modes (q : Quad) (m : Master) (l : List (Nat × Byte)) : (q.portsMeet m l).1.modes = q.modes := by
  unfold Quad.portsMeet
  split <;> simp

theorem foldl_fst_keeps {P : Mode × Option ModeChange → Prop} {α β : Type} {f : Quad × β → α → Quad × β} (h : ∀ r a, P r.1.modes → P (f r a).1.modes)
    (l : List α) (r : Quad × β) (hr : P r.1.modes) : P (l.foldl f r).1.modes := by
  induction l generalizing r with
  | nil => exact hr
  | cons a l ih => exact ih _ (h r a hr)

theorem regionWrite_keeps {P : Mode × Option ModeChange → Prop} {regW : Quad → Writer → Nat → W32 → W32 → Quad × Bool}
    (hr : ∀ q w o m v, P q.modes → P (regW q w o m v).1.modes) {q : Quad} (m : Master) (w : Writer) (bytes : List (Nat × Byte)) (h : P q.modes) :
    P (q.regionWrite regW m w bytes).1.modes := by
  unfold Quad.regionWrite
  dsimp only
  refine foldl_fst_keeps (fun r wa hk => ?_) _ _ ?_
  · split
    · simpa using hk
    · exact hr _ _ _ _ _ hk
  · split
    · exact h
    · simpa using h

theorem busWriteL_modes (regW : Quad → Writer → Nat → W32 → W32 → Quad × Bool) (q : Quad) (m : Master) (w : Writer) (t : Target)
    (l : List (Nat × Byte)) (ht : t ≠ .registers) : (q.busWriteL regW m w t l).1.modes = q.modes := by
  have mem (l : List (Nat × Byte)) : (if l.any fun b => q.hpnKept b.1 then (q, St.refused) else
      match q.kilnWrite l with
      | (q, none) => (q, St.refused)
      | (q, some rest) =>
        match q.portsMeet m rest with
        | (q, none) => (q, St.collided)
        | (q, some l) => q.memWriteAt l).1.modes = q.modes := by
    split
    · rfl
    · split
      · next p e => exact fst_modes_of_eq e (kilnWrite_modes ..)
      · next p rest e =>
        rw [← fst_modes_of_eq e (kilnWrite_modes ..)]
        split
        · next r e' => exact fst_modes_of_eq e' (portsMeet_modes ..)
        · next r l' e' => rw [memWriteAt_modes]; exact fst_modes_of_eq e' (portsMeet_modes ..)
  unfold Quad.busWriteL
  dsimp only
  split
  · exact mem _
  · split <;> simp
  · simp
  · split <;> simp
  · split <;> simp
  · split <;> simp
  · split <;> simp
  · exact absurd rfl ht
  · rfl
  · rfl
  · exact mem _

theorem busWriteL_keeps {P : Mode × Option ModeChange → Prop} {regW : Quad → Writer → Nat → W32 → W32 → Quad × Bool}
    (hr : ∀ q w o m v, P q.modes → P (regW q w o m v).1.modes) {q : Quad} (m : Master) (w : Writer) (t : Target) (l : List (Nat × Byte))
    (h : P q.modes) : P (q.busWriteL regW m w t l).1.modes := by
  by_cases regs : t = .registers
  · subst regs; exact regionWrite_keeps hr m w l h
  · rw [busWriteL_modes regW q m w t l regs]; exact h

theorem busWriteAt_keeps {P : Mode × Option ModeChange → Prop} {regW : Quad → Writer → Nat → W32 → W32 → Quad × Bool}
    (hr : ∀ q w o m v, P q.modes → P (regW q w o m v).1.modes) {q : Quad} (m : Master) (w : Writer) (t : Target) (a : Nat) (bytes : List Byte)
    (h : P q.modes) : P (q.busWriteAt regW m w t a bytes).1.modes := by
  exact busWriteL_keeps hr m w t _ h

@[simp] theorem busWrite0_modes (q : Quad) (m : Master) (w : Writer) (t : Target) (a : Nat) (bytes : List Byte) :
    (q.busWrite0 m w t a bytes).1.modes = q.modes := by
  exact busWriteAt_keeps (P := (· = q.modes)) (fun p w o m v h => by simpa using h) m w t a bytes rfl

/-! #### The operations of DmaOps -/

@[simp] theorem mapDma_modes (q : Quad) (f : Dma → Dma) : (q.mapDma f).modes = q.modes := (rfl)

@[simp] theorem submitStat_modes (q : Quad) (w : Writer) (status : Nat) : (q.submitStat w status).modes = q.modes := (rfl)

@[simp] theorem dmaCopied_modes (q : Quad) (w : Writer) : (q.dmaCopied w).modes = q.modes := by
  unfold Quad.dmaCopied
  dsimp only
  repeat' split
  all_goals simp

@[simp] theorem dmaRecord_modes (q : Quad) (i : DmaItem) (status bytes : Nat) : (q.dmaRecord i status bytes).modes = q.modes := by
  unfold Quad.dmaRecord
  dsimp only
  split <;> simp

@[simp] theorem dmaIssue_modes (q : Quad) : q.dmaIssue.modes = q.modes := by
  unfold Quad.dmaIssue
  repeat' split
  all_goals simp

@[simp] theorem readPieces_modes (q : Quad) (t : Target) (x : Nat) (y : Nat) (z : Nat) : (q.readPieces t x y z).2.2.modes = q.modes := by
  induction x generalizing q y z with
  | zero => rfl
  | succ f ih =>
    unfold Quad.readPieces
    dsimp only
    split
    · rfl
    · simp [ih]

@[simp] theorem setItem_modes (q : Quad) (order : Nat) (f : DmaItem → DmaItem) : (q.setItem order f).modes = q.modes := (rfl)

theorem dmaBeat_keeps {P : Mode × Option ModeChange → Prop} {regW : Quad → Writer → Nat → W32 → W32 → Quad × Bool}
    (hr : ∀ q w o m v, P q.modes → P (regW q w o m v).1.modes) {q : Quad} (i : DmaItem) (t : Target) (d : Nat) (data : List Byte) (st bytes : Nat)
    (h : P q.modes) : P (q.dmaBeat regW i t d data st bytes).1.modes := by
  unfold Quad.dmaBeat
  dsimp only
  split
  · simpa using busWriteAt_keeps hr _ _ t d data
      (q := q.setItem i.order fun x => { x with held := some (st, bytes + data.length) }) (by simpa using h)
  · exact busWriteAt_keeps hr _ _ t d data h

theorem dmaMove_keeps {P : Mode × Option ModeChange → Prop} {regW : Quad → Writer → Nat → W32 → W32 → Quad × Bool}
    (hr : ∀ q w o m v, P q.modes → P (regW q w o m v).1.modes) {q : Quad} (i : DmaItem) (stop n p st bytes : Nat) (h : P q.modes) :
    P (q.dmaMove regW i stop n p st bytes).1.modes := by
  induction n generalizing q p st bytes with
  | zero => exact h
  | succ f ih =>
    unfold Quad.dmaMove
    dsimp only
    split
    · exact h
    · split
      · exact h
      · refine ih _ _ _ (dmaBeat_keeps hr _ _ _ _ _ _ ?_)
        repeat' split
        all_goals simpa using h

theorem dmaRun_keeps {P : Mode × Option ModeChange → Prop} {regW : Quad → Writer → Nat → W32 → W32 → Quad × Bool}
    (hr : ∀ q w o m v, P q.modes → P (regW q w o m v).1.modes) {q : Quad} (i : DmaItem) (stop : Nat) (h : P q.modes) :
    P (q.dmaRun regW i stop).1.modes := by
  exact dmaMove_keeps hr i stop stop 0 St.done 0 h

@[simp] theorem dmaFinish_modes (q : Quad) (i : DmaItem) (st bytes : Nat) : (q.dmaFinish i st bytes).modes = q.modes := by
  unfold Quad.dmaFinish
  split
  · simp
  · split
    all_goals next p e => simp [fst_modes_of_eq e (makeReady_modes ..)]

theorem dmaCompleteBy_keeps {P : Mode × Option ModeChange → Prop} {regW : Quad → Writer → Nat → W32 → W32 → Quad × Bool}
    (hr : ∀ q w o m v, P q.modes → P (regW q w o m v).1.modes) {q : Quad} (k : Nat) (h : P q.modes) : P (q.dmaCompleteBy regW k).modes := by
  unfold Quad.dmaCompleteBy
  split
  · exact h
  · next i _ =>
    have run := dmaRun_keeps hr i i.total h
    dsimp only
    repeat' split
    all_goals simpa using run

@[simp] theorem dmaTails_modes (q : Quad) (bad : List Beat) : (q.dmaTails bad).modes = q.modes := by
  unfold Quad.dmaTails
  refine foldl_modes _ _ _ fun q x => ?_
  split <;> simp

@[simp] theorem dmaCut_modes (q : Quad) (i : DmaItem) : (q.dmaCut i).1.modes = q.modes := by
  have run (r : Quad) (n : Nat) : (r.dmaRun Quad.regWrite0 i n).1.modes = r.modes :=
    dmaRun_keeps (P := (· = r.modes)) (fun p w o m v h => by simpa using h) i n rfl
  unfold Quad.dmaCut
  dsimp only
  rw [maskBeats_modes]
  repeat' split
  all_goals simp [run]

@[simp] theorem dmaAbort_modes (q : Quad) (status : Nat) : (q.dmaAbort status).modes = q.modes := by
  unfold Quad.dmaAbort
  dsimp only
  rw [foldl_modes _ _ _ fun q e => submitStat_modes .., foldl_modes _ _ _ fun q i => ?_]
  simp

@[simp] theorem dmaReset_modes (q : Quad) : q.dmaReset.modes = q.modes := by simp [Quad.dmaReset]

/-! #### The operations of PageOps -/

@[simp] theorem rewritePages_modes (q : Quad) : q.rewritePages.modes = q.modes := by
  unfold Quad.rewritePages
  refine foldl_modes _ _ _ fun q x => ?_
  simp

@[simp] theorem windowRefresh_modes (q : Quad) : q.windowRefresh.modes = q.modes := by simp [Quad.windowRefresh]

/-! #### The operations of ModeOps -/

@[simp] theorem endTest_modes (q : Quad) (status detail : Nat) : (q.endTest status detail).modes = q.modes := by
  unfold Quad.endTest
  split <;> simp

@[simp] theorem endRotation_modes (q : Quad) (status : Nat) : (q.endRotation status).modes = q.modes := by
  unfold Quad.endRotation
  dsimp only
  repeat' split
  all_goals simp

@[simp] theorem endLoad_modes (q : Quad) (status : Nat) : (q.endLoad status).modes = q.modes := by
  unfold Quad.endLoad
  dsimp only
  repeat' split
  all_goals simp

@[simp] theorem endRead_modes (q : Quad) (status : Nat) : (q.endRead status).modes = q.modes := by
  unfold Quad.endRead
  split <;> simp

@[simp] theorem cancelWaiting_modes (q : Quad) : q.cancelWaiting.modes = q.modes := by simp [Quad.cancelWaiting]

@[simp] theorem release_modes (q : Quad) : q.release.modes = q.modes := by simp [Quad.release]

@[simp] theorem scourStart_modes (q : Quad) (d : DramBoard) (rate : BitVec 2) : (q.scourStart d rate).modes = q.modes := by simp [Quad.scourStart]

@[simp] theorem measureGrid_modes (q : Quad) : q.measureGrid.modes = q.modes := by simp [Quad.measureGrid]

/-! #### The operations of HpnOps -/

@[simp] theorem hpnVerify_modes (q : Quad) : q.hpnVerify.modes = q.modes := by
  unfold Quad.hpnVerify
  dsimp only
  repeat' split
  all_goals simp

@[simp] theorem copyCore_modes (q : Quad) (a b : Fin 17) : (q.copyCore a b).modes = q.modes := by simp [Quad.copyCore]

@[simp] theorem hpnResult_modes (q : Quad) : q.hpnResult.modes = q.modes := by
  unfold Quad.hpnResult
  dsimp only
  repeat' split
  all_goals simp

@[simp] theorem besidePair_modes (q : Quad) : q.besidePair.modes = q.modes := by
  unfold Quad.besidePair
  split <;> simp

@[simp] theorem startPair_modes (q : Quad) : q.startPair.modes = q.modes := by
  unfold Quad.startPair
  split <;> simp

@[simp] theorem lockstepEnable_modes (q : Quad) : q.lockstepEnable.modes = q.modes := by
  unfold Quad.lockstepEnable
  split <;> simp

@[simp] theorem hpnNext_modes (q : Quad) : q.hpnNext.modes = q.modes := by
  unfold Quad.hpnNext
  dsimp only
  repeat' split
  all_goals simp

@[simp] theorem hpnStart_modes (q : Quad) : q.hpnStart.modes = q.modes := by simp [Quad.hpnStart]

@[simp] theorem hpnEndRun_modes (q : Quad) (status : Nat) : (q.hpnEndRun status).modes = q.modes := by
  unfold Quad.hpnEndRun
  split <;> simp

@[simp] theorem undoOne_modes (q : Quad) (e : JEntry) : (q.undoOne e).modes = q.modes := by
  unfold Quad.undoOne
  split <;> simp

@[simp] theorem undo_modes (q : Quad) (entry : Option Nat) : (q.undo entry).modes = q.modes := by simp [Quad.undo]

@[simp] theorem hpnAbort_modes (q : Quad) (cause : Nat) : (q.hpnAbort cause).modes = q.modes := by
  unfold Quad.hpnAbort
  split <;> simp

@[simp] theorem hpnWatchdog_modes (q : Quad) : q.hpnWatchdog.modes = q.modes := by
  unfold Quad.hpnWatchdog
  split <;> simp

@[simp] theorem emgSample_modes (q : Quad) (emg : BitVec 4) : (q.emgSample emg).1.modes = q.modes := (rfl)

@[simp] theorem emgRise_modes (q : Quad) (mode : Mode) (rise : BitVec 4) : (q.emgRise mode rise).modes = q.modes := by simp [Quad.emgRise]

@[simp] theorem hpnTickEnd_modes (q : Quad) : q.hpnTickEnd.modes = q.modes := (rfl)

@[simp] theorem snapControl_modes (q : Quad) : q.snapControl.modes = q.modes := by
  unfold Quad.snapControl
  refine foldl_modes _ _ _ fun q x => ?_
  simp

/-! #### The operations of FltOps -/

@[simp] theorem leaveRun_modes (q : Quad) : q.leaveRun.modes = q.modes := by simp [Quad.leaveRun]

@[simp] theorem policyWindow_modes (q : Quad) (cls : Nat) : (q.policyWindow cls).modes = q.modes := by simp [Quad.policyWindow]

@[simp] theorem policyWindows_modes (q : Quad) : q.policyWindows.modes = q.modes := by simp [Quad.policyWindows]

@[simp] theorem makeCopy_modes (q : Quad) : q.makeCopy.modes = q.modes := by
  unfold Quad.makeCopy
  dsimp only
  repeat' split
  all_goals simp

@[simp] theorem movePos_modes (q : Quad) (a b : Fin 17) : (q.movePos a b).modes = q.modes := (rfl)

@[simp] theorem outOfUse_modes (q : Quad) (c : Fin 17) : (q.outOfUse c).modes = q.modes := (rfl)

@[simp] theorem retire_modes (q : Quad) (c : Fin 17) (pos : Nat) : (q.retire c pos).modes = q.modes := by simp [Quad.retire]

@[simp] theorem losePos_modes (q : Quad) (c : Fin 17) (pos : Nat) : (q.losePos c pos).modes = q.modes := by simp [Quad.losePos]

@[simp] theorem startRot_modes (q : Quad) (p : Nat) (cmd : Option W32) : (q.startRot p cmd).modes = q.modes := by
  unfold Quad.startRot
  split <;> simp

@[simp] theorem cmdRotate_modes (q : Quad) (seq : W32) (p : Nat) : (q.cmdRotate seq p).modes = q.modes := by simp [Quad.cmdRotate]

@[simp] theorem autoRotate_modes (q : Quad) : q.autoRotate.modes = q.modes := by
  unfold Quad.autoRotate
  dsimp only
  repeat' split
  all_goals simp

@[simp] theorem rotateMove_modes (q : Quad) : q.rotateMove.modes = q.modes := by
  unfold Quad.rotateMove
  dsimp only
  repeat' split
  all_goals simp

@[simp] theorem rotateAbandon_modes (q : Quad) : q.rotateAbandon.modes = q.modes := by
  unfold Quad.rotateAbandon
  split <;> simp

@[simp] theorem rotWaits_modes (q : Quad) : q.rotWaits.modes = q.modes := by
  unfold Quad.rotWaits
  split <;> simp

@[simp] theorem startRepair_modes (q : Quad) (c : Fin 17) (pos : Nat) : (q.startRepair c pos).modes = q.modes := by
  unfold Quad.startRepair
  dsimp only
  repeat' split
  all_goals simp

@[simp] theorem repairMove_modes (q : Quad) : q.repairMove.modes = q.modes := by
  unfold Quad.repairMove
  dsimp only
  repeat' split
  all_goals simp

@[simp] theorem spareTested_modes (q : Quad) (t : TestRun) (pass : Bool) (phase : BitVec 16) : (q.spareTested t pass phase).modes = q.modes := by
  simp [Quad.spareTested]

@[simp] theorem testRefused_modes (q : Quad) (seq : W32) : (q.testRefused seq).modes = q.modes := (rfl)

@[simp] theorem testRun_modes (q : Quad) (code : Nat) (seq b c : W32) : (q.testRun code seq b c).modes = q.modes := (rfl)

@[simp] theorem testCore_modes (q : Quad) (seq b c : W32) : (q.testCore seq b c).modes = q.modes := by simp [Quad.testCore]

@[simp] theorem testUnit_modes (q : Quad) (code : Nat) (seq b c : W32) : (q.testUnit code seq b c).modes = q.modes := by simp [Quad.testUnit]

@[simp] theorem testCustomer_modes (q : Quad) (seq b c : W32) : (q.testCustomer seq b c).modes = q.modes := by
  unfold Quad.testCustomer
  dsimp only
  split
  · split
    all_goals next p e => simp [fst_modes_of_eq e (makeReady_modes ..)]
  · simp

@[simp] theorem zeroRange_modes (q : Quad) (a n : Nat) : (q.zeroRange a n).modes = q.modes := (rfl)

@[simp] theorem bistZero_modes (q : Quad) (t : TestRun) : (q.bistZero t).modes = q.modes := by simp [Quad.bistZero]

@[simp] theorem testDone_modes (q : Quad) (pass : Bool) (detail : BitVec 16) : (q.testDone pass detail).modes = q.modes := by
  unfold Quad.testDone
  split <;> simp

/-! #### The operations of BoundaryOps -/

@[simp] theorem skipUnstarted_modes (q : Quad) : q.skipUnstarted.modes = q.modes := by simp [Quad.skipUnstarted]

@[simp] theorem chargeTask_modes (q : Quad) (t : Nat) : (q.chargeTask t).modes = q.modes := by simp [Quad.chargeTask]

@[simp] theorem countIncomplete_modes (q : Quad) (s : Nat) : (q.countIncomplete s).modes = q.modes := (rfl)

@[simp] theorem chargeSlot_modes (r : Quad × List Nat) (s : Nat) : (Quad.chargeSlot r s).1.modes = r.1.modes := by
  unfold Quad.chargeSlot
  dsimp only
  split <;> simp

@[simp] theorem exchange_modes (q : Quad) (spared : List Nat) : (q.exchange spared).modes = q.modes := by simp [Quad.exchange]

@[simp] theorem showBusy_modes (q : Quad) : q.showBusy.modes = q.modes := by
  unfold Quad.showBusy
  dsimp only
  simp

@[simp] theorem meterTickEnd_modes (q : Quad) : q.meterTickEnd.modes = q.modes := by
  unfold Quad.meterTickEnd
  dsimp only
  split <;> simp

@[simp] theorem tickEnd_modes (q : Quad) (bits : List (Fin 64 × List Bool)) : (q.tickEnd bits).modes = q.modes := by simp [Quad.tickEnd]

@[simp] theorem boundOne_modes (q : Quad) (t : Nat) : (q.boundOne t).modes = q.modes := by simp [Quad.boundOne]

@[simp] theorem boundReady_modes (q : Quad) : q.boundReady.modes = q.modes := by simp [Quad.boundReady]

@[simp] theorem dropBindings_modes (q : Quad) : q.dropBindings.modes = q.modes := (rfl)

@[simp] theorem stepFades_modes (q : Quad) : q.stepFades.modes = q.modes := by simp [Quad.stepFades]

/-! #### The operations of HostOps -/

@[simp] theorem mapHp_modes (q : Quad) (f : HostPort → HostPort) : (q.mapHp f).modes = q.modes := (rfl)

@[simp] theorem refuseWrite_modes (q : Quad) : q.refuseWrite.modes = q.modes := (rfl)

@[simp] theorem refuseRing_modes (q : Quad) : q.refuseRing.modes = q.modes := (rfl)

@[simp] theorem refuseBulk_modes (q : Quad) : q.refuseBulk.modes = q.modes := by simp [Quad.refuseBulk]

@[simp] theorem ringWrite_modes (q : Quad) (word : Nat) (m v : W32) : (q.ringWrite word m v).modes = q.modes := by simp [Quad.ringWrite]

@[simp] theorem cmdWpWrite_modes (q : Quad) (v : W32) : (q.cmdWpWrite v).modes = q.modes := by simp [Quad.cmdWpWrite]

@[simp] theorem cplRpWrite_modes (q : Quad) (v : W32) : (q.cplRpWrite v).modes = q.modes := by simp [Quad.cplRpWrite]

@[simp] theorem bulkWrite_modes (q : Quad) (v : W32) : (q.bulkWrite v).modes = q.modes := by simp [Quad.bulkWrite]

@[simp] theorem bulkRead_modes (q : Quad) : q.bulkRead.modes = q.modes := by
  unfold Quad.bulkRead
  repeat' split
  all_goals simp

@[simp] theorem hostMailbox_modes (q : Quad) (v : W32) : (q.hostMailbox v).modes = q.modes := by simp [Quad.hostMailbox]

@[simp] theorem windowPut_modes (q : Quad) (off : Nat) (be : BitVec 4) (v : W32) : (q.windowPut off be v).modes = q.modes := by simp [Quad.windowPut]

@[simp] theorem drain_modes (q : Quad) : q.drain.modes = q.modes := by
  unfold Quad.drain
  split <;> simp

@[simp] theorem statusModeRead_modes (q : Quad) : q.statusModeRead.modes = q.modes := (rfl)

@[simp] theorem refuseCmd_modes (q : Quad) (seq : W32) (op aux : Nat) : (q.refuseCmd seq op aux).modes = q.modes := (rfl)

@[simp] theorem seqError_modes (q : Quad) (seq : W32) (op aux : Nat) : (q.seqError seq op aux).modes = q.modes := (rfl)

theorem hostCmd_keeps {P : Mode × Option ModeChange → Prop} {q : Quad} (seq : W32) (op aux : Nat) (halt : Bool) {f : Quad → Quad}
    (hf : ∀ q, P q.modes → P (f q).modes) (h : P q.modes) : P (q.hostCmd seq op aux halt f).modes := by
  unfold Quad.hostCmd
  dsimp only
  split
  · exact h
  · split
    · simpa using h
    · split
      · simpa using h
      · exact hf _ (by simpa using h)

theorem hostWord_modes {q r : Quad} {a st : Nat} {v : W32} (h : q.hostWord a = some (v, st, r)) : r.modes = q.modes := by
  unfold Quad.hostWord at h
  split at h
  · exact absurd h (by simp)
  · obtain ⟨-, -, rfl⟩ := by simpa using h
    simp

@[simp] theorem readGo_modes (q : Quad) (x : Nat) : (q.readGo x).modes = q.modes := by
  induction x generalizing q with
  | zero => rfl
  | succ f ih =>
    unfold Quad.readGo
    split
    · rfl
    · split
      · simp
      · split
        · rfl
        · split
          · simp
          · next r _ _ _ v st p e => rw [ih]; simp [hostWord_modes e]

@[simp] theorem readContinue_modes (q : Quad) : q.readContinue.modes = q.modes := by simp [Quad.readContinue]

@[simp] theorem readShort_modes (q : Quad) (seq : W32) (addr n : Nat) : (q.readShort seq addr n).modes = q.modes := by
  unfold Quad.readShort
  split
  · simp
  · next a st p e =>
    split
    · simp [hostWord_modes e]
    · split
      · simp [hostWord_modes e]
      · next b st' r e' => simp [hostWord_modes e', hostWord_modes e]

@[simp] theorem cmdRead_modes (q : Quad) (seq : W32) (addr n : Nat) : (q.cmdRead seq addr n).modes = q.modes := by simp [Quad.cmdRead]

@[simp] theorem completeOpen_modes (q : Quad) (seq : W32) (op status : Nat) : (q.completeOpen seq op status).modes = q.modes := by
  simp [Quad.completeOpen]

@[simp] theorem completeWrite_modes (q : Quad) (seq : W32) (status : Nat) (before : W32) : (q.completeWrite seq status before).modes = q.modes := by
  simp [Quad.completeWrite]

@[simp] theorem hostTail_modes (q : Quad) (bad : List Beat) : (q.hostTail bad).modes = q.modes := by simp [Quad.hostTail]

@[simp] theorem cmdPrepare_modes (q : Quad) (seq : W32) (id : BitVec 16) (scene : Nat) (t : W64) : (q.cmdPrepare seq id scene t).modes = q.modes := by
  simp [Quad.cmdPrepare]

@[simp] theorem cmdDomain_modes (q : Quad) (seq : W32) (id : BitVec 16) (scene : BitVec 8) (t : W64) :
    (q.cmdDomain seq id scene t).modes = q.modes := by
  simp [Quad.cmdDomain]

@[simp] theorem cmdCommit_modes (q : Quad) (seq : W32) (id : BitVec 16) : (q.cmdCommit seq id).modes = q.modes := by simp [Quad.cmdCommit]

@[simp] theorem cmdAbort_modes (q : Quad) (seq : W32) (id : BitVec 16) : (q.cmdAbort seq id).modes = q.modes := by simp [Quad.cmdAbort]

@[simp] theorem cmdCancel_modes (q : Quad) (seq : W32) (task : Nat) : (q.cmdCancel seq task).modes = q.modes := by simp [Quad.cmdCancel]

@[simp] theorem cmdRefsel_modes (q : Quad) (seq : W32) (ranks sel mode : Bool) (force : Nat) (r07 : W32) (r89 : BitVec 8) :
    (q.cmdRefsel seq ranks sel mode force r07 r89).modes = q.modes := by
  simp [Quad.cmdRefsel]

@[simp] theorem cmdAuger_modes (q : Quad) (seq : W32) : (q.cmdAuger seq).modes = q.modes := (rfl)

@[simp] theorem cmdTest_modes (q : Quad) (seq : W32) (code : Nat) (b c : W32) : (q.cmdTest seq code b c).modes = q.modes := by simp [Quad.cmdTest]

@[simp] theorem Cmd_read_modes (q : Quad) (seq : W32) (addr n : Nat) : (Cmd.read q seq addr n).modes = q.modes := by
  exact hostCmd_keeps (P := (· = q.modes)) _ _ _ _ (fun r h => (cmdRead_modes ..).trans h) rfl

@[simp] theorem Cmd_prepare_modes (q : Quad) (seq : W32) (id : BitVec 16) (scene : BitVec 8) (t : W64) :
    (Cmd.prepare q seq id scene t).modes = q.modes := by
  exact hostCmd_keeps (P := (· = q.modes)) _ _ _ _ (fun r h => (cmdPrepare_modes ..).trans h) rfl

@[simp] theorem Cmd_domain_modes (q : Quad) (seq : W32) (id : BitVec 16) (scene : BitVec 8) (t : W64) :
    (Cmd.domain q seq id scene t).modes = q.modes := by
  exact hostCmd_keeps (P := (· = q.modes)) _ _ _ _ (fun r h => (cmdDomain_modes ..).trans h) rfl

@[simp] theorem Cmd_commit_modes (q : Quad) (seq : W32) (id : BitVec 16) : (Cmd.commit q seq id).modes = q.modes := by
  exact hostCmd_keeps (P := (· = q.modes)) _ _ _ _ (fun r h => (cmdCommit_modes ..).trans h) rfl

@[simp] theorem Cmd_abort_modes (q : Quad) (seq : W32) (id : BitVec 16) : (Cmd.abort q seq id).modes = q.modes := by
  exact hostCmd_keeps (P := (· = q.modes)) _ _ _ _ (fun r h => (cmdAbort_modes ..).trans h) rfl

@[simp] theorem Cmd_cancel_modes (q : Quad) (seq : W32) (task : Nat) : (Cmd.cancel q seq task).modes = q.modes := by
  exact hostCmd_keeps (P := (· = q.modes)) _ _ _ _ (fun r h => (cmdCancel_modes ..).trans h) rfl

@[simp] theorem Cmd_refsel_modes (q : Quad) (seq : W32) (ranks sel mode : Bool) (force : Nat) (r07 : W32) (r89 : BitVec 8) :
    (Cmd.refsel q seq ranks sel mode force r07 r89).modes = q.modes := by
  exact hostCmd_keeps (P := (· = q.modes)) _ _ _ _ (fun r h => (cmdRefsel_modes ..).trans h) rfl

@[simp] theorem Cmd_rotate_modes (q : Quad) (seq : W32) (pos : Nat) : (Cmd.rotate q seq pos).modes = q.modes := by
  exact hostCmd_keeps (P := (· = q.modes)) _ _ _ _ (fun r h => (cmdRotate_modes ..).trans h) rfl

@[simp] theorem Cmd_test_modes (q : Quad) (seq : W32) (code : Nat) (b c : W32) : (Cmd.test q seq code b c).modes = q.modes := by
  exact hostCmd_keeps (P := (· = q.modes)) _ _ _ _ (fun r h => (cmdTest_modes ..).trans h) rfl

@[simp] theorem Cmd_auger_modes (q : Quad) (seq : W32) : (Cmd.auger q seq).modes = q.modes := by
  exact hostCmd_keeps (P := (· = q.modes)) _ _ _ _ (fun r h => (cmdAuger_modes ..).trans h) rfl

@[simp] theorem Cmd_bad_modes (q : Quad) (seq : W32) (op aux : Nat) : (Cmd.bad q seq op aux).modes = q.modes := by
  exact hostCmd_keeps (P := (· = q.modes)) _ _ _ _ (fun r h => (refuseCmd_modes ..).trans h) rfl

@[simp] theorem hostLost_modes (q : Quad) : q.hostLost.modes = q.modes := by
  unfold Quad.hostLost
  dsimp only
  split <;> simp

@[simp] theorem replay_modes (q : Quad) : q.replay.modes = q.modes := by simp [Quad.replay]

/-! #### The operations of Pipe -/

@[simp] theorem pairMap_modes (q : Quad) (c : Fin 17) (f : Core → Core) : (q.pairMap c f).modes = q.modes := by
  unfold Quad.pairMap
  repeat' split
  all_goals simp

@[simp] theorem followCorr_modes (q : Quad) (c1 : Fin 17) (a : Nat) : (q.followCorr c1 a).modes = q.modes := (rfl)

@[simp] theorem fetch_modes (q : Quad) (c : Fin 17) (a : PAddr) : (q.fetch c a).2.modes = q.modes := by
  unfold Quad.fetch
  dsimp only
  repeat' split
  all_goals simp

@[simp] theorem xyLoad_modes (q : Quad) (c : Fin 17) (y : Bool) (i : Nat) : (q.xyLoad c y i).2.modes = q.modes := by
  unfold Quad.xyLoad
  dsimp only
  split <;> simp

@[simp] theorem xyPut_modes (q : Quad) (c : Fin 17) (y : Bool) (i : Nat) (v : W40) (entry : Option Nat) :
    (q.xyPut c y i v entry).modes = q.modes := by
  unfold Quad.xyPut
  dsimp only
  split <;> simp

@[simp] theorem xyStore_modes (q : Quad) (c : Fin 17) (y : Bool) (i : Nat) (v : W40) : (q.xyStore c y i v).modes = q.modes := by simp [Quad.xyStore]

@[simp] theorem busLoad_modes (q : Quad) (c : Fin 17) (r : Rg) (w : BitVec 2) (a : Nat) : (q.busLoad c r w a).modes = q.modes := by
  unfold Quad.busLoad
  dsimp only
  split <;> simp

@[simp] theorem followFetch_modes (q : Quad) (c : Fin 17) (a : PAddr) : (q.followFetch c a).2.modes = q.modes := by
  unfold Quad.followFetch
  repeat' split
  all_goals simp

@[simp] theorem pairEnter_modes (q : Quad) (c : Fin 17) : (q.pairEnter c).modes = q.modes := by simp [Quad.pairEnter]

@[simp] theorem followAcc_modes (q : Quad) (c c1 : Fin 17) (sat : Bool) (s : RegSet) (a : MemAcc) : (q.followAcc c c1 sat s a).modes = q.modes := by
  unfold Quad.followAcc
  split <;> simp

@[simp] theorem followPerform_modes (was q : Quad) (i : Issue) (c1 : Fin 17) (p1 : Plan) (m : PMove) :
    (was.followPerform q i c1 p1 m).modes = q.modes := by
  unfold Quad.followPerform
  dsimp only
  split <;> simp

/-! #### The operations of CtlOps -/

@[simp] theorem whenOpen_modes (q : Quad) (w : Writer) (off : Nat) (f : Quad → Quad) (h : ∀ q, (f q).modes = q.modes) :
    (q.whenOpen w off f).modes = q.modes := by
  unfold Quad.whenOpen
  split
  · exact h q
  · rfl

/-! #### The operations of AssignOps -/

theorem heldAccept_modes {q r : Quad} (h : q.heldAccept = some r) : r.modes = q.modes := by
  unfold Quad.heldAccept at h
  extract_lets head at h
  split at h
  · obtain rfl := Option.some.inj h; simp
  · split at h
    · obtain rfl := Option.some.inj h; simp
    · split at h
      · obtain rfl := Option.some.inj h; simp
      · split at h
        · obtain rfl := Option.some.inj h; simp
        · exact absurd h (by simp)

/-! #### The operations of DmaOps -/

theorem dmaHeld_modes {q r : Quad} (h : q.dmaHeld = some r) : r.modes = q.modes := by
  unfold Quad.dmaHeld at h
  split at h
  · split at h
    · split at h
      · obtain rfl := Option.some.inj h; simp
      · exact absurd h (by simp)
    · exact absurd h (by simp)
  · exact absurd h (by simp)

/-! #### The operations of CtlOps -/

@[simp] theorem heldNext_modes (q : Quad) : q.heldNext.modes = q.modes := by
  unfold Quad.heldNext
  split
  · next p e => exact heldAccept_modes e
  · split
    · next p e => exact dmaHeld_modes e
    · split <;> simp

@[simp] theorem fabricVote_modes (q : Quad) : q.fabricVote.modes = q.modes := by simp [Quad.fabricVote]

@[simp] theorem meterPeriodEnd_modes (q : Quad) : q.meterPeriodEnd.modes = q.modes := by simp [Quad.meterPeriodEnd]

@[simp] theorem commitMissed_modes (q : Quad) (id : BitVec 16) : (q.commitMissed id).modes = q.modes := by
  unfold Quad.commitMissed
  split <;> simp

@[simp] theorem commitStage_modes (q : Quad) (id : BitVec 16) : (q.commitStage id).modes = q.modes := by
  unfold Quad.commitStage
  split <;> simp

@[simp] theorem commitEffect_modes (q : Quad) (id : BitVec 16) : (q.commitEffect id).modes = q.modes := by
  unfold Quad.commitEffect
  split <;> simp

@[simp] theorem crossfadeEnd_modes (q : Quad) (g : Fin 16) : (q.crossfadeEnd g).modes = q.modes := by
  unfold Quad.crossfadeEnd
  split <;> simp

@[simp] theorem generatorRetry_modes (q : Quad) : q.generatorRetry.modes = q.modes := by simp [Quad.generatorRetry]

@[simp] theorem kilnDue_modes (q : Quad) : q.kilnDue.modes = q.modes := by simp [Quad.kilnDue]

@[simp] theorem fabricPass_modes (q : Quad) (upsets : List RunUpset) : (q.fabricPass upsets).modes = q.modes := by simp [Quad.fabricPass]

@[simp] theorem agePromote_modes (q : Quad) (m : Nat) : (q.agePromote m).modes = q.modes := by
  unfold Quad.agePromote
  split <;> simp

@[simp] theorem dramRefresh_modes (q : Quad) (refr : BitVec 3) (hot : Bool) : (q.dramRefresh refr hot).modes = q.modes := by simp [Quad.dramRefresh]

/-! #### The operations of Flow -/

@[simp] theorem goTo_modes (target : Option PAddr) (q : Quad) (c : Fin 17) : (q.goTo target c).modes = q.modes := (rfl)

@[simp] theorem returned_modes (q : Quad) (c : Fin 17) : (q.returned c).modes = q.modes := by
  unfold Quad.returned
  dsimp only
  split <;> simp

@[simp] theorem endEvent_modes (q : Quad) (c : Fin 17) : (q.endEvent c).modes = q.modes := by
  unfold Quad.endEvent
  dsimp only
  split <;> simp

/-! #### The operations of PinOps -/

@[simp] theorem pinWrite_modes (q : Quad) (off : Nat) (be : BitVec 4) (v : W32) : (q.pinWrite off be v).modes = q.modes := by simp [Quad.pinWrite]

@[simp] theorem windowPost_modes (q : Quad) (off : Nat) (v : W32) : (q.windowPost off v).modes = q.modes := by simp [Quad.windowPost]

/-! #### The operations of SnxWire -/

@[simp] theorem wirePass_modes (q : Quad) (p : Fin 2) (l : List Byte) : (q.wirePass p l).modes = q.modes := by simp [Quad.wirePass]

/-! #### The operations of Tasks -/

@[simp] theorem endTask_modes (q : Quad) (c : Fin 17) (status : Nat) (empty : Bool) : (q.endTask c status empty).modes = q.modes := by
  unfold Quad.endTask
  dsimp only
  repeat' split
  all_goals simp

@[simp] theorem doDone_modes (q : Quad) (c : Fin 17) : (q.doDone c).modes = q.modes := by simp [Quad.doDone]

@[simp] theorem answer_modes (q : Quad) (a : Ask) : (q.answer a).1.modes = q.modes := by simp [Quad.answer]

@[simp] theorem schedulerAnswer_modes (q : Quad) (c : Fin 17) : (q.schedulerAnswer c).modes = q.modes := by
  unfold Quad.schedulerAnswer
  split <;> simp

@[simp] theorem flowRelease_modes (q : Quad) (c : Fin 17) : (q.flowRelease c).modes = q.modes := by
  unfold Quad.flowRelease
  dsimp only
  split <;> simp

@[simp] theorem busLoadLand_modes (q : Quad) (c : Fin 17) (n : Nat) : (q.busLoadLand c n).modes = q.modes := by
  unfold Quad.busLoadLand
  repeat' split
  all_goals simp

@[simp] theorem busStoreComplete_modes (q : Quad) (c : Fin 17) : (q.busStoreComplete c).modes = q.modes := by simp [Quad.busStoreComplete]

@[simp] theorem enterEvt_modes (q : Quad) (c : Fin 17) (i : Inst) : (q.enterEvt c i).modes = q.modes := by simp [Quad.enterEvt]

@[simp] theorem eventEntry_modes (q : Quad) (c : Fin 17) : (q.eventEntry c).modes = q.modes := by
  unfold Quad.eventEntry
  dsimp only
  repeat' split
  all_goals simp

@[simp] theorem debugEvent_modes (q : Quad) (life : Life) (c : Fin 17) : (q.debugEvent life c).modes = q.modes := by simp [Quad.debugEvent]

@[simp] theorem eccWriteback_modes (q : Quad) (a : Nat) : (q.eccWriteback a).modes = q.modes := by simp [Quad.eccWriteback]

/-! ### Steps that leave a quadrant's mode, or take it to HALT or a reset -/

/-- The modes that a command leaves to a quadrant of mode `m`: that one, HALT, or SCOUR after a reset. -/
def Fallen (m : Mode) (x : Mode × Option ModeChange) : Prop := x.1 = m ∨ x.1 = .halt ∨ x.1 = .scour

/-- A step of a quadrant that leaves its mode, or takes it to HALT or a reset. -/
def Sinks (q r : Quad) : Prop := Fallen q.mode r.modes

theorem Sinks.of_mode {q r : Quad} (h : r.mode = q.mode) : Sinks q r := .inl h

theorem Sinks.of_modes {q r : Quad} (h : r.modes = q.modes) : Sinks q r := .inl (congrArg Prod.fst h)

theorem Sinks.refl (q : Quad) : Sinks q q := .of_mode rfl

theorem Sinks.to_halt {q r : Quad} (h : r.mode = .halt) : Sinks q r := .inr (.inl h)

theorem Sinks.to_scour {q r : Quad} (h : r.mode = .scour) : Sinks q r := .inr (.inr h)

theorem Fallen.sinks {m : Mode} {q r : Quad} (h : Fallen m q.modes) (h' : Sinks q r) : Fallen m r.modes := by
  obtain same | ends := h'
  · exact h.imp same.trans (Or.imp same.trans same.trans)
  · exact .inr ends

theorem Sinks.trans {p q r : Quad} (h : Sinks p q) (h' : Sinks q r) : Sinks p r := Fallen.sinks h h'

/-- A step followed by one that keeps the modes. -/
theorem Sinks.kept {p q r : Quad} (h : Sinks p q) (h' : r.modes = q.modes) : Sinks p r := h.trans (.of_modes h')

/-- A step after one that keeps the modes. -/
theorem Sinks.after {p q r : Quad} (h : q.modes = p.modes) (h' : Sinks q r) : Sinks p r := (Sinks.of_modes h).trans h'

theorem Sinks.foldl {α : Type} {f : Quad → α → Quad} (h : ∀ q a, Sinks q (f q a)) (l : List α) (q : Quad) : Sinks q (l.foldl f q) := by
  induction l generalizing q with
  | nil => exact .refl q
  | cons a l ih => exact (h q a).trans (ih (f q a))

theorem Sinks.ite {c : Prop} [Decidable c] {q r r' : Quad} (h : Sinks q r) (h' : Sinks q r') : Sinks q (if c then r else r') := by
  split <;> assumption

/-! ### HALT and resets -/

theorem dropChange_modes (q : Quad) : q.dropChange.modes = (q.mode, none) := by
  unfold Quad.dropChange
  split
  · next none => rw [← none]; rfl
  · dsimp only
    split <;> simp

/-- HALT is entered without a change of mode pending, or the quadrant was in it, or in SCOUR, and stays as it was. -/
theorem enterHalt_modes (q : Quad) (cause : Nat) : (q.enterHalt cause).modes = q.modes ∨ (q.enterHalt cause).modes = (.halt, none) := by
  unfold Quad.enterHalt
  split
  · exact .inl rfl
  · right
    have change_of {p : Quad} {m : Mode} (h : p.modes = (m, none)) : p.change = none := congrArg Prod.snd h
    dsimp only
    rw [log_modes, ite_modes, fault_modes, ite_self, irq_modes, setFld_modes, modes_mk]
    rw [change_of (m := q.mode)]
    simp [dropChange_modes]

theorem sinks_enterHalt (q : Quad) (cause : Nat) : Sinks q (q.enterHalt cause) := by
  obtain same | halt := enterHalt_modes q cause
  · exact .of_modes same
  · exact .to_halt (congrArg Prod.fst halt)

theorem doReset_modes (q : Quad) (cause : Nat) (held : Bool) : (q.doReset cause held).modes = (.scour, none) := by
  simp [Quad.doReset, Quad.reset]

theorem sinks_doReset (q : Quad) (cause : Nat) (held : Bool) : Sinks q (q.doReset cause held) :=
  .to_scour (congrArg Prod.fst (doReset_modes q cause held))

/-- A register written: but for the reset of the quadrant its mode stays (R50). -/
theorem sinks_regWrite (q : Quad) (w : Writer) (off : Nat) (m v : W32) : Sinks q (q.regWrite w off m v).1 := by
  have written : (q.regWrite0 w off m v).1.modes = q.modes := regWrite0_modes ..
  unfold Quad.regWrite
  dsimp only
  split
  · exact sinks_doReset .. |>.after written
  · split
    · exact .of_modes ((dmaReset_modes _).trans written)
    · exact .of_modes written

theorem regWrite_fallen {m0 : Mode} (q : Quad) (w : Writer) (off : Nat) (m v : W32) (h : Fallen m0 q.modes) :
    Fallen m0 (q.regWrite w off m v).1.modes := h.sinks (sinks_regWrite ..)

/-! ### Writes on the bus, of the DMA and of the host -/

theorem sinks_busWrite (q : Quad) (m : Master) (w : Writer) (t : Target) (l : List (Nat × Byte)) : Sinks q (q.busWrite m w t l).1 :=
  busWriteL_keeps regWrite_fallen m w t l (.inl rfl)

theorem sinks_dmaComplete (q : Quad) (k : Nat) : Sinks q (q.dmaComplete k) := dmaCompleteBy_keeps regWrite_fallen k (.inl rfl)

theorem sinks_hostStore (q : Quad) (l : List (Nat × Byte)) : Sinks q (q.hostStore l).1 := by
  unfold Quad.hostStore
  split
  · exact .refl q
  · split
    · exact .refl q
    · split
      · exact .refl q
      · exact sinks_busWrite ..

theorem sinks_loadWrite (q : Quad) (l : LoadRun) (n : Nat) : Sinks q (q.loadWrite l n) := (sinks_hostStore ..).kept (mapHp_modes ..)

theorem sinks_loadGo (q : Quad) (f : Nat) : Sinks q (q.loadGo f) := by
  induction f generalizing q with
  | zero => exact .refl q
  | succ f ih =>
    unfold Quad.loadGo
    split
    · exact .refl q
    · dsimp only
      split
      · exact .refl q
      · split
        · exact .of_modes (endLoad_modes ..)
        · split
          · exact (sinks_loadWrite ..).trans (ih _)
          · split
            · exact .refl q
            · exact (ih _).after (mapHp_modes ..)

theorem sinks_cmdLoad (q : Quad) (seq : W32) (addr len : Nat) (dig : Option (Fin 8)) : Sinks q (q.cmdLoad seq addr len dig) := by
  unfold Quad.cmdLoad
  split
  · exact .of_modes (refuseCmd_modes ..)
  · exact (sinks_loadGo ..).after (mapHp_modes ..)

theorem sinks_cmdWrite (q : Quad) (seq : W32) (addr : Nat) (be : BitVec 4) (v : W32) : Sinks q (q.cmdWrite seq addr be v) := by
  unfold Quad.cmdWrite
  split
  · exact .of_modes (refuseCmd_modes ..)
  · split
    · exact (sinks_hostStore ..).after (complete_modes ..)
    · dsimp only
      split
      · exact (sinks_hostStore ..).kept (mapHp_modes ..)
      · exact (sinks_hostStore ..).kept (completeWrite_modes ..)

theorem sinks_directResume (q : Quad) : Sinks q q.directResume := by
  have resumed : (((q.resumeDirect q.fab.dwWait.length).1.dmaTails (q.resumeDirect q.fab.dwWait.length).2).hostTail
      (q.resumeDirect q.fab.dwWait.length).2).modes = q.modes := by simp
  unfold Quad.directResume
  dsimp only
  split
  · exact .of_modes resumed
  · split
    · exact .of_modes (by simp)
    · exact (sinks_loadGo ..).after resumed

/-- A command of the ring whose own effect keeps the mode or takes it to HALT or a reset. -/
theorem sinks_hostCmd (q : Quad) (seq : W32) (op aux : Nat) (halt : Bool) {f : Quad → Quad} (hf : ∀ q, Sinks q (f q)) :
    Sinks q (q.hostCmd seq op aux halt f) :=
  hostCmd_keeps (P := Fallen q.mode) seq op aux halt (fun p h => h.sinks (hf p)) (.inl rfl)

theorem modeCmd_mode (q : Quad) (seq : W32) (m : Mode) : (q.modeCmd seq m).mode = q.mode := by
  unfold Quad.modeCmd
  dsimp only
  repeat' split
  all_goals rfl

/-- An entry of the command ring (R440). -/
theorem sinks_runEntry (q : Quad) (e : List W32) : Sinks q (q.runEntry e) := by
  have load (seq : W32) (addr len : Nat) (dig : Option (Fin 8)) : Sinks q (Cmd.load q seq addr len dig) :=
    sinks_hostCmd q _ _ _ _ fun q => sinks_cmdLoad ..
  have write (seq : W32) (addr : Nat) (be : BitVec 4) (v : W32) : Sinks q (Cmd.write q seq addr be v) :=
    sinks_hostCmd q _ _ _ _ fun q => sinks_cmdWrite ..
  have mode (seq : W32) (m : Mode) : Sinks q (Cmd.mode q seq m) := sinks_hostCmd q _ _ _ _ fun q => .of_mode (modeCmd_mode ..)
  unfold Quad.runEntry
  dsimp only
  split
  · exact .ite (.of_modes (Cmd_bad_modes ..)) (load ..)
  · exact .ite (.of_modes (Cmd_bad_modes ..)) (write ..)
  · exact .of_modes (by simp)
  · split
    · exact .ite (.of_modes (Cmd_bad_modes ..)) (mode ..)
    · exact .of_modes (Cmd_bad_modes ..)
  all_goals exact .of_modes (by simp)

theorem sinks_commandAccept (q : Quad) : Sinks q q.commandAccept := by
  unfold Quad.commandAccept
  split
  · exact .refl q
  · exact (sinks_runEntry ..).after (mapHp_modes ..)

/-! ### Cores that stop, and the bound pair -/

theorem sinks_mismatch (q : Quad) : Sinks q q.mismatch := by
  unfold Quad.mismatch
  split
  · exact .refl q
  · extract_lets task left _ q1 q2 q3 q4 q5 _ q6 q7
    have same : q7.modes = q.modes := by simp [q7, q6, q5, q4, q3, q2, q1]
    clear_value q7
    exact .ite ((sinks_enterHalt ..).after same) (.of_modes same)

theorem sinks_pairStop (q : Quad) (c : Fin 17) (pos : Nat) : Sinks q (q.pairStop c pos) := by
  unfold Quad.pairStop
  refine (sinks_mismatch q).trans ?_
  dsimp only
  split
  · exact .refl _
  · split
    · exact sinks_enterHalt ..
    · exact .of_modes (by simp)

theorem sinks_coreStop (q : Quad) (c : Fin 17) (cause : Nat) (detail : W32) : Sinks q (q.coreStop c cause detail) := by
  unfold Quad.coreStop
  extract_lets pos paired q1 q2 _ q3 q4 _ q5 q6
  have two : q2.modes = q.modes := by simp [q2, q1]
  have three : q3.modes = q2.modes := by
    simp only [q3]
    split <;> simp
  have six : q6.modes = q.modes := by simp [q6, q5, q4, three, two]
  split
  · exact .of_modes six
  · split
    · exact (sinks_pairStop ..).after six
    · exact .of_modes ((startRepair_modes ..).trans six)

theorem sinks_nextRepair (q : Quad) : Sinks q q.nextRepair := by
  unfold Quad.nextRepair
  split
  · exact .ite (sinks_enterHalt ..) (.of_modes (startRepair_modes ..))
  · exact .refl q

theorem sinks_rotTested (q : Quad) (r : Rotation) (pass : Bool) (phase : BitVec 16) : Sinks q (q.rotTested r pass phase) := by
  unfold Quad.rotTested
  dsimp only
  split
  · split
    · exact (sinks_nextRepair ..).after (by simp)
    · exact .of_modes (by simp)
  · split
    · exact (sinks_nextRepair ..).after (by simp)
    · exact .of_modes (by simp)

theorem sinks_coreTestDone (q : Quad) (pass : Bool) (phase : BitVec 16) : Sinks q (q.coreTestDone pass phase) := by
  unfold Quad.coreTestDone
  split
  · exact sinks_rotTested ..
  · exact .of_modes (spareTested_modes ..)
  · exact .refl q

theorem sinks_strikeOne (q : Quad) (u : Upset) : Sinks q (q.strikeOne u) := by
  unfold Quad.strikeOne
  split
  · exact .ite (sinks_enterHalt ..) (.refl q)
  · exact .of_mode rfl

theorem sinks_strike (q : Quad) (u : Option Upset) : Sinks q (q.strike u) := by
  unfold Quad.strike
  split
  · exact sinks_strikeOne ..
  · exact .refl q

theorem sinks_patrol (q : Quad) (found : List Upset) : Sinks q (q.patrol found) := by
  unfold Quad.patrol
  split
  · exact .refl q
  · dsimp only
    refine (Sinks.foldl (fun q u => sinks_strikeOne q u) (found.filter fun u => u.inside.isSome || q.patrolled u.addr) q).kept ?_
    simp

/-! ### An instruction -/

theorem sinks_busStore (q : Quad) (c : Fin 17) (a : Nat) (bytes : List Byte) : Sinks q (q.busStore c a bytes) := by
  unfold Quad.busStore
  extract_lets k tgt q1 q2
  have one : q1.modes = q.modes := setCore_modes ..
  clear_value k tgt
  split
  · split
    · exact .of_modes (by simp [q2, one])
    · exact .of_modes (by simp [q2, one])
  · split
    · exact ((sinks_busWrite ..).after one).kept (noteDual_modes ..)
    · exact .of_modes one

theorem sinks_doAcc (q : Quad) (c : Fin 17) (sat : Bool) (s : RegSet) (a : MemAcc) : Sinks q (q.doAcc c sat s a) := by
  unfold Quad.doAcc
  dsimp only
  split
  · split
    · exact (sinks_busStore ..).kept (setCore_modes ..)
    · exact .of_modes (by simp)
  · split
    · exact .of_modes (by simp)
    · exact .of_modes (by simp)

theorem sinks_doMoves (q : Quad) (c : Fin 17) (sat : Bool) (s : RegSet) (m : PMove) : Sinks q (q.doMoves c sat s m) := by
  have moved := (Sinks.foldl (fun q a => sinks_doAcc q c sat s a) m.accs (q.setCore c (m.accs.foldl (fun k a => k.stepPtr a) (q.core c)))).after
    (setCore_modes ..)
  unfold Quad.doMoves
  dsimp only
  split
  · exact moved.kept (setCore_modes ..)
  · exact moved

theorem sinks_trap (q : Quad) (c : Fin 17) (cause : Nat) : Sinks q (q.trap c cause) := by
  unfold Quad.trap
  dsimp only
  split
  · exact .of_modes (hpnAbort_modes ..)
  · split
    · exact (sinks_coreStop ..).after (setCore_modes ..)
    · exact .of_modes (setCore_modes ..)

/-- A plan whose own effect leaves the mode, or takes it to HALT. -/
structure PlanSinks (p : Plan) : Prop where
  act (q : Quad) (c : Fin 17) : Sinks q (p.act q c)

theorem sinks_perform (q : Quad) (i : Issue) {p : Plan} (m : PMove) (hp : PlanSinks p) : Sinks q (q.perform i p m) :=
  ((sinks_doMoves ..).after (setCore_modes ..)).trans (hp.act _ _)

theorem sinks_attempt (q : Quad) (i : Issue) {p : Plan} (hp : PlanSinks p) : Sinks q (q.attempt i p) := by
  unfold Quad.attempt
  extract_lets k g f
  have fetched : f.2.modes = q.modes := by
    simp only [f, g]
    split
    · simp
    · rfl
  split
  · exact (sinks_coreStop ..).after fetched
  · split
    · exact (sinks_coreStop ..).after fetched
    · split
      · exact (sinks_trap ..).after fetched
      · split
        · exact .refl q
        · split
          · exact (sinks_perform _ _ _ hp).after fetched
          · exact (sinks_trap ..).after fetched

theorem sinks_followIssue (was q : Quad) (i : Issue) (plan : Quad → Core → Plan) : Sinks q (was.followIssue q i plan) := by
  unfold Quad.followIssue
  split
  · exact .refl q
  · dsimp only
    split
    · exact .refl q
    · split
      · exact .ite (.refl q) (.ite (.refl q) (.of_modes (pairEnter_modes ..)))
      · split
        · exact .ite (sinks_mismatch q) (.refl q)
        · split
          · exact .of_modes (by simp)
          · exact (sinks_mismatch _).after (by simp)

theorem sinks_issue (i : Issue) {plan : Quad → Core → Plan} (hp : ∀ q k, PlanSinks (plan q k)) (q : Quad) : Sinks q (q.issue i plan) := by
  unfold Quad.issue
  extract_lets struck cycled _ opened tried done
  have one : Sinks q struck := sinks_strike ..
  have two : cycled.modes = struck.modes := (pairMap_modes ..).trans (setCore_modes ..)
  have four : Sinks opened tried := sinks_attempt opened i (hp opened (opened.core i.c))
  have five : Sinks opened done ∨ done = cycled := by
    simp only [done]
    split
    · exact .inr rfl
    · exact .inl (.ite (four.trans (sinks_followIssue ..)) four)
  have all : Sinks q done := by
    obtain some_ | none := five
    · exact (one.kept two).trans (some_.after (setCore_modes ..))
    · exact none ▸ one.kept two
  clear_value done
  exact .ite one (.ite (all.trans (sinks_mismatch done)) all)

/-! ### The plan of each instruction -/

theorem planSinks_of_modes {p : Plan} (h : ∀ q c, (p.act q c).modes = q.modes) : PlanSinks p :=
  ⟨fun q c => .of_modes (h q c)⟩

/-- A plan that only goes to the next instruction. -/
theorem planSinks_advance {p : Plan} (h : p.act = fun q c => q.setCore c (q.core c).advance) : PlanSinks p :=
  planSinks_of_modes fun q c => by rw [h, setCore_modes]

theorem planSinks_repPlan (i : Issue) (q : Quad) (k : Core) (n : Int) (reads : List Rg) : PlanSinks (repPlan i q k n reads) := by
  refine ⟨fun r c => ?_⟩
  unfold repPlan
  dsimp -zeta only
  extract_lets g f
  have fetched : f.2.modes = r.modes := by simp [f, g]
  split
  · exact (sinks_coreStop ..).after fetched
  · split
    · exact (sinks_coreStop ..).after fetched
    · exact .of_modes ((setCore_modes ..).trans fetched)

theorem planSinks_bqsPlan (i : Issue) (dq : Fin 16) (an : Fin 4) (dx : Fin 16) (rnd : BitVec 2) (n : BitVec 6) (k : Core) :
    PlanSinks (bqsPlan i dq an dx rnd n k) := by
  unfold bqsPlan
  split <;> exact planSinks_advance rfl

theorem planSinks_busPlan (i : Issue) (store : Bool) (reg : BitVec 6) (p : Fin 8) (w : BitVec 2) (mode : BitVec 3) (val : BitVec 8) :
    PlanSinks (busPlan i store reg p w mode val) := by
  unfold busPlan
  split <;> exact planSinks_advance rfl

theorem planSinks_xyPlan (i : Issue) (store : Bool) (reg : BitVec 6) (p : Fin 8) (mode : BitVec 3) (val : BitVec 8) :
    PlanSinks (xyPlan i store reg p mode val) := by
  unfold xyPlan
  repeat' split
  all_goals exact planSinks_advance rfl

/-- Every instruction is one issue, of a plan that leaves the mode or takes it to HALT. -/
theorem exec_issue_sinks {c : Instr} {i : Issue} (h : issueOf c = some i) :
    ∃ plan : Quad → Core → Plan, (∀ q k, PlanSinks (plan q k)) ∧ ∀ s, exec c s = onQ i.q (Quad.issue i plan) s := by
  cases c <;> cases h <;> refine ⟨_, fun q k => ?_, fun _ => rfl⟩
  case lg2 =>
    dsimp only
    split <;> exact planSinks_advance rfl
  case dualMultiply | ext | sel | asl | asr | lsl | lsr | ashD | mov | ldi | mfs | mts =>
    repeat' split
    all_goals exact planSinks_advance rfl
  case bqs => exact planSinks_bqsPlan ..
  case busAccess => exact planSinks_busPlan ..
  case xyAccess => exact planSinks_xyPlan ..
  case repImm | repReg => exact planSinks_repPlan ..
  case fence | brk | clrc | jpm | rte | req | done | frel =>
    refine planSinks_of_modes fun q c => ?_
    dsimp only
    repeat' split
    all_goals simp
  case xmov =>
    split
    · refine planSinks_of_modes fun q c => ?_
      dsimp only
      split <;> simp
    · exact planSinks_advance rfl
  case ret =>
    split
    · exact planSinks_advance rfl
    · exact planSinks_of_modes fun q c => by simp
  case spawn =>
    refine planSinks_of_modes fun q c => ?_
    dsimp only
    split
    all_goals next e => simp [fst_modes_of_eq e (makeReady_modes ..)]
  case brTarget | brReg | callTarget | callReg | dbnz | spawnNb | cancel =>
    exact planSinks_of_modes fun q c => setCore_modes ..
  all_goals exact planSinks_advance rfl

/-! ### Writes of registers by commands, boundaries, and resets of one quadrant -/

theorem sinks_regPut (q : Quad) (w : Writer) (off : Nat) (v : W32) : Sinks q (q.regPut w off v) :=
  .ite (sinks_regWrite ..) (.refl q)

theorem sinks_fieldPut (q : Quad) (f : Field) (n : Nat) : Sinks q (q.fieldPut f n) := by
  unfold Quad.fieldPut
  split
  · exact sinks_regPut ..
  · exact .refl q

theorem sinks_registerWrite (q : Quad) (w : Writer) (off : Nat) (be : BitVec 4) (v : W32) : Sinks q (q.registerWrite w off be v) :=
  .ite (.refl q) (.ite (regionWrite_keeps regWrite_fallen _ _ _ (.inl rfl)) (sinks_regWrite ..))

theorem sinks_tableBytes (q : Quad) (w : Writer) (offset : Nat) (data : List Byte) : Sinks q (q.tableBytes w offset data) := by
  unfold Quad.tableBytes
  dsimp only
  split
  · exact .refl q
  · split
    · split
      · exact sinks_trap ..
      · exact .refl q
    · exact .of_modes (routeWrite_modes ..)

theorem sinks_resetPin (q : Quad) (ns : Nat) : Sinks q (q.resetPin ns) :=
  .ite (.refl q) (.ite (.of_mode rfl) ((sinks_doReset ..).kept rfl))

theorem sinks_softReset (q : Quad) : Sinks q q.softReset := .ite (.refl q) (sinks_doReset ..)

theorem mode_of_modes {q : Quad} {x : Mode × Option ModeChange} (h : q.modes = x) : q.mode = x.1 := congrArg Prod.fst h

theorem tickStart_modes (q : Quad) (coming : Mode) (emg : BitVec 4) :
    (q.tickStart coming emg).modes = (q.mode, q.change.map fun c => { c with left := c.left - 1 }) := by
  unfold Quad.tickStart
  extract_lets later _ q1 q2 q3 q4 q5 q6 q7 q8 q9 q10 r q11
  have one : q1.modes = (q.mode, q.change.map later) := (rfl)
  clear_value q1
  have five : q5.modes = q1.modes := by simp [q5, q4, q3, q2]
  clear_value q5
  have nine : q9.modes = q5.modes := by simp [q9, q8, q7, q6]
  clear_value q9
  have ten : q10.modes = q9.modes := by simp [q10]
  clear_value q10
  have last : r.1.modes = q10.modes := emgSample_modes ..
  have eleven : q11.modes = r.1.modes := by simp [q11]
  clear_value q11 r
  rw [rewritePages_modes, rotWaits_modes, makeCopy_modes, policyWindows_modes, eleven, last, ten, nine, five, one]

theorem sinks_tickStart (q : Quad) (coming : Mode) (emg : BitVec 4) : Sinks q (q.tickStart coming emg) :=
  .of_mode (mode_of_modes (tickStart_modes q coming emg))

theorem sinks_tickBoundary (q : Quad) (env : BoundaryEnv) : Sinks q (q.tickBoundary env) := by
  have compared : Sinks q (if env.mism then q.mismatch else q) := .ite (sinks_mismatch q) (.refl q)
  unfold Quad.tickBoundary
  split
  · exact .refl q
  · exact (compared.kept (by simp)).trans (sinks_tickStart ..)

theorem sinks_gridStart (q : Quad) : Sinks q q.gridStart := by
  unfold Quad.gridStart
  extract_lets k n again shift q1 q2 q3
  have one : q1.modes = q.modes := by
    simp only [q1]
    split <;> simp
  clear_value q1
  have two : q2.modes = q1.modes := by
    simp only [q2]
    split
    · exact foldl_modes _ _ _ fun q f => noteGen_modes ..
    · rfl
  clear_value q2
  have three : q3.modes = q.modes := two.trans one
  clear_value q3 k n shift again
  refine .ite (.refl q) (.after ?_ (sinks_tickStart ..))
  rw [modes_mk, mk_modes, three]

/-! ### Commands of a quadrant and the host domain -/

theorem sinks_writeSection (q : Quad) (a : Nat) (bytes : List Byte) (n : Nat) : Sinks q (q.writeSection a bytes n) := by
  induction n generalizing q a bytes with
  | zero => cases bytes <;> exact .refl q
  | succ n ih =>
    cases bytes with
    | nil => exact .refl q
    | cons b l => exact (sinks_hostStore ..).trans (ih ..)

theorem sinks_digestCheck (i : QId) (now : W64) (q : Quad) (h : HostDom) : Sinks q (digestCheck i now q h).1 := by
  unfold digestCheck
  dsimp only
  split
  · exact .refl q
  · split
    · exact .refl q
    · split
      · exact .refl q
      · have written (l : List (Nat × List Byte)) : Sinks q (l.foldl (fun q s => q.writeSection s.1 s.2 s.2.length) q) :=
          Sinks.foldl (fun q s => sinks_writeSection q s.1 s.2 s.2.length) l q
        exact .ite ((written _).kept (mapHp_modes ..)) ((written _).trans (.of_mode rfl))

theorem sinks_verifyResult (i : QId) (q : Quad) (h : HostDom) : Sinks q (verifyResult i q h).1 := by
  have shown : q.hpnResult.mode = q.mode := congrArg Prod.fst (hpnResult_modes q)
  unfold verifyResult
  dsimp only
  split
  · split
    · exact .of_mode shown
    · exact (Sinks.of_mode shown).trans (.of_mode (congrArg Prod.fst (log_modes ..)))
  · exact .of_mode shown

theorem sinks_deliver (i : QId) (corrupt : Bool) (now : W64) (q : Quad) (h : HostDom) : Sinks q (deliver i corrupt now q h).1 := by
  unfold deliver
  dsimp only
  split
  · exact .refl q
  · split <;> exact .refl q

theorem sinks_scourBegin (i : QId) (board : DramBoard) (q : Quad) (h : HostDom) : Sinks q (scourBegin i board q h).1 := by
  unfold scourBegin
  split
  · exact .refl q
  · exact .of_modes (by simp)

theorem sinks_passEvents (i : QId) (q : Quad) (h : HostDom) : Sinks q (passEvents i q h).1 := by
  unfold passEvents
  split
  · exact .refl q
  · dsimp only
    split <;> exact .of_modes rfl

theorem sinks_releaseQuad (q : Quad) (h : HostDom) : Sinks q (releaseQuad q h).1 :=
  .of_modes (by simp [releaseQuad])

/-! ### Mladcel, which changes no quadrant -/

@[simp] theorem quad_note (d : Device) (code : BitVec 16) (sev : Nat) (a0 : W32) (a1 : BitVec 16) (j : QId) :
    (d.note code sev a0 a1).quad j = d.quad j := quad_mapHost ..

@[simp] theorem quad_sensorAlarm (d : Device) (key off bit sticky irq : Nat) (beyond inside : Bool) (code : BitVec 16) (a0 : W32)
    (a1 : BitVec 16) (j : QId) : (d.sensorAlarm key off bit sticky irq beyond inside code a0 a1).quad j = d.quad j := by
  unfold Device.sensorAlarm
  dsimp only
  split <;> simp

@[simp] theorem quad_ite (c : Prop) [Decidable c] (d e : Device) (j : QId) :
    (if c then d else e).quad j = if c then d.quad j else e.quad j := apply_ite (fun d : Device => d.quad j) c d e

theorem quad_sensor (d : Device) (r : Reading) (j : QId) : (d.sensor r).quad j = d.quad j := by
  unfold Device.sensor
  split
  · rfl
  · split
    · simp [Device.tempSample]
    · simp [Device.railSample]
    · simp [Device.oscSample]
    · simp [Device.pllSample]

theorem quad_logWrite (d : Device) (worn : Bool) (j : QId) : (d.logWrite worn).quad j = d.quad j := by
  unfold Device.logWrite
  dsimp only
  repeat' split
  all_goals simp

@[simp] theorem quad_dev_ite (c : Prop) [Decidable c] (a b : MgtAns) (j : QId) :
    (if c then a else b).dev.quad j = if c then a.dev.quad j else b.dev.quad j := apply_ite (fun a : MgtAns => a.dev.quad j) c a b

@[simp] theorem quad_mgtEffect (d : Device) (op : Nat) (a0 a1 : W32) (j : QId) : (d.mgtEffect op a0 a1).dev.quad j = d.quad j := by
  have open_ : (d.stageOpen a0.toNat a1.toNat).dev.quad j = d.quad j := by simp [Device.stageOpen]
  have write : (d.stageWrite a0.toNat a1.toNat).dev.quad j = d.quad j := by
    unfold Device.stageWrite
    split <;> simp
  have verify : d.stageVerify.dev.quad j = d.quad j := by
    unfold Device.stageVerify
    split <;> simp
  have activate : (d.activate a0.toNat).dev.quad j = d.quad j := by simp [Device.activate]
  have read : (d.logRead a0).dev.quad j = d.quad j := by simp [Device.logRead]
  have record : d.recordWrite.dev.quad j = d.quad j := by simp [Device.recordWrite]
  have move : (d.lifecycle a0.toNat a1.toNat).dev.quad j = d.quad j := by
    unfold Device.lifecycle
    dsimp only
    split <;> simp
  have program (k : Fin 4) : (d.keyProgram k).dev.quad j = d.quad j := by simp [Device.keyProgram]
  have revoke (k : Fin 4) : (d.keyRevoke k).dev.quad j = d.quad j := by simp [Device.keyRevoke]
  unfold Device.mgtEffect
  split
  · exact open_
  · exact write
  · exact verify
  · exact activate
  · exact read
  · exact record
  · exact move
  · split
    · exact program _
    · rfl
  · split
    · exact revoke _
    · rfl
  · rfl

@[simp] theorem quad_mgtDo (d : Device) (op : Nat) (a0 a1 : W32) (j : QId) : (d.mgtDo op a0 a1).quad j = d.quad j := by
  simp [Device.mgtDo]

@[simp] theorem quad_mgtStart (d : Device) (op : Nat) (a0 a1 : W32) (j : QId) : (d.mgtStart op a0 a1).quad j = d.quad j := by
  unfold Device.mgtStart
  repeat' split
  all_goals simp

theorem quad_mgtCommand (d : Device) (op : Nat) (a0 a1 : W32) (j : QId) : (d.mgtCommand op a0 a1).quad j = d.quad j := by
  simp [Device.mgtCommand]

theorem quad_sag (d : Device) (mv : Nat) (j : QId) : (d.sag mv).quad j = d.quad j := by
  unfold Device.sag
  dsimp only
  split <;> simp

theorem quad_nvResume (d : Device) (mv : Nat) (j : QId) : (d.nvResume mv).quad j = d.quad j := by
  unfold Device.nvResume
  extract_lets d1 d2
  have one : d1.quad j = d.quad j := (markWiped_quad ..).trans (quad_mapHost ..)
  have two : d2.quad j = d.quad j := by
    simp only [d2]
    split <;> simp [one]
  clear_value d1 d2
  repeat' split
  all_goals simp [two]

theorem quad_redeliver (d : Device) (j : QId) : d.redeliver.quad j = d.quad j := by
  have delivered (f : Device → QId → Device) (h : ∀ d i, (f d i).quad j = d.quad j) : (qids.foldl f d).quad j = d.quad j := by
    generalize qids = l
    induction l generalizing d with
    | nil => rfl
    | cons i l ih => exact (ih _).trans (h d i)
  refine delivered _ fun d i => ?_
  split
  · split
    · simp
    · rfl
  · rfl

/-! ### The device -/

/-- A step of the device that leaves each quadrant's mode, or takes it to HALT or a reset, but for the end of a SCOUR. -/
def DeviceSinks (d e : Device) : Prop := ∀ j, (d.quad j).rst ≠ .scouring → Sinks (d.quad j) (e.quad j)

theorem DeviceSinks.of_quad {d e : Device} (h : ∀ j, e.quad j = d.quad j) : DeviceSinks d e := fun j _ => h j ▸ .refl _

theorem DeviceSinks.of_modes {d e : Device} (h : ∀ j, (e.quad j).modes = (d.quad j).modes) : DeviceSinks d e := fun j _ => .of_modes (h j)

theorem DeviceSinks.share {d e : Device} (h : DeviceSinks d e) : DeviceSinks d e.share := fun j hj => by
  rw [quad_share]
  exact (h j hj).kept rfl

theorem DeviceSinks.refl (d : Device) : DeviceSinks d d := .of_quad fun _ => rfl

/-- A step after one that changes no quadrant. -/
theorem DeviceSinks.after {d e f : Device} (h : ∀ j, e.quad j = d.quad j) (h' : DeviceSinks e f) : DeviceSinks d f := fun j hj => by
  have := h' j (by rwa [h])
  rwa [h] at this

theorem DeviceSinks.kept {d e f : Device} (h : DeviceSinks d e) (h' : ∀ j, (f.quad j).modes = (e.quad j).modes) : DeviceSinks d f :=
  fun j hj => (h j hj).kept (h' j)

theorem deviceSinks_mapQuad (d : Device) (i : QId) {f : Quad → Quad} (h : ∀ q, q.rst ≠ .scouring → Sinks q (f q)) :
    DeviceSinks d (d.mapQuad i f) := fun j hj => by
  obtain rfl | other := eq_or_ne j i
  · rw [quad_mapQuad]
    exact h _ hj
  · rw [quad_mapQuad_ne _ _ other]
    exact .refl _

theorem releaseAll_modes (d : Device) (j : QId) : (d.releaseAll.quad j).modes = (d.quad j).modes := by
  unfold Device.releaseAll
  dsimp only
  split
  · rfl
  · split
    · rw [quad_mapHost]
    · rw [quad_mapQuads, release_modes, quad_mapHost]

theorem powerReset_modes (d : Device) (j : QId) : (d.powerReset.quad j).modes = (.scour, none) := by
  rw [Device.powerReset, quad_mapHost, quad_mapQuads]
  rfl

theorem deviceSinks_powerReset (d : Device) : DeviceSinks d d.powerReset := fun j _ => .to_scour (mode_of_modes (powerReset_modes d j))

theorem deviceSinks_porAssert (d : Device) : DeviceSinks d d.porAssert :=
  .after (fun _ => quad_mapHost ..) (deviceSinks_powerReset _)

theorem deviceSinks_porRelease (d : Device) (mv : Nat) : DeviceSinks d (d.porRelease mv) := by
  unfold Device.porRelease
  split
  · exact .refl d
  · exact .of_modes fun j => by rw [releaseAll_modes, quad_mapHost]

theorem deviceSinks_supplyHold (d : Device) (core mgt : Nat) : DeviceSinks d (d.supplyHold core mgt) := by
  unfold Device.supplyHold
  dsimp only
  split
  · exact .after (fun _ => (quad_mapHost ..).trans (quad_mapHost ..)) (deviceSinks_powerReset _)
  · exact .of_quad fun _ => quad_mapHost ..

theorem deviceSinks_supplyRelease (d : Device) (core mgt : Nat) : DeviceSinks d (d.supplyRelease core mgt) := by
  unfold Device.supplyRelease
  dsimp only
  split
  · exact .of_modes fun j => by rw [releaseAll_modes, quad_mapHost, quad_mapHost]
  · exact .of_quad fun _ => quad_mapHost ..

theorem deviceSinks_clockLoss (d : Device) (i : QId) (ns : Nat) (time : Bool) : DeviceSinks d (d.clockLoss i ns time) := by
  unfold Device.clockLoss
  dsimp only
  split
  · split
    · exact deviceSinks_mapQuad d i fun q _ => .ite (.of_modes (by simp)) (.refl q)
    · exact .refl d
  · have reset := deviceSinks_mapQuad d i fun q _ => Sinks.ite (c := q.rst = .held) (.refl q) (sinks_doReset q 8 false)
    split
    · exact reset.kept fun j => by rw [quad_clockAlarm]
    · exact reset

theorem deviceSinks_scourDone (d : Device) (i : QId) (emg : BitVec 4) : DeviceSinks d (d.scourDone i emg) := by
  have done := deviceSinks_mapQuad d i fun q hq => (.of_mode (congrArg Quad.mode (if_pos hq)) :
    Sinks q (q.scourComplete (d.host.retired i ||| q.hp.retiring) emg))
  exact done.kept fun j => by rw [Device.scourDone, markWiped_quad]

theorem deviceSinks_hostReset (d : Device) (cause : Nat) : DeviceSinks d (d.hostReset cause) :=
  .of_modes fun j => by rw [Device.hostReset, quad_mapHost, quad_mapQuads, hostLost_modes]

theorem deviceSinks_lifeMoved (d : Device) (st : Nat) : DeviceSinks d (d.lifeMoved st) :=
  .after (fun _ => quad_mapHost ..) ((deviceSinks_powerReset _).kept fun _ => releaseAll_modes ..)

theorem quad_activated (d : Device) (target : Nat) (auto : Bool) (j : QId) : (d.activated target auto).quad j = d.quad j := by
  simp [Device.activated]

theorem deviceSinks_mgtComplete (d : Device) : DeviceSinks d d.mgtComplete := by
  unfold Device.mgtComplete
  split
  · exact .refl d
  · split
    · exact .refl d
    · split
      · exact deviceSinks_lifeMoved _ _
      · exact .of_quad fun j => by simp [quad_activated]

theorem deviceSinks_mladcelStart (d : Device) : DeviceSinks d d.mladcelStart := by
  unfold Device.mladcelStart
  dsimp only
  split
  · exact .refl d
  · split
    · exact .after (fun _ => quad_mapHost ..) ((deviceSinks_powerReset _).kept fun _ => releaseAll_modes ..)
    · exact .of_quad fun j => by
        rw [quad_redeliver, quad_note]
        exact quad_mapHost d (fun _ => _) j

theorem deviceSinks_hostWrite (d : Device) (addr : Nat) (be : BitVec 4) (v : W32) : DeviceSinks d (d.hostWrite addr be v) := by
  unfold Device.hostWrite
  dsimp only
  split
  · split
    · exact deviceSinks_mapQuad d _ fun q _ => .of_modes (pinWrite_modes ..)
    · exact .of_quad fun _ => quad_mapHost ..
  · repeat' split
    all_goals exact .of_quad fun _ => quad_mapHost ..

theorem deviceSinks_hostPut (d : Device) (p : Posted) : DeviceSinks d (d.hostPut p) := by
  unfold Device.hostPut
  dsimp only
  split
  · exact .of_quad fun _ => quad_mapHost ..
  · split
    · split
      · exact .of_quad fun _ => quad_mgtStart ..
      · exact .refl d
    · split
      · exact deviceSinks_mapQuad d _ fun q _ => .of_modes (mapHp_modes ..)
      · exact .of_quad fun _ => quad_mapHost ..

theorem deviceSinks_hostDrain (d : Device) : DeviceSinks d d.hostDrain := by
  unfold Device.hostDrain
  split
  · exact .refl d
  · split
    · exact .refl d
    · exact .after (fun _ => quad_mapHost ..) (deviceSinks_hostPut _ _)

theorem deviceSinks_hostRcRead (d : Device) (a : Nat) (counted : List Nat) : DeviceSinks d (d.hostRcRead a counted) := by
  unfold Device.hostRcRead
  dsimp only
  split
  · exact .of_quad fun _ => quad_mapHost ..
  · split
    · exact .of_quad fun _ => quad_mapHost ..
    · split
      · exact deviceSinks_mapQuad d _ fun q _ => .of_modes (mapHp_modes ..)
      · exact .refl d

theorem deviceSinks_rcReadAt (i : QId) (w : Writer) (off : Nat) (counted : List Nat) (d : Device) : DeviceSinks d (rcReadAt i w off counted d) := by
  unfold rcReadAt
  split
  · exact deviceSinks_mapQuad d i fun q _ => .of_modes (rcRead_modes ..)
  · split
    · exact (deviceSinks_hostRcRead _ _ _).share
    · exact .refl d

/-! ### HARDPAN is not left by itself: O58 -/

theorem setMode_mode (q : Quad) (m : Mode) (auto : Bool) : (q.setMode m auto).mode = m := by
  refine mode_of_modes (x := (m, q.change)) ?_
  unfold Quad.setMode
  extract_lets q1 q2
  have two : q2.modes = q.modes := by simp [q2, q1]
  clear_value q2
  rw [startSlots_modes, irq_modes, setFld_modes, modes_mk]
  exact congrArg (fun x => (m, x.2)) two

theorem enterRun_mode (q : Quad) (auto : Bool) : (q.enterRun auto).mode = .run := by
  unfold Quad.enterRun
  extract_lets pend next q1 q2 _
  have ran : q1.mode = .run := setMode_mode ..
  clear_value q1
  have bound : q2.modes = (q1.mode, q1.change) := by
    simp only [q2]
    rw [boundReady_modes, modes_mk]
  clear_value q2
  repeat' split
  all_goals exact (mode_of_modes bound).trans ran

/-- Outside RUN a fault's policy brings HALT at most (R474). -/
theorem policyAction_modes {q : Quad} (h : q.mode ≠ .run) (cls : Nat) :
    (q.policyAction cls).modes = q.modes ∨ (q.policyAction cls).modes = (.halt, none) := by
  unfold Quad.policyAction
  extract_lets _ q1
  have one : q1.modes = q.modes := (rfl)
  have notRun : q1.mode ≠ .run := h
  clear_value q1
  split
  · exact .inl rfl
  · split
    · left
      rw [if_neg fun run => notRun run.1, raise_modes, one]
    · exact one ▸ enterHalt_modes q1 5
    · exact .inl one

theorem sinks_policyAction {q : Quad} (h : q.mode ≠ .run) (cls : Nat) : Sinks q (q.policyAction cls) := by
  obtain same | halt := policyAction_modes h cls
  · exact .of_modes same
  · exact .to_halt (mode_of_modes halt)

theorem policyActions_modes {q : Quad} (h : q.mode ≠ .run) (due : List Nat) :
    (due.foldl (fun q c => q.policyAction c) q).modes = q.modes ∨ (due.foldl (fun q c => q.policyAction c) q).modes = (.halt, none) := by
  induction due generalizing q with
  | nil => exact .inl rfl
  | cons c due ih =>
    obtain same | halt := policyAction_modes h c
    · have := ih (q := q.policyAction c) (mode_of_modes same ▸ h)
      rwa [same] at this
    · have := ih (q := q.policyAction c) (mode_of_modes halt ▸ by decide)
      rw [halt] at this
      exact .inr (this.elim id id)

/-- Outside RUN an emergency brings no change of mode (R271). -/
theorem emgEntry_modes {q : Quad} (h : q.mode ≠ .run) : q.emgEntry.modes = q.modes := by
  unfold Quad.emgEntry
  split
  · dsimp only
    rw [if_neg fun run => h run.1]
    rfl
  · rfl

/-- A quadrant carries out the change of mode that was pending and due: to the mode that a command asked for, or to RUN. -/
def Carries (q r : Quad) : Prop :=
  ∃ x, q.change = some x ∧ x.left = 0 ∧
    ((∃ n a, x.by_ = .command n a ∧ x.target = r.mode) ∨
      ∃ b, x.by_ = .auto b ∧ x.target ≠ .standby ∧ x.target ≠ .hardpan ∧ r.mode = .run)

/-- What goes before a change of mode at its boundary, outside RUN. -/
theorem policiesThenEntry_modes {q : Quad} (h : q.mode ≠ .run) (due : List Nat) :
    (due.foldl (fun q c => q.policyAction c) q).emgEntry.modes = q.modes ∨
      (due.foldl (fun q c => q.policyAction c) q).emgEntry.modes = (.halt, none) := by
  obtain same | halt := policyActions_modes h due
  · have notRun : (due.foldl (fun q c => q.policyAction c) q).mode ≠ .run := mode_of_modes same ▸ h
    exact .inl ((emgEntry_modes notRun).trans same)
  · have notRun : (due.foldl (fun q c => q.policyAction c) q).mode ≠ .run := mode_of_modes halt ▸ by decide
    exact .inr ((emgEntry_modes notRun).trans halt)

theorem log_mode (q : Quad) (code : BitVec 16) (sev : BitVec 8) (arg0 : W32) (arg1 : BitVec 16) : (q.log code sev arg0 arg1).mode = q.mode :=
  congrArg Prod.fst (log_modes ..)

theorem complete_mode (q : Quad) (seq : W32) (op status aux : Nat) (resA : W32) : (q.complete seq op status aux resA).mode = q.mode :=
  rfl

/-- The end of a change of mode only writes the page of the schedule again. -/
theorem sinks_or_carries_rewritePages {q r : Quad} (h : Sinks q r ∨ Carries q r) : Sinks q r.rewritePages ∨ Carries q r.rewritePages := by
  have mode : r.rewritePages.mode = r.mode := congrArg Prod.fst (rewritePages_modes r)
  refine h.imp (fun same => same.kept (rewritePages_modes r)) fun carried => ?_
  unfold Carries
  rwa [mode]

theorem modeChangeEffect_hardpan {q : Quad} (h : q.mode = .hardpan) (n : Nat) :
    Sinks q (q.modeChangeEffect n) ∨ Carries q (q.modeChangeEffect n) := by
  have before := policiesThenEntry_modes (h ▸ by decide : q.mode ≠ .run) q.flt.due
  unfold Quad.modeChangeEffect
  extract_lets q1 q2
  have two : q2.mode = q1.mode := rfl
  change q1.modes = _ ∨ q1.modes = _ at before
  clear_value q2 q1
  obtain same | halt := before
  · rw [show q1.change = q.change from congrArg Prod.snd same]
    have two : q2.mode = q.mode := two.trans (mode_of_modes same)
    split
    · exact .inl (.of_modes same)
    · next x pending =>
      split
      · exact .inl (.of_modes same)
      · next due =>
        extract_lets asked done
        refine sinks_or_carries_rewritePages ?_
        simp only [done]
        split
        · next slot auto =>
          split
          · exact .inl ((Sinks.of_mode two).kept (by simp))
          · exact .inl (.of_mode ((setMode_mode ..).trans h.symm))
          · next notStandby notHardpan =>
            split
            · refine .inr ⟨x, pending, not_not.mp due, .inr ⟨slot, auto, notStandby, notHardpan, ?_⟩⟩
              exact (log_mode ..).trans (enterRun_mode ..)
            · exact .inl ((Sinks.of_mode two).kept (by simp))
        · next seq acc command =>
          have carried (r : Quad) (m : r.mode = x.target) : Carries q r := ⟨x, pending, not_not.mp due, .inl ⟨seq, acc, command, m.symm⟩⟩
          simp only [asked]
          split
          · exact .inl (((Sinks.of_mode two).trans (sinks_enterHalt ..)).kept (complete_modes ..))
          · next run => exact .inr (carried _ ((complete_mode ..).trans ((enterRun_mode ..).trans run.symm)))
          · exact .inr (carried _ ((complete_mode ..).trans (setMode_mode ..)))
  · rw [show q1.change = none from congrArg Prod.snd halt]
    exact .inl (.to_halt (mode_of_modes halt))
/-- A step of the device that keeps a quadrant's mode, or takes it to HALT or a reset, past SCOUR and outside RUN. -/
def StateSinks (f : State → Out) : Prop :=
  ∀ s t, f s = .next t → ∀ i, (s.quad i).rst ≠ .scouring → (s.quad i).mode ≠ .run → Sinks (s.quad i) (t.quad i)

theorem sinks_commit {q r : Quad} (h : Sinks q r) : Sinks q r.commit := h.kept rfl

theorem stateSinks_onQ {i : QId} {f : Quad → Quad} (h : ∀ q, q.mode ≠ .run → Sinks q (f q)) : StateSinks (onQ i f) :=
  fun s t e j _ notRun => by
    obtain ⟨own, other, -, -⟩ := onQ_next e
    obtain rfl | ne := eq_or_ne j i
    · exact own ▸ sinks_commit (h _ notRun)
    · exact other j ne ▸ .refl _

theorem stateSinks_onQH {i : QId} {f : State → Quad → HostDom → Quad × HostDom} (h : ∀ s q h, Sinks q (f s q h).1) :
    StateSinks fun s => onQH i (f s) s := fun s t e j _ _ => by
  obtain ⟨u, eu, own, other, -⟩ := onQH_completes i (f s) s
  obtain rfl : u = t := by simpa [eu] using e
  obtain rfl | ne := eq_or_ne j i
  · exact own ▸ sinks_commit (h _ _ _)
  · exact other j ne ▸ .refl _

theorem stateSinks_onAll {f : Device → Device} (h : ∀ d, DeviceSinks d (f d)) : StateSinks (onAll f) :=
  fun s t e j past _ => by
    obtain ⟨u, eu, all, -⟩ := onAll_completes f s
    obtain rfl : u = t := by simpa [eu] using e
    exact all j ▸ sinks_commit (h s.dev j past)

theorem stateSinks_atPins {f : State → Out} (h : StateSinks f) : StateSinks (atPins f) := fun s t e => by
  unfold atPins at e
  split at e
  · obtain rfl : s = t := by simpa using e
    exact fun _ _ _ => .refl _
  · exact h s t e

/-- A command that is no instruction, and does not carry out a change of mode. -/
theorem exec_sinks_of_issueOf_none {c : Instr} (none : issueOf c = none) (h : ∀ i, c ≠ .modeChangeEffect i) : StateSinks (exec c) := by
  cases c <;> cases none
  case modeChangeEffect i => exact absurd rfl (h i)
  all_goals unfold exec
  case debugPortEvent => exact stateSinks_onQH fun _ q h => .of_modes (debugEvent_modes ..)
  case tickBoundary => exact stateSinks_onQ fun q _ => sinks_tickBoundary ..
  case qctlRateWrite | flowCfgWrite | xchOwnWrite | hpnEnable | hpnDisable | clkSelWrite | timIncrFrWrite | timIncrNsWrite | slewStart |
      suspectClear | txRingPost | snxJoin | snxLeave | snxYield | syncArm | dmaSubmit | dmaReset =>
    exact stateSinks_onQ fun q _ => sinks_regPut ..
  case gridStart => exact stateSinks_onQ fun q _ => sinks_gridStart q
  case modeRun | modeStandby | modeService | modeHardpan | modeHalt =>
    exact stateSinks_onQ fun q _ => sinks_hostCmd q _ _ _ _ fun q => .of_mode (modeCmd_mode ..)
  case porAssert => exact stateSinks_onAll fun d => (deviceSinks_porAssert d).share
  case quadrantResetPin => exact stateSinks_onQ fun q _ => sinks_resetPin ..
  case softReset => exact stateSinks_onQ fun q _ => sinks_softReset q
  case clockLossReset => exact stateSinks_onAll fun d => (deviceSinks_clockLoss d _ _ _).share
  case resetRelease => exact stateSinks_onQH fun _ q h => sinks_releaseQuad ..
  case porRelease => exact stateSinks_onAll fun d => (deviceSinks_porRelease d _).share
  case supplyPorHold => exact stateSinks_onAll fun d => (deviceSinks_supplyHold d _ _).share
  case supplyHoldRelease => exact stateSinks_onAll fun d => (deviceSinks_supplyRelease d _ _).share
  case scourStart => exact stateSinks_onQH fun _ q h => sinks_scourBegin ..
  case scourComplete => exact stateSinks_onAll fun d => (deviceSinks_scourDone d _ _).share
  case remapWrite | schArmBind | schArmUnbind | schArmTickPeriodic | schArmTimePeriodic | schArmOneshotTick | schArmOneshotTime |
      schArmDisarm | timeStepAdd | timeStepSet | gpioLaunchQueue | maskWrite | txcsWrite =>
    exact stateSinks_onQ fun q _ => .of_modes (whenOpen_modes _ _ _ _ fun q => by simp)
  case autostartDelivery => exact stateSinks_onQH fun _ q h => sinks_deliver ..
  case autostartDigestCheck => exact stateSinks_onQH fun _ q h => sinks_digestCheck ..
  case routeTableWrite => exact stateSinks_onQ fun q _ => sinks_tableBytes ..
  case directWriteResume => exact stateSinks_onQ fun q _ => sinks_directResume q
  case meterPeriodWrite | refcfgRankWrite | streamEnable | snxEnable | portEnable | asrcGroupEnable | modClockEnable | decInputEnable =>
    exact stateSinks_onQ fun q _ => sinks_fieldPut ..
  case hpnVerifyResult => exact stateSinks_onQH fun _ q h => sinks_verifyResult ..
  case dmaComplete => exact stateSinks_onQ fun q _ => (sinks_dmaComplete ..).kept (granted_modes ..)
  case patrolScrub => exact stateSinks_onQ fun q _ => sinks_patrol ..
  case hostWrite => exact stateSinks_atPins (stateSinks_onAll fun d => (deviceSinks_hostWrite d _ _ _).share)
  case hostWriteDrain f =>
    refine stateSinks_onAll fun d => ?_
    cases f
    · exact deviceSinks_mapQuad d _ fun q _ => .of_modes (drain_modes q)
    · exact (deviceSinks_hostDrain d).share
  case bulkWrite | bulkRead | cmdWpWrite | cplRpWrite | statusModeRead =>
    exact stateSinks_atPins (stateSinks_onQ fun q _ => .of_modes (by simp))
  case commandAccept => exact stateSinks_onQ fun q _ => sinks_commandAccept q
  case cmdLoad => exact stateSinks_onQ fun q _ => sinks_hostCmd q _ _ _ _ fun q => sinks_cmdLoad ..
  case loadContinue => exact stateSinks_onQ fun q _ => (sinks_loadGo ..).kept (granted_modes ..)
  case cmdWrite => exact stateSinks_onQ fun q _ => sinks_hostCmd q _ _ _ _ fun q => sinks_cmdWrite ..
  case hostDomainReset | mladcelWatchdog =>
    exact stateSinks_onAll fun d => (deviceSinks_hostReset d _).share
  case mladcelStart => exact stateSinks_onAll fun d => (deviceSinks_mladcelStart d).share
  case sensorSample => exact stateSinks_onAll fun d => (DeviceSinks.of_quad fun j => quad_sensor ..).share
  case logWrite => exact stateSinks_onAll fun d => (DeviceSinks.of_quad fun j => quad_logWrite ..).share
  case quadrantEventPass => exact stateSinks_onQH fun _ q h => sinks_passEvents ..
  case stageOpen | stageWrite | stageVerify | activate | logRead | recordWrite | lifecycle | keyProgram | keyRevoke =>
    exact stateSinks_onAll fun d => (DeviceSinks.of_quad fun j => quad_mgtCommand ..).share
  case mgtCommandComplete => exact stateSinks_onAll fun d => (deviceSinks_mgtComplete d).share
  case supplySag => exact stateSinks_onAll fun d => (DeviceSinks.of_quad fun j => quad_sag ..).share
  case nvWriteResume => exact stateSinks_onAll fun d => (DeviceSinks.of_quad fun j => quad_nvResume ..).share
  case faultPolicyAction => exact stateSinks_onQ fun q notRun => sinks_policyAction notRun _
  case coreTestDone => exact stateSinks_onQ fun q _ => sinks_coreTestDone ..
  case registerWrite => exact stateSinks_onQ fun q _ => sinks_registerWrite ..
  case rcRegisterRead => exact stateSinks_onAll fun d => deviceSinks_rcReadAt _ _ _ _ _
  all_goals exact stateSinks_onQ fun q _ => .of_modes (by simp)

theorem exec_sinks (c : Instr) (h : ∀ i, c ≠ .modeChangeEffect i) : StateSinks (exec c) := by
  obtain none | ⟨i, instr⟩ := Option.eq_none_or_eq_some (issueOf c)
  · exact exec_sinks_of_issueOf_none none h
  · obtain ⟨plan, steady, run⟩ := exec_issue_sinks instr
    rw [show exec c = onQ i.q (Quad.issue i plan) from funext run]
    exact stateSinks_onQ fun q _ => sinks_issue i steady q

theorem exec_hardpan {s t : State} {c : Instr} {i : QId} (e : exec c s = .next t) (hardpan : (s.quad i).mode = .hardpan)
    (past : (s.quad i).rst = .past) : Sinks (s.quad i) (t.quad i) ∨ c = .modeChangeEffect i ∧ Carries (s.quad i) (t.quad i) := by
  by_cases h : ∃ j, c = .modeChangeEffect j
  · obtain ⟨j, rfl⟩ := h
    obtain ⟨own, other, -, -⟩ := onQ_next (f := fun q => q.modeChangeEffect j.num) e
    obtain rfl | ne := eq_or_ne i j
    · rw [own]
      exact (modeChangeEffect_hardpan hardpan i.num).imp sinks_commit fun carried => ⟨rfl, carried⟩
    · exact .inl (other i ne ▸ .refl _)
  · exact .inl (exec_sinks c (fun j hj => h ⟨j, hj⟩) s t e i (by simp [past]) (by simp [hardpan]))

/-- Settles O58: every command but the change of a mode leaves a quadrant's mode, or takes it to HALT or a reset (`exec_sinks`), and the
change of a mode carries out what was pending (`modeChangeEffect_hardpan`). -/
theorem hardpanIsNotLeft : Obligations.HardpanIsNotLeft := by
  unfold Obligations.HardpanIsNotLeft
  intro s t c i e hardpan past
  obtain (same | halt | scour) | carried := exec_hardpan e hardpan past
  · exact .inl (same.trans hardpan)
  · exact .inr (.inl halt)
  · exact .inr (.inr (.inl scour))
  · exact .inr (.inr (.inr carried))

end Proofs

end Sys2Proof.Machine

/-! Bus requests of a core that complete (R82, R83, R108): what a load delivers to its set, and a store that retires. -/

namespace Sys2Proof.Machine.Proofs
open Laws

/-! ### Register sets -/

@[simp] theorem getSet_setSet_same (k : Core) (b : Bool) (r : RegSet) : (k.setSet b r).getSet b = r := by cases b <;> rfl

@[simp] theorem getSet_setSet_other (k : Core) (b : Bool) (r : RegSet) : (k.setSet b r).getSet (!b) = k.getSet (!b) := by cases b <;> rfl

theorem write_d_self (s : RegSet) (n : Fin 16) (v : W40) : (s.write (.d n) v).d[n] = v := by simp [RegSet.write]

/-! ### A load delivered -/

/-- The sticky flag by which a load tells of the error that its data came with (R82). -/
def errorFlag : Ecc → W32
  | .clean => 0
  | .corr => stEC
  | .uncorr => stEU

/-- A register written leaves ST, which no register code names (R150). -/
theorem write_st (s : RegSet) (r : Rg) (v : W40) : (s.write r v).st = s.st := by
  cases r with
  | b n => simp only [RegSet.write]; split <;> rfl
  | l n => simp only [RegSet.write]; split <;> rfl
  | _ => rfl

/-- The register of a load written in a set, where no later write has superseded it (R116). -/
def loadedReg (x : BusReq) (s : RegSet) : RegSet := match x.dst with | some r => s.write r x.val | none => s

/-- What a load makes of the set that issued it: its register written and its sticky flag set. -/
def loaded (x : BusReq) (s : RegSet) : RegSet := { loadedReg x s with st := (loadedReg x s).st ||| errorFlag x.ecc }

/-- ST changes by the sticky flag alone. -/
theorem loaded_st (x : BusReq) (s : RegSet) : (loaded x s).st = s.st ||| errorFlag x.ecc := by
  have kept : (loadedReg x s).st = s.st := by
    unfold loadedReg
    split
    · exact write_st ..
    · rfl
  rw [loaded, kept]

/-- The oldest request delivered: its set loaded, the requests behind it left. -/
theorem deliver_oldest (k : Core) (x : BusReq) (rest : List BusReq) :
    k.deliver [] x rest = { k.setSet x.set (loaded x (k.getSet x.set)) with reqs := rest } := by
  obtain ⟨_, set, dst, _, ecc, _⟩ := x
  cases set <;> cases dst <;> cases ecc <;> simp [Core.deliver, loaded, loadedReg, errorFlag, Core.setSet, Core.getSet, Core.mapSt]

/-- A core outside the bound pair is changed alone. -/
theorem pairMap_setCore_alone {q : Quad} {c : Fin 17} {k : Core} (f : Core → Core) (alone : q.locked = true → 2 ≤ (q.core c).pos.val)
    (pos : k.pos = (q.core c).pos) : (q.setCore c k).pairMap c f = q.setCore c k :=
  pairMap_alone _ _ _ ((pairStore_setCore pos).trans (pairStore_eq_false alone))

section
variable {q : Quad} {c : Fin 17} {x : BusReq} {rest : List BusReq} (alone : q.locked = true → 2 ≤ (q.core c).pos.val)
  (oldest : (q.core c).reqs = x :: rest)
include alone oldest

/-- The oldest load of a core outside the bound pair lands. -/
theorem busLoadLand_oldest (load : x.store = false) :
    q.busLoadLand c 0 = (q.setCore c { (q.core c).setSet x.set (loaded x ((q.core c).getSet x.set)) with reqs := rest }).granted
      (q.core c).pos.val := by
  have taken : pickLoad (q.core c).reqs 0 = some ([], x, rest) := by simp [oldest, pickLoad, load]
  have single := pairMap_setCore_alone (k := { (q.core c).setSet x.set (loaded x ((q.core c).getSet x.set)) with reqs := rest })
    (fun k => k.landLoad 0) alone (kept_setSet ..).pos
  simp only [Quad.busLoadLand, follows_eq_false alone, taken, List.any_nil, Bool.false_eq_true, if_false, deliver_oldest, single]

/-- The oldest store of a core outside the bound pair retires. -/
theorem busStoreComplete_oldest (store : x.store = true) :
    q.busStoreComplete c = (q.setCore c { q.core c with reqs := rest }).granted (q.core c).pos.val := by
  have dropped : dropStore [] (q.core c).reqs = rest := by simp [oldest, dropStore, store]
  have single := pairMap_setCore_alone (k := { q.core c with reqs := rest }) (fun k => { k with reqs := dropStore [] k.reqs }) alone rfl
  simp only [Quad.busStoreComplete, follows_eq_false alone, dropped, Bool.false_eq_true, if_false, single]

end

/-- A grant changes no core. -/
@[simp] theorem core_granted (q : Quad) (m : Nat) (c : Fin 17) : (q.granted m).core c = q.core c := rfl

/-- Settles O25: the oldest request is a load, which lands in its set, or a store, which retires. -/
theorem busRequestsComplete : Obligations.BusRequestsComplete := by
  intro s iq c x rest q k alone oldest
  refine ⟨fun load => ?_, fun store => ?_⟩
  · obtain ⟨t, ht, quad, others, host, pending⟩ := onQ_completes iq (fun q => q.busLoadLand c 0) s
    rw [busLoadLand_oldest alone oldest load] at quad
    have core : (t.quad iq).core c = { k.setSet x.set (loaded x (k.getSet x.set)) with reqs := rest } := by
      rw [quad, commit_core, core_granted, core_setCore]
    have own : ((t.quad iq).core c).getSet x.set = loaded x (k.getSet x.set) := by
      rw [core]
      exact getSet_setSet_same ..
    refine ⟨t, ht, ⟨pending, host, others⟩, ?_, ?_, ?_, ?_, ?_, ?_, ?_⟩
    · rw [quad]
      exact commit_read _
    · rw [quad]
      rfl
    · rw [core]
    · rintro _ hr d rfl
      simp only [own, loaded, loadedReg, hr, write_d_self]
    · intro superseded
      simp only [own, loaded, loadedReg, superseded]
    · rw [own, loaded_st]
      rfl
    · rw [core]
      exact getSet_setSet_other ..
  · obtain ⟨t, ht, quad, others, host, pending⟩ := onQ_completes iq (fun q => q.busStoreComplete c) s
    rw [busStoreComplete_oldest alone oldest store] at quad
    refine ⟨t, ht, ⟨pending, host, others⟩, ?_, ?_, ?_⟩
    · rw [quad]
      exact commit_read _
    · rw [quad]
      rfl
    · rw [quad, commit_core, core_granted, core_setCore]

end Sys2Proof.Machine.Proofs

/-! The run of an event task that `rte` ends has its record written to the completion ring as any master writes (R416): an error mark that begins
inside the record and reaches past its end outlasts the write, the fault record of that error follows, and where the fault ring has its
place on the completion ring it stands over the record. -/

namespace Sys2Proof.Machine.Proofs

/-- A run of the event task 7, with no fault so far and outside any flow. -/
def eventRun : Run := ⟨⟨7, 1, 5, 999, false, true, none⟩, 0, false, false, 0, none, 0⟩

/-- The core of position 4 in the EVT handler of that run. -/
def eventHandler : Core := { pos := 4, act := true, evs := 1, evtRun := some eventRun, bootFetch := false }

/-- A quadrant in RUN whose completion ring and fault ring both begin at 0x1000_0000, with an uncorrectable mark at 0x1000_000E: it touches
the last half word of the first record, which does not cover the mark's four bytes. No premise of the statement keeps marks to word
addresses, as every mark that a run makes is. -/
def ringsMeet : Quad :=
  { Quad.reset with
    regs := [(Reg.QCTL_RST_CAUSE, 1), (Reg.SCH_CR_BASE, 0x1000000), (Reg.FLT_RG_BASE, 0x1000000)]
    ecc := [(0x1000000E, .uncorr)]
    cores := Quad.reset.cores.set 4 eventHandler
    mode := .run, rst := .past, running := true, tick := 1000 }

/-- The state whose quadrant 0 is `ringsMeet`. -/
def recordAtRisk : State := { State.reset with dev := { State.reset.dev with q0 := ringsMeet } }

/-- The issue of `rte` by that core. -/
def issueAt4 : Issue := { q := .q0, c := 4, sat := false, pm := 0, rsv := false, upset := none, mism := false }

theorem issues_recordAtRisk : recordAtRisk.issues issueAt4 := by decide +kernel

theorem memWf_recordAtRisk : recordAtRisk.memWf := by
  obtain ⟨quads, staging⟩ := memWf_reset
  refine ⟨fun j => ?_, staging⟩
  cases j
  · exact quads .q0
  · exact quads .q1
  · exact quads .q2
  · exact quads .q3

theorem openTo_ringsMeet : ringsMeet.openTo 0x10000000 16 := by
  refine ⟨by decide +kernel, ⟨by decide +kernel, by decide +kernel, ?_⟩, by decide +kernel⟩
  decide +kernel

/-- The fault record of the mark stands at the place of the ring: MEMORY, cause 1, no core, no position (R472). -/
theorem rte_leaves_faultRecord {t : State} (h : exec (.rte issueAt4) recordAtRisk = .next t) :
    (t.quad issueAt4.q).mem.readLE 0x10000000 4 = 4 + 256 * 1 + 65536 * 31 + 2097152 * 31 := by
  rw [(Laws.onQ_next h).1]
  decide +kernel

/-- Refutes O19: the record of an event task's run that `rte` ends does not always stand at the ring's place. -/
theorem not_eventsEntered : ¬ Obligations.EventsEntered := by
  intro h
  obtain ⟨returns, -⟩ := h
  obtain ⟨-, ended, -⟩ := returns recordAtRisk issueAt4 issues_recordAtRisk rfl rfl (by decide +kernel) rfl
  obtain ⟨t, -, ht, -, -, -, -, -, -, -, recorded⟩ :=
    ended eventRun rfl rfl rfl rfl (by decide +kernel) rfl memWf_recordAtRisk
  have first := (recorded 0x10000000 (by decide +kernel) rfl rfl openTo_ringsMeet).1
  have place : (recordAtRisk.quad issueAt4.q).phys 0x10000000 = 0x10000000 := by decide +kernel
  rw [place, rte_leaves_faultRecord ht] at first
  exact absurd first (by decide +kernel)

end Sys2Proof.Machine.Proofs

/-! An instruction that a rule makes illegal (R118, R162): the causes that it raises, the lowest of them, and the entry of its core to the
TRAP handler (R85, R86). -/

namespace Sys2Proof.Machine.Proofs
open Laws

/-! ### The entry to a handler -/

/-- Cycles keep of their core what a cycle keeps. -/
theorem kept_cycles (per n : Nat) (k : Core) : Kept k (k.cycles per n) := by
  induction n generalizing k with
  | zero => exact .refl k
  | succ n ih => exact (kept_cycle per k).trans (ih _)

theorem entered_enter (k : Core) (per cls cause : Nat) (epc : PAddr) : k.entered per (k.enter per cls cause epc) cls cause epc := by
  have run := (kept_cycles per 3 k).run
  unfold Core.entered Core.enter
  generalize k.cycles per 3 = k3 at run ⊢
  exact ⟨rfl, rfl, rfl, rfl, rfl, rfl, rfl, rfl, run, rfl, rfl, rfl⟩

/-! ### The lowest of some causes -/

/-- A cause of a list below which the list has none. -/
def Least (l : List Nat) (c : Nat) : Prop := c ∈ l ∧ ∀ x ∈ l, c ≤ x

theorem foldl_min_eq {c b : Nat} {l : List Nat} (hb : c ≤ b) (hl : ∀ x ∈ l, c ≤ x) (hc : c = b ∨ c ∈ l) : l.foldl min b = c := by
  induction l generalizing b with
  | nil => simpa [eq_comm] using hc
  | cons x l ih =>
    obtain ⟨hx, hl⟩ := List.forall_mem_cons.mp hl
    refine ih (le_min hb hx) hl ?_
    rcases hc with rfl | hc
    · exact .inl (min_eq_left hx).symm
    · rcases List.mem_cons.mp hc with rfl | hc
      · exact .inl (min_eq_right hb).symm
      · exact .inr hc

theorem lowest_eq {c : Nat} {l : List Nat} (h : Least l c) (hc : c ≤ 63) : lowest l = c := foldl_min_eq hc h.2 (.inr h.1)

theorem least_singleton (c : Nat) : Least [c] c := ⟨List.mem_singleton_self c, fun _ hx => (List.mem_singleton.mp hx).ge⟩

theorem Least.append {l l' : List Nat} {c : Nat} (h : Least l c) (h' : ∀ x ∈ l', c ≤ x) : Least (l ++ l') c :=
  ⟨List.mem_append_left _ h.1, List.forall_mem_append.mpr ⟨h.2, h'⟩⟩

/-! ### The causes of an operation -/

@[simp] theorem mem_causeIf {b : Bool} {c x : Nat} : x ∈ causeIf b c ↔ b = true ∧ x = c := by cases b <;> simp [causeIf]

theorem least_causeIf {b : Bool} {c : Nat} (h : b = true) : Least (causeIf b c) c := by simp [Least, h]

theorem le_causeIf {b : Bool} {c d : Nat} (h : c ≤ d) : ∀ x ∈ causeIf b d, c ≤ x := by simp [h]

theorem mem_dupTraps {w st : List Rg} {x : Nat} :
    x ∈ dupTraps w st ↔ hasDup st = true ∧ x = Cause.dupModify ∨
      (hasDup w || st.any (w.contains ·)) = true ∧ x = Cause.dupDest := by
  unfold dupTraps
  split <;> split <;> simp_all

/-- A circular step raises no cause but CIRC_STEP. -/
theorem circAdd_causes {s : RegSet} {n : Fin 8} {m : Int} {x : Nat} (h : x ∈ (circAdd s n m).1) : x = Cause.circStep := by
  unfold circAdd at h
  dsimp only at h
  repeat' split at h
  all_goals simp_all

/-- Nor does a reverse-carry step. -/
theorem revAdd_causes {s : RegSet} {n : Fin 8} {m : Int} {r4 : Bool} {x : Nat} (h : x ∈ (revAdd s n m r4).1) : x = Cause.circStep := by
  unfold revAdd at h
  dsimp only at h
  repeat' split at h
  all_goals simp_all

/-- The causes that an address raises. -/
theorem addrOf_causes {s : RegSet} {n : Fin 8} {a : AMode} {x : Nat} (h : x ∈ (addrOf s n a).traps) :
    x = Cause.circStep ∨ x = Cause.circOut ∨ x = Cause.rcLength := by
  have out : x ∈ (if outside s n then [Cause.circOut] else []) → x = Cause.circOut := by split <;> simp
  have stepped {l : List Nat} (hl : x ∈ l → x = Cause.circStep) (h : x ∈ (if outside s n then [Cause.circOut] else []) ++ l) :
      x = Cause.circStep ∨ x = Cause.circOut ∨ x = Cause.rcLength :=
    (List.mem_append.mp h).elim (fun h => .inr (.inl (out h))) fun h => .inl (hl h)
  cases a with
  | plain => exact .inr (.inl (out h))
  | stepK k => exact stepped circAdd_causes h
  | stepM m => exact stepped circAdd_causes h
  | offset k => exact stepped circAdd_causes h
  | rev m r4 =>
    simp only [addrOf] at h
    split at h
    · exact stepped revAdd_causes h
    · exact (List.mem_append.mp h).elim (fun h => .inr (.inl (out h))) fun h => .inr (.inr (List.mem_singleton.mp h))

/-- The causes that the target of a bus access raises. -/
theorem busTraps_causes {q : Quad} {c : Fin 17} {store : Bool} {a n x : Nat} (h : x ∈ q.busTraps c store a n) :
    x = Cause.busErr ∨ x = Cause.privWrite := by
  unfold Quad.busTraps at h
  repeat' split at h
  all_goals simp_all

/-! ### The issue of an instruction that traps -/

/-- The quadrant as an instruction finds it. -/
def found (s : State) (i : Issue) : Quad := (s.quad i.q).setCore i.c (s.issuer i)

@[simp] theorem core_found (s : State) (i : Issue) : (found s i).core i.c = s.issuer i := core_setCore ..

@[simp] theorem eccAt_found (s : State) (i : Issue) (a : Nat) : (found s i).eccAt a = (s.quad i.q).eccAt a := rfl

/-- Nothing keeps an open core from an instruction: it runs alone, its fetch brings no error, and nothing is owed to the core that the
instruction could wait for. -/
structure Unhindered (s : State) (i : Issue) : Prop extends Waits s i where
  reqs : ((s.quad i.q).core i.c).reqs = []
  ask : ((s.quad i.q).core i.c).ask = none

/-- So it is where an instruction may issue, but for a bit of its word that must be zero and is not (R121). -/
theorem unhindered_of_issues {s : State} {i : Issue} (h : s.issues { i with rsv := false }) : Unhindered s i := by
  obtain ⟨upset, mism, -, alone, isOpen, fetch, reqs, ask⟩ := h
  exact ⟨⟨upset, mism, alone, isOpen, fetch⟩, reqs, ask⟩

namespace Unhindered
variable {s : State} {i : Issue} (h : Unhindered s i)
include h

theorem pairStore_found : (found s i).pairStore i.c = false :=
  (pairStore_setCore (issuer_pos s i)).trans (pairStore_eq_false h.alone)

/-- The instruction is put to its core, and to no other. -/
theorem issue_eq (plan : Quad → Core → Plan) : (s.quad i.q).issue i plan = (found s i).attempt i (plan (found s i) (s.issuer i)) := by
  have strike : (s.quad i.q).strike i.upset = s.quad i.q := by rw [h.upset]; rfl
  have cycled := pairMap_cycle h.alone (cclkPerTick (s.quad i.q).fi)
  have begun : (s.quad i.q).setCore i.c { ((s.quad i.q).core i.c).cycle (cclkPerTick (s.quad i.q).fi) with parked := false } =
      found s i := rfl
  simp only [Quad.issue, strike, follows_eq_false h.alone, cycled, closed_cycle, h.isOpen, h.mism, core_setCore, setCore_setCore, begun,
    core_found, h.pairStore_found, Bool.false_and, Bool.false_eq_true, if_false]

/-- No error meets its fetch. -/
theorem fetch_eq : (if (s.issuer i).rep = 0 then (found s i).fetch i.c (s.issuer i).pc else (.clean, found s i)) = (.clean, found s i) := by
  split
  · next rep =>
    obtain ⟨boot, clean⟩ := h.fetch ((issuer_rep s i).symm.trans rep)
    simp [Quad.fetch, boot, clean]
  · rfl

/-- Nothing is owed that it could wait for. -/
theorem stalls_eq (p : Plan) (m : PMove) : (s.issuer i).stalls p m = false := by
  have reqs : (s.issuer i).reqs = [] := (kept_cycle (cclkPerTick (s.quad i.q).fi) _).reqs h.reqs
  have ask : (s.issuer i).ask = none := (kept_cycle (cclkPerTick (s.quad i.q).fi) _).ask h.ask
  simp [Core.stalls, Core.awaited, reqs, ask]

/-- Its word allows no such moves. -/
theorem attempt_noMoves {p : Plan} (hm : p.moves = none) : (found s i).attempt i p = (found s i).trap i.c Cause.illegalOp := by
  simp only [Quad.attempt, core_found, followFetch_alone _ _ _ h.pairStore_found, ite_self, h.fetch_eq, hm]
  rfl

/-- It raises causes, of which the lowest is recorded. -/
theorem attempt_least {p : Plan} {m : PMove} {c : Nat} (hm : p.moves = some m) (hc : Least ((found s i).issueTraps i p m) c)
    (h63 : c ≤ 63) : (found s i).attempt i p = (found s i).trap i.c c := by
  have low := lowest_eq hc h63
  simp only [Quad.attempt, core_found, followFetch_alone _ _ _ h.pairStore_found, ite_self, h.fetch_eq, hm, h.stalls_eq]
  cases hl : (found s i).issueTraps i p m with
  | nil => exact absurd hc.1 (by simp [hl])
  | cons d l => rw [← low, hl]; rfl

/-- Outside the bound pair no Hardpan task runs, and a trap from set 0 enters the handler (R85, R86). -/
theorem trap_eq (act : (s.issuer i).act = false) (rep : (s.issuer i).rep = 0) (cause : Nat) :
    (found s i).trap i.c cause =
      (s.quad i.q).setCore i.c ((s.issuer i).enter (cclkPerTick (s.quad i.q).fi) 0 cause (s.issuer i).nextPc) := by
  have pair : ((found s i).locked && (s.issuer i).pos == 0) = false := by
    rw [← core_found s i]
    exact h.pairStore_found
  have entry : (found s i).hpnEntryOf i.c = none := by simp only [Quad.hpnEntryOf, core_found, pair, Bool.false_eq_true, if_false]
  rw [trap_enters _ _ _ entry (by rw [core_found, act]), core_found, if_neg (by omega), found, setCore_setCore]
  rfl

end Unhindered

/-- A command that has no effect but the entry of its core to the TRAP handler with a cause (the statement's `traps`). -/
def Traps (s : State) (i : Issue) (c : Instr) (cause : Nat) : Prop :=
  ∃ k2, exec c s = .next (s.withCore i.q i.c k2) ∧ (s.issuer i).entered (cclkPerTick (s.quad i.q).fi) k2 0 cause (s.issuer i).nextPc

/-- A core that runs set 0 and is free to take an instruction that it does not repeat. -/
structure FreshInSet0 (s : State) (i : Issue) : Prop extends Unhindered s i where
  act : (s.issuer i).act = false
  rep : (s.issuer i).rep = 0

/-- It is so whatever word it takes. -/
theorem FreshInSet0.reword {s : State} {i : Issue} (h : FreshInSet0 s i) (pm : BitVec 24) (rsv : Bool) :
    FreshInSet0 s { i with pm := pm, rsv := rsv } :=
  ⟨⟨⟨h.upset, h.mism, h.alone, h.isOpen, h.fetch⟩, h.reqs, h.ask⟩, h.act, h.rep⟩

namespace FreshInSet0
variable {s : State} {i : Issue} (h : FreshInSet0 s i) {c : Instr} {plan : Quad → Core → Plan}
  (hx : exec c s = onQ i.q (Quad.issue i plan) s)
include h hx

theorem traps_of_attempt {cause : Nat}
    (ha : (found s i).attempt i (plan (found s i) (s.issuer i)) = (found s i).trap i.c cause) : Traps s i c cause := by
  refine ⟨_, hx.trans (onQ_setCore ?_), entered_enter ..⟩
  rw [h.issue_eq, ha, h.trap_eq h.act h.rep]

/-- A word with moves that it may not have. -/
theorem traps_noMoves (hm : (plan (found s i) (s.issuer i)).moves = none) : Traps s i c Cause.illegalOp :=
  h.traps_of_attempt hx (h.attempt_noMoves hm)

/-- An instruction that raises causes. -/
theorem traps_least {m : PMove} {cause : Nat} (hm : (plan (found s i) (s.issuer i)).moves = some m)
    (hc : Least ((found s i).issueTraps i (plan (found s i) (s.issuer i)) m) cause) (h63 : cause ≤ 63) : Traps s i c cause :=
  h.traps_of_attempt hx (h.attempt_least hm hc h63)

/-- An instruction without moves and with no bit set that must be zero, which writes no register twice, raises its own causes. -/
theorem traps_own {cause : Nat} (hm : (plan (found s i) (s.issuer i)).moves = some {}) (hr : i.rsv = false)
    (hd : dupTraps (plan (found s i) (s.issuer i)).writes [] = []) (hc : Least (plan (found s i) (s.issuer i)).traps cause)
    (h63 : cause ≤ 63) : Traps s i c cause := by
  refine h.traps_least hx hm ?_ h63
  simpa [Quad.issueTraps, PMove.accs, PMove.writes, PMove.stepped, hr, causeIf, hd] using hc

/-- One whose only cause is ILLEGAL_OP. -/
theorem traps_illegalPlan (hp : plan (found s i) (s.issuer i) = illegalPlan i) (hpm : i.pm = 0) (hr : i.rsv = false) :
    Traps s i c Cause.illegalOp := by
  have moves : pmOf i.pm = some {} := by rw [hpm, pmOf_zero]
  refine h.traps_own hx (hp ▸ moves) hr (by rw [hp]; rfl) ?_ (by decide)
  rw [hp]
  exact least_singleton _

/-- One of a word with a bit set that must be zero (R121): no cause is below ILLEGAL_OP. -/
theorem traps_reserved (hm : (plan (found s i) (s.issuer i)).moves = some {}) (hr : i.rsv = true)
    (hc : ∀ x ∈ (plan (found s i) (s.issuer i)).traps, 1 ≤ x) : Traps s i c Cause.illegalOp := by
  refine h.traps_least hx hm ⟨by simp [Quad.issueTraps, hr], fun x hxm => ?_⟩ (by decide)
  simp only [Quad.issueTraps, PMove.accs, List.append_nil, List.map_nil, List.flatten_nil, List.mem_append, mem_causeIf, mem_dupTraps] at hxm
  obtain (⟨-, rfl⟩ | own) | ⟨-, rfl⟩ | ⟨-, rfl⟩ := hxm
  · exact le_rfl
  · exact hc x own
  · decide
  · decide

end FreshInSet0

/-! ### Reserved words and operands (R121, R512) -/

section
variable {s : State} {i : Issue} (h : FreshInSet0 s i) (hpm : i.pm = 0)
include h hpm

theorem nop_reserved (hr : i.rsv = true) : Traps s i (.nop i) Cause.illegalOp :=
  h.traps_reserved rfl (if_pos hpm) hr (by simp [Cause.illegalOp])

theorem add_reserved (hr : i.rsv = true) (dd dx dy : Fin 16) : Traps s i (.add i dd dx (.reg dy)) Cause.illegalOp :=
  h.traps_reserved rfl (by rw [aluPlan, hpm, pmOf_zero]) hr (by simp [aluPlan])

/-- A word of group 0x05 whose MINOR no row gives (R120). -/
theorem wordCommand_undefined {w : W64} (major : wMajor w = 5) (minor : 5 ≤ wMinor w) : Traps s i (wordCommand i w) Cause.illegalOp := by
  have undefined : wExtract i w = none := by
    unfold wExtract
    split
    case h_6 => rfl
    all_goals omega
  have word : wordCommand i w = .nop { i with rsv := true } := by simp [wordCommand, wInstr, major, undefined]
  rw [word]
  exact nop_reserved (h.reword i.pm true) hpm rfl

variable (hr : i.rsv = false)
include hr

theorem dualMultiply_reserved (an am : Fin 4) (dx dy : Fin 16) : Traps s i (.dualMultiply i 3 0 an dx dy am dx dy) Cause.illegalOp :=
  h.traps_illegalPlan rfl rfl hpm hr

theorem ext_reserved (dd : Fin 16) (an : Fin 4) : Traps s i (.ext i dd an 3 0) Cause.illegalOp := h.traps_illegalPlan rfl rfl hpm hr

theorem bqs_misaligned {dq : Fin 16} (hq : dq.val % 4 ≠ 0) (an : Fin 4) (dx : Fin 16) : Traps s i (.bqs i dq an dx 0 0) Cause.illegalOp :=
  h.traps_illegalPlan rfl (if_pos (.inr hq)) hpm hr

theorem sel_undefined {cc : BitVec 4} (hc : 12 < cc.toNat) (dd dx dy : Fin 16) : Traps s i (.sel i dd dx dy cc) Cause.illegalOp :=
  h.traps_illegalPlan rfl (if_neg (by simpa [condOk] using hc)) hpm hr

theorem asl_tooFar {m : BitVec 11} (hm : 39 < m.toNat) (dd dx : Fin 16) : Traps s i (.asl i dd dx (.imm m)) Cause.illegalOp := by
  have far : (s.issuer i).count (.imm m) = none := if_neg (by omega)
  exact h.traps_illegalPlan rfl (by rw [far]) hpm hr

theorem ashD_tooFar {m : BitVec 11} (hm : 39 < m.toNat) (dd dx : Fin 16) : Traps s i (.ashD i dd dx (.imm m)) Cause.illegalOp := by
  have far : (s.issuer i).scount (.imm m) = none := if_neg (by omega)
  exact h.traps_illegalPlan rfl (by rw [far]) hpm hr

omit hpm hr in
theorem mfs_undefined {sys : BitVec 4} (hs : 7 < sys.toNat) (dd : Fin 16) : Traps s i (.mfs i dd sys) Cause.illegalOp := by
  have undefined : (found s i).sysRead i.q i.c sys = none := by
    unfold Quad.sysRead
    dsimp only
    split
    case h_9 => rfl
    all_goals omega
  exact h.traps_noMoves rfl (by rw [undefined])

omit hpm hr in
theorem mts_readOnly {sys : BitVec 4} (hs : 4 < sys.toNat) (dx : Fin 16) : Traps s i (.mts i sys dx) Cause.illegalOp :=
  h.traps_noMoves rfl (by rw [if_neg (by omega)])

/-- An accumulator named twice (R128). -/
theorem dualMultiply_twice (an : Fin 4) (dx dy : Fin 16) : Traps s i (.dualMultiply i 0 0 an dx dy an dx dy) Cause.dupDest := by
  have moves : pmOf i.pm = some {} := by rw [hpm, pmOf_zero]
  refine h.traps_least rfl moves ?_ (by decide)
  simp [Quad.issueTraps, PMove.accs, PMove.writes, PMove.stepped, mulOpOf, dualPlan, hr, dupTraps, hasDup, causeIf, Least]

end

/-! ### Instructions out of their place (R118, R154 to R158, R160) -/

theorem slotTrap_of_zero {k : Core} (h : k.slots = 0) : k.slotTrap = [] := by simp [Core.slotTrap, h, causeIf]

theorem least_slotTrap {k : Core} (h : 0 < k.slots) : Least k.slotTrap Cause.slotIllegal := least_causeIf (decide_eq_true h)

section
variable {s : State} {i : Issue} (h : FreshInSet0 s i) (hpm : i.pm = 0) (hr : i.rsv = false)
include h hpm hr

theorem rte_inSet0 : Traps s i (.rte i) Cause.illegalOp := by
  have set0 : (!(s.issuer i).act) = true := by rw [h.act]; rfl
  exact h.traps_own rfl (if_pos hpm) hr rfl
    (((least_causeIf set0).append (le_causeIf (by decide))).append (le_causeIf (by decide))) (by decide)

theorem xmov_inSet0 : Traps s i (.xmov i 0 1 true) Cause.illegalOp := by
  have set0 : (!(s.issuer i).act) = true := by rw [h.act]; rfl
  exact h.traps_own rfl (if_pos hpm) hr rfl (least_causeIf set0) (by decide)

theorem req_whileRunning (run : (s.issuer i).run.isSome = true) : Traps s i (.req i) Cause.illegalOp := by
  have runs : ((s.issuer i).act || (s.issuer i).run.isSome) = true := by rw [run, Bool.or_true]
  exact h.traps_own rfl (if_pos hpm) hr rfl ((least_causeIf runs).append (le_causeIf (by decide))) (by decide)

theorem ret_emptyStack (slots : (s.issuer i).slots = 0) (stack : (s.issuer i).cur.stack = []) : Traps s i (.ret i) Cause.stack := by
  refine h.traps_own rfl ?_ hr ?_ ?_ (by decide) <;> rw [stack]
  · exact if_pos hpm
  · rfl
  · rw [slotTrap_of_zero slots]
    exact least_singleton _

theorem callTarget_fullStack (slots : (s.issuer i).slots = 0) (stack : 8 ≤ (s.issuer i).cur.stack.length) :
    Traps s i (.callTarget i 0) Cause.stack := by
  refine h.traps_own rfl (if_pos hpm) hr rfl ?_ (by decide)
  rw [callPlan, slotTrap_of_zero slots]
  exact least_causeIf (decide_eq_true stack)

theorem brTarget_inSlot (slots : 0 < (s.issuer i).slots) : Traps s i (.brTarget i 0xC 0) Cause.slotIllegal :=
  h.traps_own rfl (if_pos hpm) hr rfl (least_slotTrap slots) (by decide)

theorem jpm_inSlot (slots : 0 < (s.issuer i).slots) : Traps s i (.jpm i 0) Cause.slotIllegal :=
  h.traps_own rfl (if_pos hpm) hr rfl (least_slotTrap slots) (by decide)

theorem done_inSlot (slots : 0 < (s.issuer i).slots) : Traps s i (.done i) Cause.slotIllegal := by
  refine h.traps_own rfl (if_pos hpm) hr rfl ?_ (by decide)
  rw [h.act]
  exact least_slotTrap slots

theorem frel_outsideFlow (run : ∀ r, (s.issuer i).run = some r → r.inst.flow = none) : Traps s i (.frel i) Cause.flow := by
  refine h.traps_own rfl (if_pos hpm) hr rfl ?_ (by decide)
  rw [h.act]
  refine least_causeIf ?_
  split
  · next r hrun => rw [run r hrun]; rfl
  · rfl

theorem frel_inTask {r : Run} (run : (s.issuer i).run = some r) (flow : r.inst.flow = none) : Traps s i (.frel i) Cause.flow :=
  frel_outsideFlow h hpm hr fun r' run' => by
    obtain rfl : r = r' := Option.some.inj (run.symm.trans run')
    exact flow

theorem frel_noTask (run : (s.issuer i).run = none) : Traps s i (.frel i) Cause.flow :=
  frel_outsideFlow h hpm hr fun r run' => absurd (run.symm.trans run') (Option.some_ne_none r).symm

end

/-! ### Repeats (R109 to R113) -/

section
variable {s : State} {i : Issue} (h : FreshInSet0 s i)
include h

/-- A core with no repetition left fetches from its program memory, which the cycle of the issue leaves. -/
theorem codeWord_found (a : PAddr) : (found s i).codeWord i.c a = (s.quad i.q).codeWord i.c a := by
  obtain ⟨boot, -⟩ := h.fetch ((issuer_rep s i).symm.trans h.rep)
  simp only [Quad.codeWord, core_found, issuer_bootFetch, boot, Bool.false_eq_true, if_false]
  rfl

variable (hpm : i.pm = 0) (hr : i.rsv = false)
include hpm hr

theorem repReg_tooMany {dx : Fin 16} (many : 1024 < ((s.issuer i).dr dx).toInt)
    (ok : wRepOk ((s.quad i.q).codeWord i.c ((s.issuer i).pc + 1)) = true) : Traps s i (.repReg i dx) Cause.repCount := by
  refine h.traps_own rfl (if_pos hpm) hr rfl ?_ (by decide)
  rw [repPlan, codeWord_found h, ok]
  exact (least_causeIf (decide_eq_true (.inr many))).append (le_causeIf (by decide))

/-- The plan of a repeat before an instruction that may not be repeated. -/
theorem traps_repIllegal {c : Instr} {n : Core → Int} {reads : List Rg}
    (hx : exec c s = onQ i.q (Quad.issue i fun q k => repPlan i q k (n k) reads) s)
    (no : wRepOk ((s.quad i.q).codeWord i.c ((s.issuer i).pc + 1)) = false) : Traps s i c Cause.repIllegal := by
  refine h.traps_own hx (if_pos hpm) hr rfl ?_ (by decide)
  rw [repPlan, codeWord_found h, no]
  exact ((least_causeIf rfl).append (le_causeIf (by decide))).append (le_causeIf (by decide))

end

end Sys2Proof.Machine.Proofs

/-! What an access raises by its address (R96, R99, R105, R116, R147, R152, R63), and the causes of the TRAP handler as a whole. -/

namespace Sys2Proof.Machine.Proofs
open Laws

/-! ### Addresses (R96 to R105) -/

/-- The step that a mode asks for, none in a reverse-carry mode (R98). -/
def stepAsked (s : RegSet) : AMode → Int
  | .plain => 0
  | .stepK m => m
  | .stepM j => s.m[j].toInt
  | .offset m => m
  | .rev _ _ => 0

theorem outside_iff {s : RegSet} {n : Fin 8} : outside s n = true ↔
    0 < s.l[n].toNat ∧ (s.p[n].toNat < s.b[n].toNat ∨ s.b[n].toNat + s.l[n].toNat ≤ s.p[n].toNat) := by
  simp [outside, BitVec.toNat_eq, Nat.pos_iff_ne_zero]

theorem outside_eq_false {s : RegSet} {n : Fin 8}
    (h : 0 < s.l[n].toNat → s.b[n].toNat ≤ s.p[n].toNat ∧ s.p[n].toNat < s.b[n].toNat + s.l[n].toNat) : outside s n = false := by
  rw [Bool.eq_false_iff, Ne, outside_iff]
  rintro ⟨window, out⟩
  have within := h window
  omega

/-- A step larger than its window (R99). -/
theorem circAdd_tooLarge {s : RegSet} {n : Fin 8} {m : Int} (hl : 0 < s.l[n].toNat) (hm : s.l[n].toNat < m.natAbs) :
    Cause.circStep ∈ (circAdd s n m).1 := by
  have window : ¬ (s.l[n].toNat : Int) = 0 := by omega
  unfold circAdd
  dsimp only
  rw [if_neg window]
  rw [Int.toNat_natCast, if_pos hm]
  split
  · exact List.mem_cons_self ..
  · split <;> exact List.mem_cons_self ..

/-- A pointer outside its window leaves no edge to check (R97). -/
theorem circAdd_outside {s : RegSet} {n : Fin 8} {m : Int} (ho : outside s n = true) (hm : m.natAbs ≤ s.l[n].toNat) :
    (circAdd s n m).1 = [] := by
  have inside : ¬ s.l[n].toNat < m.natAbs := by omega
  unfold circAdd
  dsimp only
  rw [Int.toNat_natCast, if_neg inside, ho]
  split
  · rfl
  · split
    · simp
    · split <;> simp

theorem revAdd_outside {s : RegSet} {n : Fin 8} {m : Int} {r4 : Bool} (ho : outside s n = true) : (revAdd s n m r4).1 = [] := by
  unfold revAdd
  dsimp only
  rw [ho, apply_ite Prod.fst]
  simp

theorem addrOf_tooLarge {s : RegSet} {n : Fin 8} {a : AMode} (hl : 0 < s.l[n].toNat) (hm : s.l[n].toNat < (stepAsked s a).natAbs) :
    Cause.circStep ∈ (addrOf s n a).traps := by
  cases a with
  | plain => simp [stepAsked] at hm
  | stepK m => exact List.mem_append_right _ (circAdd_tooLarge hl hm)
  | stepM j => exact List.mem_append_right _ (circAdd_tooLarge hl hm)
  | offset m => exact List.mem_append_right _ (circAdd_tooLarge (s := { s with heldB := _, heldL := _ }) hl hm)
  | rev j r4 => simp [stepAsked] at hm

theorem addrOf_outside {s : RegSet} {n : Fin 8} {a : AMode} (ho : outside s n = true) (hm : (stepAsked s a).natAbs ≤ s.l[n].toNat) :
    Least (addrOf s n a).traps Cause.circOut := by
  have only := least_singleton Cause.circOut
  have step := circAdd_outside ho hm
  cases a with
  | plain => simpa [addrOf, ho] using only
  | stepK m => simpa [addrOf, ho, show (circAdd s n m).1 = [] from step] using only
  | stepM j => simpa [-Fin.getElem_fin, addrOf, ho, show (circAdd s n s.m[j].toInt).1 = [] from step] using only
  | offset m =>
    have step : (offsetAddr s n m).1 = [] := circAdd_outside (s := { s with heldB := _, heldL := _ }) ho hm
    simpa [addrOf, ho, step] using only
  | rev j r4 =>
    simp only [addrOf, ho, if_true]
    split
    · simpa [revAdd_outside ho] using only
    · exact only.append (by simp [Cause.circOut, Cause.rcLength])

theorem addrOf_rev_ea (s : RegSet) (n j : Fin 8) (r4 : Bool) : (addrOf s n (.rev j r4)).ea = s.p[n].toNat := by
  simp only [addrOf]
  split <;> rfl

/-- The lengths that suit a reverse-carry mode are powers (R105). -/
theorem rcLenOk_pow {r4 : Bool} {l : Nat} (h : rcLenOk r4 l = true) :
    ∃ e : Nat, 1 ≤ e ∧ e ≤ (if r4 then 11 else 23) ∧ l = (if r4 then 4 else 2) ^ e := by
  unfold rcLenOk at h
  cases r4 with
  | true =>
    simp only [if_true, Bool.and_eq_true, decide_eq_true_eq, beq_iff_eq] at h ⊢
    obtain ⟨⟨⟨low, high⟩, pow⟩, even⟩ := h
    have l4 : l = 4 ^ (l.log2 / 2) := by
      rw [show (4 : Nat) = 2 ^ 2 from rfl, ← Nat.pow_mul, show 2 * (l.log2 / 2) = l.log2 by omega]
      exact pow
    rw [l4] at low high
    refine ⟨l.log2 / 2, ?_, ?_, l4⟩
    · exact (Nat.pow_le_pow_iff_right (a := 4) (n := 1) (by decide)).mp low
    · exact (Nat.pow_le_pow_iff_right (a := 4) (m := 11) (by decide)).mp high
  | false =>
    simp only [Bool.false_eq_true, if_false, Bool.and_eq_true, decide_eq_true_eq, beq_iff_eq] at h ⊢
    obtain ⟨⟨low, high⟩, pow⟩ := h
    rw [pow] at low high
    refine ⟨l.log2, ?_, ?_, pow⟩
    · exact (Nat.pow_le_pow_iff_right (a := 2) (n := 1) (by decide)).mp low
    · exact (Nat.pow_le_pow_iff_right (a := 2) (m := 23) (by decide)).mp high

theorem addrOf_badLength {s : RegSet} {n j : Fin 8} {r4 : Bool} (ho : outside s n = false)
    (hl : ∀ e : Nat, 1 ≤ e → e ≤ (if r4 then 11 else 23) → s.l[n].toNat ≠ (if r4 then 4 else 2) ^ e) :
    (addrOf s n (.rev j r4)).traps = [Cause.rcLength] := by
  have bad : rcLenOk r4 s.l[n].toNat = false := by
    by_contra ok
    obtain ⟨e, low, high, eq⟩ := rcLenOk_pow (eq_true_of_ne_false ok)
    exact hl e low high eq
  simp [-Fin.getElem_fin, addrOf, bad, ho]

/-! ### Stand-alone accesses (R147 to R149) -/

/-- The duplicate causes of one access: they are above those of its address. -/
def accessDups (store : Bool) (r : Rg) (p : Fin 8) (a : AMode) : List Nat :=
  dupTraps (if store then [] else [r]) (if a.steps then [.p p] else [])

theorem accessDups_causes {store : Bool} {r : Rg} {p : Fin 8} {a : AMode} {x : Nat} (h : x ∈ accessDups store r p a) : 6 ≤ x := by
  obtain ⟨-, rfl⟩ | ⟨-, rfl⟩ := mem_dupTraps.mp h <;> decide

/-- One access writes no register twice, unless it loads the pointer that it steps. -/
theorem accessDups_none {store : Bool} {r : Rg} {p : Fin 8} {a : AMode} (h : store = true ∨ a.steps = false ∨ r ≠ .p p) :
    accessDups store r p a = [] := by
  unfold accessDups
  rcases h with rfl | plain | other
  · rw [if_pos rfl]
    split <;> rfl
  · rw [plain]
    split <;> rfl
  · have ne : ¬ Rg.p p = r := fun e => other e.symm
    split <;> split <;> simp [dupTraps, hasDup, ne]

/-- The plan of a bus access beside X and Y moves. -/
theorem busPlan_beside {i : Issue} {store : Bool} {code : BitVec 6} {r : Rg} {p : Fin 8} {w : BitVec 2} {mode : BitVec 3} {val : BitVec 8}
    {a : AMode} {m : PMove} (hg : gprOf code = some r) (ha : amodeOf mode val = some a) (hm : xyMoves i = some m) :
    busPlan i store code p w mode val = { moves := some { m with bus := some ⟨store, r, p, w, a⟩ } } := by
  simp only [busPlan, hg, ha, hm]

/-- The PMOVE field of an X store of D0 through a pointer stepped by `v` (R146). -/
def xStoreMove (p : Fin 8) (v : BitVec 3) : BitVec 24 := BitVec.ofNat 24 (2 ^ 22 + 2 ^ 11 * (1024 + 16 * p.val + v.toNat))

theorem pmOf_xStoreMove : ∀ p : Fin 8, p.val < 4 → ∀ v : BitVec 3, v ≠ 0 →
    pmOf (xStoreMove p v) = some { x := some ⟨true, .d 0, p, .stepK v.toInt⟩ } := by decide +kernel

section
variable {s : State} {i : Issue} (h : FreshInSet0 s i) (hpm : i.pm = 0) (hr : i.rsv = false)
  {store : Bool} {code : BitVec 6} {r : Rg} {p : Fin 8} {mode : BitVec 3} {val : BitVec 8} {a : AMode}
  (hg : gprOf code = some r) (ha : amodeOf mode val = some a)
include h hpm hr hg ha

/-- The causes of an X or Y access below DUP_MODIFY are those of its address and its range. -/
theorem xyAccess_traps {cause : Nat}
    (hc : Least ((addrOf (s.issuer i).cur p a).traps ++ causeIf (decide (16384 ≤ (addrOf (s.issuer i).cur p a).ea)) Cause.xyRange) cause)
    (h5 : cause ≤ 5) : Traps s i (.xyAccess i store code p mode val) cause := by
  have hx : xyMoves i = some {} := by rw [xyMoves, hpm]; decide
  have dups : Least ((addrOf (s.issuer i).cur p a).traps ++ causeIf (decide (16384 ≤ (addrOf (s.issuer i).cur p a).ea)) Cause.xyRange ++
      accessDups store r p a) cause := hc.append fun x hx => (Nat.le_succ_of_le h5).trans (accessDups_causes hx)
  refine h.traps_least (m := if p.val < 4 then { x := some ⟨store, r, p, a⟩ } else { y := some ⟨store, r, p, a⟩ })
    rfl ?_ ?_ (by omega)
  · simp only [xyPlan, hg, ha, hx]
    split <;> rfl
  · by_cases hp : p.val < 4 <;>
      simpa [Quad.issueTraps, xyPlan, hg, ha, hx, hp, PMove.accs, PMove.writes, PMove.stepped, hr, Quad.accTraps, causeIf, accessDups]
        using dups

theorem xyAccess_outOfRange (far : 16384 ≤ (addrOf (s.issuer i).cur p a).ea) :
    Traps s i (.xyAccess i store code p mode val) Cause.xyRange := by
  refine xyAccess_traps h hpm hr hg ha ⟨List.mem_append_right _ (mem_causeIf.mpr ⟨decide_eq_true far, rfl⟩),
    List.forall_mem_append.mpr ⟨fun x hx => ?_, le_causeIf le_rfl⟩⟩ (by decide)
  rcases addrOf_causes hx with rfl | rfl | rfl <;> decide

/-- Within the range only the address raises causes. -/
theorem xyAccess_inRange {cause : Nat} (near : (addrOf (s.issuer i).cur p a).ea < 16384)
    (hc : Least (addrOf (s.issuer i).cur p a).traps cause) (h5 : cause ≤ 5) : Traps s i (.xyAccess i store code p mode val) cause :=
  xyAccess_traps h hpm hr hg ha (hc.append (by simp [near])) h5

theorem xyAccess_tooLarge (near : (addrOf (s.issuer i).cur p a).ea < 16384) (window : 0 < (s.issuer i).cur.l[p].toNat)
    (large : (s.issuer i).cur.l[p].toNat < (stepAsked (s.issuer i).cur a).natAbs) :
    Traps s i (.xyAccess i store code p mode val) Cause.circStep := by
  refine xyAccess_inRange h hpm hr hg ha near ⟨addrOf_tooLarge window large, fun x hx => ?_⟩ (by decide)
  rcases addrOf_causes hx with rfl | rfl | rfl <;> decide

theorem xyAccess_outside (near : (addrOf (s.issuer i).cur p a).ea < 16384) (out : outside (s.issuer i).cur p = true)
    (small : (stepAsked (s.issuer i).cur a).natAbs ≤ (s.issuer i).cur.l[p].toNat) :
    Traps s i (.xyAccess i store code p mode val) Cause.circOut :=
  xyAccess_inRange h hpm hr hg ha near (addrOf_outside out small) (by decide)

theorem xyAccess_badLength {j : Fin 8} {r4 : Bool} (rev : a = .rev j r4) (near : (s.issuer i).cur.p[p].toNat < 16384)
    (inside : outside (s.issuer i).cur p = false)
    (bad : ∀ e : Nat, 1 ≤ e → e ≤ (if r4 then 11 else 23) → (s.issuer i).cur.l[p].toNat ≠ (if r4 then 4 else 2) ^ e) :
    Traps s i (.xyAccess i store code p mode val) Cause.rcLength := by
  subst rev
  refine xyAccess_inRange h hpm hr hg ha ((addrOf_rev_ea ..).trans_lt near) ?_ (by decide)
  rw [addrOf_badLength inside bad]
  exact least_singleton _

/-- A bus access whose address raises nothing raises what its target does. -/
theorem busAccess_traps {w : BitVec 2} {cause : Nat} (ho : (addrOf (s.issuer i).cur p a).traps = [])
    (hc : (found s i).busTraps i.c store (addrOf (s.issuer i).cur p a).ea (widthBytes w) = [cause])
    (hd : accessDups store r p a = []) (h63 : cause ≤ 63) : Traps s i (.busAccess i store code p w mode val) cause := by
  have hx : xyMoves i = some {} := by rw [xyMoves, hpm]; decide
  have plan := busPlan_beside (store := store) (p := p) (w := w) hg ha hx
  refine h.traps_least (m := { bus := some ⟨store, r, p, w, a⟩ }) rfl (by rw [plan]) ?_ h63
  rw [accessDups] at hd
  simp [Quad.issueTraps, plan, PMove.accs, PMove.writes, PMove.stepped, hr, causeIf, Quad.accTraps, ho, hc, hd, Least]

omit hpm in
/-- A pointer stepped by an X store and by the bus access beside it (R116, R147): no cause of the access is below DUP_MODIFY. -/
theorem busAccess_stepsTwice {w : BitVec 2} {v : BitVec 3} (hpm : i.pm = xStoreMove p v) (hp : p.val < 4) (hv : v ≠ 0)
    (steps : a.steps = true) (ho : (addrOf (s.issuer i).cur p a).traps = [])
    (hx : (addrOf (s.issuer i).cur p (.stepK v.toInt)).traps = []) (range : (s.issuer i).cur.p[p].toNat < 16384) :
    Traps s i (.busAccess i store code p w mode val) Cause.dupModify := by
  have beside : xyMoves i = some { x := some ⟨true, .d 0, p, .stepK v.toInt⟩ } := by simp [xyMoves, hpm, pmOf_xStoreMove p hp v hv]
  have plan := busPlan_beside (store := store) (p := p) (w := w) hg ha beside
  have atP : ¬ 16384 ≤ (addrOf (s.issuer i).cur p (.stepK v.toInt)).ea := Nat.not_le.mpr range
  have causes : (found s i).issueTraps i (busPlan i store code p w mode val)
        { x := some ⟨true, .d 0, p, .stepK v.toInt⟩, bus := some ⟨store, r, p, w, a⟩ } =
      (found s i).busTraps i.c store (addrOf (s.issuer i).cur p a).ea (widthBytes w) ++
        dupTraps (if store then [] else [r]) [.p p, .p p] := by
    simp [Quad.issueTraps, plan, PMove.accs, PMove.writes, PMove.stepped, hr, causeIf, Quad.accTraps, ho, hx, atP, steps,
      show (AMode.stepK v.toInt).steps = true from rfl]
  refine h.traps_least rfl (by rw [plan]) ?_ (by decide)
  rw [causes]
  refine ⟨List.mem_append_right _ (mem_dupTraps.mpr (.inl ⟨by simp [hasDup], rfl⟩)),
    List.forall_mem_append.mpr ⟨fun x hxm => ?_, fun x hxm => ?_⟩⟩
  · rcases busTraps_causes hxm with rfl | rfl <;> decide
  · obtain ⟨-, rfl⟩ | ⟨-, rfl⟩ := mem_dupTraps.mp hxm <;> decide

end

/-! ### Targets of a bus access (R63, R79, R152, R403) -/

section
variable {s : State} {i : Issue} (h : FreshInSet0 s i) {x n : Nat}
include h

theorem busTraps_unmapped {store : Bool} (unmapped : (s.quad i.q).access x n = none) :
    (found s i).busTraps i.c store x n = [Cause.busErr] := by
  have access : (found s i).access x n = none := unmapped
  simp [Quad.busTraps, h.pairStore_found, access]

omit h in
/-- A lock is not changed by the cycle of an issue. -/
theorem lockedWindow_found (t : Target) : (found s i).lockedWindow t = (s.quad i.q).lockedWindow t := by
  cases t with
  | window c =>
    by_cases hc : c = i.c
    · subst hc
      simp [Quad.lockedWindow]
    · simp [Quad.lockedWindow, found, core_setCore_ne _ _ hc]
  | _ => rfl

theorem busTraps_readOnly {t : Target} (ht : (s.quad i.q).access x n = some t)
    (no : (s.quad i.q).readOnly t = true ∨ (s.quad i.q).lockedWindow t = true) : (found s i).busTraps i.c true x n = [Cause.busErr] := by
  have access : (found s i).access x n = some t := ht
  have refused : ((found s i).readOnly t || (found s i).lockedWindow t) = true := by
    rw [lockedWindow_found, Bool.or_eq_true]
    exact no
  simp [Quad.busTraps, h.pairStore_found, access, refused]

theorem busTraps_unprivileged (ht : (s.quad i.q).access x n = some .registers) (pos : 4 ≤ (s.issuer i).pos.val) :
    (found s i).busTraps i.c true x n = [Cause.privWrite] := by
  have access : (found s i).access x n = some .registers := ht
  have low : privPos (s.issuer i).pos.val = false := decide_eq_false (by omega)
  simp only [Quad.busTraps, h.pairStore_found, access, core_found, low]
  rfl

end

theorem widthBytes_eq (w : BitVec 2) : (if w = 0 then 1 else if w = 1 then 4 else if w = 2 then 5 else 8) = widthBytes w := by
  revert w
  decide

/-- Settles O21: an instruction raises the causes of its plan, its address and its target, and enters the handler with the lowest. -/
theorem trapCauses : Obligations.TrapCauses := by
  refine ⟨?own, ?address⟩
  case own =>
    intro s i dd dx dy an am issues hpm k traps act rep
    have h : FreshInSet0 s i := ⟨unhindered_of_issues issues, act, rep⟩
    refine ⟨fun hr => ⟨add_reserved h hpm hr dd dx dy, nop_reserved h hpm hr⟩, fun w => wordCommand_undefined h hpm, fun hr => ?_⟩
    exact ⟨dualMultiply_reserved h hpm hr an am dx dy, dualMultiply_twice h hpm hr an dx dy, ext_reserved h hpm hr dd an,
      fun dq hq => bqs_misaligned h hpm hr hq an dx, fun cc hc => sel_undefined h hpm hr hc dd dx dy,
      fun m hm => ⟨asl_tooFar h hpm hr hm dd dx, ashD_tooFar h hpm hr hm dd dx⟩, fun sys hs => mfs_undefined h hs dd,
      fun sys hs => mts_readOnly h hs dx, rte_inSet0 h hpm hr, xmov_inSet0 h hpm hr, req_whileRunning h hpm hr,
      ret_emptyStack h hpm hr, callTarget_fullStack h hpm hr,
      fun slots => ⟨brTarget_inSlot h hpm hr slots, jpm_inSlot h hpm hr slots, done_inSlot h hpm hr slots⟩,
      fun _ run flow => frel_inTask h hpm hr run flow, frel_noTask h hpm hr, repReg_tooMany h hpm hr⟩
  case address =>
    intro s i store code r p w mode val a dx n1 issues hpm hg ha _ k _ _ _ _ n step _ _ _ act rep
    obtain ⟨upset, mism, hr, rest⟩ := issues
    have h : FreshInSet0 s i := ⟨unhindered_of_issues ⟨upset, mism, rfl, rest⟩, act, rep⟩
    have asked : step = stepAsked k.cur a := by cases a <;> rfl
    have width : n = widthBytes w := widthBytes_eq w
    refine ⟨xyAccess_outOfRange h hpm hr hg ha, fun near window large => xyAccess_tooLarge h hpm hr hg ha near window (asked ▸ large),
      fun near window small out => xyAccess_outside h hpm hr hg ha near (outside_iff.mpr ⟨window, out⟩) (asked ▸ small),
      fun j r4 rev near inside bad => xyAccess_badLength h hpm hr hg ha rev near (outside_eq_false inside) bad,
      fun v hp steps hv ho hx near => ?_, fun ho unmapped dups => ?_, fun t ho ht no => ?_, fun ho ht pos => ?_, fun no => ⟨?_, ?_⟩⟩
    · exact busAccess_stepsTwice (h.reword (xStoreMove p v) i.rsv) hr hg ha rfl hp hv steps ho hx near
    · exact busAccess_traps h hpm hr hg ha ho (busTraps_unmapped h (width ▸ unmapped)) (accessDups_none dups) (by decide)
    · refine busAccess_traps h hpm hr hg ha ho (busTraps_readOnly h (width ▸ ht) ?_) (accessDups_none (.inl rfl)) (by decide)
      obtain readOnly | ⟨c, rfl, lock⟩ := no
      · exact .inl readOnly
      · exact .inr lock
    · exact busAccess_traps h hpm hr hg ha ho (busTraps_unprivileged h (width ▸ ht) pos) (accessDups_none (.inl rfl)) (by decide)
    · exact traps_repIllegal h hpm hr rfl no
    · exact traps_repIllegal h hpm hr rfl no

end Sys2Proof.Machine.Proofs

/-! Every step keeps every memory in its canonical form (R106, R107): each command acts through one of the shapes of Machine/Ops.lean, and
a shape leaves what it reaches in canonical form. -/

namespace Sys2Proof.Machine.Proofs
open Laws

/-! ### The shapes of the commands -/

/-- How a command with a given home acts on the state: through the shape of its home, at the pins of the Nonor port only while it listens. -/
inductive Shape : Option (QId × Bool) → (State → Out) → Prop
  | onQ (i : QId) (f : Quad → Quad) : Shape (some (i, false)) (onQ i f)
  | onQH (i : QId) (f : State → Quad → HostDom → Quad × HostDom) : Shape (some (i, true)) fun s => onQH i (f s) s
  | onAll (f : Device → Device) : Shape none (onAll f)
  | atPins {home : Option (QId × Bool)} {r : State → Out} (h : Shape home r) : Shape home (atPins r)

/-- An instruction acts on the quadrant of its issue. -/
theorem homeOf_of_issueOf {c : Instr} {i : Issue} (h : issueOf c = some i) : homeOf c = some (i.q, false) := by
  cases c <;> cases h <;> rfl

/-- A command that is no instruction acts through the shape of its home. -/
theorem exec_shape_of_issueOf_none {c : Instr} (none : issueOf c = none) : Shape (homeOf c) (exec c) := by
  cases c <;> cases none
  all_goals unfold exec
  case bulkWrite | bulkRead | cmdWpWrite | cplRpWrite | statusModeRead => exact .atPins (.onQ _ _)
  case hostWrite => exact .atPins (.onAll _)
  case debugPortEvent | resetRelease | scourStart | autostartDelivery | autostartDigestCheck | hpnVerifyResult | quadrantEventPass =>
    exact .onQH _ _
  case porAssert | clockLossReset | porRelease | supplyPorHold | supplyHoldRelease | scourComplete | hostWriteDrain | hostDomainReset |
      mladcelStart | mladcelWatchdog | sensorSample | logWrite | stageOpen | stageWrite | stageVerify | activate | logRead | recordWrite |
      lifecycle | keyProgram | keyRevoke | mgtCommandComplete | supplySag | nvWriteResume | rcRegisterRead =>
    exact .onAll _
  all_goals exact .onQ _ _

/-- Every command acts through the shape of its home. -/
theorem exec_shape (c : Instr) : Shape (homeOf c) (exec c) := by
  obtain none | ⟨i, instr⟩ := Option.eq_none_or_eq_some (issueOf c)
  · exact exec_shape_of_issueOf_none none
  · obtain ⟨plan, run⟩ := exec_issue instr
    rw [homeOf_of_issueOf instr, show exec c = onQ i.q (Quad.issue i plan) from funext run]
    exact .onQ _ _

/-- A command keeps the canonical form of every memory, whatever its shape. -/
theorem Shape.memWf {home : Option (QId × Bool)} {r : State → Out} (h : Shape home r) {s t : State} (hs : s.memWf) (ht : r s = .next t) :
    t.memWf := by
  induction h with
  | onQ i f => exact onQ_memWf i f hs ht
  | onQH i f => exact onQH_memWf i (f s) hs ht
  | onAll f => exact onAll_memWf f ht
  | atPins _ ih =>
    unfold Machine.atPins at ht
    split at ht
    · exact Host.Outcome.next.inj ht ▸ hs
    · exact ih ht

/-! ### A cycle with no command -/

/-- R477: the copy of a core's memories leaves its quadrant's memory in canonical form. -/
theorem copyCore_memWf {q : Quad} (h : q.mem.wf) (a b : Fin 17) : (q.copyCore a b).mem.wf := by
  unfold Quad.copyCore
  split
  · exact h
  · exact wf_normal _

theorem makeCopy_memWf {q : Quad} (h : q.mem.wf) : q.makeCopy.mem.wf := by
  unfold Quad.makeCopy
  split
  · exact h
  · split
    · exact h
    · split
      · exact copyCore_memWf h _ _
      · exact h

/-- R24: a cycle writes memory by the copy that ends in it alone. -/
theorem cclkCycle_memWf {q : Quad} (h : q.mem.wf) : q.cclkCycle.mem.wf := by
  by_cases reset : q.rst = .held ∨ q.rst = .released
  · rwa [cclkCycle_of_inReset reset]
  · obtain ⟨held, released⟩ := not_or.mp reset
    obtain ⟨cores, tim, phase, cycle, -⟩ := cclkCycle_of_started held released
    rw [cycle]
    exact makeCopy_memWf h

/-- Settles O59: a step is the command at the front, through its shape, or a cycle of every quadrant. -/
theorem memoryStaysCanonical : Obligations.MemoryStaysCanonical := by
  intro s t hs ht
  unfold Next step at ht
  split at ht
  · obtain rfl : _ = t := Host.Outcome.next.inj ht
    exact ⟨fun i => quad_cclkCycle s i ▸ cclkCycle_memWf (hs.1 i), hs.2⟩
  · next c rest _ => exact (exec_shape c).memWf (s := { s with pending := rest }) hs ht

end Sys2Proof.Machine.Proofs

/-! Repeats and breaks (R109, R110, R154). -/

namespace Sys2Proof.Machine.Proofs
open Laws

/-- A fetch from program memory without an ECC error changes nothing. -/
theorem fetch_eq_of_clean {q : Quad} {c : Fin 17} {a : PAddr} (boot : (q.core c).bootFetch = false)
    (clean : q.eccAt (pmAddr c a.toNat) = .clean) : q.fetch c a = (.clean, q) := by
  simp [Quad.fetch, boot, clean]

section
variable {s : State} {i : Issue} (h : s.issues i)
include h

/-- An instruction with no moves and no causes of its own that changes its core alone. -/
theorem exec_setCore {c : Instr} {plan : Quad → Core → Plan} {k2 : Core} (hx : exec c s = onQ i.q (Quad.issue i plan) s)
    (moves : (plan (found s i) (s.issuer i)).moves = some {}) (traps : (plan (found s i) (s.issuer i)).traps = [])
    (dups : dupTraps (plan (found s i) (s.issuer i)).writes [] = []) (puts : (plan (found s i) (s.issuer i)).puts = [])
    (acts : (plan (found s i) (s.issuer i)).act (found s i) i.c = (s.quad i.q).setCore i.c k2) :
    exec c s = .next (s.withCore i.q i.c k2) := by
  refine hx.trans (onQ_setCore ?_)
  rw [issue_open s i plan h moves traps dups]
  change (plan (found s i) (s.issuer i)).act ((found s i).setCore i.c ((s.issuer i).putAll (plan (found s i) (s.issuer i)).puts)) i.c = _
  rw [puts, found, setCore_setCore]
  exact acts

/-- `brk` makes a DBG event pending while EVM.DBG is 1 (R154). -/
theorem exec_brk (hpm : i.pm = 0) : exec (.brk i) s =
    .next (s.withCore i.q i.c { (s.issuer i).advance with pendDbg := (s.issuer i).pendDbg || (s.issuer i).evm.getLsbD 1 }) := by
  refine exec_setCore h rfl (if_pos hpm) rfl rfl rfl ?_
  dsimp only
  rw [core_found, found, setCore_setCore]

/-- The word behind a repeat is sound, and may be repeated. -/
structure Repeatable (s : State) (i : Issue) : Prop where
  boot : (s.issuer i).bootFetch = false
  clean : (s.quad i.q).eccAt (pmAddr i.c ((s.issuer i).pc + 1).toNat) = .clean
  ok : wRepOk ((s.quad i.q).pmWord i.c ((s.issuer i).pc + 1).toNat) = true

/-- A repeat by a count that R109 allows, outside a delay slot: the next instruction is held for it, or skipped. -/
theorem exec_rep (hpm : i.pm = 0) (next : Repeatable s i) (slots : (s.issuer i).slots = 0) {c : Instr} {n : Core → Int} {reads : List Rg}
    (hx : exec c s = onQ i.q (Quad.issue i fun q k => repPlan i q k (n k) reads) s)
    (low : 0 ≤ n (s.issuer i)) (high : n (s.issuer i) ≤ 1024) :
    exec c s = .next (s.withCore i.q i.c (if n (s.issuer i) = 0 then (s.issuer i).advance.advance
      else { (s.issuer i).advance with rep := (n (s.issuer i)).toNat })) := by
  obtain ⟨boot, clean, ok⟩ := next
  have word : (found s i).codeWord i.c ((s.issuer i).pc + 1) = (s.quad i.q).pmWord i.c ((s.issuer i).pc + 1).toNat := by
    simp only [Quad.codeWord, core_found, boot, Bool.false_eq_true, if_false]
    rfl
  have alone : (found s i).pairStore i.c = false := issues_alone s i h _ (issuer_pos s i)
  have fetch : (found s i).fetch i.c ((s.issuer i).pc + 1) = (.clean, found s i) :=
    fetch_eq_of_clean (by rw [core_found, boot]) clean
  refine exec_setCore h hx (if_pos hpm) ?traps rfl rfl ?acts
  case traps =>
    have range : ¬ (n (s.issuer i) < 0 ∨ n (s.issuer i) > 1024) := by omega
    simp only [repPlan, word, ok, range, slotTrap_of_zero slots]
    rfl
  case acts =>
    simp only [repPlan, followFetch_alone _ _ _ alone, fetch, core_found]
    rw [if_neg (by decide), if_neg (by decide), found, setCore_setCore]

end

/-- Settles O20: `brk` and `rep` change their core alone. -/
theorem repeatAndBreak : Obligations.RepeatAndBreak := by
  intro s i n1 dx issues hpm
  refine ⟨exec_brk issues hpm, fun slots _ boot clean ok => ?_⟩
  have next : Repeatable s i := ⟨boot, clean, ok⟩
  have byImm := exec_rep issues hpm next slots (c := .repImm i n1) (n := fun _ => n1.toNat + 1) rfl (by omega) (by omega)
  have byReg := exec_rep issues hpm next slots (c := .repReg i dx) (n := fun k => k.di dx) rfl
  refine ⟨?imm, fun n low high count => ?held, fun zero => ?skipped⟩
  case imm => rwa [if_neg (by omega)] at byImm
  case held =>
    have count : (s.issuer i).di dx = n := count
    rw [count] at byReg
    have held := byReg (by omega) (by omega)
    rwa [if_neg (by omega)] at held
  case skipped =>
    have none : (s.issuer i).di dx = 0 := by rw [Core.di, zero]; rfl
    rw [none] at byReg
    exact byReg le_rfl (by decide)

end Sys2Proof.Machine.Proofs

/-! A result in flight (R83, R116, R117): the cycles until it lands, and what a result of one cycle supersedes. -/

namespace Sys2Proof.Machine.Proofs
open Laws

/-! ### One result in flight -/

section
variable {k : Core} {f : Flight} (only : k.flights = [f])
include only

/-- A result that is not due comes one cycle nearer. -/
theorem cycle_of_notDue (per : Nat) (far : 1 < f.due) :
    (k.cycle per).flights = [{ f with due := f.due - 1 }] ∧ ∀ b, (k.cycle per).getSet b = k.getSet b := by
  have notDue : ¬ f.due ≤ 1 := by omega
  have landed : k.landDue = { k with flights := [{ f with due := f.due - 1 }] } := by simp [Core.landDue, only, stepFlights, notDue]
  unfold Core.cycle
  rw [landed]
  exact ⟨rfl, fun _ => rfl⟩

/-- A result that is due lands in its set (R83). -/
theorem cycle_of_due (per : Nat) (near : f.due ≤ 1) :
    (k.cycle per).flights = ({ k with flights := [] }.landOne f.set f.dst).flights ∧
      ∀ b, (k.cycle per).getSet b = ({ k with flights := [] }.landOne f.set f.dst).getSet b := by
  have landed : k.landDue = { k with flights := [] }.landOne f.set f.dst := by
    cases sticky : f.isSticky <;> simp [Core.landDue, only, stepFlights, near, sticky]
  unfold Core.cycle
  rw [landed]
  exact ⟨rfl, fun _ => rfl⟩

/-- Cycles that leave a result in flight change no register. -/
theorem cycles_of_notDue (per m : Nat) (far : m < f.due) :
    (k.cycles per m).flights = [{ f with due := f.due - m }] ∧ ∀ b, (k.cycles per m).getSet b = k.getSet b := by
  induction m generalizing k f with
  | zero => exact ⟨only, fun _ => rfl⟩
  | succ m ih =>
    obtain ⟨flights, sets⟩ := cycle_of_notDue only per (by omega)
    obtain ⟨flights', sets'⟩ := ih flights (by dsimp only; omega)
    refine ⟨?_, fun b => (sets' b).trans (sets b)⟩
    rw [Core.cycles, flights']
    congr 2
    dsimp only
    omega

end

/-- The last of some cycles. -/
theorem cycles_succ (per n : Nat) (k : Core) : k.cycles per (n + 1) = (k.cycles per n).cycle per := by
  induction n generalizing k with
  | zero => rfl
  | succ n ih => exact ih (k.cycle per)

/-- An accumulator result that lands changes its accumulator in its set, and no register of the other. -/
theorem cycles_of_acc {k : Core} {set mul : Bool} {due : Nat} {n : Fin 4} {v : W96} (per : Nat) (pos : 0 < due)
    (only : k.flights = [⟨set, due, .acc n v mul⟩]) :
    ((k.cycles per due).getSet set).a = (k.getSet set).a.set n v ∧ (k.cycles per due).flights = [] ∧
      (k.cycles per due).getSet (!set) = k.getSet (!set) := by
  obtain ⟨m, rfl⟩ : ∃ m, due = m + 1 := ⟨due - 1, by omega⟩
  obtain ⟨flights, sets⟩ := cycles_of_notDue only per m (by dsimp only; omega)
  obtain ⟨landed, written⟩ := cycle_of_due flights per (by dsimp only; omega)
  rw [cycles_succ, landed, written, written, ← sets, ← sets]
  cases set <;> exact ⟨rfl, rfl, rfl⟩

/-! ### A result of one cycle (R116) -/

/-- What stays in flight beside a register written is on its way elsewhere. -/
theorem after_reg_dst {f g : Flight} {set : Bool} {r : Rg} {v : W40} (h : f.after set (.reg r v) = some g) (same : g.set = set) (w : W40) :
    g.dst ≠ .reg r w := by
  unfold Flight.after at h
  split at h
  · next other => exact absurd (Option.some.inj h ▸ same) other
  · rintro hg
    split at h <;> simp_all

/-- A register result of one cycle writes its set at once. -/
theorem put_reg_getSet (k : Core) (set : Bool) (r : Rg) (v : W40) : (k.put set 1 (.reg r v)).getSet set = (k.getSet set).write r v := by
  cases set <;> rfl

/-- It supersedes what the set has in flight to the register. -/
theorem put_reg_flights (k : Core) (set : Bool) (r : Rg) (v : W40) :
    (k.put set 1 (.reg r v)).flights = k.flights.filterMap fun o => o.after set (.reg r v) := by
  cases set <;> rfl

/-- It supersedes the bus loads that the set waits for in the register. -/
theorem put_reg_reqs (k : Core) (set : Bool) (r : Rg) (v : W40) :
    (k.put set 1 (.reg r v)).reqs = k.reqs.map fun x => if x.set = set ∧ x.dst = some r then { x with dst := none } else x := by
  cases set <;> rfl

/-- Settles O2: a result comes one cycle nearer in each cycle and lands in the last; one of one cycle supersedes what it overtakes. -/
theorem resultsLand : Obligations.ResultsLand := by
  refine ⟨fun per k set mul due n v pos only => ?inFlight, fun k set dd v => ⟨?written, ?flights, ?loads⟩⟩
  case inFlight => exact ⟨fun m before => (cycles_of_notDue only per m before).2 set, cycles_of_acc per pos only⟩
  case written => rw [put_reg_getSet, write_d_self]
  case flights =>
    rw [put_reg_flights]
    intro f hf same w
    obtain ⟨older, -, after⟩ := List.mem_filterMap.mp hf
    exact after_reg_dst after same w
  case loads =>
    rw [put_reg_reqs]
    intro x hx same
    obtain ⟨y, -, rfl⟩ := List.mem_map.mp hx
    split at same
    · next superseded => simp [superseded]
    · next kept => exact fun dst => kept ⟨same, by rwa [if_neg kept] at dst⟩

end Sys2Proof.Machine.Proofs

/-! Bus accesses to scratch memory and DRAM (R82, R106 to R108, R146, R147): the address, the bytes moved, and the request left
outstanding. -/

namespace Sys2Proof.Machine.Proofs
open Laws

/-! ### Values and their bytes (R106) -/

theorem bytesAt_succ (m : Memory) (a n : Nat) : m.bytesAt a (n + 1) = m.read a :: m.bytesAt (a + 1) n := by
  simp [Memory.bytesAt, List.range_succ_eq_map, Nat.add_comm, Nat.add_left_comm]

theorem ofBytesLE_bytesAt (m : Memory) (a n : Nat) : ofBytesLE (m.bytesAt a n) = m.readLE a n := by
  induction n generalizing a with
  | zero => rfl
  | succ n ih => rw [bytesAt_succ, ofBytesLE, ih, Memory.readLE]

theorem ofBytesLE_take_bytesAt (m : Memory) (a : Nat) {j n : Nat} (h : j ≤ n) : ofBytesLE ((m.bytesAt a n).take j) = m.readLE a j := by
  rw [← ofBytesLE_bytesAt, Memory.bytesAt, ← List.map_take, List.take_range, Nat.min_eq_left h, Memory.bytesAt]

/-- The value of some bytes is that of the first of them, below 256 to their number. -/
theorem readLE_add (m : Memory) (a j n : Nat) : m.readLE a (j + n) = m.readLE a j + 256 ^ j * m.readLE (a + j) n := by
  induction j generalizing a with
  | zero => simp [Memory.readLE]
  | succ j ih =>
    rw [Nat.succ_add, Memory.readLE, Memory.readLE, ih, show a + 1 + j = a + (j + 1) by omega, Nat.pow_succ]
    ring

theorem width_cases (w : BitVec 2) : w = 0 ∨ w = 1 ∨ w = 2 ∨ w = 3 := by
  revert w
  decide

/-- What a load of a width gives of memory (R106). -/
theorem loadValue_bytesAt (m : Memory) (a : Nat) (w : BitVec 2) : loadValue w (m.bytesAt a (widthBytes w)) =
    if w = 1 then (BitVec.ofNat 32 (m.readLE a (widthBytes w))).signExtend 40 else BitVec.ofNat 40 (m.readLE a (widthBytes w)) := by
  have low : BitVec.ofNat 40 (m.readLE a 5) = BitVec.ofNat 40 (m.readLE a 8) := by
    rw [readLE_add m a 5 3]
    exact BitVec.eq_of_toNat_eq (by simp)
  have bytes {j n : Nat} (h : j ≤ n) := ofBytesLE_take_bytesAt m a h
  rcases width_cases w with rfl | rfl | rfl | rfl
  · exact congrArg (BitVec.ofNat 40) (bytes le_rfl)
  · exact congrArg (fun v => (BitVec.ofNat 32 v).signExtend 40) (bytes le_rfl)
  · exact congrArg (BitVec.ofNat 40) (bytes le_rfl)
  · exact (congrArg (BitVec.ofNat 40) (bytes (by decide))).trans low

/-- The number that a store of a width writes (R106). -/
def storeNat (w : BitVec 2) (x : W40) (sat : Bool) : Nat :=
  if w = 1 then (fit 32 x.toInt sat).val.toNat else if w = 3 then (x.signExtend 64).toNat else x.toNat

theorem storeBytes_eq (w : BitVec 2) (x : W40) (sat : Bool) : storeBytes w x sat = bytesLE (storeNat w x sat) (widthBytes w) := by
  rcases width_cases w with rfl | rfl | rfl | rfl <;> rfl

/-! ### Bytes with their addresses -/

theorem addressed_cons (a : Nat) (b : Byte) (t : List Byte) : addressed a (b :: t) = (a, b) :: addressed (a + 1) t := by
  simp [addressed, List.range_succ_eq_map, Nat.add_assoc, Nat.add_comm 1]

/-- Consecutive bytes are one run. -/
theorem gather_addressed (a : Nat) (b : Byte) (t : List Byte) : gather (addressed a (b :: t)) = [(a, b :: t)] := by
  induction t generalizing a b with
  | nil => rfl
  | cons b' t ih =>
    rw [addressed_cons, gather, ih]
    exact if_pos rfl

theorem mem_addressed {a : Nat} {bytes : List Byte} {b : Nat × Byte} (h : b ∈ addressed a bytes) :
    ∃ j, ∃ lt : j < bytes.length, b = (a + j, bytes[j]) := by
  obtain ⟨j, hj, rfl⟩ := List.mem_map.mp h
  have lt := List.mem_range.mp hj
  exact ⟨j, lt, by simp [lt]⟩

/-! ### A store to scratch memory or DRAM (R107) -/

/-- Scratch memory or DRAM. -/
def PlainMemory (t : Target) : Prop := t = .scratch ∨ t = .dram

/-- Neither Hardpan nor Kiln keeps bytes from some addresses (R254, R231 to R234). -/
structure Unguarded (q : Quad) (a n : Nat) : Prop where
  bytes : ∀ j, j < n → q.hpnKept (a + j) = false ∧ q.touchesEntry (a + j) = false ∧ q.role (a + j) = .plain
  room : q.kln.hold.length ≤ 4096

/-- Kiln lets bytes of plain addresses through. -/
theorem kilnWrite_unguarded {q : Quad} {l : List (Nat × Byte)} (plain : ∀ b ∈ l, q.touchesEntry b.1 = false ∧ q.role b.1 = .plain)
    (room : q.kln.hold.length ≤ 4096) : q.kilnWrite l = (q, some l) := by
  have entry : l.any (fun b => q.touchesEntry b.1) = false := List.any_eq_false.mpr fun b hb => by simp [(plain b hb).1]
  unfold Quad.kilnWrite
  rw [if_neg (by simp [entry])]
  split
  · next o found =>
    obtain ⟨b, hb, isSeal⟩ := List.exists_of_findSome?_eq_some found
    rw [(plain b hb).2] at isSeal
    cases isSeal
  · extract_lets out pieces
    have none : out = [] := List.filterMap_eq_nil_iff.mpr fun b hb => by rw [(plain b hb).2]
    have noPieces : pieces = [] := congrArg holdPieces none
    have passes : ∀ f : Nat × Byte → Bool, (∀ b ∈ l, f b = true) → l.filter f = l := fun _ => List.filter_eq_self.mpr
    have fits : ¬ q.kln.hold.length + ([] : List HoldPiece).length > 4096 := Nat.not_lt.mpr room
    rw [noPieces, if_neg fits, List.append_nil, passes _ fun b hb => by rw [(plain b hb).2]]

/-- A write that no error meets only stores its bytes (R416). -/
theorem memWrite_clean {q : Quad} {a : Nat} {bytes : List Byte} (h : q.eccIn a bytes.length = []) : (q.memWrite a bytes).1 = q.store a bytes := by
  have clean : (q.store a bytes).eccIn a bytes.length = [] := by
    simp only [Quad.eccIn, Quad.store, eccClear, List.filter_eq_nil_iff, List.mem_filter] at h ⊢
    exact fun x hx => h x hx.1
  simp only [Quad.memWrite, clean]
  exact congrArg (fun e => { q.store a bytes with ecc := e }) (List.filter_true _)

/-- A core's store to scratch memory or DRAM that nothing refuses (R107). -/
theorem busWrite_plain {q : Quad} {t : Target} {a : Nat} {bytes : List Byte} (c : Fin 17) (w : Writer) (ht : PlainMemory t)
    (some : bytes ≠ []) (h : Unguarded q a bytes.length) (clean : q.eccIn a bytes.length = []) :
    (q.busWrite (.core c) w t (addressed a bytes)).1 = q.store a bytes := by
  have unguarded : ∀ b ∈ addressed a bytes, q.hpnKept b.1 = false ∧ q.touchesEntry b.1 = false ∧ q.role b.1 = .plain := by
    intro b hb
    obtain ⟨j, lt, rfl⟩ := mem_addressed hb
    exact h.bytes j lt
  have kept : (addressed a bytes).any (fun b => q.hpnKept b.1) = false := List.any_eq_false.mpr fun b hb => by simp [(unguarded b hb).1]
  have kiln := kilnWrite_unguarded (fun b hb => (unguarded b hb).2) h.room
  have run : gather (addressed a bytes) = [(a, bytes)] := by
    obtain ⟨b, t, rfl⟩ := List.exists_cons_of_ne_nil some
    exact gather_addressed a b t
  rcases ht with rfl | rfl <;>
    simp [Quad.busWrite, Quad.busWriteL, kept, kiln, Quad.portsMeet, Quad.memWriteAt, run, memWrite_clean clean]

/-- What a core's store notes of the dual-ported banks (R407). -/
def dualOf (q : Quad) (a : Nat) (bytes : List Byte) : List (Nat × Byte × Byte) :=
  ((addressed a bytes).filter fun b => inDual b.1).map fun b => (b.1, q.mem.read b.1, b.2)

/-- It notes each of its bytes there, as each stands where it was put. -/
theorem noteDual_store {q : Quad} {c : Fin 17} (wf : q.mem.wf) (none : (q.core c).dual = []) (a : Nat) (bytes : List Byte) :
    (q.store a bytes).noteDual c q.mem (addressed a bytes) = (q.store a bytes).setCore c { q.core c with dual := dualOf q a bytes } := by
  have stands : (addressed a bytes).filter (fun b => inDual b.1 && (q.store a bytes).mem.read b.1 == b.2) =
      (addressed a bytes).filter fun b => inDual b.1 := by
    refine List.filter_congr fun b hb => ?_
    obtain ⟨j, lt, rfl⟩ := mem_addressed hb
    simp [Quad.store, read_writeBytes _ wf _ _ _ lt]
  simp only [Quad.noteDual, stands]
  split
  · next empty =>
    have dual : dualOf q a bytes = [] := List.isEmpty_iff.mp empty
    rw [dual, ← none]
    exact (setCore_core (q.store a bytes) c).symm
  · rfl

/-! ### What an access makes of its core -/

section
variable (k : Core)

@[simp] theorem set0_advance : k.advance.set0 = k.set0 := by unfold Core.advance; split <;> rfl
@[simp] theorem set1_advance : k.advance.set1 = k.set1 := by unfold Core.advance; split <;> rfl
@[simp] theorem flights_advance : k.advance.flights = k.flights := by unfold Core.advance; split <;> rfl
@[simp] theorem reqs_advance : k.advance.reqs = k.reqs := by unfold Core.advance; split <;> rfl
@[simp] theorem act_advance : k.advance.act = k.act := by unfold Core.advance; split <;> rfl

@[simp] theorem getSet_advance (b : Bool) : k.advance.getSet b = k.getSet b := by simp [Core.getSet]
@[simp] theorem cur_advance : k.advance.cur = k.cur := by simp [Core.cur]

/-- The program counter goes on whatever the core computes. -/
theorem advance_with (s0 s1 : RegSet) (l : List Flight) (r : List BusReq) :
    { k with set0 := s0, set1 := s1, flights := l, reqs := r }.advance = { k.advance with set0 := s0, set1 := s1, flights := l, reqs := r } := by
  unfold Core.advance
  split <;> rfl

end

/-- A core that differs from another in its active set, its results in flight and its requests alone. -/
def OwnSetOnly (k k' : Core) : Prop :=
  k' = { k with set0 := k'.set0, set1 := k'.set1, flights := k'.flights, reqs := k'.reqs } ∧ k'.getSet (!k.act) = k.getSet (!k.act)

namespace OwnSetOnly
variable {k k' k'' : Core}

theorem act (h : OwnSetOnly k k') : k'.act = k.act := by rw [h.1]

theorem ask (h : OwnSetOnly k k') : k'.ask = k.ask := by rw [h.1]

theorem dual (h : OwnSetOnly k k') : k'.dual = k.dual := by rw [h.1]

theorem pos (h : OwnSetOnly k k') : k'.pos = k.pos := by rw [h.1]

theorem refl (k : Core) : OwnSetOnly k k := ⟨rfl, rfl⟩

theorem trans (h : OwnSetOnly k k') (h' : OwnSetOnly k' k'') : OwnSetOnly k k'' := by
  refine ⟨?_, ?_⟩
  · rw [h'.1, h.1]
  · rw [← h.2, ← h.act, h'.2]

/-- The program counter goes on beside it. -/
theorem advance (h : OwnSetOnly k k') : k.onlyRegs k'.advance := by
  refine ⟨?_, ?_⟩
  · calc k'.advance = { k with set0 := k'.set0, set1 := k'.set1, flights := k'.flights, reqs := k'.reqs }.advance := congrArg _ h.1
      _ = _ := by rw [advance_with, set0_advance, set1_advance, flights_advance, reqs_advance]
  · rw [getSet_advance, h.2]

end OwnSetOnly

/-- A pointer written with the value that it holds. -/
theorem write_p_self (s : RegSet) (p : Fin 8) : s.write (.p p) (s.p[p].setWidth 40) = s := by
  simp [RegSet.write]

theorem addrOf_set_of_not_steps {s : RegSet} {p : Fin 8} {a : AMode} (h : a.steps = false) : (addrOf s p a).set = s := by
  cases a with
  | plain => rfl
  | offset k => rfl
  | stepK k => cases h
  | stepM m => cases h
  | rev m r4 => cases h

/-- The pointer of an access stepped, in the set of its core that is active. -/
theorem stepPtr_ownSetOnly {k : Core} (x : MemAcc) (reqs : k.reqs = []) (ask : k.ask = none) :
    OwnSetOnly k (k.stepPtr x) ∧ (k.stepPtr x).cur = (addrOf k.cur x.p x.mode).set ∧ (k.stepPtr x).reqs = [] := by
  unfold Core.stepPtr
  split
  · cases active : k.act <;>
      simp [-Fin.getElem_fin, OwnSetOnly, Core.landNow, Core.landOne, Core.putReg, Core.setSet, Core.getSet, Core.cur, active,
        write_p_self, reqs, ask]
  · next stays => exact ⟨.refl k, (addrOf_set_of_not_steps (eq_false_of_ne_true stays)).symm, reqs⟩

theorem request_ownSetOnly {k : Core} (r : Rg) (x : BusReq) (reqs : k.reqs = []) (ask : k.ask = none) :
    OwnSetOnly k (k.request r x) ∧ (k.request r x).cur = k.cur ∧ (k.request r x).reqs = [x] := by
  simp [OwnSetOnly, Core.request, reqs, ask, Core.cur, Core.getSet]

/-- A core that has a bus store outstanding as well. -/
def asksStore (k : Core) (tgt : Nat) : Core := { k with reqs := k.reqs ++ [⟨true, k.act, none, 0, .clean, tgt⟩] }

theorem asksStore_ownSetOnly (k : Core) (tgt : Nat) : OwnSetOnly k (asksStore k tgt) := ⟨rfl, rfl⟩

/-- What a core's store noted of the dual-ported banks stays with it as the store's flags go out and the program counter goes on. -/
theorem fitFlags_advance_dual (k : Core) (d : List (Nat × Byte × Byte)) (w : BitVec 2) (v : W40) (sat : Bool) :
    ({ k with dual := d }.fitFlags w v sat).advance = { (k.fitFlags w v sat).advance with dual := d } := by
  have next (k : Core) : { k with dual := d }.advance = { k.advance with dual := d } := by
    unfold Core.advance
    split <;> rfl
  rw [← next]
  congr 1
  unfold Core.fitFlags
  dsimp only
  split <;> rfl

theorem fitFlags_ownSetOnly (k : Core) (w : BitVec 2) (v : W40) (sat : Bool) :
    OwnSetOnly k (k.fitFlags w v sat) ∧ (k.fitFlags w v sat).cur = k.cur ∧ (k.fitFlags w v sat).reqs = k.reqs := by
  unfold Core.fitFlags
  dsimp only
  split
  · exact ⟨⟨rfl, rfl⟩, rfl, rfl⟩
  · exact ⟨.refl k, rfl, rfl⟩

/-! ### The move of a bus access (R146) -/

/-- Moves of one bus access alone. -/
def busMove (store : Bool) (r : Rg) (p : Fin 8) (w : BitVec 2) (a : AMode) : PMove := { bus := some ⟨store, r, p, w, a⟩ }

/-- The address mode that bits M and VAL of a bus access in PMOVE spell. -/
def busMode (f : Nat) (u : BitVec 4) : AMode := if f = 1 then .stepM (fin8 u.toNat) else if u = 0 then .plain else .stepK u.toInt

/-- The bits of a bus access in PMOVE (R146). -/
def busBits (dir : Nat) (d : Fin 16) (p : Fin 8) (w : BitVec 2) (f : Nat) (u : BitVec 4) : Nat :=
  2 ^ 19 * dir + 2 ^ 15 * d.val + 2 ^ 12 * p.val + 2 ^ 10 * w.toNat + 2 ^ 9 * f + 2 ^ 5 * u.toNat

theorem fin8_eq {n : Nat} {p : Fin 8} (h : n % 8 = p.val) : fin8 n = p := Fin.ext h

theorem fin16_eq {n : Nat} {d : Fin 16} (h : n % 16 = d.val) : fin16 n = d := Fin.ext h

/-- A step of four bits as an integer. -/
theorem step4_eq (u : BitVec 4) : (if u.toNat < 8 then (u.toNat : Int) else (u.toNat : Int) - 16) = u.toInt := by
  revert u
  decide

theorem toInt_eq_zero_iff (u : BitVec 4) : u.toInt = 0 ↔ u = 0 := by
  revert u
  decide

section
variable {dir f : Nat} (d : Fin 16) (p : Fin 8) (w : BitVec 2) (u : BitVec 4) (hdir : dir < 2) (hf : f < 2) (hu : f = 1 → u.toNat < 8)
include hdir hf

theorem busBits_lt : busBits dir d p w f u < 2 ^ 20 := by
  have hd := d.isLt
  have hp := p.isLt
  have hw := w.isLt
  have hv := u.isLt
  unfold busBits
  omega

/-- The fields of a bus access are read where they stand. -/
theorem busBits_fields : busBits dir d p w f u % 32 = 0 ∧ busBits dir d p w f u / 32 % 16 = u.toNat ∧ busBits dir d p w f u / 2 ^ 9 % 2 = f ∧
    busBits dir d p w f u / 1024 % 4 = w.toNat ∧ busBits dir d p w f u / 4096 % 8 = p.val ∧ busBits dir d p w f u / 32768 % 16 = d.val ∧
      busBits dir d p w f u / 2 ^ 19 % 2 = dir := by
  have hd := d.isLt
  have hp := p.isLt
  have hw := w.isLt
  have hv := u.isLt
  unfold busBits
  omega

include hu

theorem pmBus_busBits : pmBus (busBits dir d p w f u) = some ⟨dir == 1, .d d, p, w, busMode f u⟩ := by
  obtain ⟨low, step, mode, width, ptr, reg, store⟩ := busBits_fields d p w u hdir hf
  have width : BitVec.ofNat 2 (busBits dir d p w f u / 1024) = w := BitVec.eq_of_toNat_eq width
  unfold pmBus
  simp only [bitN, Nat.shiftRight_eq_div_pow, low, step, mode, store, width, fin8_eq ptr, fin16_eq reg, step4_eq, toInt_eq_zero_iff]
  rw [if_neg (by simp; exact hu)]
  simp [busMode]

/-- A PMOVE field that holds one bus access. -/
theorem pmOf_busMove : pmOf (BitVec.ofNat 24 (2 ^ 21 + busBits dir d p w f u)) = some (busMove (dir == 1) (.d d) p w (busMode f u)) := by
  have small := busBits_lt d p w u hdir hf
  have number : (BitVec.ofNat 24 (2 ^ 21 + busBits dir d p w f u)).toNat = 2 ^ 21 + busBits dir d p w f u :=
    Nat.mod_eq_of_lt (by omega)
  have form : (2 ^ 21 + busBits dir d p w f u) / 2 ^ 22 = 0 := by omega
  have sub : (2 ^ 21 + busBits dir d p w f u) / 2 ^ 20 % 4 = 2 := by omega
  have rest : (2 ^ 21 + busBits dir d p w f u) % 2 ^ 20 = busBits dir d p w f u := by omega
  simp only [pmOf, number, form, sub, rest, pmBus_busBits d p w u hdir hf hu]
  rfl

end

/-! ### A bus access issued -/

/-- An instruction that raises no cause is carried out. -/
theorem Unhindered.attempt_performs {s : State} {i : Issue} (h : Unhindered s i) {pl : Plan} {m : PMove} (hm : pl.moves = some m)
    (none : (found s i).issueTraps i pl m = []) : (found s i).attempt i pl = (found s i).perform i pl m := by
  simp only [Quad.attempt, core_found, followFetch_alone _ _ _ h.pairStore_found, ite_self, h.fetch_eq, hm, h.stalls_eq, none]
  rfl

/-- An access of memory where no error meets it. -/
structure MemoryAccess (q : Quad) (a n : Nat) (t : Target) : Prop where
  access : q.access a n = some t
  plain : PlainMemory t
  clean : q.eccIn a n = []

section
variable {q : Quad} {ea : Nat} {t : Target} {c : Fin 17} {k : Core}

/-- A bus load gets what its target holds (R106, R108). -/
theorem busLoad_plain {w : BitVec 2} (h : MemoryAccess q ea (widthBytes w) t) (r : Rg) :
    (q.setCore c k).busLoad c r w ea =
      q.setCore c (k.request r ⟨false, k.act, some r, loadValue w (q.mem.bytesAt ea (widthBytes w)), .clean, t.code⟩) := by
  have access : (q.setCore c k).access ea (widthBytes w) = some t := h.access
  have clean : (q.setCore c k).eccIn ea (widthBytes w) = [] := h.clean
  have read : (q.setCore c k).busRead k.writer t ea (widthBytes w) = (q.mem.bytesAt ea (widthBytes w), .clean, q.setCore c k) := by
    rcases h.plain with rfl | rfl <;> simp [Quad.busRead, Quad.isRom, Quad.memRead, clean, worstEcc, Quad.noteEcc]
  simp only [Quad.busLoad, access, core_setCore, read, setCore_setCore]

/-- A bus store writes its bytes, and tells its core of those in the dual-ported banks (R107, R407). -/
theorem busStore_plain {bytes : List Byte} (h : MemoryAccess q ea bytes.length t) (some : bytes ≠ []) (free : Unguarded q ea bytes.length)
    (wf : q.mem.wf) (alone : q.pairStore c = false) (pos : k.pos = (q.core c).pos) (unnoted : k.dual = []) :
    (q.setCore c k).busStore c ea bytes = (q.store ea bytes).setCore c { asksStore k t.code with dual := dualOf q ea bytes } := by
  obtain ⟨k', hk⟩ : ∃ k', k' = asksStore k t.code := ⟨_, rfl⟩
  have unnoted : ((q.setCore c k').core c).dual = [] := by rw [core_setCore, hk]; exact unnoted
  have unbound : ((q.setCore c k').pairStore c && !(q.setCore c k').hpnView ea bytes.length) = false := by
    rw [pairStore_setCore (hk ▸ pos), alone, Bool.false_and]
  have access (k : Core) : (q.setCore c k).access ea bytes.length = Option.some t := h.access
  have written := busWrite_plain (q := q.setCore c k') c k.writer h.plain some ⟨free.bytes, free.room⟩ h.clean
  have noted := noteDual_store (q := q.setCore c k') wf unnoted ea bytes
  have issued : (q.setCore c k).busStore c ea bytes =
      ((q.setCore c k').busWrite (.core c) k.writer t (addressed ea bytes)).1.noteDual c (q.setCore c k').mem (addressed ea bytes) := by
    unfold Quad.busStore
    dsimp only
    rw [access, core_setCore, setCore_setCore]
    dsimp only
    rw [← asksStore, ← hk, unbound, access]
    rfl
  rw [issued, written, noted, core_setCore, ← hk]
  exact setCore_setCore (q.store ea bytes) c _ _

end

/-- Nothing is owed to the core of an instruction that nothing keeps. -/
theorem Unhindered.issuer_owed {s : State} {i : Issue} (h : Unhindered s i) : (s.issuer i).reqs = [] ∧ (s.issuer i).ask = none :=
  ⟨(kept_cycle (cclkPerTick (s.quad i.q).fi) _).reqs h.reqs, (kept_cycle (cclkPerTick (s.quad i.q).fi) _).ask h.ask⟩

/-- The address that an instruction forms through a pointer. -/
def addressAt (s : State) (i : Issue) (p : Fin 8) (a : AMode) : AddrRes := addrOf (s.issuer i).cur p a

/-- The core of a bus access with its pointer stepped. -/
def steppedCore (s : State) (i : Issue) (x : BusAcc) : Core := (s.issuer i).stepPtr ⟨.bus x.w, x.store, x.reg, x.p, x.mode⟩

/-- The request that a bus load leaves. -/
def loadRequest (s : State) (i : Issue) (r : Rg) (w : BitVec 2) (ea : Nat) (t : Target) : BusReq :=
  ⟨false, (s.issuer i).act, some r, loadValue w ((s.quad i.q).mem.bytesAt ea (widthBytes w)), .clean, t.code⟩

section
variable {s : State} {i : Issue} (h : Unhindered s i) (hr : i.rsv = false) {r : Rg} {p : Fin 8} {w : BitVec 2} {a : AMode} {t : Target}
  (ho : (addressAt s i p a).traps = []) (reached : MemoryAccess (s.quad i.q) (addressAt s i p a).ea (widthBytes w) t)

include h in
theorem steppedCore_ownSetOnly (x : BusAcc) : OwnSetOnly (s.issuer i) (steppedCore s i x) ∧
    (steppedCore s i x).cur = (addressAt s i x.p x.mode).set ∧ (steppedCore s i x).reqs = [] := by
  obtain ⟨reqs, ask⟩ := h.issuer_owed
  exact stepPtr_ownSetOnly _ reqs ask

/-- An access carried out: its pointer steps, its data moves, and the program counter goes on. -/
theorem perform_busMove (s : State) (i : Issue) (store : Bool) (r : Rg) (p : Fin 8) (w : BitVec 2) (a : AMode) :
    let q := ((s.quad i.q).setCore i.c (steppedCore s i ⟨store, r, p, w, a⟩)).doAcc i.c i.sat (s.issuer i).cur ⟨.bus w, store, r, p, a⟩
    (found s i).perform i { moves := some (busMove store r p w a) } (busMove store r p w a) = q.setCore i.c (q.core i.c).advance := by
  simp [Quad.perform, Quad.doMoves, busMove, PMove.accs, Core.putAll, found, steppedCore]

include h hr ho reached

/-- Nothing makes the access illegal, unless it loads the pointer that it steps. -/
theorem issueTraps_busMove {store : Bool} (dups : store = true ∨ a.steps = false ∨ r ≠ .p p) :
    (found s i).issueTraps i { moves := some (busMove store r p w a) } (busMove store r p w a) = [] := by
  unfold addressAt at ho reached
  have access : (found s i).access (addrOf (s.issuer i).cur p a).ea (widthBytes w) = some t := reached.access
  have target : (found s i).busTraps i.c store (addrOf (s.issuer i).cur p a).ea (widthBytes w) = [] := by
    rcases reached.plain with rfl | rfl <;>
      simp [Quad.busTraps, h.pairStore_found, access, Quad.readOnly, Quad.isRom, Quad.lockedWindow]
  have noDups := accessDups_none dups
  rw [accessDups] at noDups
  simp [Quad.issueTraps, busMove, PMove.accs, PMove.writes, PMove.stepped, Quad.accTraps, hr, causeIf, ho, target, noDups]

theorem issue_busMove {store : Bool} (dups : store = true ∨ a.steps = false ∨ r ≠ .p p) :
    (s.quad i.q).issue i (fun _ _ => { moves := some (busMove store r p w a) }) =
      (found s i).perform i { moves := some (busMove store r p w a) } (busMove store r p w a) :=
  (h.issue_eq _).trans (h.attempt_performs rfl (issueTraps_busMove h hr ho reached dups))

/-- A bus load asks for its data and goes on (R82, R108). -/
theorem issue_busLoad (dups : a.steps = true → r ≠ .p p) : (s.quad i.q).issue i (fun _ _ => { moves := some (busMove false r p w a) }) =
    (s.quad i.q).setCore i.c
      ((steppedCore s i ⟨false, r, p, w, a⟩).request r (loadRequest s i r w (addressAt s i p a).ea t)).advance := by
  have dups : false = true ∨ a.steps = false ∨ r ≠ .p p := .inr (or_iff_not_imp_left.mpr fun steps => dups (eq_true_of_ne_false steps))
  obtain ⟨own, -, -⟩ := steppedCore_ownSetOnly h ⟨false, r, p, w, a⟩
  have load : ((s.quad i.q).setCore i.c (steppedCore s i ⟨false, r, p, w, a⟩)).doAcc i.c i.sat (s.issuer i).cur ⟨.bus w, false, r, p, a⟩ =
      _ :=
    busLoad_plain reached r
  rw [issue_busMove h hr ho reached dups, perform_busMove, load, own.act]
  simp only [core_setCore, setCore_setCore]
  rfl

/-- A bus store writes its bytes, asks for its completion and goes on (R107, R108). -/
theorem issue_busStore {bytes : List Byte} (data : storeBytes w ((s.issuer i).cur.read r) i.sat = bytes) (count : bytes.length = widthBytes w)
    (free : Unguarded (s.quad i.q) (addressAt s i p a).ea (widthBytes w)) (wf : (s.quad i.q).mem.wf) :
    (s.quad i.q).issue i (fun _ _ => { moves := some (busMove true r p w a) }) =
      ((s.quad i.q).store (addressAt s i p a).ea bytes).setCore i.c
        { ((asksStore (steppedCore s i ⟨true, r, p, w, a⟩) t.code).fitFlags w ((s.issuer i).cur.read r) i.sat).advance with
          dual := dualOf (s.quad i.q) (addressAt s i p a).ea bytes } := by
  obtain ⟨own, -, -⟩ := steppedCore_ownSetOnly h ⟨true, r, p, w, a⟩
  have some : bytes ≠ [] := by
    rintro rfl
    rcases width_cases w with rfl | rfl | rfl | rfl <;> exact absurd count (by decide)
  rw [issue_busMove h hr ho reached (.inl rfl), perform_busMove]
  rw [← count] at reached free
  have stored : ((s.quad i.q).setCore i.c (steppedCore s i ⟨true, r, p, w, a⟩)).busStore i.c (addrOf (s.issuer i).cur p a).ea bytes = _ :=
    busStore_plain reached some free wf (pairStore_eq_false h.alone) (own.pos.trans (issuer_pos s i)) own.dual
  simp only [Quad.doAcc, if_true, data, stored, core_setCore, setCore_setCore, fitFlags_advance_dual]
  rfl

/-- A command that is a bus load. -/
theorem exec_busLoad {c : Instr} (run : exec c s = onQ i.q (Quad.issue i fun _ _ => { moves := some (busMove false r p w a) }) s)
    (dups : a.steps = true → r ≠ .p p) : ∃ k2, exec c s = .next (s.withCore i.q i.c k2) ∧ (s.issuer i).onlyRegs k2 ∧
      k2.cur = (addressAt s i p a).set ∧ k2.reqs = [loadRequest s i r w (addressAt s i p a).ea t] := by
  obtain ⟨own, cur, reqs⟩ := steppedCore_ownSetOnly h ⟨false, r, p, w, a⟩
  obtain ⟨own', cur', reqs'⟩ := request_ownSetOnly r (loadRequest s i r w (addressAt s i p a).ea t) reqs (own.ask.trans h.issuer_owed.2)
  refine ⟨_, run.trans (onQ_setCore (issue_busLoad h hr ho reached dups)), (own.trans own').advance, ?_, ?_⟩
  · rw [cur_advance, cur', cur]
  · rw [reqs_advance, reqs']

/-- A command that is a bus store. -/
theorem exec_busStore {c : Instr} (run : exec c s = onQ i.q (Quad.issue i fun _ _ => { moves := some (busMove true r p w a) }) s) {v : Nat}
    (data : storeBytes w ((s.issuer i).cur.read r) i.sat = bytesLE v (widthBytes w))
    (free : Unguarded (s.quad i.q) (addressAt s i p a).ea (widthBytes w)) (wf : (s.quad i.q).mem.wf) :
    let ea := (addressAt s i p a).ea
    ∃ u k2, exec c s = .next u ∧ OnlyQuad i.q s u ∧ (s.issuer i).onlyRegs k2 ∧ k2.cur.d = (addressAt s i p a).set.d ∧
      k2.reqs = [⟨true, (s.issuer i).act, none, 0, .clean, t.code⟩] ∧
      (u.quad i.q).cores = ((s.quad i.q).setCore i.c { k2 with dual := dualOf (s.quad i.q) ea (bytesLE v (widthBytes w)) }).cores ∧
      (u.quad i.q).mem.readLE ea (widthBytes w) = v % 256 ^ widthBytes w ∧ SameBytesBut ea (widthBytes w) (s.quad i.q) (u.quad i.q) ∧
      (u.quad i.q).regs = (s.quad i.q).regs := by
  intro ea
  obtain ⟨own, cur, reqs⟩ := steppedCore_ownSetOnly h ⟨true, r, p, w, a⟩
  obtain ⟨own', cur', reqs'⟩ :=
    fitFlags_ownSetOnly (asksStore (steppedCore s i ⟨true, r, p, w, a⟩) t.code) w ((s.issuer i).cur.read r) i.sat
  obtain ⟨u, hu, quad, others, host, pending⟩ := onQ_completes i.q (Quad.issue i fun _ _ => { moves := some (busMove true r p w a) }) s
  rw [issue_busStore h hr ho reached data (bytesLE_length ..) free wf] at quad
  have mem : (u.quad i.q).mem = ((s.quad i.q).mem.writeBytes ea (bytesLE v (widthBytes w))).normal := congrArg Quad.mem quad
  refine ⟨u, _, run.trans hu, ⟨pending, host, others⟩, ((own.trans (asksStore_ownSetOnly _ _)).trans own').advance, ?_, ?_,
    ?_, ?_, ?_, ?_⟩
  · rw [cur_advance, cur']
    exact congrArg RegSet.d cur
  · rw [reqs_advance, reqs', asksStore, reqs, own.act]
    rfl
  · rw [quad]
    rfl
  · rw [mem, readLE_normal, readLE_write_bytesLE _ wf]
  · intro x hx
    rw [mem, read_normal, read_writeBytes_ne _ _ _ _ (by rwa [bytesLE_length])]
  · rw [quad]
    rfl

end

theorem exec_movesAlone {i : Issue} {m : PMove} (s : State) (moves : pmOf i.pm = some m) :
    exec (.movesAlone i) s = onQ i.q (Quad.issue i fun _ _ => { moves := some m }) s := by
  rw [← moves]
  rfl

theorem exec_busAccess {s : State} {i : Issue} {store : Bool} {code : BitVec 6} {r : Rg} {p : Fin 8} {w : BitVec 2} {mode : BitVec 3}
    {val : BitVec 8} {a : AMode} (hpm : i.pm = 0) (hg : gprOf code = some r) (ha : amodeOf mode val = some a) :
    exec (.busAccess i store code p w mode val) s = onQ i.q (Quad.issue i fun _ _ => { moves := some (busMove store r p w a) }) s := by
  have plain : xyMoves i = some {} := by rw [xyMoves, hpm, pmOf_zero]; rfl
  have plan : busPlan i store code p w mode val = { moves := some (busMove store r p w a) } := busPlan_beside hg ha plain
  rw [← plan]
  rfl

/-- Settles O16: alone or as the one move of moves alone, the access is one bus move of its plan. -/
theorem busAccess : Obligations.BusAccess := by
  intro s i code r p w mode val a issues wf hpm hg ha q k o n tgt v x f bytes loads stores traps memory clean
  have width : n = widthBytes w := widthBytes_eq w
  clear_value n
  subst width
  obtain ⟨t, reached⟩ : ∃ t, MemoryAccess q o.ea (widthBytes w) t := by
    rcases memory with scratch | dram
    · exact ⟨.scratch, scratch, .inl rfl, clean⟩
    · exact ⟨.dram, dram, .inr rfl, clean⟩
  have target : tgt = t.code := by simp only [tgt, reached.access]
  obtain ⟨upset, mism, rsv, rest⟩ := issues
  have free (m : BitVec 24) : Unhindered s { i with pm := m } := unhindered_of_issues ⟨upset, mism, rfl, rest⟩
  have load (m : BitVec 24) {c : Instr}
      (run : exec c s = onQ i.q (Quad.issue { i with pm := m } fun _ _ => { moves := some (busMove false r p w a) }) s) : loads c := by
    intro dups
    obtain ⟨k2, next, own, cur, reqs⟩ := exec_busLoad (free m) rsv traps reached run dups
    rw [target]
    exact ⟨k2, next, own, cur, by rw [reqs, loadRequest, loadValue_bytesAt]; rfl⟩
  have store (m : BitVec 24) {c : Instr}
      (run : exec c s = onQ i.q (Quad.issue { i with pm := m } fun _ _ => { moves := some (busMove true r p w a) }) s) : stores c := by
    intro unguarded room
    rw [target]
    exact exec_busStore (free m) rsv traps reached run (storeBytes_eq w x i.sat) ⟨unguarded, room⟩ (wf.1 i.q)
  refine ⟨load i.pm (exec_busAccess hpm hg ha), store i.pm (exec_busAccess hpm hg ha), ?_⟩
  rintro d byM u rfl hf hu rfl form
  have moves {dir : Nat} (hdir : dir < 2) : pmOf (form dir).pm = some (busMove (dir == 1) (.d d) p w (busMode byM u)) := by
    rw [← pmOf_busMove d p w u hdir hf hu, busBits]
    simp only [form, Nat.add_assoc]
  exact ⟨load (form 0).pm (exec_movesAlone s (moves (by decide))), store (form 1).pm (exec_movesAlone s (moves (by decide)))⟩

end Sys2Proof.Machine.Proofs

/-! The fit of an exact result to a width (R122), and the sticky flags that it sets (R72). -/

namespace Sys2Proof.Machine.Proofs

/-- An integer that `n` bits hold in two's complement. -/
def Fits (n : Nat) (e : Int) : Prop := -(2 : Int) ^ (n - 1) ≤ e ∧ e ≤ (2 : Int) ^ (n - 1) - 1

section
variable {n : Nat} {e : Int}

theorem toInt_ofInt_of_fits (pos : 0 < n) (h : Fits n e) : (BitVec.ofInt n e).toInt = e :=
  BitVec.toInt_ofInt_eq_self pos h.1 (Int.lt_of_le_sub_one h.2)

theorem fits_max (n : Nat) : Fits n ((2 : Int) ^ (n - 1) - 1) := by
  have : (0 : Int) < 2 ^ (n - 1) := by positivity
  exact ⟨by omega, le_rfl⟩

theorem fits_min (n : Nat) : Fits n (-(2 : Int) ^ (n - 1)) := by
  have : (0 : Int) < 2 ^ (n - 1) := by positivity
  exact ⟨le_rfl, by omega⟩

theorem fit_of_fits (h : Fits n e) (s : Bool) : fit n e s = ⟨BitVec.ofInt n e, false, false, false⟩ := if_pos h

theorem fit_saturates (h : ¬ Fits n e) :
    fit n e true = ⟨BitVec.ofInt n (if e > 0 then (2 : Int) ^ (n - 1) - 1 else -(2 : Int) ^ (n - 1)), true, true, false⟩ := by
  rw [apply_ite (BitVec.ofInt n)]
  exact if_neg h

theorem fit_wraps (h : ¬ Fits n e) : fit n e false = ⟨BitVec.ofInt n e, true, false, true⟩ := if_neg h

end

/-- Settles O1: the result is in range, saturates or wraps. -/
theorem fitRule : Obligations.FitRule := by
  intro n e s pos
  refine ⟨fun inside => ?_, fun outside saturates => ?_, fun outside wraps => ?_⟩
  · rw [fit_of_fits inside]
    exact ⟨toInt_ofInt_of_fits pos inside, rfl, rfl, rfl⟩
  · rw [saturates, fit_saturates outside]
    refine ⟨toInt_ofInt_of_fits pos ?_, rfl, rfl, rfl⟩
    split
    · exact fits_max n
    · exact fits_min n
  · rw [wraps, fit_wraps outside]
    exact ⟨rfl, rfl, rfl, rfl⟩

/-- V tells that the result was out of range; SA and OV tell what became of it. -/
theorem fit_flags (n : Nat) (e : Int) (s : Bool) :
    (fit n e s).sa = ((fit n e s).v && s) ∧ (fit n e s).ov = ((fit n e s).v && !s) := by
  by_cases h : Fits n e
  · simp [fit_of_fits h]
  · cases s
    · simp [fit_wraps h]
    · simp [fit_saturates h]

theorem sticky40_fit (e : Int) (s : Bool) :
    sticky40 (fit 40 e s) = if (fit 40 e s).sa then stSA else if (fit 40 e s).ov then stOV else 0 := by
  obtain ⟨sa, ov⟩ := fit_flags 40 e s
  rw [sticky40, sa, ov]
  cases (fit 40 e s).v <;> cases s <;> rfl

/-- A result out of range leaves a mark. -/
theorem sticky96_ne_zero (sa ov : Bool) (n : Fin 4) :
    (if sa then stSA else 0) ||| (if ov then stOV else 0) ||| (stAV ||| stAVA n) ≠ 0 := by
  revert sa ov n
  decide

/-- The results of a fit to an accumulator. -/
theorem accOut_fit (n : Fin 4) (e : Int) (s mul : Bool) :
    [(3, .acc n (fit 96 e s).val mul), vPut (fit 96 e s).v] ++ stickyPut (sticky96 n (fit 96 e s)) = accOut n (fit 96 e s) mul := by
  obtain ⟨sa, ov⟩ := fit_flags 96 e s
  rw [accOut, ← vPut, sticky96]
  cases v : (fit 96 e s).v with
  | false => simp [sa, ov, v, stickyPut]
  | true =>
    rw [if_pos rfl, if_pos rfl, stickyPut, if_neg (sticky96_ne_zero _ _ n), ← BitVec.or_assoc]

end Sys2Proof.Machine.Proofs

/-! Instructions that only give results (R116, R117): those put in flight, and those that the next instruction reads. -/

namespace Sys2Proof.Machine.Proofs
open Laws

/-- A plan that asks for no moves, raises no cause, and has no effect but its results. -/
structure OnlyPuts (p : Plan) (l : List (Nat × Dst)) : Prop where
  moves : p.moves = some {}
  traps : p.traps = []
  dups : dupTraps p.writes [] = []
  act : p.act = fun q c => q.setCore c (q.core c).advance
  puts : p.puts = l

theorem pmOf_pm {i : Issue} (h : i.pm = 0) : pmOf i.pm = some {} := by rw [h, pmOf_zero]

theorem dupTraps_singleton (r : Rg) : dupTraps [r] [] = [] := by simp [dupTraps, hasDup]

/-! ### Results in flight -/

theorem putAll_cons (k : Core) (d : Nat × Dst) (l : List (Nat × Dst)) : k.putAll (d :: l) = (k.put k.act d.1 d.2).putAll l := rfl

/-- Results that are not readable at once stay in flight. -/
theorem putAll_of_late {l : List (Nat × Dst)} (late : ∀ d ∈ l, 1 < d.1) (k : Core) : k.putAll l = k.sends l := by
  induction l generalizing k with
  | nil => simp [Core.putAll, Core.sends]
  | cons d l ih =>
    obtain ⟨first, rest⟩ := List.forall_mem_cons.mp late
    rw [putAll_cons, ih rest, Core.put, if_neg (by omega)]
    simp [Core.sends]

theorem late_stickyPut (b : W32) : ∀ d ∈ stickyPut b, 1 < d.1 := by
  unfold stickyPut
  split <;> simp

theorem late_accOut (n : Fin 4) (f : Fit 96) (mul : Bool) : ∀ d ∈ accOut n f mul, 1 < d.1 := by
  unfold accOut
  split <;> simp

section
variable {s : State} {i : Issue} (h : s.issues i)
include h

theorem exec_putAll {c : Instr} {plan : Quad → Core → Plan} {l : List (Nat × Dst)} (hx : exec c s = onQ i.q (Quad.issue i plan) s)
    (hp : OnlyPuts (plan (found s i) (s.issuer i)) l) : exec c s = .next (s.withCore i.q i.c ((s.issuer i).putAll l).advance) := by
  rw [hx, ← hp.puts]
  exact issue_plain s i plan h hp.moves hp.traps hp.dups hp.act

theorem exec_sends {c : Instr} {plan : Quad → Core → Plan} {l : List (Nat × Dst)} (hx : exec c s = onQ i.q (Quad.issue i plan) s)
    (hp : OnlyPuts (plan (found s i) (s.issuer i)) l) (late : ∀ d ∈ l, 1 < d.1) :
    exec c s = .next (s.withCore i.q i.c ((s.issuer i).sends l).advance) := by
  rw [exec_putAll h hx hp, putAll_of_late late]

end

end Sys2Proof.Machine.Proofs

/-! The multiply family (R126 to R129). -/

namespace Sys2Proof.Machine.Proofs
open Laws

theorem onlyPuts_mulPlan {i : Issue} (hpm : i.pm = 0) (n : Fin 4) (e : Int) (ds : List (Fin 16)) :
    OnlyPuts (mulPlan i n e ds) (accOut n (fit 96 e i.sat) true) :=
  ⟨pmOf_pm hpm, rfl, dupTraps_singleton _, rfl, accOut_fit n e i.sat true⟩

theorem exec_mul {s : State} {i : Issue} (h : s.issues i) (hpm : i.pm = 0) {c : Instr} {n : Fin 4} {f : Core → Int} {e : Int}
    {ds : List (Fin 16)} (hx : exec c s = onQ i.q (Quad.issue i fun _ k => mulPlan i n (f k) ds) s) (he : f (s.issuer i) = e) :
    exec c s = .next (s.withCore i.q i.c ((s.issuer i).sends (accOut n (fit 96 e i.sat) true)).advance) :=
  exec_sends h hx (he ▸ onlyPuts_mulPlan hpm n _ ds) (late_accOut n _ true)

/-! ### Dual multiplies (R128) -/

/-- What an operation that is not reserved makes of an accumulator and a product. -/
theorem mulOpOf_eq {op : BitVec 2} (h : op ≠ 3) :
    ∃ o, mulOpOf op = some o ∧ ∀ a p, o.exact a p = if op = 0 then p else if op = 1 then a + p else a - p := by
  rcases width_cases op with rfl | rfl | rfl | rfl
  · exact ⟨.mpy, rfl, fun _ _ => rfl⟩
  · exact ⟨.mac, rfl, fun _ _ => rfl⟩
  · exact ⟨.msu, rfl, fun _ _ => rfl⟩
  · exact absurd rfl h

/-- The results of a dual multiply. -/
def dualOut (an am : Fin 4) (f g : Fit 96) : List (Nat × Dst) :=
  [(3, .acc an f.val true), (3, .acc am g.val true), (3, .flags mV (nib false false (f.v || g.v) false))] ++
    stickyPut (sticky96 an f ||| sticky96 am g)

theorem late_dualOut (an am : Fin 4) (f g : Fit 96) : ∀ d ∈ dualOut an am f g, 1 < d.1 :=
  List.forall_mem_append.mpr ⟨by simp, late_stickyPut _⟩

/-- The sticky flags of a fit to an accumulator, bit by bit (R71, R72). -/
theorem getLsbD_sticky96 (n : Fin 4) (f : Fit 96) (j : Nat) :
    (sticky96 n f).getLsbD j = ((j == 8 && f.ov) || (j == 9 && f.sa) || (j == 10 && f.v) || (j == 16 + n.val && f.v)) := by
  have bit (b : Bool) (x : W32) : (if b then x else 0).getLsbD j = (x.getLsbD j && b) := by cases b <;> simp
  have one {a : Nat} (ha : a < 32) : (BitVec.twoPow 32 a).getLsbD j = (j == a) := by
    rw [BitVec.getLsbD_twoPow, decide_eq_true ha, Bool.true_and, Bool.eq_iff_iff, beq_iff_eq, decide_eq_true_iff, eq_comm]
  have ov : stOV.getLsbD j = (j == 8) := one (a := 8) (by decide)
  have sa : stSA.getLsbD j = (j == 9) := one (a := 9) (by decide)
  have av : stAV.getLsbD j = (j == 10) := one (a := 10) (by decide)
  have ava : (stAVA n).getLsbD j = (j == 16 + n.val) := by
    rw [stAVA, ← one (by omega)]
    congr 1
    revert n
    decide
  rw [sticky96, BitVec.getLsbD_or, BitVec.getLsbD_or, bit, bit, bit, BitVec.getLsbD_or, ov, sa, av, ava, Bool.and_or_distrib_right,
    Bool.or_comm (j == 9 && f.sa), Bool.or_assoc _ (j == 10 && f.v)]

theorem getLsbD_sticky96_or (an am : Fin 4) (f g : Fit 96) (j : Nat) :
    (sticky96 an f ||| sticky96 am g).getLsbD j =
      ((j == 8 && (f.ov || g.ov)) || (j == 9 && (f.sa || g.sa)) || (j == 10 && (f.v || g.v)) ||
        (j == 16 + an.val && f.v) || (j == 16 + am.val && g.v)) := by
  rw [BitVec.getLsbD_or, getLsbD_sticky96, getLsbD_sticky96]
  simp only [Bool.and_or_distrib_left]
  ac_rfl

theorem exec_dualMultiply {s : State} {i : Issue} (h : s.issues i) (hpm : i.pm = 0) {op1 op2 : BitVec 2} {o1 o2 : MulOp}
    (ho1 : mulOpOf op1 = some o1) (ho2 : mulOpOf op2 = some o2) {an am : Fin 4} (distinct : an ≠ am) {dx dy du dv : Fin 16} {e1 e2 : Int}
    (he1 : o1.exact ((s.issuer i).accMul an).toInt ((s.issuer i).di dx * (s.issuer i).di dy) = e1)
    (he2 : o2.exact ((s.issuer i).accMul am).toInt ((s.issuer i).di du * (s.issuer i).di dv) = e2) :
    exec (.dualMultiply i op1 op2 an dx dy am du dv) s =
      .next (s.withCore i.q i.c ((s.issuer i).sends (dualOut an am (fit 96 e1 i.sat) (fit 96 e2 i.sat))).advance) := by
  have plan : exec (.dualMultiply i op1 op2 an dx dy am du dv) s =
      onQ i.q (Quad.issue i fun _ k => dualPlan i o1 o2 an dx dy am du dv k) s := by
    change execDualMultiply i op1 op2 an dx dy am du dv s = _
    rw [execDualMultiply, ho1, ho2]
  refine exec_sends h plan ⟨pmOf_pm hpm, rfl, ?_, rfl, by rw [← he1, ← he2]; rfl⟩ (late_dualOut an am _ _)
  simp [dualPlan, dupTraps, hasDup, distinct]

/-! ### Forwarding (R129) -/

/-- A multiply-family result put in flight last is what the next accumulating multiply reads. -/
theorem accMul_sends_accOut (k : Core) (n : Fin 4) (f : Fit 96) : (k.sends (accOut n f true)).advance.accMul n = f.val := by
  have last : (k.sends (accOut n f true)).advance.flights = k.flights ++ (accOut n f true).map fun d => ⟨k.act, d.1, d.2⟩ :=
    flights_advance _
  have act : (k.sends (accOut n f true)).advance.act = k.act := act_advance _
  unfold Core.accMul
  rw [last, act]
  cases v : f.v <;> simp [accOut, v]

/-- The core of a quadrant in which one core was replaced. -/
theorem core_withCore (s : State) (q : QId) (c : Fin 17) (k : Core) : ((s.withCore q c k).quad q).core c = k := by
  have quad : (s.withCore q c k).quad q = ((s.quad q).setCore c k).commit := quad_setQuad ..
  rw [quad, commit_core, core_setCore]

/-- Settles O3: a multiply puts its fitted result in flight, a dual multiply two, and the latest is forwarded. -/
theorem multiplyFamily : Obligations.MultiplyFamily := by
  constructor
  · intro s i an am dx dy du dv h hpm
    refine ⟨exec_mul h hpm rfl rfl, exec_mul h hpm rfl rfl, exec_mul h hpm rfl rfl, exec_mul h hpm rfl rfl, exec_mul h hpm rfl rfl,
      exec_mul h hpm rfl rfl, exec_mul h hpm rfl rfl, fun distinct op1 op2 h1 h2 => ?_⟩
    intro sel f g
    obtain ⟨o1, ho1, sel1⟩ := mulOpOf_eq h1
    obtain ⟨o2, ho2, sel2⟩ := mulOpOf_eq h2
    exact ⟨sticky96 an f ||| sticky96 am g, fun j _ => getLsbD_sticky96_or an am f g j,
      exec_dualMultiply h hpm ho1 ho2 distinct (sel1 _ _) (sel2 _ _)⟩
  · intro s i an dx dy h hpm t next
    have sent : exec (.mpy i an dx dy) s = _ := exec_mul h hpm rfl rfl
    obtain rfl := Host.Outcome.next.inj (sent.symm.trans next)
    rw [core_withCore, accMul_sends_accOut]
    rfl

end Sys2Proof.Machine.Proofs

/-! Results that the next instruction reads (R116, R117, R125): what an operation of the data ALU leaves of its core. -/

namespace Sys2Proof.Machine.Proofs
open Laws

/-! ### A core with its active set and its results in flight replaced -/

/-- A core whose active set and results in flight are others. -/
def withSet (k : Core) (r : RegSet) (l : List Flight) : Core := { k.setSet k.act r with flights := l }

section
variable (k : Core) (r : RegSet) (l : List Flight)

@[simp] theorem withSet_act : (withSet k r l).act = k.act := by unfold withSet Core.setSet; split <;> rfl
@[simp] theorem withSet_flights : (withSet k r l).flights = l := rfl

@[simp] theorem withSet_cur : (withSet k r l).cur = r := by
  cases active : k.act <;> simp [withSet, Core.setSet, Core.cur, active]

@[simp] theorem withSet_withSet (r' : RegSet) (l' : List Flight) : withSet (withSet k r l) r' l' = withSet k r' l' := by
  cases active : k.act <;> simp [withSet, Core.setSet, active]

theorem withSet_other : (withSet k r l).getSet (!k.act) = k.getSet (!k.act) := by
  cases active : k.act <;> simp [withSet, Core.setSet, Core.getSet, active]

/-- It differs from the core that it was in nothing else. -/
theorem withSet_rest : withSet k r l = { k with set0 := (withSet k r l).set0, set1 := (withSet k r l).set1, flights := l } := by
  unfold withSet Core.setSet
  split <;> rfl

theorem withSet_self : withSet k k.cur k.flights = k := by
  unfold withSet Core.setSet Core.cur
  split <;> rfl

theorem sends_withSet (m : List (Nat × Dst)) : (withSet k r l).sends m = withSet k r (l ++ m.map fun d => ⟨k.act, d.1, d.2⟩) := by
  unfold Core.sends
  rw [withSet_act]
  unfold withSet Core.setSet
  split <;> rfl

/-- The program counter goes on beside it. -/
theorem withSet_advance : (withSet k r l).advance =
    { k.advance with set0 := (withSet k r l).set0, set1 := (withSet k r l).set1, flights := l } := by
  rw [withSet_rest]
  unfold Core.advance
  split <;> rfl

end

/-! ### A result of one cycle -/

/-- A register result is written, and what was on its way to the register is superseded. -/
theorem put_reg {k : Core} (reqs : k.reqs = []) (ask : k.ask = none) (r : Rg) (v : W40) :
    k.put k.act 1 (.reg r v) = withSet k (k.cur.write r v) (k.flights.filterMap fun f => f.after k.act (.reg r v)) := by
  cases active : k.act <;>
    simp [Core.put, Core.landNow, Core.landOne, Core.putReg, withSet, Core.setSet, Core.getSet, Core.cur, active, reqs, ask]

/-- Flags are written into ST, and those in flight that they overtake are masked out. -/
theorem put_flags (k : Core) (m v : BitVec 4) :
    k.put k.act 1 (.flags m v) = withSet k { k.cur with st := putFlags k.cur.st m v }
      (k.flights.filterMap fun f => f.after k.act (.flags m v)) := by
  cases active : k.act <;> simp [Core.put, Core.landNow, Core.landOne, Core.mapSt, withSet, Core.setSet, Core.getSet, Core.cur, active]

/-- A result in flight from a set to a register. -/
def goesTo (f : Flight) (set : Bool) (r : Rg) : Bool :=
  f.set == set && (match f.dst with | .reg r' _ => r' == r | _ => false)

/-- A result in flight from a set, less the flags of a mask. -/
def lessFlags (f : Flight) (set : Bool) (m : BitVec 4) : Flight :=
  if f.set = set then (match f.dst with | .flags m' v => { f with dst := .flags (m' &&& ~~~m) v } | _ => f) else f

theorem after_reg (f : Flight) (set : Bool) (r : Rg) (v : W40) :
    f.after set (.reg r v) = if !goesTo f set r then some f else none := by
  obtain ⟨s, due, dst⟩ := f
  by_cases same : s = set
  · cases dst <;> simp [Flight.after, goesTo, same]
  · simp [Flight.after, goesTo, same]

theorem after_flags (f : Flight) (set : Bool) (m v : BitVec 4) : f.after set (.flags m v) = some (lessFlags f set m) := by
  obtain ⟨s, due, dst⟩ := f
  by_cases same : s = set
  · cases dst <;> simp [Flight.after, lessFlags, same]
  · simp [Flight.after, lessFlags, same]

theorem filterMap_after_reg (l : List Flight) (set : Bool) (r : Rg) (v : W40) :
    l.filterMap (fun f => f.after set (.reg r v)) = l.filter fun f => !goesTo f set r := by
  simp only [after_reg]
  exact congrFun List.filterMap_eq_filter l

theorem filterMap_after_flags (l : List Flight) (set : Bool) (m v : BitVec 4) :
    l.filterMap (fun f => f.after set (.flags m v)) = l.map fun f => lessFlags f set m := by
  simp only [after_flags]
  exact congrFun List.filterMap_eq_map l

/-! ### An operation of the data ALU -/

/-- The results of an operation: a register, flags, and sticky flags. -/
def aluPuts (dd : Option (Fin 16 × W40)) (mask flags : BitVec 4) (sticky : W32) : List (Nat × Dst) :=
  (match dd with | some (n, v) => [(1, .reg (.d n) v)] | none => []) ++ (1, .flags mask flags) :: stickyPut sticky

/-- The active set with the register that an operation writes. -/
def aluSet (r : RegSet) : Option (Fin 16 × W40) → RegSet
  | some (n, v) => r.write (.d n) v
  | none => r

/-- The results that stay in flight beside that register. -/
def aluFlights (l : List Flight) (set : Bool) : Option (Fin 16 × W40) → List Flight
  | some (n, _) => l.filter fun f => !goesTo f set (.d n)
  | none => l

section
variable {k : Core} (reqs : k.reqs = []) (ask : k.ask = none)

include reqs ask in
theorem putAll_aluPuts (dd : Option (Fin 16 × W40)) (mask flags : BitVec 4) (sticky : W32) :
    k.putAll (aluPuts dd mask flags sticky) =
      withSet k { aluSet k.cur dd with st := putFlags k.cur.st mask flags }
        ((aluFlights k.flights k.act dd).map (fun f => lessFlags f k.act mask) ++
          if sticky = 0 then [] else [⟨k.act, 4, .sticky sticky⟩]) := by
  have late (k : Core) := putAll_of_late (late_stickyPut sticky) k
  have inFlight : (stickyPut sticky).map (fun d => (⟨k.act, d.1, d.2⟩ : Flight)) =
      if sticky = 0 then [] else [⟨k.act, 4, .sticky sticky⟩] := by
    unfold stickyPut
    split <;> rfl
  cases dd with
  | none =>
    rw [aluPuts, List.nil_append, putAll_cons, put_flags, late, sends_withSet, filterMap_after_flags, inFlight]
    rfl
  | some nv =>
    obtain ⟨n, v⟩ := nv
    rw [aluPuts, List.singleton_append, putAll_cons, putAll_cons, put_reg reqs ask, put_flags, late, withSet_withSet, sends_withSet,
      filterMap_after_flags, withSet_flights, filterMap_after_reg, withSet_cur, withSet_act, inFlight]
    rfl

include reqs ask in
/-- An operation of the data ALU gives its results to its core, and changes nothing else of it. -/
theorem gives_aluPuts (dd : Option (Fin 16 × W40)) (mask flags : BitVec 4) (sticky : W32) :
    k.gives (k.putAll (aluPuts dd mask flags sticky)).advance dd mask flags sticky := by
  rw [putAll_aluPuts reqs ask]
  refine ⟨?rest, ?cur, ?other, ?flights⟩
  case rest => rw [set0_advance, set1_advance, flights_advance, withSet_advance, withSet_flights]
  case cur =>
    rw [cur_advance, withSet_cur]
    cases dd <;> rfl
  case other => rw [getSet_advance, withSet_other]
  case flights =>
    rw [flights_advance, withSet_flights]
    have kept : aluFlights k.flights k.act dd = k.flights.filter fun f =>
        !(f.set == k.act && (match dd, f.dst with | some (n, _), .reg r _ => r == .d n | _, _ => false)) := by
      cases dd with
      | none => exact (List.filter_eq_self.mpr fun f _ => by simp).symm
      | some nv => exact List.filter_congr fun f _ => by cases dst : f.dst <;> simp [goesTo, dst]
    rw [kept]
    rfl

end

theorem lessFlags_none (f : Flight) (set : Bool) : lessFlags f set 0 = f := by
  obtain ⟨own, due, dst⟩ := f
  unfold lessFlags
  split
  · cases dst with
    | flags m v => exact congrArg (fun m => Flight.mk own due (.flags m v)) BitVec.and_allOnes
    | _ => rfl
  · rfl

theorem putFlags_none (st : W32) : putFlags st 0 0 = st :=
  calc putFlags st 0 0 = st &&& BitVec.allOnes 32 ||| 0#32 := rfl
    _ = st := by rw [BitVec.and_allOnes, BitVec.or_zero]

/-- Flags under no mask change nothing. -/
theorem put_flags_none (k : Core) : k.put k.act 1 (.flags 0 0) = k := by
  rw [put_flags, filterMap_after_flags, putFlags_none]
  simp only [lessFlags_none, List.map_id']
  exact withSet_self k

/-- A register written without flags. -/
theorem putAll_register (k : Core) (n : Fin 16) (v : W40) : k.putAll [(1, .reg (.d n) v)] = k.putAll (aluPuts (some (n, v)) 0 0 0) :=
  calc k.putAll [(1, .reg (.d n) v)] = k.put k.act 1 (.reg (.d n) v) := rfl
    _ = _ := (put_flags_none _).symm

/-! ### Its plan -/

section
variable {s : State} {i : Issue} (h : s.issues i)
include h

theorem exec_gives {c : Instr} {plan : Quad → Core → Plan} {dd : Option (Fin 16 × W40)} {mask flags : BitVec 4} {sticky : W32}
    (hx : exec c s = onQ i.q (Quad.issue i plan) s)
    (hp : OnlyPuts (plan (found s i) (s.issuer i)) (aluPuts dd mask flags sticky)) :
    ∃ k2, exec c s = .next (s.withCore i.q i.c k2) ∧ (s.issuer i).gives k2 dd mask flags sticky :=
  ⟨_, exec_putAll h hx hp, gives_aluPuts (issuer_reqs s i h) (issuer_ask s i h) dd mask flags sticky⟩

/-- An operation that writes a register and no flags. -/
theorem exec_register {c : Instr} {plan : Quad → Core → Plan} {n : Fin 16} {v : W40} (hx : exec c s = onQ i.q (Quad.issue i plan) s)
    (hp : OnlyPuts (plan (found s i) (s.issuer i)) [(1, .reg (.d n) v)]) :
    ∃ k2, exec c s = .next (s.withCore i.q i.c k2) ∧ (s.issuer i).gives k2 (some (n, v)) 0 0 0 := by
  refine ⟨_, exec_putAll h hx hp, ?_⟩
  rw [putAll_register]
  exact gives_aluPuts (issuer_reqs s i h) (issuer_ask s i h) (some (n, v)) 0 0 0

section
variable (hpm : i.pm = 0) {c : Instr} {plan : Quad → Core → Plan} (hx : exec c s = onQ i.q (Quad.issue i plan) s) {reads : List Rg}
  {r : AluRes} {mask flags : BitVec 4} {sticky : W32}
include hpm hx

/-- An operation of the data ALU into a register. -/
theorem exec_alu {dd : Fin 16} {v : W40} (hp : plan (found s i) (s.issuer i) = aluPlan i (some dd) reads r)
    (hr : r = ⟨some v, mask, flags, sticky⟩) :
    ∃ k2, exec c s = .next (s.withCore i.q i.c k2) ∧ (s.issuer i).gives k2 (some (dd, v)) mask flags sticky := by
  refine exec_gives h hx ?_
  rw [hp, hr]
  exact ⟨pmOf_pm hpm, rfl, dupTraps_singleton _, rfl, rfl⟩

/-- One that writes flags alone. -/
theorem exec_aluFlags (hp : plan (found s i) (s.issuer i) = aluPlan i none reads r) (hr : r = ⟨none, mask, flags, sticky⟩) :
    ∃ k2, exec c s = .next (s.withCore i.q i.c k2) ∧ (s.issuer i).gives k2 none mask flags sticky := by
  refine exec_gives h hx ?_
  rw [hp, hr]
  exact ⟨pmOf_pm hpm, rfl, rfl, rfl, rfl⟩

/-- One whose exact result is fitted to its register (R122, R123). -/
theorem exec_aluFit {dd : Fin 16} {e : Int} (cy : Option Bool)
    (hp : plan (found s i) (s.issuer i) = aluPlan i (some dd) reads r) (hr : r = aluFit e i.sat cy) :
    let f := fit 40 e i.sat
    ∃ k2, exec c s = .next (s.withCore i.q i.c k2) ∧ (s.issuer i).gives k2 (some (dd, f.val)) (if cy.isSome then mZNVC else mZNV)
      (nib (decide (e = 0)) (decide (e < 0)) f.v (cy.getD false)) (if f.sa then stSA else if f.ov then stOV else 0) := by
  intro f
  rw [← sticky40_fit]
  exact exec_alu h hpm hx hp hr

end

end

end Sys2Proof.Machine.Proofs

/-! Accumulator arithmetic (R130, R131, R133). -/

namespace Sys2Proof.Machine.Proofs
open Laws

section
variable {s : State} {i : Issue} (h : s.issues i) (hpm : i.pm = 0)
include h hpm

theorem exec_acc {c : Instr} {n : Fin 4} {f : Core → Int} {e : Int}
    (hx : exec c s = onQ i.q (Quad.issue i fun _ k => accPlan i n (f k)) s) (he : f (s.issuer i) = e) :
    exec c s = .next (s.withCore i.q i.c ((s.issuer i).sends (accOut n (fit 96 e i.sat) false)).advance) := by
  refine exec_sends h hx ?_ (late_accOut n _ false)
  rw [← he]
  exact ⟨pmOf_pm hpm, rfl, dupTraps_singleton _, rfl, accOut_fit n _ i.sat false⟩

theorem exec_accSet {c : Instr} {n : Fin 4} {f : Core → W96} {v : W96} {ds : List (Fin 16)}
    (hx : exec c s = onQ i.q (Quad.issue i fun _ k => accSetPlan i n (f k) ds) s) (hv : f (s.issuer i) = v) :
    exec c s = .next (s.withCore i.q i.c ((s.issuer i).sends [(3, .acc n v false)]).advance) := by
  refine exec_sends h hx ?_ (by simp)
  rw [← hv]
  exact ⟨pmOf_pm hpm, rfl, dupTraps_singleton _, rfl, rfl⟩

theorem exec_tsta (am : Fin 4) : ∃ k2, exec (.tsta i am) s = .next (s.withCore i.q i.c k2) ∧ (s.issuer i).gives k2 none mZNV
    (nib (decide ((s.issuer i).ai am = 0)) (decide ((s.issuer i).ai am < 0)) false false) 0 :=
  exec_gives h rfl ⟨pmOf_pm hpm, rfl, rfl, rfl, rfl⟩

end

/-- A data word at bits [70:31] of an accumulator, its sign extended (R70). -/
theorem signExtend_shiftLeft (x : W40) : x.signExtend 96 <<< 31 = BitVec.ofInt 96 (x.toInt * 2 ^ 31) := by
  have extended : x.signExtend 96 = BitVec.ofInt 96 x.toInt := rfl
  rw [BitVec.shiftLeft_eq_mul_twoPow, extended, BitVec.ofInt_mul]
  rfl

/-- Settles O4: each operation puts its accumulator in flight, fitted unless it is a copy; `tsta` gives flags. -/
theorem accumulatorArithmetic : Obligations.AccumulatorArithmetic := by
  intro s i an am ak dx n h hpm
  exact ⟨exec_accSet h hpm rfl rfl, exec_accSet h hpm rfl (signExtend_shiftLeft _), exec_accSet h hpm rfl rfl, exec_acc h hpm rfl rfl,
    exec_acc h hpm rfl rfl, exec_acc h hpm rfl rfl, exec_acc h hpm rfl rfl, exec_acc h hpm rfl rfl, exec_tsta h hpm am⟩

end Sys2Proof.Machine.Proofs

/-! Sums, differences, comparisons and logic of the data ALU (R124, R139, R140, R143). -/

namespace Sys2Proof.Machine.Proofs
open Laws

/-- The operand y as the statements write it. -/
theorem src_eq (k : Core) (y : Src) : k.src y = match y with | .reg d => k.dr d | .imm m => m.signExtend 40 := by
  cases y <;> rfl

theorem aluAdd_noCarry (x y : W40) (s : Bool) :
    aluAdd x y false s = aluFit (x.toInt + y.toInt) s (some (decide (2 ^ 40 ≤ x.toNat + y.toNat))) := by
  simp [aluAdd, b2n]

theorem aluSub_noCarry (x y : W40) (s : Bool) :
    aluSub x y false s = aluFit (x.toInt - y.toInt) s (some (decide (x.toNat < y.toNat))) := by
  simp [aluSub, b2n]

/-- Settles O7: each is one fit of its exact result, with the carry of its unsigned one. -/
theorem addSubtract : Obligations.AddSubtract := by
  intro s i dd dx y h hpm k x v ci gives
  have src : k.src y = v := src_eq k y
  refine ⟨exec_aluFit h hpm rfl (some _) rfl ?add, exec_aluFit h hpm rfl (some _) rfl ?sub, exec_aluFit h hpm rfl (some _) rfl ?adc,
    exec_aluFit h hpm rfl (some _) rfl ?sbc, exec_aluFit h hpm rfl none rfl rfl, exec_aluFit h hpm rfl none rfl rfl⟩
  case add =>
    rw [src, aluAdd_noCarry]
    rfl
  case sub =>
    rw [src, aluSub_noCarry]
    rfl
  case adc =>
    rw [src]
    rfl
  case sbc =>
    rw [src]
    rfl

end Sys2Proof.Machine.Proofs

/-! Selections, comparisons, logic and normalisation of the data ALU (R124, R139, R141, R143). -/

namespace Sys2Proof.Machine.Proofs
open Laws

/-! ### Selections and comparisons (R139) -/

theorem ofInt_min (x y : W40) : BitVec.ofInt 40 (min x.toInt y.toInt) = if x.toInt ≤ y.toInt then x else y := by
  rw [min_def, apply_ite (BitVec.ofInt 40), BitVec.ofInt_toInt, BitVec.ofInt_toInt]

theorem ofInt_max (x y : W40) : BitVec.ofInt 40 (max x.toInt y.toInt) = if x.toInt ≤ y.toInt then y else x := by
  rw [max_def, apply_ite (BitVec.ofInt 40), BitVec.ofInt_toInt, BitVec.ofInt_toInt]

theorem aluPlain_eq {v : W40} {e : Int} (h : BitVec.ofInt 40 e = v) :
    aluPlain e = ⟨some v, mZNV, nib (decide (e = 0)) (decide (e < 0)) false false, 0⟩ := by
  rw [aluPlain, h]

/-- A limit on either side of zero. -/
theorem clamp_eq {x lim : Int} (pos : 0 ≤ lim) : (if x > lim then lim else if x < -lim then -lim else x) = max (-lim) (min lim x) := by
  split
  · next above => rw [min_eq_left (by omega), max_eq_right (by omega)]
  · next below =>
    rw [min_eq_right (by omega)]
    split
    · next under => exact (max_eq_left (by omega)).symm
    · next within => exact (max_eq_right (by omega)).symm

theorem aluClip_eq (x y : W40) :
    let lim : Int := min (y.toInt.natAbs : Int) (2 ^ 39 - 1)
    let e : Int := max (-lim) (min lim x.toInt)
    aluClip x y = ⟨some (BitVec.ofInt 40 e), mZNV, nib (decide (e = 0)) (decide (e < 0)) (decide (e ≠ x.toInt)) false, 0⟩ := by
  intro lim e
  have clamp : (if x.toInt > lim then lim else if x.toInt < -lim then -lim else x.toInt) = e := clamp_eq (by omega)
  rw [← clamp]
  rfl

theorem toInt_eq_zero (x : W40) : x.toInt = 0 ↔ x = 0 := BitVec.toInt_inj (y := 0)

theorem aluTst_eq (x : W40) : aluTst x = ⟨none, mZNV, nib (decide (x.toInt = 0)) (decide (x.toInt < 0)) false false, 0⟩ := by
  simp only [aluTst, toInt_eq_zero, BitVec.msb_eq_toInt]

/-- Settles O8: each writes its value in range, or flags alone; `clr` and `sel` write no flags. -/
theorem selectAndCompare : Obligations.SelectAndCompare := by
  intro s i dd dx dy y cc h hpm k x v gives zn lim e
  have src : k.src y = v := src_eq k y
  refine ⟨exec_alu h hpm rfl rfl ?min, exec_alu h hpm rfl rfl ?max, exec_alu h hpm rfl rfl ?clip,
    exec_register h rfl ⟨pmOf_pm hpm, rfl, dupTraps_singleton _, rfl, rfl⟩, exec_aluFlags h hpm rfl rfl ?cmp,
    exec_aluFlags h hpm rfl rfl (aluTst_eq x), fun defined => exec_register h rfl ?sel⟩
  case min =>
    rw [src]
    exact aluPlain_eq (ofInt_min x v)
  case max =>
    rw [src]
    exact aluPlain_eq (ofInt_max x v)
  case clip =>
    rw [src]
    exact aluClip_eq x v
  case cmp =>
    rw [src]
    rfl
  case sel =>
    have ok : condOk cc = true := decide_eq_true defined
    rw [if_pos ok]
    exact ⟨pmOf_pm hpm, rfl, dupTraps_singleton _, rfl, rfl⟩

/-! ### Logic (R143) -/

/-- Settles O11: each writes its value, with Z and N from it. -/
theorem logic : Obligations.Logic := by
  intro s i dd dx dy h hpm
  exact ⟨exec_alu h hpm rfl rfl rfl, exec_alu h hpm rfl rfl rfl, exec_alu h hpm rfl rfl rfl, exec_alu h hpm rfl rfl rfl,
    exec_alu h hpm rfl rfl rfl⟩

/-! ### Normalisation (R136, R141) -/

/-- The bits counted are those equal to the sign, and the next, if any, differs. -/
theorem leadCount_spec (neg : Bool) (bits top : Nat) :
    leadCount neg bits top ≤ top ∧ (∀ j, j < leadCount neg bits top → bitN bits (top - 1 - j) = neg) ∧
      (leadCount neg bits top < top → bitN bits (top - 1 - leadCount neg bits top) = !neg) := by
  induction top with
  | zero => simp [leadCount]
  | succ top ih =>
    obtain ⟨le, same, differs⟩ := ih
    unfold leadCount
    split
    · next equal =>
      refine ⟨by omega, fun j hj => ?_, fun more => ?_⟩
      · cases j with
        | zero => simpa using equal
        | succ j =>
          have := same j (by omega)
          rwa [show top + 1 - 1 - (j + 1) = top - 1 - j by omega]
      · rw [show top + 1 - 1 - (leadCount neg bits top + 1) = top - 1 - leadCount neg bits top by omega]
        exact differs (by omega)
    · next other => exact ⟨by omega, fun j hj => absurd hj (by omega), fun _ => Bool.eq_not.mpr (by simpa using other)⟩

/-- A count as an integer less an offset, in 40 bits. -/
theorem toInt_count {c n : Nat} (hc : c ≤ 95) (hn : n ≤ 95) : (BitVec.ofInt 40 ((c : Int) - n)).toInt = (c : Int) - n :=
  toInt_ofInt_of_fits (by decide) ⟨by norm_num; omega, by norm_num; omega⟩

/-- The bits of a word equal to its sign below it, counted, less an offset. -/
theorem toInt_leadCount {w : Nat} (x : BitVec w) {top n : Nat} (ht : top ≤ 95) (hn : n ≤ 95) :
    ∃ c : Nat, c ≤ top ∧ (BitVec.ofInt 40 ((leadCount x.msb x.toNat top : Int) - n)).toInt = (c : Int) - n ∧
      (∀ j, j < c → x.getLsbD (top - 1 - j) = x.msb) ∧ (c < top → x.getLsbD (top - 1 - c) = !x.msb) := by
  obtain ⟨le, same, differs⟩ := leadCount_spec x.msb x.toNat top
  simp only [bitN_toNat] at same differs
  exact ⟨_, le, toInt_count (by omega) hn, same, differs⟩

/-- Settles O9: the value that `nrm` writes is the count of leading bits, less 8. -/
theorem normalise : Obligations.Normalise := by
  intro s i dd dx h hpm k x
  obtain ⟨k2, next, gives⟩ := exec_alu h hpm (c := .nrm i dd dx) rfl rfl rfl
  refine ⟨BitVec.ofInt 40 (nrmValue x), k2, next, gives, fun zero => ?_, fun nonzero => ?_⟩
  · rw [nrmValue, if_pos zero]
    rfl
  · rw [nrmValue, if_neg nonzero]
    exact toInt_leadCount x (top := 39) (n := 8) (by decide) (by decide)

end Sys2Proof.Machine.Proofs

/-! The shifts of a data register (R142). -/

namespace Sys2Proof.Machine.Proofs
open Laws

/-! ### Counts -/

/-- The count of a shift, whose immediate is below 40. -/
def shiftCount (k : Core) : Src → Nat
  | .reg d => (k.dr d).toNat % 128
  | .imm m => m.toNat

/-- The signed count of `ash`. -/
def shiftSCount (k : Core) : Src → Int
  | .reg d => ((k.dr d).setWidth 7).toInt
  | .imm m => m.toNat

section
variable {y : Src} (small : ∀ m, y = .imm m → m.toNat ≤ 39)
include small

theorem count_eq (k : Core) : k.count y = some (shiftCount k y) := by
  cases y with
  | reg d => rfl
  | imm m => exact if_pos (small m rfl)

theorem scount_eq (k : Core) : k.scount y = some (shiftSCount k y) := by
  cases y with
  | reg d => rfl
  | imm m => exact if_pos (small m rfl)

variable (s : State) (i : Issue) (dd dx : Fin 16)

theorem exec_asl : exec (.asl i dd dx y) s = onQ i.q (Quad.issue i fun _ k =>
    aluPlan i (some dd) (.d dx :: srcReads y) (aluAsl (k.dr dx) (shiftCount k y) i.sat)) s := by
  change execAsl i dd dx y s = _
  simp only [execAsl, count_eq small]

theorem exec_asr : exec (.asr i dd dx y) s = onQ i.q (Quad.issue i fun _ k =>
    aluPlan i (some dd) (.d dx :: srcReads y) (aluAsr (k.dr dx) (shiftCount k y))) s := by
  change execAsr i dd dx y s = _
  simp only [execAsr, count_eq small]

theorem exec_lsl : exec (.lsl i dd dx y) s = onQ i.q (Quad.issue i fun _ k =>
    aluPlan i (some dd) (.d dx :: srcReads y) (aluLsl (k.dr dx) (shiftCount k y))) s := by
  change execLsl i dd dx y s = _
  simp only [execLsl, count_eq small]

theorem exec_lsr : exec (.lsr i dd dx y) s = onQ i.q (Quad.issue i fun _ k =>
    aluPlan i (some dd) (.d dx :: srcReads y) (aluLsr (k.dr dx) (shiftCount k y))) s := by
  change execLsr i dd dx y s = _
  simp only [execLsr, count_eq small]

theorem exec_ashD : exec (.ashD i dd dx y) s = onQ i.q (Quad.issue i fun _ k =>
    aluPlan i (some dd) (.d dx :: srcReads y) (aluAsh (k.dr dx) (shiftSCount k y) i.sat)) s := by
  change execAshD i dd dx y s = _
  simp only [execAshD, scount_eq small]

end

/-! ### Shifts right -/

theorem fits_toInt (x : W40) : Fits 40 x.toInt := ⟨BitVec.le_toInt x, Int.le_sub_one_of_lt (BitVec.toInt_lt (x := x))⟩

/-- What a shift right leaves of a word is in range. -/
theorem fits_ediv {e : Int} (h : Fits 40 e) (n : Nat) : Fits 40 (e / 2 ^ n) := by
  obtain ⟨low, high⟩ := h
  have one : (1 : Int) ≤ 2 ^ n := one_le_pow₀ (by decide)
  norm_num at low high
  constructor
  · norm_num
    rw [Int.le_ediv_iff_mul_le (by omega)]
    nlinarith
  · refine Int.le_sub_one_of_lt (Int.ediv_lt_of_lt_mul (by omega) ?_)
    norm_num
    nlinarith

/-- Z and N of a result in range are those of the value written. -/
theorem aluAsr_eq (x : W40) (n : Nat) :
    let w := BitVec.ofInt 40 (x.toInt / 2 ^ n)
    aluAsr x n = ⟨some w, mZNVC, nib (decide (w = 0)) w.msb false
      (decide (1 ≤ n) && (if n ≤ 40 then x.getLsbD (n - 1) else x.msb)), 0⟩ := by
  intro w
  have value : w.toInt = x.toInt / 2 ^ n := toInt_ofInt_of_fits (by decide) (fits_ediv (fits_toInt x) n)
  simp only [BitVec.msb_eq_toInt (x := w), ← toInt_eq_zero w, value]
  rfl

/-- Settles O10: the count stands, and each shift gives its result by it; `ash` is `asl` or `asr` by its sign. -/
theorem shifts : Obligations.Shifts := by
  intro s i dd dx y h hpm small k x n sn fits gives outL outR
  have count : shiftCount k y = n := by cases y <;> rfl
  have scount : shiftSCount k y = sn := by cases y <;> rfl
  refine ⟨exec_aluFit h hpm (exec_asl small ..) (some _) rfl ?asl, exec_alu h hpm (exec_asr small ..) rfl ?asr,
    exec_alu h hpm (exec_lsl small ..) rfl ?lsl, exec_alu h hpm (exec_lsr small ..) rfl ?lsr,
    fun left => exec_aluFit h hpm (exec_ashD small ..) (some _) rfl ?left,
    fun right => exec_alu h hpm (exec_ashD small ..) rfl ?right⟩
  case asl =>
    rw [count]
    rfl
  case asr =>
    rw [count]
    exact aluAsr_eq x n
  case lsl =>
    rw [count]
    rfl
  case lsr =>
    rw [count]
    rfl
  case left =>
    rw [scount]
    exact if_pos left
  case right =>
    rw [scount]
    exact (if_neg (by omega)).trans (aluAsr_eq x _)

end Sys2Proof.Machine.Proofs

/-! The extract class (R134 to R136, R138, R512): rounding, the low part, the normalising shift, and the states of a biquad section. -/

namespace Sys2Proof.Machine.Proofs
open Laws

/-! ### Results of the class -/

theorem late_extOut (dd : Fin 16) (v : W40) (flags : BitVec 4) (sticky : W32) : ∀ d ∈ extOut dd v flags sticky, 1 < d.1 :=
  List.forall_mem_append.mpr ⟨by simp, late_stickyPut sticky⟩

theorem exec_ext {s : State} {i : Issue} (h : s.issues i) (hpm : i.pm = 0) {c : Instr} {plan : Quad → Core → Plan}
    (hx : exec c s = onQ i.q (Quad.issue i plan) s) {dd : Fin 16} {v : W40} {flags : BitVec 4} {sticky : W32}
    (hp : plan (found s i) (s.issuer i) = extPlan i dd v flags sticky) :
    exec c s = .next (s.withCore i.q i.c ((s.issuer i).sends (extOut dd v flags sticky)).advance) := by
  refine exec_sends h hx ?_ (late_extOut dd v flags sticky)
  rw [hp]
  exact ⟨pmOf_pm hpm, rfl, dupTraps_singleton _, rfl, rfl⟩

/-! ### Rounding (R134) -/

theorem half_two_pow {m : Nat} (pos : m ≠ 0) : (2 : Int) ^ m / 2 = 2 ^ (m - 1) := by
  obtain ⟨j, rfl⟩ := Nat.exists_eq_succ_of_ne_zero pos
  rw [Nat.succ_eq_add_one, pow_succ, Int.mul_ediv_cancel _ (by decide), Nat.add_sub_cancel]

theorem extExact_eq (a : Int) {rnd : BitVec 2} (defined : rnd ≠ 3) (n : BitVec 6) :
    let sh : Nat := (31 - n.toInt).toNat
    let d : Int := 2 ^ sh
    extExact a rnd n = if sh = 0 then a else if rnd = 0 then (a + 2 ^ (sh - 1)) / d else if rnd = 1 then a / d
      else (if 2 * (a % d) < d then a / d else if 2 * (a % d) > d then a / d + 1
        else if a / d % 2 = 0 then a / d else a / d + 1) := by
  intro sh d
  change roundShift a sh rnd.toNat = _
  unfold roundShift
  split
  · rfl
  · next some =>
    have half : d / 2 = 2 ^ (sh - 1) := half_two_pow some
    rcases width_cases rnd with rfl | rfl | rfl | rfl
    · exact congrArg (fun x => (a + x) / d) half
    · rfl
    · rfl
    · exact absurd rfl defined

theorem toNat_ne_three {rnd : BitVec 2} (defined : rnd ≠ 3) : rnd.toNat ≠ 3 := fun e => defined (BitVec.eq_of_toNat_eq e)

/-- The low part of an accumulator (R135). -/
theorem lowPart_eq (a : W96) : (a.setWidth 31).setWidth 40 = BitVec.ofNat 40 (a.toNat % 2 ^ 31) := by
  apply BitVec.eq_of_toNat_eq
  simp

/-! ### Biquad sections (R138) -/

/-- The registers of a state group. -/
theorem groupReg_group (q : Fin 4) (j : Nat) : groupReg (fin16 (4 * q.val + 0)) j = fin16 (4 * q.val + j) := by
  ext
  simp [groupReg, fin16]

/-- A state group has four registers. -/
theorem dupTraps_group (q : Fin 4) :
    dupTraps [.d (fin16 (4 * q.val + 0)), .d (fin16 (4 * q.val + 1)), .d (fin16 (4 * q.val + 2)), .d (fin16 (4 * q.val + 3))] [] = [] := by
  revert q
  decide

theorem exec_bqs {s : State} {i : Issue} (h : s.issues i) (hpm : i.pm = 0) {rnd : BitVec 2} (defined : rnd ≠ 3) (q : Fin 4)
    (an : Fin 4) (dx : Fin 16) (n : BitVec 6) :
    let k := s.issuer i
    let g (j : Nat) : Fin 16 := fin16 (4 * q.val + j)
    let r := extExact (k.ai an) rnd n
    let f := fit 40 r i.sat
    exec (.bqs i (g 0) an dx rnd n) s = .next (s.withCore i.q i.c (k.sends ([(2, .reg (.d (g 1)) (k.dr (g 0))),
      (2, .reg (.d (g 0)) (k.dr dx)), (2, .reg (.d (g 3)) (k.dr (g 2))), (2, .reg (.d (g 2)) f.val),
      (3, .flags mZNV (nib (decide (r = 0)) (decide (r < 0)) f.v false))] ++ stickyPut (sticky40 f))).advance) := by
  intro k g r f
  refine exec_sends h rfl ?_ (List.forall_mem_append.mpr ⟨by simp, late_stickyPut _⟩)
  have group : ¬ (rnd.toNat = 3 ∨ (g 0).val % 4 ≠ 0) := by
    simp [g, fin16, toNat_ne_three defined]
  dsimp only [bqsPlan]
  rw [if_neg group]
  simp only [g, groupReg_group]
  exact ⟨pmOf_pm hpm, rfl, dupTraps_group q, rfl, rfl⟩

/-- Settles O6: each puts its register and flags in flight; `nrma` counts leading bits as `nrm` does. -/
theorem extractClass : Obligations.ExtractClass := by
  intro s i dd dx an rnd n h hpm k a sh d r f z st low
  refine ⟨fun defined => ?ext, ?extl,
    ⟨BitVec.ofInt 40 (nrmaValue a), exec_ext h hpm rfl rfl, fun zero => ?zero, fun nonzero => ?count⟩, fun defined q => ?bqs⟩
  case ext =>
    have rounded : extExact (k.ai an) rnd n = r := extExact_eq a.toInt defined n
    refine exec_ext h hpm rfl ?_
    rw [if_neg (toNat_ne_three defined)]
    dsimp only
    rw [rounded, sticky40_fit]
  case extl =>
    have value : ((k.cur.a[an]).setWidth 31).setWidth 40 = low := lowPart_eq _
    refine exec_ext h hpm rfl ?_
    rw [← value]
  case zero =>
    rw [nrmaValue, if_pos zero]
    rfl
  case count =>
    rw [nrmaValue, if_neg nonzero]
    exact toInt_leadCount a (top := 95) (n := 33) (by decide) (by decide)
  case bqs =>
    have sent := exec_bqs h hpm defined q an dx n
    have rounded : extExact (k.ai an) rnd n = r := extExact_eq a.toInt defined n
    dsimp only at sent
    rw [rounded, sticky40_fit] at sent
    exact sent

end Sys2Proof.Machine.Proofs

/-! Powers and logarithms (R132, R137): the values that lie within the error bounds, whichever the free value is. -/

namespace Sys2Proof.Machine.Proofs
open Laws

/-! ### The power (R132) -/

theorem exp2Frac_zero : exp2Frac 0 = 2 ^ 128 := by
  have clear (i : Nat) : bitN 0 i = false := by simp [bitN]
  simp [exp2Frac, clear]

/-- The error bound of R132 at a power of two: one part in 2²⁴, and no less than one unit. -/
def ex2Bound (p : Nat) : Nat := max (p / 2 ^ 24) 1

/-- That bound in the finer units of the computation. -/
theorem ex2Bound_fine (m : Nat) : max (2 ^ 128 * 2 ^ m / 2 ^ 24) (2 ^ 128) = 2 ^ 128 * ex2Bound (2 ^ m) := by
  unfold ex2Bound
  by_cases small : m < 24
  · have below : 2 ^ m < 2 ^ 24 := Nat.pow_lt_pow_right (by decide) small
    omega
  · obtain ⟨j, rfl⟩ := Nat.exists_eq_add_of_le (not_lt.mp small)
    rw [Nat.pow_add]
    omega

/-- Whatever a free number is, it chooses a value of a range. -/
theorem free_mem {lo hi : Nat} (some : lo ≤ hi) (r : Nat) : lo ≤ lo + r % (hi - lo + 1) ∧ lo + r % (hi - lo + 1) ≤ hi := by
  have := Nat.mod_lt r (show 0 < hi - lo + 1 by omega)
  omega

theorem ex2Value_whole {x : W40} (high : x.toInt < 33 * 2 ^ 31) (whole : x.toInt % 2 ^ 31 = 0) {p : Nat}
    (hp : p = 2 ^ (x.toInt / 2 ^ 31 + 62).toNat) :
    ∃ v : Nat, ex2Value x = v ∧ p - ex2Bound p ≤ v ∧ v ≤ p + ex2Bound p ∧ v ≤ 2 ^ 95 - 1 := by
  have top : p ≤ 2 ^ 94 := hp ▸ Nat.pow_le_pow_right (by decide) (by omega)
  have one : 1 ≤ p := hp ▸ Nat.one_le_two_pow
  have bound : 1 ≤ ex2Bound p ∧ ex2Bound p ≤ p ∧ ex2Bound p ≤ 2 ^ 93 := by unfold ex2Bound; omega
  have power : exp2Frac (x.toInt % 2 ^ 31).toNat * 2 ^ (x.toInt / 2 ^ 31 + 62).toNat = 2 ^ 128 * p := by
    rw [whole, Int.toNat_zero, exp2Frac_zero, hp]
  have fine : max (2 ^ 128 * p / 2 ^ 24) (2 ^ 128) = 2 ^ 128 * ex2Bound p := hp ▸ ex2Bound_fine _
  have low : (2 ^ 128 * p - 2 ^ 128 * ex2Bound p + 2 ^ 128 - 1) / 2 ^ 128 = p - ex2Bound p := by omega
  have upper : (2 ^ 128 * p + 2 ^ 128 * ex2Bound p + 2 ^ 108) / 2 ^ 128 = p + ex2Bound p := by omega
  have some : p - ex2Bound p ≤ min (p + ex2Bound p) (2 ^ 95 - 1) := le_min (by omega) (by omega)
  obtain ⟨least, most⟩ := free_mem some (Config.ex2Err x)
  refine ⟨_, ?_, least, most.trans (min_le_left _ _), most.trans (min_le_right _ _)⟩
  unfold ex2Value
  dsimp only
  rw [power, fine, low, upper]

/-- The word that `ex2` writes (R132). -/
def ex2Word (sat : Bool) (x : W40) : W96 :=
  if decide (x.toInt ≥ 33 * 2 ^ 31) then (if sat then BitVec.ofInt 96 (2 ^ 95 - 1) else 0)
  else if x.toInt < -62 * 2 ^ 31 then 0
  else BitVec.ofInt 96 (ex2Value x)

/-- An operand that overflows leaves a mark (R72). -/
theorem stickyPut_overflow (p : Prop) [Decidable p] (sat : Bool) (n : Fin 4) :
    stickyPut (if decide p then (if sat then stSA else stOV) ||| stAV ||| stAVA n else 0) =
      if p then [(4, .sticky ((if sat then stSA else stOV) ||| stAV ||| stAVA n))] else [] := by
  have mark : (if sat then stSA else stOV) ||| stAV ||| stAVA n ≠ 0 := by
    revert sat n
    decide
  by_cases past : p
  · rw [decide_eq_true past, if_pos rfl, if_pos past, stickyPut, if_neg mark]
  · rw [decide_eq_false past, if_neg past]
    rfl

theorem exec_ex2 {s : State} {i : Issue} (h : s.issues i) (hpm : i.pm = 0) (an : Fin 4) (dx : Fin 16) :
    let k := s.issuer i
    let x : Int := (k.dr dx).toInt
    exec (.ex2 i an dx) s = .next (s.withCore i.q i.c (k.sends ([(3, .acc an (ex2Word i.sat (k.dr dx)) false),
      (3, .flags mV (nib false false (decide (33 * 2 ^ 31 ≤ x)) false))] ++
      (if 33 * 2 ^ 31 ≤ x then [(4, .sticky ((if i.sat then stSA else stOV) ||| stAV ||| stAVA an))] else []))).advance) := by
  intro k x
  rw [← stickyPut_overflow]
  exact exec_sends h rfl ⟨pmOf_pm hpm, rfl, dupTraps_singleton _, rfl, rfl⟩ (List.forall_mem_append.mpr ⟨by simp, late_stickyPut _⟩)

/-! ### The logarithm (R137) -/

/-- The bits found follow those that stood before. -/
theorem log2Bits_bounds (n m acc : Nat) : acc * 2 ^ n ≤ log2Bits n m acc ∧ log2Bits n m acc < (acc + 1) * 2 ^ n := by
  induction n generalizing m acc with
  | zero => simp [log2Bits]
  | succ n ih =>
    rw [log2Bits, pow_succ]
    split
    · obtain ⟨low, high⟩ := ih (m * m / 2 ^ 127 / 2) (2 * acc + 1)
      constructor <;> nlinarith
    · obtain ⟨low, high⟩ := ih (m * m / 2 ^ 127) (2 * acc)
      constructor <;> nlinarith

/-- A power of two has no fraction. -/
theorem log2Bits_one (n : Nat) : log2Bits n (2 ^ 127) 0 = 0 := by
  have square : 2 ^ 127 * 2 ^ 127 / 2 ^ 127 = 2 ^ 127 := by decide
  induction n with
  | zero => rfl
  | succ n ih =>
    rw [log2Bits, square, if_neg (by decide)]
    exact ih

/-- The logarithm that the model computes, in units of 2⁻⁵¹. -/
def lg2Fine (a : W96) : Int := ((a.toNat.log2 : Int) - 62) * 2 ^ 31 * 2 ^ 20 + log2Bits 51 (a.toNat * 2 ^ (127 - a.toNat.log2)) 0

/-- A positive accumulator reads the same unsigned. -/
theorem toNat_of_pos {a : W96} (pos : 0 < a.toInt) : (a.toNat : Int) = a.toInt ∧ a.toNat < 2 ^ 95 := by
  have cases := BitVec.toInt_eq_toNat_cond a
  have small := a.isLt
  split at cases <;> omega

theorem lg2Fine_bounds {a : W96} (pos : 0 < a.toInt) : -62 * 2 ^ 51 ≤ lg2Fine a ∧ lg2Fine a < 33 * 2 ^ 51 := by
  obtain ⟨value, small⟩ := toNat_of_pos pos
  have log : a.toNat.log2 < 95 := (Nat.log2_lt (by omega)).mpr small
  obtain ⟨low, high⟩ := log2Bits_bounds 51 (a.toNat * 2 ^ (127 - a.toNat.log2)) 0
  unfold lg2Fine
  omega

/-- The same of integers. -/
theorem free_mem_int {lo hi : Int} (some : lo ≤ hi) (r : Nat) :
    lo ≤ lo + (r % (hi - lo + 1).toNat : Nat) ∧ lo + (r % (hi - lo + 1).toNat : Nat) ≤ hi := by
  have := Nat.mod_lt r (show 0 < (hi - lo + 1).toNat by omega)
  omega

/-- The value lies where the computed logarithm allows. -/
theorem lg2Value_mem {a : W96} (pos : 0 < a.toInt) :
    max ((lg2Fine a + 2 ^ 20 - 1) / 2 ^ 20 - 512) (-62 * 2 ^ 31) ≤ lg2Value a ∧
      lg2Value a ≤ min ((lg2Fine a + 2) / 2 ^ 20 + 512) (33 * 2 ^ 31 - 1) := by
  obtain ⟨low, high⟩ := lg2Fine_bounds pos
  have some : max ((lg2Fine a + 2 ^ 20 - 1) / 2 ^ 20 - 512) (-62 * 2 ^ 31) ≤ min ((lg2Fine a + 2) / 2 ^ 20 + 512) (33 * 2 ^ 31 - 1) := by
    omega
  exact free_mem_int some (Config.lg2Err a)

theorem lg2Value_range {a : W96} (pos : 0 < a.toInt) : -62 * 2 ^ 31 ≤ lg2Value a ∧ lg2Value a < 33 * 2 ^ 31 := by
  obtain ⟨low, high⟩ := lg2Value_mem pos
  exact ⟨(le_max_right _ _).trans low, Int.lt_of_le_sub_one (high.trans (min_le_right _ _))⟩

theorem lg2Value_two_pow {a : W96} {m : Nat} (power : a.toInt = 2 ^ m) :
    ((m : Int) - 62) * 2 ^ 31 - 2 ^ 9 ≤ lg2Value a ∧ lg2Value a ≤ ((m : Int) - 62) * 2 ^ 31 + 2 ^ 9 := by
  have pos : 0 < a.toInt := power ▸ by positivity
  obtain ⟨value, small⟩ := toNat_of_pos pos
  have number : a.toNat = 2 ^ m := by exact_mod_cast value.trans power
  have top : m < 95 := (Nat.pow_lt_pow_iff_right (by decide)).mp (number ▸ small)
  have fine : lg2Fine a = ((m : Int) - 62) * 2 ^ 31 * 2 ^ 20 := by
    have scaled : 2 ^ m * 2 ^ (127 - m) = 2 ^ 127 := by rw [← Nat.pow_add, Nat.add_sub_of_le (by omega)]
    rw [lg2Fine, number, Nat.log2_two_pow, scaled, log2Bits_one]
    simp
  obtain ⟨low, high⟩ := lg2Value_mem pos
  rw [fine] at low high
  have low := (le_max_left _ _).trans low
  have high := high.trans (min_le_left _ _)
  omega

/-- The word that `lg2` writes (R137). -/
def lg2Word (a : W96) : W40 := BitVec.ofInt 40 (if a.toInt ≤ 0 then -2 ^ 39 else lg2Value a)

theorem toInt_lg2Word {a : W96} (pos : 0 < a.toInt) : (lg2Word a).toInt = lg2Value a := by
  obtain ⟨low, high⟩ := lg2Value_range pos
  rw [lg2Word, if_neg (by omega)]
  exact toInt_ofInt_of_fits (by decide) ⟨by norm_num; omega, by norm_num; omega⟩

theorem exec_lg2 {s : State} {i : Issue} (h : s.issues i) (hpm : i.pm = 0) (dd : Fin 16) (an : Fin 4) :
    let k := s.issuer i
    let a : W96 := k.cur.a[an]
    let v := lg2Word a
    exec (.lg2 i dd an) s = .next (s.withCore i.q i.c (k.sends (extOut dd v
      (if a.toInt ≤ 0 then nib false true true false else nib (decide (v = 0)) v.msb false false)
      (if a.toInt ≤ 0 then (if i.sat then stSA else stOV) else 0))).advance) := by
  intro k a v
  refine exec_ext h hpm rfl ?_
  by_cases none : a.toInt ≤ 0
  · have value : v = BitVec.ofInt 40 (-2 ^ 39) := by simp only [v, lg2Word, none, if_true]
    rw [if_pos none, if_pos none, if_pos none, value]
  · have value : v = BitVec.ofInt 40 (lg2Value a) := by simp only [v, lg2Word, none, if_false]
    rw [if_neg none, if_neg none, if_neg none, value]

/-- Settles O5: the words that `ex2` and `lg2` write lie within the bounds whatever the free values are. -/
theorem powerAndLogarithm : Obligations.PowerAndLogarithm := by
  intro s i an dx dd h hpm k x a
  refine ⟨⟨ex2Word i.sat (k.dr dx), exec_ex2 h hpm an dx, ?saturates, ?wraps, ?zero, ?power⟩,
    lg2Word (k.cur.a[an]), exec_lg2 h hpm dd an, ?none, ?range, ?log⟩
  case saturates =>
    intro past sat
    rw [ex2Word, if_pos (decide_eq_true past), if_pos sat]
    exact toInt_ofInt_of_fits (by decide) (fits_max 96)
  case wraps =>
    intro past sat
    rw [ex2Word, if_pos (decide_eq_true past), sat]
    rfl
  case zero =>
    intro under
    rw [ex2Word, if_neg (by simpa using (by omega : x < 33 * 2 ^ 31)), if_pos under]
  case power =>
    intro low high whole p
    obtain ⟨pn, number⟩ : ∃ pn : Nat, pn = 2 ^ (x / 2 ^ 31 + 62).toNat := ⟨_, rfl⟩
    obtain ⟨v, value, least, most, fits⟩ := ex2Value_whole high whole number
    have power : p = pn := by rw [number, Nat.cast_pow]; rfl
    have word : (ex2Word i.sat (k.dr dx)).toInt = v := by
      rw [ex2Word, if_neg (by simpa using high), if_neg (not_lt.mpr low), value]
      exact toInt_ofInt_of_fits (by decide) ⟨by norm_num, by norm_num; omega⟩
    rw [word, power]
    unfold ex2Bound at least most
    omega
  case none =>
    intro none
    rw [lg2Word, if_pos none]
    rfl
  case range =>
    intro pos
    rw [toInt_lg2Word pos]
    exact lg2Value_range pos
  case log =>
    intro m power
    rw [toInt_lg2Word (show 0 < a by rw [power]; positivity)]
    exact lg2Value_two_pow power

end Sys2Proof.Machine.Proofs

/-! Registers written and read as data (R102, R150), and what `mts` writes of the system registers (R71, R73, R151, R262). -/

namespace Sys2Proof.Machine.Proofs

/-! ### A register read after a write (R150) -/

section
variable (s : RegSet) (n : Fin 8) (v : W40)

theorem read_write_d (d : Fin 16) : (s.write (.d d) v).read (.d d) = v := write_d_self s d v

theorem read_write_p : (s.write (.p n) v).read (.p n) = (v.setWidth 36).setWidth 40 := by simp [RegSet.write, RegSet.read]

theorem read_write_m : (s.write (.m n) v).read (.m n) = (v.setWidth 36).signExtend 40 := by simp [RegSet.write, RegSet.read]

/-- A base or length of a pointer without a window is written at once (R102). -/
theorem read_write_bl_of_linear (linear : s.l[n] = 0) : (s.write (.b n) v).read (.b n) = (v.setWidth 36).setWidth 40 ∧
    (s.write (.l n) v).read (.l n) = (v.setWidth 24).setWidth 40 := by
  unfold RegSet.write
  dsimp only
  rw [if_pos linear, if_pos linear]
  simp [RegSet.read]

/-- That of a pointer with a window is held, and the active one stands. -/
theorem read_write_bl_of_window (window : s.l[n] ≠ 0) :
    (s.write (.b n) v).read (.b n) = s.read (.b n) ∧ (s.write (.b n) v).heldB[n] = some (v.setWidth 36) ∧
      (s.write (.l n) v).read (.l n) = s.read (.l n) ∧ (s.write (.l n) v).heldL[n] = some (v.setWidth 24) := by
  unfold RegSet.write
  dsimp only
  rw [if_neg window, if_neg window]
  simp [RegSet.read]

/-- A write leaves what every other register reads. -/
theorem read_write_of_ne {r r' : Rg} (ne : r ≠ r') : (s.write r v).read r' = s.read r' := by
  have apart {α : Type} {m : Nat} (x : Vector α m) (i j : Fin m) (y : α) (h : i ≠ j) : (x.set i y)[j] = x[j] := by
    have : i.val ≠ j.val := fun e => h (Fin.ext e)
    simp [this]
  cases r with
  | b n =>
    unfold RegSet.write
    dsimp only
    split
    · cases r' with
      | b k => exact congrArg (BitVec.setWidth 40) (apart s.b n k _ fun e => ne (congrArg Rg.b e))
      | _ => rfl
    · rfl
  | l n =>
    unfold RegSet.write
    dsimp only
    split
    · cases r' with
      | l k => exact congrArg (BitVec.setWidth 40) (apart s.l n k _ fun e => ne (congrArg Rg.l e))
      | _ => rfl
    · rfl
  | d n =>
    cases r' with
    | d k => exact apart s.d n k _ fun e => ne (congrArg Rg.d e)
    | _ => rfl
  | p n =>
    cases r' with
    | p k => exact congrArg (BitVec.setWidth 40) (apart s.p n k _ fun e => ne (congrArg Rg.p e))
    | _ => rfl
  | m n =>
    cases r' with
    | m k => exact congrArg (BitVec.signExtend 40) (apart s.m n k _ fun e => ne (congrArg Rg.m e))
    | _ => rfl
  | a n =>
    cases r' with
    | a k => exact congrArg (BitVec.setWidth 40) (apart s.a n k _ fun e => ne (congrArg Rg.a e))
    | _ => rfl

end

/-! ### What `mts` writes (R151) -/

/-- The sticky bits of ST (R71). -/
theorem getLsbD_stSticky : ∀ j, j < 32 → stSticky.getLsbD j = (decide (8 ≤ j ∧ j ≤ 12) || decide (16 ≤ j ∧ j ≤ 19)) := by decide

/-- TLOST is bit 8 of EVS (R84). -/
theorem getLsbD_tlost : ∀ j, j < 32 → (0x100 : W32).getLsbD j = (j == 8) := by decide

/-- A write that clears, of the bits of a mask, those where it has a one. -/
theorem getLsbD_clear (x v mask : W32) {j : Nat} (hj : j < 32) :
    (x &&& ~~~(v &&& mask)).getLsbD j = (x.getLsbD j && !(mask.getLsbD j && v.getLsbD j)) := by
  rw [BitVec.getLsbD_and, BitVec.getLsbD_not, BitVec.getLsbD_and, decide_eq_true hj, Bool.true_and, Bool.and_comm (v.getLsbD j)]

/-- Settles O12: a read after a write of the same register and of another, and each system register that `mts` may write. -/
theorem registerWrites : Obligations.RegisterWrites := by
  refine ⟨fun s n v => ⟨read_write_p s n v, read_write_m s n v, read_write_bl_of_linear s n v, read_write_bl_of_window s n v,
    read_write_d s v, fun _ _ => read_write_of_ne s v⟩, fun k set v => ⟨rfl, rfl, ?evm, fun j hj => ?evs, fun j hj => ?st⟩⟩
  case evm =>
    change (if k.lock then k else { k with evm := v &&& 3 }).evm = _
    split <;> rfl
  case evs =>
    have cleared := getLsbD_clear k.evs v 0x100 hj
    rw [getLsbD_tlost j hj] at cleared
    by_cases tlost : j = 8
    · subst tlost
      exact cleared
    · rw [beq_false_of_ne tlost, Bool.false_and] at cleared ⊢
      exact cleared
  case st =>
    have cleared : ((k.putSys set 0 v).getSet set).st = (k.getSet set).st &&& ~~~(v &&& stSticky) := by cases set <;> rfl
    rw [cleared, ← getLsbD_stSticky j hj]
    exact getLsbD_clear _ v stSticky hj

end Sys2Proof.Machine.Proofs

/-! Delay slots and repetitions (R110, R155): where the program counter goes. -/

namespace Sys2Proof.Machine.Proofs

section
variable {k : Core}

/-- With no repetition left behind it, an instruction goes on to the next address, or from the last delay slot to the target. -/
theorem advance_last (rep : k.rep ≤ 1) :
    k.advance = { k with rep := 0, pc := k.nextPc, slots := k.slots - 1, target := if k.slots ≤ 1 then none else k.target } :=
  if_neg (by omega)

theorem nextPc_of_slots (slots : k.slots ≠ 1) : k.nextPc = k.pc + 1 := if_neg slots

theorem nextPc_of_lastSlot (slots : k.slots = 1) : k.nextPc = k.target.getD (k.pc + 1) := if_pos slots

/-- An instruction that is to be repeated stays. -/
theorem advance_repeated (rep : 1 < k.rep) : k.advance = { k with rep := k.rep - 1 } := if_pos rep

end

/-- The two delay slots behind a branch, and its target. -/
theorem branch_slots {k : Core} (target : Option PAddr) (rep : k.rep ≤ 1) (slots : k.slots = 0) :
    let k0 := k.branch target
    k0.pc = k.pc + 1 ∧ k0.slots = 2 ∧ k0.advance.pc = k.pc + 2 ∧ k0.advance.slots = 1 ∧
      k0.advance.advance.pc = target.getD (k.pc + 3) ∧ k0.advance.advance.slots = 0 ∧ k0.advance.advance.target = none := by
  intro k0
  have branched : k0 = { k with rep := 0, pc := k.pc + 1, slots := 2, target := target } := by
    simp only [k0, Core.branch, advance_last rep, nextPc_of_slots (show k.slots ≠ 1 by omega)]
  have first : k0.advance = { k with rep := 0, pc := k.pc + 1 + 1, slots := 1, target := target } := by rw [branched]; rfl
  have second : k0.advance.advance = { k with rep := 0, pc := target.getD (k.pc + 1 + 1 + 1), slots := 0, target := none } := by
    rw [first]; rfl
  have two : k.pc + 1 + 1 = k.pc + 2 := BitVec.add_assoc ..
  have three : k.pc + 1 + 1 + 1 = k.pc + 3 := by rw [two]; exact BitVec.add_assoc ..
  rw [second, first, branched]
  exact ⟨rfl, rfl, two, rfl, congrArg target.getD three, rfl, rfl⟩

/-- A repeated instruction that has issued some times of its count keeps the program counter. -/
theorem repeat_advance (k : Core) {j n : Nat} (hj : j < n) : Nat.repeat Core.advance j { k with rep := n } = { k with rep := n - j } := by
  induction j with
  | zero => rfl
  | succ j ih =>
    rw [Nat.repeat, ih (by omega), advance_repeated (show 1 < n - j by omega)]
    rfl

/-- Settles O17: two slots behind a branch, and a repeated instruction held until its last issue. -/
theorem nextInstruction : Obligations.NextInstruction := by
  refine ⟨fun k target => branch_slots target, fun k n pos slots => ?_⟩
  intro k0
  obtain ⟨m, rfl⟩ : ∃ m, n = m + 1 := ⟨n - 1, by omega⟩
  refine ⟨fun j hj => ?_, ?_⟩
  · rw [repeat_advance k hj]
    exact ⟨rfl, rfl⟩
  · have last : Nat.repeat Core.advance m k0 = { k with rep := m + 1 - m } := repeat_advance k (Nat.lt_succ_self m)
    have none : k.nextPc = k.pc + 1 := nextPc_of_slots (by omega)
    rw [Nat.repeat, last, advance_last (show m + 1 - m ≤ 1 by omega)]
    exact ⟨none, rfl⟩

end Sys2Proof.Machine.Proofs

/-! Register moves, alone or as a parallel move (R104, R146, R147, R149, R151, R153). -/

namespace Sys2Proof.Machine.Proofs
open Laws

/-! ### A register written for the next instruction (R117) -/

/-- A core with its active set and its results in flight replaced. -/
theorem withSet_ownSetOnly (k : Core) (r : RegSet) (l : List Flight) : OwnSetOnly k (withSet k r l) :=
  ⟨by unfold withSet Core.setSet; split <;> rfl, withSet_other k r l⟩

/-- Its program counter gone on, only its registers have changed. -/
theorem withSet_onlyRegs (k : Core) (r : RegSet) (l : List Flight) :
    k.onlyRegs (withSet k r l).advance ∧ (withSet k r l).advance.cur = r :=
  ⟨(withSet_ownSetOnly k r l).advance, by rw [cur_advance, withSet_cur]⟩

/-- A register set in which a pointer is linear, with nothing held for it (R104). -/
def withoutWindow (r : RegSet) (p : Fin 8) : RegSet :=
  { r with l := r.l.set p 0, heldB := r.heldB.set p none, heldL := r.heldL.set p none }

theorem clrc_eq {k : Core} (reqs : k.reqs = []) (p : Fin 8) :
    k.clrc p = withSet k (withoutWindow k.cur p) (k.flights.filterMap fun f => f.after k.act (.reg (.l p) 0)) := by
  cases active : k.act <;> simp [Core.clrc, withSet, Core.setSet, active, reqs, withoutWindow]

section
variable {s : State} {i : Issue} (h : s.issues i)
include h

/-- A register result of one cycle in a core to which nothing is owed. -/
theorem put_reg_issuer (r : Rg) (v : W40) : (s.issuer i).putAll [(1, .reg r v)] = withSet (s.issuer i) ((s.issuer i).cur.write r v)
    ((s.issuer i).flights.filterMap fun f => f.after (s.issuer i).act (.reg r v)) :=
  put_reg (issuer_reqs s i h) (issuer_ask s i h) r v

/-- An instruction whose only result is a register, readable by the next. -/
theorem exec_writesReg {c : Instr} {plan : Quad → Core → Plan} {r : Rg} {v : W40} (hx : exec c s = onQ i.q (Quad.issue i plan) s)
    (hp : OnlyPuts (plan (found s i) (s.issuer i)) [(1, .reg r v)]) :
    ∃ k2, exec c s = .next (s.withCore i.q i.c k2) ∧ (s.issuer i).onlyRegs k2 ∧ k2.cur = (s.issuer i).cur.write r v := by
  refine ⟨_, exec_putAll h hx hp, ?_⟩
  rw [put_reg_issuer h]
  exact withSet_onlyRegs ..

theorem exec_ldi {code : BitVec 6} {r : Rg} (hg : gprOf code = some r) (imm : W40) :
    ∃ k2, exec (.ldi i code imm) s = .next (s.withCore i.q i.c k2) ∧ (s.issuer i).onlyRegs k2 ∧
      k2.cur = (s.issuer i).cur.write r imm := by
  refine exec_writesReg h rfl ?_
  rw [hg]
  exact ⟨rfl, rfl, dupTraps_singleton r, rfl, rfl⟩

variable (hpm : i.pm = 0)
include hpm

theorem exec_mov {rd rs : BitVec 6} {d r : Rg} (hd : gprOf rd = some d) (hr : gprOf rs = some r) :
    ∃ k2, exec (.mov i rd rs) s = .next (s.withCore i.q i.c k2) ∧ (s.issuer i).onlyRegs k2 ∧
      k2.cur = (s.issuer i).cur.write d ((s.issuer i).cur.read r) := by
  refine exec_writesReg h rfl ?_
  rw [hd, hr]
  exact ⟨if_pos hpm, rfl, dupTraps_singleton d, rfl, rfl⟩

/-! ### Instructions that move nothing -/

theorem exec_nop (sat : i.sat = false) : exec (.nop i) s = .next (s.withCore i.q i.c (s.issuer i).advance) :=
  exec_putAll (l := []) h rfl ⟨if_pos hpm, by rw [sat]; rfl, rfl, rfl, rfl⟩

theorem exec_movesAlone_none : exec (.movesAlone i) s = .next (s.withCore i.q i.c (s.issuer i).advance) :=
  exec_putAll (l := []) h rfl ⟨pmOf_pm hpm, rfl, rfl, rfl, rfl⟩

/-- A fence with nothing outstanding (R153). -/
theorem exec_fence : exec (.fence i) s = .next (s.withCore i.q i.c (s.issuer i).advance) := by
  refine exec_setCore h rfl (if_pos hpm) rfl rfl rfl ?_
  have done : (s.issuer i).reqs.isEmpty = true := by rw [issuer_reqs s i h]; rfl
  dsimp only
  rw [core_found, if_pos done, found, setCore_setCore]

/-- `clrc` ends the window of a pointer, with what was held for it (R104). -/
theorem exec_clrc (p : Fin 8) : ∃ k2, exec (.clrc i p) s = .next (s.withCore i.q i.c k2) ∧ (s.issuer i).onlyRegs k2 ∧
    k2.cur = withoutWindow (s.issuer i).cur p := by
  refine ⟨((s.issuer i).clrc p).advance, exec_setCore h rfl (if_pos hpm) rfl rfl rfl ?_, ?_⟩
  · dsimp only
    rw [core_found, found, setCore_setCore]
  · rw [clrc_eq (issuer_reqs s i h)]
    exact withSet_onlyRegs ..

end

/-! ### A transfer as the one move of moves alone (R146, R149) -/

/-- The PMOVE field of a transfer. -/
theorem pmOf_xfer {rd rs : BitVec 6} {d r : Rg} (hd : gprOf rd = some d) (hr : gprOf rs = some r) :
    pmOf (BitVec.ofNat 24 (2 ^ 20 + 2 ^ 14 * rd.toNat + 2 ^ 8 * rs.toNat)) = some { xfer := some (d, r) } := by
  have ld := rd.isLt
  have ls := rs.isLt
  have number : (BitVec.ofNat 24 (2 ^ 20 + 2 ^ 14 * rd.toNat + 2 ^ 8 * rs.toNat)).toNat = 2 ^ 20 + 2 ^ 14 * rd.toNat + 2 ^ 8 * rs.toNat :=
    Nat.mod_eq_of_lt (by omega)
  have form : (2 ^ 20 + 2 ^ 14 * rd.toNat + 2 ^ 8 * rs.toNat) / 2 ^ 22 = 0 := by omega
  have sub : (2 ^ 20 + 2 ^ 14 * rd.toNat + 2 ^ 8 * rs.toNat) / 2 ^ 20 % 4 = 1 := by omega
  have rest : (2 ^ 20 + 2 ^ 14 * rd.toNat + 2 ^ 8 * rs.toNat) % 2 ^ 20 = 2 ^ 14 * rd.toNat + 2 ^ 8 * rs.toNat := by omega
  have low : (2 ^ 14 * rd.toNat + 2 ^ 8 * rs.toNat) % 256 = 0 := by omega
  have dst : BitVec.ofNat 6 ((2 ^ 14 * rd.toNat + 2 ^ 8 * rs.toNat) / 2 ^ 14) = rd :=
    BitVec.eq_of_toNat_eq (by rw [BitVec.toNat_ofNat]; omega)
  have src : BitVec.ofNat 6 ((2 ^ 14 * rd.toNat + 2 ^ 8 * rs.toNat) / 2 ^ 8) = rs :=
    BitVec.eq_of_toNat_eq (by rw [BitVec.toNat_ofNat]; omega)
  simp only [pmOf, number, form, sub, rest, low, dst, src, hd, hr]
  rfl

/-- A transfer alone is a register move: it raises no cause, and writes its register at once. -/
theorem exec_movesAlone_xfer {s : State} {i : Issue} (h : s.issues i) {d r : Rg} (hm : pmOf i.pm = some { xfer := some (d, r) }) :
    ∃ k2, exec (.movesAlone i) s = .next (s.withCore i.q i.c k2) ∧ (s.issuer i).onlyRegs k2 ∧
      k2.cur = (s.issuer i).cur.write d ((s.issuer i).cur.read r) := by
  have free : Unhindered s i := by
    obtain ⟨upset, mism, -, rest⟩ := h
    exact unhindered_of_issues ⟨upset, mism, rfl, rest⟩
  have rsv : i.rsv = false := h.2.2.1
  have noCause : (found s i).issueTraps i { moves := some { xfer := some (d, r) } } { xfer := some (d, r) } = [] := by
    simp [Quad.issueTraps, PMove.accs, PMove.writes, PMove.stepped, rsv, causeIf, dupTraps_singleton]
  have performed : (found s i).perform i { moves := some { xfer := some (d, r) } } { xfer := some (d, r) } =
      (s.quad i.q).setCore i.c ((s.issuer i).putAll [(1, .reg d ((s.issuer i).cur.read r))]).advance := by
    simp [Quad.perform, Quad.doMoves, PMove.accs, Core.putAll, found]
  refine ⟨((s.issuer i).putAll [(1, .reg d ((s.issuer i).cur.read r))]).advance, (exec_movesAlone s hm).trans (onQ_setCore ?_), ?_⟩
  · rw [free.issue_eq, free.attempt_performs rfl noCause, performed]
  · rw [put_reg_issuer h]
    exact withSet_onlyRegs ..

/-- Settles O13: a move writes its register at once, the others leave the core to go on. -/
theorem registerMoves : Obligations.RegisterMoves := by
  intro s i rd rs d r imm p h k writes
  refine ⟨fun hd => exec_ldi h hd imm, fun hpm hd hr => exec_mov h hpm hd hr,
    fun hpm => ⟨exec_clrc h hpm p, exec_nop h hpm, exec_movesAlone_none h hpm, exec_fence h hpm⟩, fun hd hr => ?_⟩
  exact exec_movesAlone_xfer (i := { i with pm := BitVec.ofNat 24 (2 ^ 20 + 2 ^ 14 * rd.toNat + 2 ^ 8 * rs.toNat) }) h (pmOf_xfer hd hr)

end Sys2Proof.Machine.Proofs

/-! The system registers, and moves from one register set to the other (R88, R151). -/

namespace Sys2Proof.Machine.Proofs
open Laws

/-! ### System registers (R151) -/

/-- What a system register reads, as a number. -/
def sysNumber (q : Quad) (k : Core) (iq : QId) (c : Fin 17) (sys : BitVec 4) : Nat :=
  if sys = 0 then k.cur.st.toNat else if sys = 1 then k.epc.toNat else if sys = 2 then k.evs.toNat
  else if sys = 3 then k.evb.toNat else if sys = 4 then k.evm.toNat
  else if sys = 5 then k.pos.val + 32 * c.val + (if k.pos.val < 4 then 1024 else 0) + (if k.lock then 2048 else 0) + 4096 * iq.num
  else if sys = 6 then (k.cyc - (if k.cyc = 0 then 0 else 1)).toNat else q.tick.toNat % 2 ^ 32

theorem sys_cases : ∀ sys : BitVec 4, sys.toNat ≤ 7 →
    sys = 0 ∨ sys = 1 ∨ sys = 2 ∨ sys = 3 ∨ sys = 4 ∨ sys = 5 ∨ sys = 6 ∨ sys = 7 := by decide

theorem num_lt (iq : QId) : iq.num < 4 := by cases iq <;> decide

/-- CID holds position, core, privilege, lock and quadrant in bits of their own (R68). -/
theorem cid_setWidth (k : Core) (iq : QId) (c : Fin 17) : (k.cid iq c).setWidth 40 = BitVec.ofNat 40
    (k.pos.val + 32 * c.val + (if k.pos.val < 4 then 1024 else 0) + (if k.lock then 2048 else 0) + 4096 * iq.num) := by
  have num := num_lt iq
  have priv : 1024 * b2n (privPos k.pos.val) = if k.pos.val < 4 then 1024 else 0 := by
    by_cases low : k.pos.val < 4 <;> simp [b2n, privPos, low]
  have lock : 2048 * b2n k.lock = if k.lock then 2048 else 0 := by cases k.lock <;> rfl
  unfold Core.cid w32
  rw [priv, lock]
  apply BitVec.eq_of_toNat_eq
  rw [BitVec.toNat_setWidth, BitVec.toNat_ofNat, BitVec.toNat_ofNat]
  split <;> split <;> omega

/-- A system register is read zero-extended. -/
theorem sysRead_eq (q : Quad) (iq : QId) (c : Fin 17) {sys : BitVec 4} (defined : sys.toNat ≤ 7) :
    q.sysRead iq c sys = some (BitVec.ofNat 40 (sysNumber q (q.core c) iq c sys)) := by
  have tick : (q.tick.setWidth 32).setWidth 40 = BitVec.ofNat 40 (q.tick.toNat % 2 ^ 32) := by
    rw [← BitVec.ofNat_toNat, BitVec.toNat_setWidth]
  rcases sys_cases sys defined with rfl | rfl | rfl | rfl | rfl | rfl | rfl | rfl
  case inr.inr.inr.inr.inr.inl => exact congrArg some (cid_setWidth ..)
  case inr.inr.inr.inr.inr.inr.inr => exact congrArg some tick
  all_goals exact congrArg some (BitVec.ofNat_toNat ..).symm

section
variable {s : State} {i : Issue} (h : s.issues i) (hpm : i.pm = 0)
include h hpm

theorem exec_mfs (dd : Fin 16) {sys : BitVec 4} (defined : sys.toNat ≤ 7) : ∃ k2, exec (.mfs i dd sys) s = .next (s.withCore i.q i.c k2) ∧
    (s.issuer i).onlyRegs k2 ∧
    k2.cur = (s.issuer i).cur.write (.d dd) (BitVec.ofNat 40 (sysNumber (s.quad i.q) (s.issuer i) i.q i.c sys)) := by
  refine exec_writesReg h rfl ?_
  rw [sysRead_eq _ _ _ defined, core_found]
  exact ⟨if_pos hpm, rfl, dupTraps_singleton _, rfl, rfl⟩

/-- `mts` puts its write in flight; that of ST writes Z, N, V and C as flags (R116). -/
theorem exec_mts (dx : Fin 16) {sys : BitVec 4} (writable : sys.toNat ≤ 4) :
    exec (.mts i sys dx) s = .next (s.withCore i.q i.c ((s.issuer i).sends
      ((if sys = 0 then [(2, .flags mZNVC (((s.issuer i).dr dx).setWidth 4))] else []) ++
        [(2, .sys sys (((s.issuer i).dr dx).setWidth 32))])).advance) := by
  have nibble : (((s.issuer i).dr dx).setWidth 32).setWidth 4 = ((s.issuer i).dr dx).setWidth 4 :=
    BitVec.setWidth_setWidth_of_le _ (by decide)
  refine exec_sends h rfl ?_ ?_
  · rw [if_pos writable, ← nibble]
    exact ⟨if_pos hpm, rfl, rfl, rfl, rfl⟩
  · split <;> simp

end

/-! ### From one set to the other (R88) -/

/-- A core with one of its sets and its results in flight replaced. -/
def withSetOf (k : Core) (b : Bool) (r : RegSet) (l : List Flight) : Core := { k.setSet b r with flights := l }

/-- Its program counter gone on, that set is replaced and the other as it was. -/
theorem withSetOf_advance (k : Core) (b : Bool) (r : RegSet) (l : List Flight) :
    let k2 := (withSetOf k b r l).advance
    k2 = { k.advance with set0 := k2.set0, set1 := k2.set1, flights := k2.flights } ∧ k2.getSet b = r ∧ k2.getSet (!b) = k.getSet (!b) := by
  intro k2
  refine ⟨?_, ?_, ?_⟩
  · have rest : withSetOf k b r l = { k with set0 := (withSetOf k b r l).set0, set1 := (withSetOf k b r l).set1, flights := l } := by
      cases b <;> rfl
    simp only [k2]
    rw [rest, advance_with k _ _ _ k.reqs]
    unfold Core.advance
    split <;> rfl
  · rw [getSet_advance]
    cases b <;> rfl
  · rw [getSet_advance]
    cases b <;> rfl

/-- A register of a set written at once. -/
theorem put_reg_of {k : Core} (reqs : k.reqs = []) (ask : k.ask = none) (b : Bool) (r : Rg) (v : W40) :
    k.put b 1 (.reg r v) = withSetOf k b ((k.getSet b).write r v) (k.flights.filterMap fun f => f.after b (.reg r v)) := by
  cases b <;> simp [Core.put, Core.landNow, Core.landOne, Core.putReg, withSetOf, Core.setSet, Core.getSet, reqs, ask]

/-- An accumulator of a set written at once. -/
theorem put_acc_of (k : Core) (b : Bool) (n : Fin 4) (v : W96) (m : Bool) : k.put b 1 (.acc n v m) =
    withSetOf k b { k.getSet b with a := (k.getSet b).a.set n v } (k.flights.filterMap fun f => f.after b (.acc n v m)) := by
  cases b <;> rfl

theorem regOf_of_gprOf {code : BitVec 6} {r : Rg} (h : gprOf code = some r) : regOf code = some r ∧ ∀ n, r ≠ .a n := by
  unfold gprOf at h
  split at h
  · cases h
  · next other => exact ⟨h, fun n hn => other n (hn ▸ h)⟩

theorem xmovRegs_of_gprOf {rd rs : BitVec 6} {d r : Rg} (hd : gprOf rd = some d) (hr : gprOf rs = some r) :
    xmovRegs rd rs = some (d, r) ∧ ∀ x : RegSet, x.xval d r = .reg d (x.read r) := by
  obtain ⟨hd, nd⟩ := regOf_of_gprOf hd
  obtain ⟨hr, nr⟩ := regOf_of_gprOf hr
  cases d with
  | a n => exact absurd rfl (nd n)
  | _ =>
    cases r with
    | a n => exact absurd rfl (nr n)
    | _ => exact ⟨by rw [xmovRegs, hd, hr], fun _ => rfl⟩

/-- The codes of the accumulators (R150). -/
theorem xmovRegs_acc : ∀ an am : Fin 4, xmovRegs (BitVec.ofNat 6 (0x30 + an.val)) (BitVec.ofNat 6 (0x30 + am.val)) = some (.a an, .a am) := by
  decide

/-- `xmov` in set 1 with nothing of set 0 in flight writes the other set at once. -/
theorem exec_xmov {s : State} {i : Issue} (h : s.issues i) (hpm : i.pm = 0) (act : (s.issuer i).act = true)
    (landed : ∀ f ∈ (s.issuer i).flights, f.set = true) {rd rs : BitVec 6} {d r : Rg} (regs : xmovRegs rd rs = some (d, r)) (dir : Bool) :
    exec (.xmov i rd rs dir) s =
      .next (s.withCore i.q i.c ((s.issuer i).put (!dir) 1 (((s.issuer i).getSet dir).xval d r)).advance) := by
  have quiet : (s.issuer i).pending0 = false := by
    have flights : ((s.issuer i).flights.any fun f => !f.set) = false := List.any_eq_false.mpr fun f hf => by simp [landed f hf]
    rw [Core.pending0, flights, issuer_reqs s i h, issuer_ask s i h]
    rfl
  refine exec_setCore h rfl ?moves ?traps ?writes ?puts ?acts <;> rw [regs]
  case moves => exact if_pos hpm
  case traps =>
    dsimp only
    rw [act]
    rfl
  case writes => rfl
  case acts =>
    dsimp only
    rw [core_found, quiet, if_neg Bool.false_ne_true, found, setCore_setCore]

/-- Settles O14: a read of a system register is a register move, a write is in flight, and `xmov` writes the other set. -/
theorem systemRegisters : Obligations.SystemRegisters := by
  intro s i dd dx sys rd rs d r an am dir h hpm q k v
  refine ⟨exec_mfs h hpm dd, exec_mts h hpm dx, fun act landed hd hr => ?gpr, fun act landed => ?acc⟩
  case gpr =>
    obtain ⟨regs, val⟩ := xmovRegs_of_gprOf hd hr
    have moved := exec_xmov h hpm act landed regs dir
    rw [val, put_reg_of (issuer_reqs s i h) (issuer_ask s i h)] at moved
    obtain ⟨rest, written, other⟩ := withSetOf_advance k (!dir) ((k.getSet (!dir)).write d ((k.getSet dir).read r)) _
    rw [Bool.not_not] at other
    exact ⟨_, moved, rest, written, other⟩
  case acc =>
    have moved := exec_xmov h hpm act landed (xmovRegs_acc an am) dir
    rw [RegSet.xval, put_acc_of] at moved
    obtain ⟨rest, written, other⟩ :=
      withSetOf_advance k (!dir) { k.getSet (!dir) with a := (k.getSet (!dir)).a.set an (k.getSet dir).a[am] } _
    rw [Bool.not_not] at other
    exact ⟨_, moved, rest, written, other⟩

end Sys2Proof.Machine.Proofs

/-! Branches, calls and returns outside a delay slot (R66, R114, R115, R154, R156). -/

namespace Sys2Proof.Machine.Proofs
open Laws

/-- A branch taken by a core just replaced. -/
theorem goTo_setCore (q : Quad) (c : Fin 17) (k : Core) (target : Option PAddr) :
    (q.setCore c k).goTo target c = q.setCore c (k.branch target) := by
  rw [Quad.goTo, core_setCore, setCore_setCore]

section
variable {s : State} {i : Issue} (h : s.issues i)
include h

/-- An instruction without results that changes its core and branches. -/
theorem exec_branch {c : Instr} {plan : Quad → Core → Plan} {f : Core → Core} {target : Option PAddr}
    (hx : exec c s = onQ i.q (Quad.issue i plan) s) (moves : (plan (found s i) (s.issuer i)).moves = some {})
    (traps : (plan (found s i) (s.issuer i)).traps = []) (writes : (plan (found s i) (s.issuer i)).writes = [])
    (puts : (plan (found s i) (s.issuer i)).puts = [])
    (acts : (plan (found s i) (s.issuer i)).act = fun q c => (q.setCore c (f (q.core c))).goTo target c) :
    exec c s = .next (s.withCore i.q i.c ((f (s.issuer i)).branch target)) := by
  refine exec_setCore h hx moves traps (by rw [writes]; rfl) puts ?_
  rw [acts]
  dsimp only
  rw [goTo_setCore, core_found, found, setCore_setCore]

variable (hpm : i.pm = 0) (slots : (s.issuer i).slots = 0)
include hpm slots

/-- A branch with a condition that is defined. -/
theorem exec_br {c : Instr} {cc : BitVec 4} {target : Core → PAddr} {reads : List Rg} (defined : cc.toNat ≤ 12)
    (hx : exec c s = onQ i.q (Quad.issue i fun _ k => brPlan i cc k (target k) reads) s) :
    exec c s = .next (s.withCore i.q i.c
      ((s.issuer i).branch (if cond cc (s.issuer i).cur.st then some (target (s.issuer i)) else none))) := by
  refine exec_setCore h hx (if_pos hpm) ?_ rfl rfl (goTo_setCore ..)
  have ok : condOk cc = true := decide_eq_true defined
  simp only [brPlan, ok, slotTrap_of_zero slots]
  rfl

/-- A call with room on the return stack. -/
theorem exec_call {c : Instr} {target : Core → PAddr} {reads : List Rg} (room : (s.issuer i).cur.stack.length < 8)
    (hx : exec c s = onQ i.q (Quad.issue i fun _ k => callPlan i k (target k) reads) s) :
    exec c s = .next (s.withCore i.q i.c ((s.issuer i).push.branch (some (target (s.issuer i))))) := by
  refine exec_branch (f := Core.push) h hx (if_pos hpm) ?_ rfl rfl rfl
  have fits : ¬ (s.issuer i).cur.stack.length ≥ 8 := by omega
  simp only [callPlan, slotTrap_of_zero slots, decide_eq_false fits]
  rfl

/-- A return takes the newest address from the stack. -/
theorem exec_ret {a : PAddr} {rest : List PAddr} (stack : (s.issuer i).cur.stack = a :: rest) : exec (.ret i) s =
    .next (s.withCore i.q i.c
      (((s.issuer i).setSet (s.issuer i).act { (s.issuer i).cur with stack := rest }).branch (some a))) := by
  refine exec_branch (f := fun k => k.setSet k.act { k.cur with stack := rest }) h rfl ?_ ?_ ?_ ?_ ?_ <;> rw [stack]
  · exact if_pos hpm
  · exact slotTrap_of_zero slots

/-- `jpm` ends boot fetch (R66). -/
theorem exec_jpm (target : PAddr) :
    exec (.jpm i target) s = .next (s.withCore i.q i.c ({ s.issuer i with bootFetch := false }.branch (some target))) :=
  exec_branch (f := fun k => { k with bootFetch := false }) h rfl (if_pos hpm) (slotTrap_of_zero slots) rfl rfl rfl

/-- `dbnz` writes its register for the next instruction and branches while it is not zero (R114). -/
theorem exec_dbnz (dx : Fin 16) (target : PAddr) : exec (.dbnz i dx target) s = .next (s.withCore i.q i.c
    (((s.issuer i).putAll [(1, .reg (.d dx) ((s.issuer i).dr dx - 1))]).branch
      (if (s.issuer i).dr dx - 1 ≠ 0 then some target else none))) := by
  refine Eq.trans rfl (onQ_setCore ?_)
  rw [issue_open s i _ h (if_pos hpm) (slotTrap_of_zero slots) (dupTraps_singleton _), setCore_setCore]
  exact goTo_setCore ..

end

/-- Settles O18: each branches from the core that it leaves. -/
theorem branchesAndCalls : Obligations.BranchesAndCalls := by
  unfold Obligations.BranchesAndCalls
  intro s i cc target dx h hpm k goes pushed v slots
  refine ⟨fun defined => ⟨?_, ?_⟩, fun room => ⟨?_, ?_⟩, fun a rest stack => exec_ret h hpm slots stack,
    exec_jpm h hpm slots target, ?_⟩
  · exact exec_br (c := .brTarget i cc target) (target := fun _ => target) (reads := []) h hpm slots defined rfl
  · exact exec_br (c := .brReg i cc dx) (target := fun k => (k.dr dx).setWidth 13) (reads := [.d dx]) h hpm slots defined rfl
  · exact exec_call (c := .callTarget i target) (target := fun _ => target) (reads := []) h hpm slots room rfl
  · exact exec_call (c := .callReg i dx) (target := fun k => (k.dr dx).setWidth 13) (reads := [.d dx]) h hpm slots room rfl
  · have counted := exec_dbnz h hpm slots dx target
    rw [put_reg_issuer h] at counted
    have rest := withSet_rest (s.issuer i) ((s.issuer i).cur.write (.d dx) ((s.issuer i).dr dx - 1))
      ((s.issuer i).flights.filterMap fun f => f.after (s.issuer i).act (.reg (.d dx) ((s.issuer i).dr dx - 1)))
    exact ⟨_, counted, rest, withSet_cur .., withSet_other ..⟩

end Sys2Proof.Machine.Proofs

/-! The questions to the scheduler, the prefetch slot, the Kiln word and `frel` (R157, R158, R159, R161). -/

namespace Sys2Proof.Machine.Proofs
open Laws

/-! ### The release of a flow's contexts leaves the cores -/

/-- A step that keeps what a function reads of its state keeps it over a list. -/
theorem foldl_keeps_proj {α σ β : Type} (proj : σ → β) {f : σ → α → σ} (h : ∀ r a, proj (f r a) = proj r) (l : List α)
    (r : σ) : proj (l.foldl f r) = proj r := by
  induction l generalizing r with
  | nil => rfl
  | cons a l ih => exact (ih _).trans (h r a)

section
variable (q : Quad)

@[simp] theorem uncorr_cores (a : Nat) : (q.uncorr a).cores = q.cores := by
  unfold Quad.uncorr
  split
  · simp
  · split <;> simp

@[simp] theorem corrected_cores (a : Nat) : (q.corrected a).cores = q.cores := by
  unfold Quad.corrected
  split
  · simp
  · split <;> simp

@[simp] theorem noteEcc_cores (l : List (Nat × Ecc)) : (q.noteEcc l).cores = q.cores := by
  refine foldl_keeps_proj Quad.cores (fun q x => ?_) l q
  split <;> simp

@[simp] theorem partRead_cores (a n : Nat) : (q.partRead a n).2.2.cores = q.cores := by
  unfold Quad.partRead
  split <;> simp [Quad.memRead]

@[simp] theorem partBlock_cores (a n : Nat) : (q.partBlock a n).2.cores = q.cores :=
  foldl_keeps_proj (fun r : List Byte × Quad => r.2.cores) (fun _ _ => partRead_cores ..) _ _

@[simp] theorem sendPacket_cores (s : Nat) (bytes : List Byte) : (q.sendPacket s bytes).cores = q.cores := by
  have sent := foldl_keeps_proj Quad.cores (f := fun (q : Quad) (p : Fin 2) => q.egress p ⟨.stream, bytes, none, none, false, St.done⟩)
    fun _ _ => rfl
  unfold Quad.sendPacket
  dsimp only
  split <;> simp [sent]

@[simp] theorem flowPacket_cores (s ctx : Nat) : (q.flowPacket s ctx).cores = q.cores := by
  unfold Quad.flowPacket
  dsimp only
  split
  · simp [Quad.rtpPacket]
  · rfl

@[simp] theorem setFlow_cores (f : Nat) (v : Flow) : (q.setFlow f v).cores = q.cores := rfl

@[simp] theorem joinFlow_cores (t : Nat) : (q.joinFlow t).1.cores = q.cores := by
  unfold Quad.joinFlow
  split <;> rfl

@[simp] theorem makeReady_cores (t : Nat) : (q.makeReady t).1.cores = q.cores := by
  unfold Quad.makeReady
  dsimp only
  split
  · simp [Quad.noteTask]
  · split <;> simp [Quad.noteTask, Quad.enqueue]

@[simp] theorem releaseOne_cores (f : Nat) : (q.releaseOne f).1.cores = q.cores := by
  unfold Quad.releaseOne
  dsimp only
  split
  · rfl
  · next made =>
    split
    · rfl
    · split
      · have ready := makeReady_cores q (q.fld (Reg.SCH_FLOW_CFG_IDX f))
        split
        · next e =>
          rw [e] at ready
          exact ready
        · next e =>
          rw [e] at ready
          exact ready
      · simp

@[simp] theorem releaseFlow_cores (f n : Nat) : (q.releaseFlow f n).cores = q.cores := by
  induction n generalizing q with
  | zero => rfl
  | succ n ih =>
    have one := releaseOne_cores q f
    rw [Quad.releaseFlow]
    split
    · next e =>
      rw [e] at one
      exact (ih _).trans one
    · next e =>
      rw [e] at one
      exact one

@[simp] theorem releasable_cores (i : Inst) (ctx : Nat) (empty : Bool) : (q.releasable i ctx empty).cores = q.cores := by
  unfold Quad.releasable
  split
  · rfl
  · simp [apply_ite Quad.cores]

end

/-! ### Questions to the scheduler (R157, R159) -/

/-- The question is put, and besides it only the results in flight have changed. -/
theorem putAsk_advance {k : Core} (reqs : k.reqs = []) (cancel : Bool) (v : W40) (dd : Fin 16) :
    let k2 := (k.putAsk cancel v dd).advance
    k2.ask = some ⟨cancel, v, k.act, some dd⟩ ∧ k2 = { k.advance with ask := k2.ask, flights := k2.flights } := by
  intro k2
  have put : k.putAsk cancel v dd = { k with ask := some ⟨cancel, v, k.act, some dd⟩, flights := (k.putAsk cancel v dd).flights } := by
    simp [Core.putAsk, reqs]
  simp only [k2]
  rw [put]
  unfold Core.advance
  split <;> exact ⟨rfl, rfl⟩

section
variable {s : State} {i : Issue} (h : s.issues i)
include h

theorem exec_asks {c : Instr} {cancel : Bool} {dd dx : Fin 16}
    (hx : exec c s = onQ i.q (Quad.issue i fun _ k => askPlan i cancel dd dx k) s) (hpm : i.pm = 0) :
    exec c s = .next (s.withCore i.q i.c ((s.issuer i).putAsk cancel ((s.issuer i).dr dx) dd).advance) := by
  refine exec_setCore h hx (if_pos hpm) rfl (dupTraps_singleton _) rfl ?_
  dsimp only [askPlan]
  rw [core_found, found, setCore_setCore]

theorem asks {c : Instr} {cancel : Bool} {dd dx : Fin 16}
    (hx : exec c s = onQ i.q (Quad.issue i fun _ k => askPlan i cancel dd dx k) s) (hpm : i.pm = 0) :
    ∃ k2, exec c s = .next (s.withCore i.q i.c k2) ∧ k2.ask = some ⟨cancel, (s.issuer i).dr dx, (s.issuer i).act, some dd⟩ ∧
      k2 = { (s.issuer i).advance with ask := k2.ask, flights := k2.flights } :=
  ⟨_, exec_asks h hx hpm, putAsk_advance (issuer_reqs s i h) ..⟩

end

/-! ### What an instruction reads: the prefetch slot and the Kiln word (R157, R161) -/

section
variable {q : Quad} {pos : Nat}

theorem pfsWord_noSlot (high : ¬pos < 4) : q.pfsWord pos = 0 := by rw [Quad.pfsWord, if_neg high]

theorem pfsWord_empty (held : q.prefAt pos = none) : q.pfsWord pos = 0 := by simp only [Quad.pfsWord, held, ite_self]

theorem pfsWord_filled (low : pos < 4) {x : Inst} (held : q.prefAt pos = some x) : q.pfsWord pos = x.task + 4096 := by
  simp only [Quad.pfsWord, held, if_pos low]

end

section
variable {s : State} {i : Issue} (h : s.issues i)
include h

/-- The word of the prefetch slot, written for the next instruction. -/
theorem exec_pfs (hpm : i.pm = 0) (dd : Fin 16) : ∃ k2, exec (.pfs i dd) s = .next (s.withCore i.q i.c k2) ∧ (s.issuer i).onlyRegs k2 ∧
    k2.cur = (s.issuer i).cur.write (.d dd) (BitVec.ofNat 40 ((s.quad i.q).pfsWord (s.issuer i).pos.val)) :=
  exec_writesReg h rfl ⟨if_pos hpm, rfl, dupTraps_singleton _, rfl, rfl⟩

theorem exec_kld (hpm : i.pm = 0) (dd : Fin 16) :
    exec (.kld i dd) s = .next (s.withCore i.q i.c ((s.issuer i).sends [(2, .reg (.d dd) (s.issuer i).kilnWord)]).advance) :=
  exec_sends h rfl ⟨if_pos hpm, rfl, dupTraps_singleton _, rfl, rfl⟩ (by simp)

theorem exec_kfg (hpm : i.pm = 0) (dd : Fin 16) :
    exec (.kfg i dd) s = .next (s.withCore i.q i.c ((s.issuer i).sends [(2, .reg (.d dd) (blend (s.issuer i).kilnWord))]).advance) :=
  exec_sends h rfl ⟨if_pos hpm, rfl, dupTraps_singleton _, rfl, rfl⟩ (by simp)

end

/-- The blend weight takes bits 15 to 0 of the Kiln word to bits 30 to 15. -/
theorem blend_eq (w : W40) : blend w = if w.getLsbD 18 then BitVec.ofNat 40 (w.toNat % 65536 * 2 ^ 15) else 0 := by
  have low : w.toNat &&& 65535 = w.toNat % 2 ^ 16 := Nat.and_two_pow_sub_one_eq_mod w.toNat 16
  have weight : (w &&& 0xFFFF) <<< 15 = BitVec.ofNat 40 (w.toNat % 65536 * 2 ^ 15) := by
    apply BitVec.eq_of_toNat_eq
    simp [low, Nat.shiftLeft_eq]
  unfold blend
  rw [weight]

/-- An instruction without results that raises no cause does as its plan says, to the core that it finds. -/
theorem exec_acts {s : State} {i : Issue} (h : s.issues i) {c : Instr} {plan : Quad → Core → Plan}
    (hx : exec c s = onQ i.q (Quad.issue i plan) s) (moves : (plan (found s i) (s.issuer i)).moves = some {})
    (traps : (plan (found s i) (s.issuer i)).traps = []) (dups : dupTraps (plan (found s i) (s.issuer i)).writes [] = [])
    (puts : (plan (found s i) (s.issuer i)).puts = []) :
    exec c s = onQ i.q (fun _ => (plan (found s i) (s.issuer i)).act (found s i) i.c) s := by
  have issued := issue_open s i plan h moves traps dups
  change (s.quad i.q).issue i plan = (plan (found s i) (s.issuer i)).act
    ((found s i).setCore i.c ((s.issuer i).putAll (plan (found s i) (s.issuer i)).puts)) i.c at issued
  rw [puts, found, setCore_setCore] at issued
  rw [hx, onQ, issued]
  rfl

/-! ### The release of the running task's context (R158) -/

section
variable {s : State} {i : Issue} (h : s.issues i) (hpm : i.pm = 0) {r : Run} (run : (s.issuer i).run = some r)
  (act : (s.issuer i).act = false) (flow : r.inst.flow.isSome = true)
include h hpm run act flow

/-- In a flow `frel` in set 0 raises no cause. -/
theorem exec_frel : exec (.frel i) s = onQ i.q (fun _ => ((found s i).flowRelease i.c).setCore i.c
    (((found s i).flowRelease i.c).core i.c).advance) s := by
  refine Eq.trans (exec_acts h rfl (if_pos hpm) ?_ rfl rfl) rfl
  rw [act, run]
  simpa [causeIf] using Option.isSome_iff_ne_none.mp flow

/-- A context released before is released no more. -/
theorem exec_frel_released (frel : r.frel = true) : exec (.frel i) s = .next (s.withCore i.q i.c (s.issuer i).advance) := by
  have released : (found s i).flowRelease i.c = found s i := by
    simp only [Quad.flowRelease, core_found, run, if_pos frel]
  refine (exec_frel h hpm run act flow).trans (onQ_setCore ?_)
  rw [released, core_found, found, setCore_setCore]

/-- The run is marked and its core goes on. -/
theorem exec_frel_releases (frel : r.frel = false) : ∃ t, exec (.frel i) s = .next t ∧ OnlyQuad i.q s t ∧
    (t.quad i.q).core i.c = { (s.issuer i).advance with run := some { r with frel := true } } := by
  have released : (found s i).flowRelease i.c =
      ((found s i).setCore i.c { s.issuer i with run := some { r with frel := true } }).releasable r.inst r.ctx false := by
    simp only [Quad.flowRelease, core_found, run, frel, Bool.false_eq_true, if_false]
  have marked : ((found s i).flowRelease i.c).core i.c = { s.issuer i with run := some { r with frel := true } } := by
    rw [released, Quad.core, releasable_cores]
    exact core_setCore ..
  obtain ⟨t, ht, quad, others, host, pending⟩ := onQ_completes i.q
    (fun _ => ((found s i).flowRelease i.c).setCore i.c (((found s i).flowRelease i.c).core i.c).advance) s
  refine ⟨t, (exec_frel h hpm run act flow).trans ht, ⟨pending, host, others⟩, ?_⟩
  rw [quad, commit_core, core_setCore, marked]
  unfold Core.advance
  split <;> rfl

end

end Sys2Proof.Machine.Proofs

/-! `spawn` (R157, R168, R187). -/

namespace Sys2Proof.Machine.Proofs
open Laws

/-! ### A task made ready whose descriptor has no error mark (R165, R168) -/

section
variable {q : Quad} {task : Nat} (clean : q.eccIn (taskAddr task) 32 = [])
include clean

theorem noteTask_of_clean : q.noteTask task = q := by rw [Quad.noteTask, clean]; rfl

theorem makeReady_refused (refused : q.refused165 task = true) : q.makeReady task = (q, .refused) := by
  rw [Quad.makeReady, noteTask_of_clean clean]
  exact if_pos refused

variable (valid : q.refused165 task = false)
include valid

theorem makeReady_held (full : q.room168 task = false) : q.makeReady task = (q.count Reg.SCH_HELDCNT_COUNT 1, .held) := by
  rw [Quad.makeReady, noteTask_of_clean clean]
  simp [valid, full]

/-- Outside a flow what is queued carries the tick and the cycle at which it was made. -/
theorem makeReady_accepted (room : q.room168 task = true) (noFlow : q.tFvld task = false) : q.makeReady task =
    ({ q.enqueue ⟨task, q.tLevel task, q.cclk / 2, q.tick, false, q.tEvt task, none⟩ with cclk := q.cclk + 2 }, .accepted) := by
  have alone : q.joinFlow task = (q, none) := if_neg (by simp [noFlow])
  rw [Quad.makeReady, noteTask_of_clean clean]
  simp [valid, room, alone]

end

section
variable {s : State} {i : Issue} (h : s.issues i) (hpm : i.pm = 0) (dx : Fin 16)
include h hpm

/-- The task that `spawn` names is made ready, and its core waits where the scheduler holds it. -/
theorem exec_spawn {q : Quad} {ready : Ready} (made : (found s i).makeReady (((s.issuer i).dr dx).toNat % 4096) = (q, ready)) :
    exec (.spawn i dx) s = onQ i.q (fun _ => q.setCore i.c
      (if ready = .held then (q.core i.c).spawnWait (((s.issuer i).dr dx).toNat % 4096) else (q.core i.c).advance)) s := by
  refine (exec_acts h rfl (if_pos hpm) rfl rfl rfl).trans (congrArg (fun f => onQ i.q f s) (funext fun _ => ?_))
  dsimp only
  rw [made]
  cases ready <;> rfl

/-- What `spawn` answers, with the bytes and the core that it leaves. -/
theorem exec_spawn_answers {q : Quad} {ready : Ready} (made : (found s i).makeReady (((s.issuer i).dr dx).toNat % 4096) = (q, ready))
    (mem : q.mem = (s.quad i.q).mem) : ∃ t, (exec (.spawn i dx) s = .next t ∧ OnlyQuad i.q s t ∧ SameBytes (s.quad i.q) (t.quad i.q) ∧
      (t.quad i.q).core i.c =
        if ready = .held then (s.issuer i).spawnWait (((s.issuer i).dr dx).toNat % 4096) else (s.issuer i).advance) ∧
      (t.quad i.q).sch = q.sch := by
  have core : q.core i.c = s.issuer i := by
    have cores := makeReady_cores (found s i) (((s.issuer i).dr dx).toNat % 4096)
    rw [made] at cores
    rw [Quad.core, cores]
    exact core_found s i
  obtain ⟨t, ht, quad, others, host, pending⟩ := onQ_completes i.q (fun _ => q.setCore i.c
    (if ready = .held then (q.core i.c).spawnWait (((s.issuer i).dr dx).toNat % 4096) else (q.core i.c).advance)) s
  refine ⟨t, ⟨(exec_spawn h hpm dx made).trans ht, ⟨pending, host, others⟩, fun a => ?_, ?_⟩, ?_⟩
  · rw [quad, commit_read, ← mem]
    rfl
  · rw [quad, commit_core, core_setCore, core]
  · rw [quad]
    rfl

variable (clean : (s.quad i.q).eccIn (taskAddr (((s.issuer i).dr dx).toNat % 4096)) 32 = [])
include clean

/-- A refused request changes nothing but its core, which goes on. -/
theorem exec_spawn_refused (refused : (s.quad i.q).refused165 (((s.issuer i).dr dx).toNat % 4096) = true) :
    exec (.spawn i dx) s = .next (s.withCore i.q i.c (s.issuer i).advance) := by
  have made := makeReady_refused (q := found s i) clean refused
  refine (exec_spawn h hpm dx made).trans (onQ_setCore ?_)
  rw [core_found, found, setCore_setCore]
  rfl

end

/-- Settles O24: each instruction on its own, `spawn` by what the scheduler answers. -/
theorem spawnAndQuestions : Obligations.SpawnAndQuestions := by
  unfold Obligations.SpawnAndQuestions
  refine ⟨?spawn, ?questions⟩
  case spawn =>
    intro s i dx h _ hpm q k task after clean
    refine ⟨fun valid room noFlow => ?accepted, fun valid full => ?held, exec_spawn_refused h hpm dx clean⟩
    case accepted =>
      obtain ⟨t, answers, sch⟩ := exec_spawn_answers h hpm dx (makeReady_accepted (q := found s i) clean valid room noFlow) rfl
      exact ⟨t, answers, congrArg Sched.queue sch⟩
    case held =>
      obtain ⟨t, answers, sch⟩ := exec_spawn_answers h hpm dx (makeReady_held (q := found s i) clean valid full) rfl
      exact ⟨t, answers, sch⟩
  case questions =>
    intro s i dd dx h hpm q k slot word
    refine ⟨asks h rfl hpm, asks h rfl hpm, ?pfs, exec_kld h hpm dd, ?kfg, fun r run act flow =>
      ⟨exec_frel_released h hpm run act flow, exec_frel_releases h hpm run act flow⟩⟩
    case pfs =>
      have read : BitVec.ofNat 40 (q.pfsWord k.pos.val) = slot := by
        by_cases low : k.pos.val < 4
        · cases held : q.prefAt k.pos.val with
          | none =>
            have zero : slot = 0 := by simp only [slot, if_pos low, held]
            exact (congrArg (BitVec.ofNat 40) (pfsWord_empty held)).trans zero.symm
          | some x =>
            have word : slot = BitVec.ofNat 40 (x.task + 4096) := by simp only [slot, if_pos low, held]
            exact (congrArg (BitVec.ofNat 40) (pfsWord_filled low held)).trans word.symm
        · have zero : slot = 0 := by simp only [slot, if_neg low]
          exact (congrArg (BitVec.ofNat 40) (pfsWord_noSlot low)).trans zero.symm
      have written := exec_pfs h hpm dd
      rw [read] at written
      exact written
    case kfg =>
      rw [← blend_eq word]
      exact exec_kfg h hpm dd

end Sys2Proof.Machine.Proofs

/-! A task ends by `done` while a word of its descriptor has an uncorrectable error mark: RUNS reads zero before and after it is counted,
for a poisoned word reads zero and the count clears no mark (R416). -/

namespace Sys2Proof.Machine.Proofs

/-- A run of task 7, with no fault so far and outside any flow. -/
def taskRun : Run := ⟨⟨7, 1, 5, 999, false, false, none⟩, 0, false, false, 0, none, 0⟩

/-- The core of position 4 with that run in set 0. -/
def taskCore : Core := { pos := 4, run := some taskRun, bootFetch := false }

/-- A quadrant in RUN whose descriptor of task 7, at 0x2200_00E0, has an uncorrectable mark on word 4, RUNS. -/
def runsMarked : Quad :=
  { Quad.reset with
    ecc := [(0x220000F0, .uncorr)]
    cores := Quad.reset.cores.set 4 taskCore
    mode := .run, rst := .past, running := true, tick := 1000 }

/-- The state whose quadrant 0 is `runsMarked`. -/
def runsAtRisk : State := { State.reset with dev := { State.reset.dev with q0 := runsMarked } }

theorem issues_runsAtRisk : runsAtRisk.issues issueAt4 := by decide +kernel

theorem memWf_runsAtRisk : runsAtRisk.memWf := by
  obtain ⟨quads, staging⟩ := memWf_reset
  refine ⟨fun j => ?_, staging⟩
  cases j
  · exact quads .q0
  · exact quads .q1
  · exact quads .q2
  · exact quads .q3

theorem runs_before : (runsAtRisk.quad issueAt4.q).tf 7 4 31 0 = 0 := by decide +kernel

theorem runs_after {t : State} (h : exec (.done issueAt4) runsAtRisk = .next t) : (t.quad issueAt4.q).tf 7 4 31 0 = 0 := by
  rw [(Laws.onQ_next h).1]
  decide +kernel

/-- Refutes O23: RUNS of a descriptor with an uncorrectable mark on it does not read one more. -/
theorem not_taskEnds : ¬ Obligations.TaskEnds := by
  intro h
  obtain ⟨-, ends⟩ := h
  obtain ⟨t, ht, -, -, -, -, counted, -⟩ := ends runsAtRisk issueAt4 taskRun issues_runsAtRisk memWf_runsAtRisk rfl (by decide +kernel)
    (by decide +kernel) (by decide +kernel) (by decide +kernel) (by decide +kernel) (by decide +kernel) rfl rfl rfl (by decide +kernel)
  change (t.quad issueAt4.q).tf 7 4 31 0 = ((runsAtRisk.quad issueAt4.q).tf 7 4 31 0 + 1) % 2 ^ 32 at counted
  rw [runs_after ht, runs_before] at counted
  exact absurd counted (by decide)

end Sys2Proof.Machine.Proofs

/-! What is put to a core from outside: event posts, debug events, write-backs and the scheduler's answers (R80, R84, R157, R168, R180,
R468). -/

namespace Sys2Proof.Machine.Proofs
open Laws

/-- Where every queued task is valid, selection removes nothing (R164). -/
theorem purgeInvalid_of_valid {q : Quad} (valid : ∀ i ∈ q.sch.queue, q.tValid i.task = true) : q.purgeInvalid = q := by
  have kept : (q.sch.queue.filter fun i => !!q.tValid i.task) = q.sch.queue := List.filter_eq_self.mpr (by simpa using valid)
  have none : (q.sch.queue.filter fun i => !q.tValid i.task) = [] := List.filter_eq_nil_iff.mpr (by simpa using valid)
  have taken : q.takeQueue (fun i => !q.tValid i.task) = (q, []) := by rw [Quad.takeQueue, kept, none]
  rw [Quad.purgeInvalid, taken]
  rfl

/-- The preferred run of an event task goes to a core that has none pending and runs no handler (R180). -/
theorem evtPost_posts {q : Quad} {pos : Nat} {c : Fin 17} {x : Inst} (valid : ∀ i ∈ q.sch.queue, q.tValid i.task = true)
    (holder : q.coreAt pos = some c) (pending : (q.core c).pendEvt = none) (handler : (q.core c).evtRun = none)
    (set0 : (q.core c).act = false) (stopped : (q.core c).stopped = false) (parked : (q.core c).parked = false)
    (best : bestInst (q.sch.queue.filter fun i => i.evt && q.modeAllows i && bitN (q.effMask i.task) pos && q.tValid i.task &&
      !(q.tSer i.task && q.running? i.task)) = some x) :
    q.evtPost pos = (q.dequeue x).setCore c { q.core c with pendEvt := some x } := by
  simp only [Quad.evtPost, purgeInvalid_of_valid valid, holder, pending, handler, set0, stopped, parked, best, Option.isSome_none,
    Bool.false_and, Bool.or_self, Bool.false_eq_true, if_false]

/-- A debug event is pending at a core that takes them, while the debug port is open (R84, R468). -/
theorem debugEvent_pends {q : Quad} {life : Life} {c : Fin 17} (notSealed : life ≠ .sealed_) (notVoid : life ≠ .void_)
    (unmasked : (q.core c).evm.getLsbD 1 = true) (stopped : (q.core c).stopped = false) :
    q.debugEvent life c = q.setCore c { q.core c with pendDbg := true } := by
  simp [Quad.debugEvent, notSealed, notVoid, unmasked, stopped]

/-- A closed debug port brings nothing (R468). -/
theorem debugEvent_closed {q : Quad} {life : Life} {c : Fin 17} (closed : life = .sealed_ ∨ life = .void_) : q.debugEvent life c = q := by
  obtain rfl | rfl := closed <;> rfl

/-- A command on a quadrant and the host domain that leaves both leaves the state, whose memories are in their normal form. -/
theorem onQH_unchanged {i : QId} {f : Quad → HostDom → Quad × HostDom} {s : State} (hw : s.memWf)
    (h : f (s.quad i) s.dev.host = (s.quad i, s.dev.host)) : onQH i f s = .next s := by
  have memory : (s.quad i).commit = s.quad i := by simp only [Quad.commit, normal_of_wf _ (hw.1 i)]
  have staging : s.dev.host.staging.normal = s.dev.host.staging := normal_of_wf _ hw.2
  unfold onQH
  simp only [h, memory, staging]
  cases i <;> rfl

/-! ### A corrected word written back (R80, R416) -/

theorem find_del_self {α : Type} (m : SMap α) (k : Nat) : (m.del k).find k = none := by
  induction m with
  | nil => rfl
  | cons e t ih =>
    obtain ⟨j, v⟩ := e
    by_cases h : j = k
    · simpa [SMap.del, h] using ih
    · simpa [SMap.del, SMap.find, h] using ih

/-- Once a word that is not uncorrectable is written back, it is clean. -/
theorem eccAt_eccWriteback {q : Quad} {a : Nat} (due : a ∈ q.eccBack) (correctable : q.eccAt a ≠ .uncorr) :
    (q.eccWriteback a).eccAt a = .clean := by
  rw [Quad.eccWriteback, if_pos (by simpa using due)]
  cases mark : q.eccAt a with
  | clean => simpa [Quad.eccAt] using mark
  | corr => simp [Quad.eccAt, SMap.get, find_del_self]
  | uncorr => exact absurd mark correctable

/-- A write-back changes the error marks and the list of words due. -/
theorem eccWriteback_frame (q : Quad) (a : Nat) :
    q.eccWriteback a = { q with ecc := (q.eccWriteback a).ecc, eccBack := q.eccBack.filter fun x => x != a } := by
  unfold Quad.eccWriteback
  split
  · rfl
  · rename_i due
    have others : (q.eccBack.filter fun x => x != a) = q.eccBack :=
      List.filter_eq_self.mpr fun x hx => bne_iff_ne.mpr (by rintro rfl; exact due (by simpa using hx))
    rw [others]

theorem eccWriteback_answers {s : State} {iq : QId} {a : Nat} (due : a ∈ (s.quad iq).eccBack)
    (correctable : (s.quad iq).eccAt a ≠ .uncorr) :
    Answers (.eccWriteback iq a) s iq fun r => r.eccAt a = .clean ∧ a ∉ r.eccBack ∧ SameBytes (s.quad iq) r ∧
      r.cores = (s.quad iq).cores ∧ r.regs = (s.quad iq).regs := by
  have frame := eccWriteback_frame (s.quad iq) a
  refine answers_onQ (f := fun q => q.eccWriteback a) rfl ⟨eccAt_eccWriteback due correctable, ?_, fun b => ?_, ?_, ?_⟩
  · rw [frame]
    simp
  · rw [commit_read, frame]
  · rw [frame]
    rfl
  · rw [frame]
    rfl

/-! ### The scheduler's answer to `spawn.nb` (R157, R168) -/

section
variable {s : State} {iq : QId} {c : Fin 17} {v : W40} {set : Bool} {dd : Fin 16} {p : Quad} {status : Nat}

/-- The answer lands in the set and register that asked, over what the scheduler made of the quadrant. -/
theorem schedulerAnswer_lands (asked : ((s.quad iq).core c).ask = some ⟨false, v, set, some dd⟩)
    (answered : (s.quad iq).answer ⟨false, v, set, some dd⟩ = (p, status)) (alone : p.locked = true → 2 ≤ (p.core c).pos.val) :
    Answers (.schedulerAnswer iq c) s iq fun r => SameBytes p r ∧ (r.core c).ask = none ∧
      ((r.core c).getSet set).d[dd] = BitVec.ofNat 40 status ∧ r.sch = p.sch ∧ r.cclk = p.cclk ∧ r.regs = p.regs := by
  have landed : (s.quad iq).schedulerAnswer c =
      p.setCore c { (p.core c).putReg set (.d dd) (BitVec.ofNat 40 status) with ask := none } := by
    simp only [Quad.schedulerAnswer, asked, answered]
    exact pairMap_setCore_alone _ alone (kept_setSet ..).pos
  refine answers_onQ (f := fun q => q.schedulerAnswer c) rfl ?_
  rw [landed]
  refine ⟨commit_read _, ?_, ?_, rfl, rfl, rfl⟩
  · rw [commit_core, core_setCore]
  · rw [commit_core, core_setCore]
    cases set <;> exact write_d_self ..

/-- A number that names no task is refused (R157). -/
theorem answer_noTask {q : Quad} (big : 4096 ≤ v.toNat) : q.answer ⟨false, v, set, some dd⟩ = (q, St.refused) := by
  simp [Quad.answer, big]

/-- A number that names a task makes it ready. -/
theorem answer_spawns {q : Quad} {ready : Ready} (task : v.toNat < 4096) (made : q.makeReady v.toNat = (p, ready)) :
    q.answer ⟨false, v, set, some dd⟩ = (p, ready.status) := by
  simp [Quad.answer, Nat.not_le.mpr task, made]

end

theorem satTo_eq_min (m n : Nat) : satTo m n = min n m := by
  unfold satTo
  split <;> omega

/-- A field counted up by one, which stays at its largest value. -/
theorem fld_count_one (q : Quad) (f : Field) (h : f.lo ≤ f.hi) (h' : f.hi < 32) : (q.count f 1).fld f = min (q.fld f + 1) f.max := by
  have positive : 0 < 2 ^ (f.hi - f.lo + 1) := by positivity
  have fits : min (q.fld f + 1) f.max < 2 ^ (f.hi - f.lo + 1) := by
    rw [Field.max]
    omega
  rw [Quad.count, fld_setFld _ _ _ h h', satTo_eq_min, Nat.mod_eq_of_lt fits]

/-- Settles O26, input by input; `spawn.nb` by what the scheduler answers. -/
theorem coreInputs : Obligations.CoreInputs := by
  intro s iq c pos a x v set dd q k
  refine ⟨?post, ?debug, ?closed, fun due correctable => eccWriteback_answers due correctable, ?noTask, ?spawn⟩
  case post =>
    intro valid holder pending handler set0 stopped parked best
    refine answers_onQ (f := fun q => q.evtPost pos.val) (P := fun r => r.core c = { k with pendEvt := some x } ∧
      r.sch.queue = q.sch.queue.erase x ∧ SameBytes q r ∧ r.regs = q.regs) rfl ?_
    rw [evtPost_posts valid holder pending handler set0 stopped parked best]
    exact ⟨core_setCore .., rfl, commit_read _, rfl⟩
  case debug =>
    intro notSealed notVoid unmasked stopped
    obtain ⟨t, ht, quad, others, -, pending⟩ := onQH_completes iq (fun q h => (q.debugEvent h.life c, h)) s
    rw [debugEvent_pends notSealed notVoid unmasked stopped] at quad
    refine ⟨t, ht, ?_, pending, fun b => ?_, ?_, others⟩
    · rw [quad, commit_core, core_setCore]
    · rw [quad]
      exact commit_read _ b
    · rw [quad]
      rfl
  case closed =>
    intro closed hw
    exact onQH_unchanged (f := fun q h => (q.debugEvent h.life c, h)) hw (congrArg (·, s.dev.host) (debugEvent_closed closed))
  case noTask =>
    intro alone asked big
    obtain ⟨t, ht, only, bytes, ask, reg, sch, -, -⟩ := schedulerAnswer_lands asked (answer_noTask big) alone
    exact ⟨t, ht, only, ask, reg, sch, bytes⟩
  case spawn =>
    intro unlocked asked task clean valid
    have alone (p : Quad) (locked : p.locked = q.locked) : p.locked = true → 2 ≤ (p.core c).pos.val := by
      rw [locked, unlocked]
      exact nofun
    refine ⟨fun room noFlow => ?accepted, fun full => ?held⟩
    case accepted =>
      obtain ⟨t, ht, only, bytes, ask, reg, sch, cclk, -⟩ :=
        schedulerAnswer_lands asked (answer_spawns task (makeReady_accepted clean valid room noFlow)) (alone _ rfl)
      exact ⟨t, ht, only, bytes, ask, reg, cclk, sch⟩
    case held =>
      obtain ⟨t, ht, only, bytes, ask, reg, sch, -, regs⟩ :=
        schedulerAnswer_lands asked (answer_spawns task (makeReady_held clean valid full)) (alone _ rfl)
      have counted : (t.quad iq).fld Reg.SCH_HELDCNT_COUNT = (q.count Reg.SCH_HELDCNT_COUNT 1).fld Reg.SCH_HELDCNT_COUNT := by
        rw [Quad.fld, Quad.rd, regs]
        rfl
      exact ⟨t, ht, only, bytes, ask, reg, sch, counted.trans (fld_count_one q _ (by decide) (by decide))⟩

end Sys2Proof.Machine.Proofs

/-! The operations of SCH_ARM (R173 to R175). -/

namespace Sys2Proof.Machine.Proofs
open Laws

/-! ### The place of an entry (R173, R187) -/

/-- A list is another with an entry put behind those of equal or smaller key and behind one that is held. -/
def EnteredAs (e : DelayEntry) (a b : List DelayEntry) : Prop :=
  ∃ l1 l2, a = l1 ++ l2 ∧ b = l1 ++ e :: l2 ∧ (∀ x ∈ l1, x.key ≤ e.key ∨ x.expired = true) ∧
    ∀ x, l2.head? = some x → e.key < x.key ∧ x.expired = false

theorem insertEntry_enteredAs (e : DelayEntry) (l : List DelayEntry) : EnteredAs e l (insertEntry e l) := by
  induction l with
  | nil => exact ⟨[], [], rfl, rfl, nofun, nofun⟩
  | cons f t ih =>
    unfold insertEntry
    split
    · rename_i before
      refine ⟨[], f :: t, rfl, rfl, nofun, fun x hx => ?_⟩
      obtain rfl : f = x := by simpa using hx
      simpa using before
    · rename_i notBefore
      obtain ⟨l1, l2, rfl, inserted, front, behind⟩ := ih
      refine ⟨f :: l1, l2, rfl, by rw [inserted]; rfl, fun x hx => ?_, behind⟩
      obtain rfl | hx := List.mem_cons.mp hx
      · have passed : e.key < x.key → x.expired = true := by simpa using notBefore
        exact or_iff_not_imp_left.mpr fun after => passed (BitVec.not_le.mp after)
      · exact front x hx

/-! ### What a write of SCH_ARM leaves (R174) -/

/-- An operation of SCH_ARM that ends with a status in its writer's SCH_ARM_STAT and a scheduler as `f` says. -/
def ArmEnds (s : State) (iq : QId) (w : Writer) (c : Instr) (status : W32) (f : Sched → Prop) : Prop :=
  Answers c s iq fun r => r = { s.quad iq with sch := r.sch, regs := r.regs, mem := r.mem } ∧ SameBytes (s.quad iq) r ∧
    SameRegsBut [copyOff w Reg.SCH_ARM_STAT] (s.quad iq) r ∧ r.rdCopy w Reg.SCH_ARM_STAT = status ∧ f r.sch

/-- SCH_ARM is open to whom may write registers, outside SCOUR and HALT (R52, R63, R476). -/
theorem regOpen_of_up {q : Quad} {w : Writer} {off : Nat} (writer : mayWrite w = true) (up : q.up) : q.regOpen w off = true := by
  obtain ⟨notScour, notHalt⟩ := up
  simp [Quad.regOpen, writer, notScour, notHalt]

section
variable {s : State} {iq : QId} {w : Writer} {c : Instr} {g : Quad → Quad} (writer : mayWrite w = true) (up : (s.quad iq).up)
  (hc : exec c s = onQ iq (fun q => q.whenOpen w Reg.SCH_ARM g) s)
include writer up hc

theorem armEnds_of_armStat {status : Nat} {sch : Sched} {f : Sched → Prop}
    (made : g (s.quad iq) = ({ s.quad iq with sch := sch } : Quad).armStat w status) (hf : f sch) : ArmEnds s iq w c (w32 status) f := by
  refine answers_onQ hc ?_
  rw [Quad.whenOpen, if_pos (regOpen_of_up writer up), made]
  refine ⟨rfl, commit_read _, fun o ho => rd_wr_ne _ _ (by simpa using ho), ?_, hf⟩
  exact congrArg (Option.getD · _) (find_put_self ..)

theorem armEnds_done {f : Sched → Sched} {P : Sched → Prop} (made : g (s.quad iq) = ((s.quad iq).mapSch f).armStat w St.done)
    (hf : P (f (s.quad iq).sch)) : ArmEnds s iq w c 0 P := armEnds_of_armStat writer up hc (status := St.done) made hf

theorem armEnds_refused (made : g (s.quad iq) = (s.quad iq).armStat w St.refused) : ArmEnds s iq w c 0x10 fun x => x = (s.quad iq).sch :=
  armEnds_of_armStat writer up hc (status := St.refused) (sch := (s.quad iq).sch) made rfl

theorem armEnds_held (made : g (s.quad iq) = (s.quad iq).armStat w St.held) : ArmEnds s iq w c 0x11 fun x => x = (s.quad iq).sch :=
  armEnds_of_armStat writer up hc (status := St.held) (sch := (s.quad iq).sch) made rfl

end

/-! ### The operations one by one (R174, R175) -/

section
variable {q : Quad} {w : Writer} {t : Nat}

theorem armBind_binds (up : q.up) (unbound : q.tickB t = false) (aperiodic : q.pmode t = 0) (noEvent : q.tEvt t = false)
    (noFlow : q.tFvld t = false) (space : q.reservation < 1024) (valid : q.refused165 t = false) :
    q.armBind w t = (q.mapSch fun x => { x with bound := x.bound ++ [⟨t, q.tick + 2, none⟩] }).armStat w St.done := by
  obtain ⟨notScour, notHalt⟩ := up
  have space : ¬boundMax ≤ q.reservation := Nat.not_le.mpr space
  simp [Quad.armBind, unbound, aperiodic, noEvent, noFlow, space, valid, notScour, notHalt]

theorem armBind_refused (bad : q.tickB t = true ∨ q.pmode t ≠ 0 ∨ q.tEvt t = true ∨ q.tFvld t = true ∨ 1024 ≤ q.reservation ∨
    q.refused165 t = true) : q.armBind w t = q.armStat w St.refused := by
  change _ ∨ _ ∨ _ ∨ _ ∨ boundMax ≤ q.reservation ∨ _ at bad
  refine if_pos ?_
  simp only [Bool.or_eq_true, bne_iff_ne, decide_eq_true_eq]
  tauto

theorem armUnbind_unbinds (bound : q.tickB t = true) : q.armUnbind w t = (q.mapSch fun x => { x with
    bound := x.bound.map fun b => if b.task = t ∧ b.last = none then { b with last := some (q.tick + 1) } else b }).armStat w St.done := by
  simp [Quad.armUnbind, bound]

theorem armUnbind_refused (unbound : q.tickB t = false) : q.armUnbind w t = q.armStat w St.refused := if_pos (by simp [unbound])

theorem armDisarm_removes (periodic : q.pmode t ≠ 0) : q.armDisarm w t = (q.mapSch fun x => { x with
    tickList := x.tickList.filter fun e => !(e.task == t && e.period.isSome)
    timeList := x.timeList.filter fun e => !(e.task == t && e.period.isSome) }).armStat w St.done := if_neg (by simpa using periodic)

theorem armDisarm_refused (aperiodic : q.pmode t = 0) : q.armDisarm w t = q.armStat w St.refused := if_pos (by simp [aperiodic])

/-- The entries that DISARM leaves. -/
theorem mem_disarmed {l : List DelayEntry} {e : DelayEntry} :
    e ∈ l.filter (fun e => !(e.task == t && e.period.isSome)) ↔ e ∈ l ∧ ¬(e.task = t ∧ e.period ≠ none) := by
  simp [imp_iff_not_or]

/-! #### The tick list -/

theorem armTick_refused {periodic : Bool}
    (bad : q.refused165 t = true ∨ periodic = true ∧ (q.tickB t = true ∨ q.pmode t ≠ 0 ∨ q.tf t 1 31 16 = 0)) :
    q.armTick w t periodic = q.armStat w St.refused := if_pos (by simpa [or_assoc] using bad)

section
variable {periodic : Bool} (valid : q.refused165 t = false)
  (once : periodic = true → q.tickB t = false ∧ q.pmode t = 0 ∧ q.tf t 1 31 16 ≠ 0)
include valid once

theorem armTick_valid : q.armTick w t periodic = if q.sch.tickList.length ≥ 1024 then q.armStat w St.held else (q.mapSch fun x => { x with
    tickList := insertEntry ⟨q.armKey w, t, if periodic then some (q.tf t 1 31 16) else none, false⟩ x.tickList }).armStat w St.done := by
  have accepted : (q.refused165 t || (periodic && (q.tickB t || q.pmode t != 0 || q.tf t 1 31 16 == 0))) = false := by
    cases periodic <;> simp_all
  exact if_neg (Bool.not_eq_true _ ▸ accepted)

theorem armTick_held (full : 1024 ≤ q.sch.tickList.length) : q.armTick w t periodic = q.armStat w St.held :=
  (armTick_valid valid once).trans (if_pos full)

theorem armTick_enters (space : q.sch.tickList.length < 1024) : q.armTick w t periodic = (q.mapSch fun x => { x with
    tickList := insertEntry ⟨q.armKey w, t, if periodic then some (q.tf t 1 31 16) else none, false⟩ x.tickList }).armStat w St.done :=
  (armTick_valid valid once).trans (if_neg (Nat.not_le.mpr space))

end

/-! #### The time list -/

theorem armTime_refused {periodic : Bool}
    (bad : q.refused165 t = true ∨ periodic = true ∧ (q.tickB t = true ∨ q.pmode t ≠ 0 ∨ q.tf t 3 31 0 < 10000)) :
    q.armTime w t periodic = q.armStat w St.refused := if_pos (by simpa [or_assoc] using bad)

section
variable {periodic : Bool} (valid : q.refused165 t = false)
  (once : periodic = true → q.tickB t = false ∧ q.pmode t = 0 ∧ 10000 ≤ q.tf t 3 31 0)
include valid once

theorem armTime_valid : q.armTime w t periodic = if q.sch.timeList.length ≥ 1024 then q.armStat w St.held else (q.mapSch fun x => { x with
    timeList := insertEntry ⟨q.armKey w, t, if periodic then some (q.tf t 3 31 0) else none, false⟩ x.timeList }).armStat w St.done := by
  have accepted : (q.refused165 t || (periodic && (q.tickB t || q.pmode t != 0 || decide (q.tf t 3 31 0 < 10000)))) = false := by
    cases periodic <;> simp_all
  exact if_neg (Bool.not_eq_true _ ▸ accepted)

theorem armTime_held (full : 1024 ≤ q.sch.timeList.length) : q.armTime w t periodic = q.armStat w St.held :=
  (armTime_valid valid once).trans (if_pos full)

theorem armTime_enters (space : q.sch.timeList.length < 1024) : q.armTime w t periodic = (q.mapSch fun x => { x with
    timeList := insertEntry ⟨q.armKey w, t, if periodic then some (q.tf t 3 31 0) else none, false⟩ x.timeList }).armStat w St.done :=
  (armTime_valid valid once).trans (if_neg (Nat.not_le.mpr space))

end

end

/-- Settles O31, operation by operation: what it enters or removes, and when it is refused or HELD. -/
theorem arming : Obligations.Arming := by
  intro s iq w task q t ends
  have ends_eq : ends = ArmEnds s iq w := rfl
  clear_value ends
  subst ends_eq
  intro does refused held stands
  have stands_eq : stands = EnteredAs := rfl
  clear_value stands
  subst stands_eq
  intro entry plain writer up
  refine ⟨?bind, ?unbind, ?bindRefused, ?unbindRefused, ?periodicRefused, ?tickPeriod, ?timePeriod, ?onceRefused, ?disarmRefused, ?tickFull,
    ?timeFull, ?tickEnters, ?timeEnters, ?disarm⟩
  case bind =>
    intro unbound aperiodic noEvent noFlow space valid
    exact armEnds_done writer up rfl (armBind_binds up unbound aperiodic noEvent noFlow space valid) rfl
  case unbind => exact fun bound => armEnds_done writer up rfl (armUnbind_unbinds bound) rfl
  case bindRefused => exact fun bad => armEnds_refused writer up rfl (armBind_refused bad)
  case unbindRefused => exact fun unbound => armEnds_refused writer up rfl (armUnbind_refused unbound)
  case periodicRefused =>
    intro bad
    exact ⟨armEnds_refused writer up rfl (armTick_refused (by tauto)), armEnds_refused writer up rfl (armTime_refused (by tauto))⟩
  case tickPeriod => exact fun zero => armEnds_refused writer up rfl (armTick_refused (.inr ⟨rfl, .inr (.inr zero)⟩))
  case timePeriod => exact fun short => armEnds_refused writer up rfl (armTime_refused (.inr ⟨rfl, .inr (.inr short)⟩))
  case onceRefused =>
    intro bad
    exact ⟨armEnds_refused writer up rfl (armTick_refused (.inl bad)), armEnds_refused writer up rfl (armTime_refused (.inl bad))⟩
  case disarmRefused => exact fun aperiodic => armEnds_refused writer up rfl (armDisarm_refused aperiodic)
  case tickFull =>
    intro valid full
    exact ⟨armEnds_held writer up rfl (armTick_held valid nofun full), fun unbound aperiodic period =>
      armEnds_held writer up rfl (armTick_held valid (fun _ => ⟨unbound, aperiodic, period⟩) full)⟩
  case timeFull =>
    intro valid full
    exact ⟨armEnds_held writer up rfl (armTime_held valid nofun full), fun unbound aperiodic period =>
      armEnds_held writer up rfl (armTime_held valid (fun _ => ⟨unbound, aperiodic, period⟩) full)⟩
  case tickEnters =>
    intro valid space
    refine ⟨armEnds_done writer up rfl (armTick_enters (periodic := false) valid nofun space) ?_, fun unbound aperiodic period =>
      armEnds_done writer up rfl (armTick_enters (periodic := true) valid (fun _ => ⟨unbound, aperiodic, period⟩) space) ?_⟩
    all_goals exact ⟨insertEntry_enteredAs .., rfl⟩
  case timeEnters =>
    intro valid space
    refine ⟨armEnds_done writer up rfl (armTime_enters (periodic := false) valid nofun space) ?_, fun unbound aperiodic period =>
      armEnds_done writer up rfl (armTime_enters (periodic := true) valid (fun _ => ⟨unbound, aperiodic, period⟩) space) ?_⟩
    all_goals exact ⟨insertEntry_enteredAs .., rfl⟩
  case disarm =>
    exact fun periodic => armEnds_done writer up rfl (armDisarm_removes periodic) ⟨rfl, fun _ => mem_disarmed, fun _ => mem_disarmed⟩

end Sys2Proof.Machine.Proofs

/-! A queued run starts while its descriptor has an uncorrectable error mark and the fault ring stands over the task table: the record of the
error (R416, R472), which is written before ENTRY is read, replaces word 0 of the descriptor. -/

namespace Sys2Proof.Machine.Proofs

/-- A queued run of task 0, outside any flow. -/
def queuedInst : Inst := ⟨0, 0, 5, 999, false, false, none⟩

/-- The core of position 4, waiting in `req`. -/
def askingCore : Core := { pos := 4, wait := .req, bootFetch := false }

/-- A quadrant in STANDBY with FLT_RG_BASE at the task table: task 0, VALID with ENTRY 0 and allowed on position 4, has an uncorrectable
mark on word 2, CTX. -/
def descriptorMarked : Quad :=
  { Quad.reset with
    regs := [(Reg.FLT_RG_BASE, 0x2200000)]
    mem := [(0x22000002, 1), (0x22000004, 0x10)]
    ecc := [(0x22000008, .uncorr)]
    cores := Quad.reset.cores.set 4 askingCore
    mode := .standby, rst := .past, running := true, tick := 1000
    sch := { queue := [queuedInst], asks := [4] } }

/-- The state whose quadrant 0 is `descriptorMarked`. -/
def entryAtRisk : State := { State.reset with dev := { State.reset.dev with q0 := descriptorMarked } }

/-- The run starts at the address that the low bits of the fault record spell: class 4, the cause of the group in bits 15:8. -/
theorem assigned_pc_ne_zero {t : State} (h : exec (.taskAssign .q0 4) entryAtRisk = .next t) : ((t.quad .q0).core 4).pc.toNat ≠ 0 := by
  rw [(Laws.onQ_next h).1]
  decide +kernel

/-- Refutes O32: an assigned run does not start at ENTRY of its descriptor where the record of an error met in that descriptor is
written over it. -/
theorem not_schedulerEvents : ¬ Obligations.SchedulerEvents := by
  intro h
  obtain ⟨assigned, -⟩ := h entryAtRisk .q0 4 0 0
  have selected : (entryAtRisk.quad .q0).select 4 = some queuedInst := by decide +kernel
  have holder : (entryAtRisk.quad .q0).coreAt 4 = some 4 := by decide +kernel
  obtain ⟨t, ht, -, -, -, -, -, -, pc, -⟩ := assigned queuedInst selected 4 holder (by decide) (by decide +kernel) (by decide +kernel)
    (by decide +kernel) (by decide +kernel) (by decide +kernel)
  have entry : (entryAtRisk.quad .q0).tEntry queuedInst.task % 8192 = 0 := by decide +kernel
  exact assigned_pc_ne_zero ht (pc.trans entry)

end Sys2Proof.Machine.Proofs

/-! What the summing fabric reads of a quadrant and what its pass leaves alone (R197, R200, R211 to R214): the samples of the read views, the
route table, the owners and the weights stay as they are while it stores to write buffers. -/

namespace Sys2Proof.Machine.Proofs
open Laws

/-! ### Words of 40 bits in memory -/

theorem word40_setWord40 {m : Memory} (wf : m.wf) (a : Nat) (v : W40) : (m.setWord40 a v).word40 a = v := by
  rw [Memory.word40, Memory.setWord40, Memory.writeLE, readLE_write_bytesLE m wf]
  exact BitVec.eq_of_toNat_eq (by simp [Nat.mod_eq_of_lt v.isLt])

theorem read_setWord40_ne (m : Memory) {a x : Nat} (v : W40) (h : x < a ∨ a + 5 ≤ x) : (m.setWord40 a v).read x = m.read x :=
  read_writeBytes_ne _ _ _ _ (by simpa using h)

theorem word40_congr {m m' : Memory} {a : Nat} (h : ∀ x, a ≤ x → x < a + 5 → m'.read x = m.read x) : m'.word40 a = m.word40 a := by
  rw [Memory.word40, readLE_congr h, Memory.word40]

theorem wf_setWord40 {m : Memory} (wf : m.wf) (a : Nat) (v : W40) : (m.setWord40 a v).wf := wf_writeBytes m wf _ _

/-! ### What stores of the fabric leave alone -/

/-- A byte of raw buffer `b` of slot `s` (R198). -/
def InRaw (b : Bool) (s a : Nat) : Prop := rawAddr s b 0 ≤ a ∧ a < rawAddr s b 0 + 32

/-- An offset of the XCH_ and RTE_ registers without the owners, or of a register between them. -/
abbrev FabricReg (o : Nat) : Prop := 0x3000 ≤ o ∧ o < 0x8000

/-- A quadrant is another but for what the fabric writes of it: registers of its own, and samples and written masks of slots of `P`. -/
structure FabricOnly (P : Nat → Prop) (q r : Quad) : Prop where
  clean : q.ecc = [] → r.ecc = []
  wf : q.mem.wf → r.mem.wf
  kln : r.kln = q.kln
  tick : r.tick = q.tick
  wbuf : r.fab.wbuf = q.fab.wbuf
  full : r.fab.full = q.fab.full
  regs : ∀ o, ¬ FabricReg o → r.rd o = q.rd o
  masks : ∀ s, ¬ P s → r.fab.masks.get s 0 = q.fab.masks.get s 0
  bytes : ∀ a, (∀ s, P s → s < 4096 → ¬ InRaw q.fab.wbuf s a) → r.mem.read a = q.mem.read a

namespace FabricOnly
variable {P Q : Nat → Prop} {q r t : Quad}

theorem refl (P : Nat → Prop) (q : Quad) : FabricOnly P q q := ⟨id, id, rfl, rfl, rfl, rfl, fun _ _ => rfl, fun _ _ => rfl, fun _ _ => rfl⟩

theorem trans (h : FabricOnly P q r) (h' : FabricOnly P r t) : FabricOnly P q t where
  clean := h'.clean ∘ h.clean
  wf := h'.wf ∘ h.wf
  kln := h'.kln.trans h.kln
  tick := h'.tick.trans h.tick
  wbuf := h'.wbuf.trans h.wbuf
  full := h'.full.trans h.full
  regs o ho := (h'.regs o ho).trans (h.regs o ho)
  masks s hs := (h'.masks s hs).trans (h.masks s hs)
  bytes a ha := (h'.bytes a (h.wbuf.symm ▸ ha)).trans (h.bytes a ha)

theorem mono (h : FabricOnly P q r) (le : ∀ s, P s → Q s) : FabricOnly Q q r :=
  { h with
    masks := fun s hs => h.masks s fun hp => hs (le s hp)
    bytes := fun a ha => h.bytes a fun s hp => ha s (le s hp) }

theorem setFld (P : Nat → Prop) (q : Quad) {f : Field} (v : Nat) (own : FabricReg f.off) : FabricOnly P q (q.setFld f v) :=
  { refl P q with regs := fun _ ho => rd_setFld_ne q f v fun e => ho (e ▸ own) }

theorem count (P : Nat → Prop) (q : Quad) {f : Field} (n : Nat) (own : FabricReg f.off) : FabricOnly P q (q.count f n) := setFld P q _ own

/-- A change of the fabric's own records. -/
theorem mapFab (P : Nat → Prop) (q : Quad) {f : Fabric → Fabric} (wbuf : (f q.fab).wbuf = q.fab.wbuf) (full : (f q.fab).full = q.fab.full)
    (masks : (f q.fab).masks = q.fab.masks) : FabricOnly P q (q.mapFab f) :=
  { refl P q with wbuf := wbuf, full := full, masks := fun s _ => by rw [Quad.mapFab, masks] }

end FabricOnly

theorem fabricOnly_noteLoad (P : Nat → Prop) (q : Quad) : FabricOnly P q q.noteLoad := by
  have noted : FabricOnly P q (q.setFld Reg.RTE_LOADPK_LOAD (max (q.fld Reg.RTE_LOADPK_LOAD) q.rteLoad)) := .setFld P q _ (by decide)
  unfold Quad.noteLoad
  dsimp only
  split
  · exact noted.trans (.setFld P _ _ (by decide))
  · exact noted

/-! ### Samples stored -/

theorem rawAddr_zero (s : Nat) (b : Bool) (j : Nat) : rawAddr s b j = rawAddr s b 0 + 8 * j := by simp [rawAddr]

section
variable {q : Quad} {s : Nat} (usable : s < slotLimit q.fi)
include usable

theorem slotStore_eq (j : Nat) (v : W40) : q.slotStore s j v =
    { q with
      mem := q.mem.setWord40 (rawAddr s q.fab.wbuf j) v
      ecc := q.ecc.del (rawAddr s q.fab.wbuf j)
      fab := { q.fab with masks := q.fab.masks.put s (q.fab.masks.get s 0 ||| BitVec.ofNat 4 (2 ^ (j % 4))) } } :=
  if_neg (Nat.not_le.mpr usable)

end

theorem fabricOnly_slotStore (q : Quad) (s : Nat) {j : Nat} (hj : j < 4) (v : W40) : FabricOnly (· = s) q (q.slotStore s j v) := by
  by_cases usable : s < slotLimit q.fi
  · have low : s < 4096 := by
      refine Nat.lt_of_lt_of_le usable ?_
      unfold slotLimit
      split <;> omega
    rw [slotStore_eq usable]
    refine ⟨fun h => by simp [h, SMap.del], fun h => wf_setWord40 h _ _, rfl, rfl, rfl, rfl, fun _ _ => rfl, fun x hx => ?_, fun a ha => ?_⟩
    · simp [SMap.get, find_put_ne _ _ hx]
    · have outside := ha s rfl low
      refine read_setWord40_ne _ _ ?_
      rw [rawAddr_zero]
      unfold InRaw at outside
      omega
  · have refused : q.slotStore s j v = (q.count Reg.XCH_BADWR_COUNT 1).setFld Reg.XCH_BADWR_SLOT s := if_pos (Nat.not_lt.mp usable)
    rw [refused]
    exact (FabricOnly.count _ q 1 (by decide)).trans (.setFld _ _ _ (by decide))

theorem slotStore4_eq (q : Quad) (s : Nat) (v : List W40) : q.slotStore4 s v =
    (((q.slotStore s 0 (v.getD 0 0)).slotStore s 1 (v.getD 1 0)).slotStore s 2 (v.getD 2 0)).slotStore s 3 (v.getD 3 0) := by
  simp only [Quad.slotStore4, List.foldl]

theorem fabricOnly_slotStore4 (q : Quad) (s : Nat) (v : List W40) : FabricOnly (· = s) q (q.slotStore4 s v) := by
  rw [slotStore4_eq]
  exact (((fabricOnly_slotStore q s (by decide) _).trans (fabricOnly_slotStore _ s (by decide) _)).trans
    (fabricOnly_slotStore _ s (by decide) _)).trans (fabricOnly_slotStore _ s (by decide) _)

/-! ### What the fabric reads -/

namespace FabricOnly
variable {P : Nat → Prop} {q r : Quad} (h : FabricOnly P q r)
include h

theorem fld {f : Field} (other : ¬ FabricReg f.off) : r.fld f = q.fld f := by rw [Quad.fld, h.regs _ other, Quad.fld]

theorem fi : r.fi = q.fi := h.fld (by decide)

theorem kind (s : Nat) : r.kind s = q.kind s := h.fld fun own => by
  have : 0x8000 + 4 * s < 0x8000 := own.2
  omega

theorem rt (i hi lo : Nat) : r.rt i hi lo = q.rt i hi lo := by
  have entry : r.mem.readLE (routeAddr i) 16 = q.mem.readLE (routeAddr i) 16 := by
    refine readLE_congr fun x hx _ => h.bytes x fun s _ low inside => ?_
    have : x < rawAddr s q.fab.wbuf 0 + 32 := inside.2
    cases hb : q.fab.wbuf <;> simp [hb, rawAddr, b2n, routeAddr] at this hx <;> omega
  rw [Quad.rt, entry, Quad.rt]

theorem rSrc (i : Nat) (bank : Bool) : r.rSrc i bank = q.rSrc i bank := by simp only [Quad.rSrc, h.rt]
theorem rGain (i : Nat) (bank : Bool) : r.rGain i bank = q.rGain i bank := by simp only [Quad.rGain, h.rt]
theorem rDst (i : Nat) : r.rDst i = q.rDst i := h.rt i 35 24
theorem rEn (i : Nat) : r.rEn i = q.rEn i := by rw [Quad.rEn, h.rt, Quad.rEn]
theorem rAct (i : Nat) : r.rAct i = q.rAct i := by rw [Quad.rAct, h.rt, Quad.rAct]
theorem rFade (i : Nat) : r.rFade i = q.rFade i := by rw [Quad.rFade, h.rt, Quad.rFade]
theorem rGen (i : Nat) : r.rGen i = q.rGen i := h.rt i 126 123
theorem rCost (i : Nat) : r.rCost i = q.rCost i := by simp only [Quad.rCost, h.rFade, h.rSrc]

theorem substituted (s : Nat) : r.substituted s = q.substituted s := by rw [Quad.substituted, h.full, Quad.substituted]

theorem halfCycles : r.halfCycles = q.halfCycles := by rw [Quad.halfCycles, h.fi, Quad.halfCycles]

theorem weight (g j : Nat) : r.weight g j = q.weight g j := by rw [Quad.weight, h.kln, Quad.weight]

/-- The sample of a read buffer lies in no write buffer. -/
theorem readWord (s : Nat) {j : Nat} (hj : j < 4) :
    r.mem.word40 (rawAddr s (!q.fab.wbuf) j) = q.mem.word40 (rawAddr s (!q.fab.wbuf) j) := by
  refine word40_congr fun x lower upper => h.bytes x fun s' _ _ inside => ?_
  obtain ⟨above, below⟩ := inside
  cases hb : q.fab.wbuf <;> simp only [hb, rawAddr, b2n, Bool.not_true, Bool.not_false, if_true, Bool.false_eq_true, if_false] at * <;> omega

variable (clean : q.ecc = [])
include clean

theorem eccAt (a : Nat) : r.eccAt a = q.eccAt a := by rw [Quad.eccAt, h.clean clean, Quad.eccAt, clean]

theorem readView (s : Nat) {j : Nat} (hj : j < 4) : r.readView s j = q.readView s j := by
  simp only [Quad.readView, h.fi, h.kind, h.substituted, h.eccAt clean, h.readWord s hj, h.wbuf]

theorem entryCheck (i : Nat) : r.entryCheck i = q.entryCheck i := by
  simp only [Quad.entryCheck, h.eccAt clean, h.rEn, h.rDst, h.kind, h.fi, h.rSrc, h.rAct, h.rFade]

theorem contrib (i : Nat) {j : Nat} (hj : j < 4) : r.contrib i j = q.contrib i j := by
  simp only [Quad.contrib, h.rAct, h.rFade, h.rSrc, h.rGain, h.rGen, h.weight, h.readView clean _ hj]

theorem runSums (run : List Nat) : r.runSums run = q.runSums run := by
  unfold Quad.runSums
  refine List.map_congr_left fun j hj => ?_
  have low : j < 4 := by fin_cases hj <;> decide
  simp only [h.contrib clean _ low]

end FabricOnly

/-! ### A slot written -/

/-- The four samples of a slot are stored in its write buffer (R200). -/
structure SlotHolds (q : Quad) (s : Nat) (v : List W40) : Prop where
  mask : q.fab.masks.get s 0 = 15
  words : ∀ j, j < 4 → q.mem.word40 (rawAddr s q.fab.wbuf j) = v.getD j 0

namespace SlotHolds
variable {q r : Quad} {s : Nat} {v : List W40} (h : SlotHolds q s v)
include h

/-- What the fabric stores to other slots leaves it so. -/
theorem kept {P : Nat → Prop} (only : FabricOnly P q r) (other : ¬ P s) : SlotHolds r s v := by
  refine ⟨(only.masks s other).trans h.mask, fun j hj => ?_⟩
  rw [only.wbuf, ← h.words j hj]
  refine word40_congr fun x lower upper => only.bytes x fun s' hs' _ inside => ?_
  have ne : s' ≠ s := fun e => other (e ▸ hs')
  obtain ⟨above, below⟩ := inside
  cases hb : q.fab.wbuf <;> simp only [hb, rawAddr, b2n, if_true, Bool.false_eq_true, if_false] at * <;> omega

theorem writeView (clean : q.ecc = []) (usable : s < slotLimit q.fi) (j : Fin 4) : q.writeView s j.val = v.getD j.val 0 := by
  have unmarked : (q.eccAt (rawAddr s q.fab.wbuf j.val) == .uncorr) = false := by rw [Quad.eccAt, clean]; rfl
  have bit : ∀ j : Fin 4, (15 : BitVec 4).getLsbD j.val = true := by decide
  rw [Quad.writeView, unmarked, if_neg (by decide), if_pos ⟨usable, by rw [h.mask, bit j]⟩, h.words j.val j.isLt]

end SlotHolds

theorem word40_slotStore {q : Quad} {s : Nat} (usable : s < slotLimit q.fi) (wf : q.mem.wf) (j k : Nat) (v : W40) :
    (q.slotStore s j v).mem.word40 (rawAddr s q.fab.wbuf k) = if k = j then v else q.mem.word40 (rawAddr s q.fab.wbuf k) := by
  rw [slotStore_eq usable]
  split
  · next same => rw [same, word40_setWord40 wf]
  · refine word40_congr fun x lower upper => read_setWord40_ne _ _ ?_
    rw [rawAddr_zero] at lower upper ⊢
    omega

theorem masks_slotStore {q : Quad} {s : Nat} (usable : s < slotLimit q.fi) (j : Nat) (v : W40) :
    (q.slotStore s j v).fab.masks.get s 0 = q.fab.masks.get s 0 ||| BitVec.ofNat 4 (2 ^ (j % 4)) := by
  simp [slotStore_eq usable, SMap.get]

/-- Samples stored one after the other stand where they were put. -/
theorem word40_slotStores {q : Quad} {s : Nat} (usable : s < slotLimit q.fi) (wf : q.mem.wf) (v : Nat → W40) (k : Nat) (js : List Nat)
    (low : ∀ j ∈ js, j < 4) : (js.foldl (fun q j => q.slotStore s j (v j)) q).mem.word40 (rawAddr s q.fab.wbuf k) =
      if k ∈ js then v k else q.mem.word40 (rawAddr s q.fab.wbuf k) := by
  induction js generalizing q with
  | nil => simp
  | cons j js ih =>
    obtain ⟨lowJ, low⟩ := List.forall_mem_cons.mp low
    have stored := fabricOnly_slotStore q s lowJ (v j)
    rw [List.foldl_cons, ← stored.wbuf, ih (stored.fi ▸ usable) (stored.wf wf) low, stored.wbuf, word40_slotStore usable wf]
    by_cases tail : k ∈ js
    · simp [tail]
    · by_cases head : k = j <;> simp [tail, head]

theorem mask_complete (m : BitVec 4) : m ||| BitVec.ofNat 4 (2 ^ (0 % 4)) ||| BitVec.ofNat 4 (2 ^ (1 % 4)) ||| BitVec.ofNat 4 (2 ^ (2 % 4)) |||
    BitVec.ofNat 4 (2 ^ (3 % 4)) = 15 := by
  decide +revert

theorem masks_slotStore4 {q : Quad} {s : Nat} (usable : s < slotLimit q.fi) (v : List W40) : (q.slotStore4 s v).fab.masks.get s 0 = 15 := by
  have next : ∀ {q : Quad} {j : Nat} (_ : j < 4) (v : W40), s < slotLimit q.fi → s < slotLimit (q.slotStore s j v).fi :=
    fun hj v usable => lt_of_lt_of_eq usable (congrArg slotLimit (fabricOnly_slotStore _ s hj v).fi.symm)
  have usable1 := next (by decide : 0 < 4) (v.getD 0 0) usable
  have usable2 := next (by decide : 1 < 4) (v.getD 1 0) usable1
  have usable3 := next (by decide : 2 < 4) (v.getD 2 0) usable2
  rw [slotStore4_eq, masks_slotStore usable3, masks_slotStore usable2, masks_slotStore usable1, masks_slotStore usable, mask_complete]

theorem slotStore4_holds {q : Quad} {s : Nat} (usable : s < slotLimit q.fi) (wf : q.mem.wf) (v : List W40) : SlotHolds (q.slotStore4 s v) s v := by
  refine ⟨masks_slotStore4 usable v, fun j hj => ?_⟩
  have written : j ∈ [0, 1, 2, 3] := by simp; omega
  rw [(fabricOnly_slotStore4 q s v).wbuf, Quad.slotStore4, word40_slotStores usable wf (fun j => v.getD j 0) j _ (by decide), if_pos written]

end Sys2Proof.Machine.Proofs

/-! The sums of the fabric: their size, which 96 bits always hold, and the samples extracted from them (R212, R213). -/

namespace Sys2Proof.Machine.Proofs
open Laws

/-! ### A sum extracted (R213) -/

/-- The sample that a sum is extracted to: rounded to nearest, a tie upward, and saturated. -/
def extracted (sum : Int) : W40 := BitVec.ofInt 40 (max (-2 ^ 39) (min ((sum + 2 ^ 30) / 2 ^ 31) (2 ^ 39 - 1)))

/-- A fit that saturates is the nearest value in range. -/
theorem fit_val_saturated (n : Nat) (e : Int) : (fit n e true).val = BitVec.ofInt n (max (-2 ^ (n - 1)) (min e (2 ^ (n - 1) - 1))) := by
  have positive : (0 : Int) < 2 ^ (n - 1) := by positivity
  by_cases h : Fits n e
  · obtain ⟨lower, upper⟩ := h
    rw [fit_of_fits ⟨lower, upper⟩, min_eq_left upper, max_eq_right lower]
  · rw [fit_saturates h]
    unfold Fits at h
    refine congrArg (BitVec.ofInt n) ?_
    split <;> omega

theorem fit_roundShift (e : Int) : (fit 40 (roundShift e 31 0) true).val = extracted e := fit_val_saturated 40 _

/-- The saturated samples of a run counted and shown (R213). -/
theorem fabricOnly_countSaturated (P : Nat → Prop) (q : Quad) (n d : Nat) : FabricOnly P q
    (((q.count Reg.RTE_SAT_COUNT n).setFld Reg.RTE_SAT_SLOT d).mapFab fun b => { b with satW := d :: b.satW }) :=
  ((FabricOnly.count P q n (by decide)).trans (.setFld P _ d (by decide))).trans (.mapFab P _ rfl rfl rfl)

theorem fabricOnly_runWrite (q : Quad) (d : Nat) (sums : List W96) : FabricOnly (· = d) q (q.runWrite d sums) := by
  unfold Quad.runWrite
  dsimp only
  split
  · exact fabricOnly_slotStore4 ..
  · exact (fabricOnly_countSaturated _ q _ d).trans (fabricOnly_slotStore4 ..)

/-- The samples extracted from a run's sums stand in its destination. -/
theorem runWrite_holds {q : Quad} {d : Nat} (usable : d < slotLimit q.fi) (wf : q.mem.wf) (sums : List W96) :
    SlotHolds (q.runWrite d sums) d (sums.map fun s => extracted s.toInt) := by
  have samples : ((sums.map fun s => fit 40 (roundShift s.toInt 31 0) true).map fun x => x.val) = sums.map fun s => extracted s.toInt := by
    rw [List.map_map]
    exact List.map_congr_left fun s _ => fit_roundShift s.toInt
  unfold Quad.runWrite
  dsimp only
  rw [samples]
  split
  · exact slotStore4_holds usable wf _
  · have counted (n : Nat) := fabricOnly_countSaturated (· = d) q n d
    exact slotStore4_holds ((counted _).fi.symm ▸ usable) ((counted _).wf wf) _

/-! ### The size of a sum (R212) -/

/-- An integer of magnitude at most 2^n. -/
def Within (n : Nat) (e : Int) : Prop := -2 ^ n ≤ e ∧ e ≤ 2 ^ n

theorem within_toInt (x : W40) : Within 39 x.toInt := by
  have lower := BitVec.le_toInt x
  have upper := BitVec.toInt_lt (x := x)
  exact ⟨lower, upper.le⟩

theorem within_mul {m n : Nat} {a b : Int} (ha : Within m a) (hb : Within n b) : Within (m + n) (a * b) := by
  have magnitude : |a * b| ≤ 2 ^ (m + n) := by
    rw [abs_mul, pow_add]
    exact mul_le_mul (abs_le.mpr ha) (abs_le.mpr hb) (abs_nonneg b) (by positivity)
  exact abs_le.mp magnitude

theorem within_add {n : Nat} {a b : Int} (ha : Within n a) (hb : Within n b) : Within (n + 1) (a + b) := by
  obtain ⟨la, ua⟩ := ha
  obtain ⟨lb, ub⟩ := hb
  unfold Within
  rw [pow_succ]
  omega

theorem within_succ {n : Nat} {a : Int} (ha : Within n a) : Within (n + 1) a := by
  obtain ⟨la, ua⟩ := ha
  have positive : (0 : Int) < 2 ^ n := by positivity
  unfold Within
  rw [pow_succ]
  omega

theorem within_r40 {e : Int} (h : Within 55 e) : Within 39 (r40 e) := by
  unfold Within r40 at *
  omega

/-- A gain between two gains is no larger than they are. -/
theorem within_between {a b w : Int} (ha : Within 39 a) (hb : Within 39 b) (h0 : 0 ≤ w) (h1 : w ≤ 65536) :
    Within 55 (65536 * a + w * (b - a)) := by
  obtain ⟨la, ua⟩ := ha
  obtain ⟨lb, ub⟩ := hb
  constructor <;> nlinarith

theorem within_weighted {a w : Int} (ha : Within 39 a) (h0 : 0 ≤ w) (h1 : w ≤ 65536) : Within 55 (a * w) := by
  have weight : Within 16 w := ⟨by omega, h1⟩
  exact within_mul ha weight

section
variable {q : Quad} (fades : ∀ f ∈ q.kln.fades, f.i < f.len) {j : Nat} (hj : j < 4)
include fades hj

/-- A generator's weight never passes 1 (R243). -/
theorem weight_le (g : Nat) : q.weight g j ≤ 65536 := by
  unfold Quad.weight
  split
  · next f found =>
    have inside := fades f (List.mem_of_find?_eq_some found)
    refine Nat.div_le_of_le_mul ?_
    rw [Nat.mul_comm]
    exact Nat.mul_le_mul_right _ (by omega)
  · omega

theorem within_contrib (i : Nat) : Within 79 (q.contrib i j) := by
  have gain (b : Bool) : Within 39 (q.rGain i b) := within_toInt _
  have sample (b : Bool) : Within 39 (q.readView (q.rSrc i b) j).toInt := within_toInt _
  have light : (q.weight (q.rGen i) j : Int) ≤ 65536 := by exact_mod_cast weight_le fades hj _
  unfold Quad.contrib
  dsimp only
  split
  · exact within_succ (within_mul (gain _) (sample _))
  · split
    · exact within_succ (within_mul (within_r40 (within_between (gain _) (gain _) (by omega) light)) (sample _))
    · exact within_add (within_mul (within_r40 (within_weighted (gain _) (by omega) (by omega))) (sample _))
        (within_mul (within_r40 (within_weighted (gain _) (by omega) light)) (sample _))

theorem sum_contrib_bounds (run : List Nat) :
    -(2 ^ 79 * run.length : Int) ≤ (run.map fun i => q.contrib i j).sum ∧ (run.map fun i => q.contrib i j).sum ≤ 2 ^ 79 * run.length := by
  induction run with
  | nil => simp
  | cons i run ih =>
    obtain ⟨lower, upper⟩ := within_contrib fades hj i
    simp only [List.map_cons, List.sum_cons, List.length_cons]
    push_cast
    omega

/-- The accumulator holds the sum of the longest run exactly. -/
theorem toInt_runSum {run : List Nat} (short : run.length ≤ 32768) :
    (BitVec.ofInt 96 ((run.map fun i => q.contrib i j).sum)).toInt = (run.map fun i => q.contrib i j).sum := by
  obtain ⟨lower, upper⟩ := sum_contrib_bounds fades hj run
  have size : (run.length : Int) ≤ 32768 := by exact_mod_cast short
  exact toInt_ofInt_of_fits (by decide) ⟨by norm_num; omega, by norm_num; omega⟩

end

theorem runSums_getD (q : Quad) (run : List Nat) {j : Nat} (hj : j < 4) :
    (q.runSums run).getD j 0 = BitVec.ofInt 96 ((run.map fun i => q.contrib i j).sum) := by
  unfold Quad.runSums
  obtain rfl | rfl | rfl | rfl : j = 0 ∨ j = 1 ∨ j = 2 ∨ j = 3 := by omega
  all_goals rfl

/-- The sample that a run gives its destination. -/
theorem runSample (q : Quad) (run : List Nat) {j : Nat} (hj : j < 4) :
    ((q.runSums run).map fun s => extracted s.toInt).getD j 0 = extracted ((q.runSums run).getD j 0).toInt := by
  unfold Quad.runSums
  obtain rfl | rfl | rfl | rfl : j = 0 ∨ j = 1 ∨ j = 2 ∨ j = 3 := by omega
  all_goals rfl

end Sys2Proof.Machine.Proofs

/-! The pass of the fabric (R208, R209, R211, R213, R214): its runs, the samples that it gives their destinations, and the zeros of slots without
a run. -/

namespace Sys2Proof.Machine.Proofs
open Laws

/-! ### Runs (R209) -/

/-- The finished runs with the one that is being formed, whose newest entry stands first. -/
def finished (cur : Option (Nat × List Nat)) (done : List (Nat × List Nat)) : List (Nat × List Nat) :=
  match cur with
  | some r => (r.1, r.2.reverse) :: done
  | none => done

/-- The runs of contributing entries, by their destinations alone. -/
def runsOf (dst : Nat → Nat) : List Nat → Option (Nat × List Nat) → List (Nat × List Nat) → List (Nat × List Nat)
  | [], cur, done => (finished cur done).reverse
  | i :: t, none, done => runsOf dst t (some (dst i, [i])) done
  | i :: t, some (c, m), done =>
    if c = dst i then runsOf dst t (some (c, i :: m)) done
    else if done.any fun r => r.1 == dst i then runsOf dst t (some (c, m)) done
    else runsOf dst t (some (dst i, [i])) ((c, m.reverse) :: done)

/-- The products of some runs, by those of each entry. -/
def productsOf (cost : Nat → Nat) (runs : List (Nat × List Nat)) : Nat := (runs.map fun r => (r.2.map cost).sum).sum

/-- No run of a destination. -/
def NoRunOf (d : Nat) (runs : List (Nat × List Nat)) : Prop := ∀ r ∈ runs, r.1 ≠ d

theorem noRunOf_cons {d : Nat} {r : Nat × List Nat} {runs : List (Nat × List Nat)} :
    NoRunOf d (r :: runs) ↔ r.1 ≠ d ∧ NoRunOf d runs := List.forall_mem_cons

section
variable {dst : Nat → Nat} {d : Nat}

theorem any_dst_eq_false {runs : List (Nat × List Nat)} (h : NoRunOf d runs) : (runs.any fun r => r.1 == d) = false :=
  List.any_eq_false.mpr fun r hr => by simpa using h r hr

/-- An entry of a destination without a run starts one. -/
theorem runsOf_starts {i : Nat} (hi : dst i = d) (t : List Nat) {cur : Option (Nat × List Nat)} {done : List (Nat × List Nat)}
    (new : NoRunOf d (finished cur done)) : runsOf dst (i :: t) cur done = runsOf dst t (some (d, [i])) (finished cur done) := by
  cases cur with
  | none => rw [runsOf, hi]; rfl
  | some c =>
    obtain ⟨other, new⟩ := noRunOf_cons.mp new
    rw [runsOf, hi, if_neg other, any_dst_eq_false new, if_neg Bool.false_ne_true]
    rfl

/-- The entries of a run go on with it. -/
theorem runsOf_goes_on (run l m : List Nat) (done : List (Nat × List Nat)) (hrun : ∀ i ∈ run, dst i = d) :
    runsOf dst (run ++ l) (some (d, m)) done = runsOf dst l (some (d, run.reverse ++ m)) done := by
  induction run generalizing m with
  | nil => rfl
  | cons i run ih =>
    obtain ⟨hi, hrun⟩ := List.forall_mem_cons.mp hrun
    rw [List.cons_append, runsOf, hi, if_pos rfl, ih _ hrun]
    simp

/-- Entries of other destinations leave the runs that are finished and add none of this one. -/
theorem runsOf_others (l : List Nat) (cur : Option (Nat × List Nat)) (done : List (Nat × List Nat)) (hl : ∀ i ∈ l, dst i ≠ d)
    (hcur : NoRunOf d (finished cur [])) : ∃ after, runsOf dst l cur done = done.reverse ++ after ∧ NoRunOf d after := by
  induction l generalizing cur done with
  | nil =>
    refine ⟨finished cur [], ?_, hcur⟩
    cases cur <;> simp [runsOf, finished]
  | cons i t ih =>
    obtain ⟨hi, ht⟩ := List.forall_mem_cons.mp hl
    have fresh : NoRunOf d (finished (some (dst i, [i])) []) := noRunOf_cons.mpr ⟨hi, nofun⟩
    match cur with
    | none => exact ih _ _ ht fresh
    | some (c, m) =>
      have other : c ≠ d := (noRunOf_cons.mp hcur).1
      have same (m : List Nat) : NoRunOf d (finished (some (c, m)) []) := noRunOf_cons.mpr ⟨other, nofun⟩
      unfold runsOf
      split
      · exact ih _ _ ht (same _)
      · split
        · exact ih _ _ ht (same _)
        · obtain ⟨after, eq, none⟩ := ih (some (dst i, [i])) ((c, m.reverse) :: done) ht fresh
          exact ⟨(c, m.reverse) :: after, by simp [eq], noRunOf_cons.mpr ⟨other, none⟩⟩

/-- The run that is being formed is finished by the first entry of another destination, or at the end. -/
theorem runsOf_ends (l m : List Nat) (done : List (Nat × List Nat)) (hl : ∀ i ∈ l, dst i ≠ d) :
    ∃ after, runsOf dst l (some (d, m)) done = done.reverse ++ (d, m.reverse) :: after ∧ NoRunOf d after := by
  induction l with
  | nil => exact ⟨[], by simp [runsOf, finished], nofun⟩
  | cons i t ih =>
    obtain ⟨hi, ht⟩ := List.forall_mem_cons.mp hl
    rw [runsOf, if_neg (Ne.symm hi)]
    split
    · exact ih ht
    · obtain ⟨after, eq, none⟩ := runsOf_others t (some (dst i, [i])) ((d, m.reverse) :: done) ht (noRunOf_cons.mpr ⟨hi, nofun⟩)
      exact ⟨after, by simp [eq], none⟩

theorem productsOf_cons (cost : Nat → Nat) (r : Nat × List Nat) (runs : List (Nat × List Nat)) :
    productsOf cost (r :: runs) = (r.2.map cost).sum + productsOf cost runs := rfl

theorem productsOf_reverse (cost : Nat → Nat) (runs : List (Nat × List Nat)) : productsOf cost runs.reverse = productsOf cost runs := by
  simp [productsOf]

theorem sum_map_reverse (cost : Nat → Nat) (m : List Nat) : (m.reverse.map cost).sum = (m.map cost).sum := by simp

/-- A destination's entries that stand together are one run, whatever stands before and behind them. -/
theorem runsOf_run (cost : Nat → Nat) (l1 run l2 : List Nat) (hrun : ∀ i ∈ run, dst i = d) (some : run ≠ []) (h1 : ∀ i ∈ l1, dst i ≠ d)
    (h2 : ∀ i ∈ l2, dst i ≠ d) (cur : Option (Nat × List Nat)) (done : List (Nat × List Nat)) (new : NoRunOf d (finished cur done)) :
    ∃ before after, runsOf dst (l1 ++ run ++ l2) cur done = before ++ (d, run) :: after ∧ NoRunOf d after ∧
      productsOf cost before ≤ productsOf cost (finished cur done) + (l1.map cost).sum := by
  induction l1 generalizing cur done with
  | nil =>
    obtain ⟨i, run, rfl⟩ := List.exists_cons_of_ne_nil some
    obtain ⟨hi, hrun⟩ := List.forall_mem_cons.mp hrun
    obtain ⟨after, eq, none⟩ := runsOf_ends l2 (run.reverse ++ [i]) (finished cur done) h2
    refine ⟨(finished cur done).reverse, after, ?_, none, by simp [productsOf_reverse]⟩
    rw [List.nil_append, List.cons_append, runsOf_starts hi _ new, runsOf_goes_on _ _ _ _ hrun, eq]
    simp
  | cons i t ih =>
    obtain ⟨hi, ht⟩ := List.forall_mem_cons.mp h1
    have reached {cur' : Option (Nat × List Nat)} {done' : List (Nat × List Nat)} (new : NoRunOf d (finished cur' done'))
        (next : runsOf dst (i :: (t ++ run ++ l2)) cur done = runsOf dst (t ++ run ++ l2) cur' done')
        (cheap : productsOf cost (finished cur' done') ≤ productsOf cost (finished cur done) + cost i) :
        ∃ before after, runsOf dst (i :: (t ++ run ++ l2)) cur done = before ++ (d, run) :: after ∧ NoRunOf d after ∧
          productsOf cost before ≤ productsOf cost (finished cur done) + ((i :: t).map cost).sum := by
      obtain ⟨before, after, eq, none, le⟩ := ih ht cur' done' new
      refine ⟨before, after, next.trans eq, none, ?_⟩
      simp only [List.map_cons, List.sum_cons]
      omega
    match cur with
    | none =>
      exact reached (cur' := Option.some (dst i, [i])) (done' := done) (noRunOf_cons.mpr ⟨hi, new⟩) rfl
        (by simp [finished, productsOf_cons, Nat.add_comm])
    | Option.some (c, m) =>
      obtain ⟨other, new⟩ := noRunOf_cons.mp new
      by_cases same : c = dst i
      · refine reached (cur' := Option.some (c, i :: m)) (done' := done) (noRunOf_cons.mpr ⟨other, new⟩) (if_pos same) ?_
        simp only [finished, productsOf_cons, sum_map_reverse, List.map_cons, List.sum_cons]
        omega
      · by_cases ended : (done.any fun r => r.1 == dst i) = true
        · exact reached (cur' := Option.some (c, m)) (done' := done) (noRunOf_cons.mpr ⟨other, new⟩)
            (by rw [runsOf, if_neg same, if_pos ended]) (Nat.le_add_right _ _)
        · refine reached (cur' := Option.some (dst i, [i])) (done' := (c, m.reverse) :: done)
            (noRunOf_cons.mpr ⟨hi, noRunOf_cons.mpr ⟨other, new⟩⟩) (by rw [runsOf, if_neg same, if_neg ended]) ?_
          simp [finished, productsOf_cons, Nat.add_comm]

end

/-! ### Reading without errors (R220) -/

section
variable {q : Quad} (clean : q.ecc = [])
include clean

theorem eccAt_clean (a : Nat) : q.eccAt a = .clean := by rw [Quad.eccAt, clean]; rfl

theorem entryCheck_ne_drop (i : Nat) : q.entryCheck i ≠ .drop := by
  unfold Quad.entryCheck
  rw [eccAt_clean clean, eccAt_clean clean, if_neg (by decide)]
  repeat' split
  all_goals exact nofun

theorem readEntry_clean (i : Nat) : q.readEntry i = q := by
  have read : (q.entryCheck i == .drop) = false := beq_false_of_ne (entryCheck_ne_drop clean i)
  have corrected : ([routeAddr i, routeAddr i + 8].filter fun a => q.eccAt a == .corr) = [] := by simp [eccAt_clean clean]
  simp [Quad.readEntry, corrected, read]

theorem countSources_clean (run : List Nat) : q.countSources run = q := by
  simp [Quad.countSources, eccAt_clean clean]

end

section
variable {q : Quad} (clean : q.ecc = []) {i : Nat} (ok : q.entryCheck i = .ok) (t : List Nat) (done : List (Nat × List Nat))
include clean ok

theorem formRuns_first : q.formRuns (i :: t) none done = q.formRuns t (some (q.rDst i, [i])) done := by
  conv_lhs => unfold Quad.formRuns
  dsimp only
  rw [readEntry_clean clean, ok]

theorem formRuns_next (c : Nat) (m : List Nat) : q.formRuns (i :: t) (some (c, m)) done =
    if c = q.rDst i then q.formRuns t (some (c, i :: m)) done
    else if done.any fun r => r.1 == q.rDst i then (q.count Reg.RTE_ERR_SPLIT 1).formRuns t (some (c, m)) done
    else q.formRuns t (some (q.rDst i, [i])) ((c, m.reverse) :: done) := by
  conv_lhs => unfold Quad.formRuns
  dsimp only
  rw [readEntry_clean clean, ok]

end

/-- The runs of entries that all contribute; the pass counts those that it skips under R209. -/
theorem formRuns_clean {q : Quad} (clean : q.ecc = []) (l : List Nat) (ok : ∀ i ∈ l, q.entryCheck i = .ok) (cur : Option (Nat × List Nat))
    (done : List (Nat × List Nat)) :
    (q.formRuns l cur done).2 = runsOf q.rDst l cur done ∧ FabricOnly (fun _ => False) q (q.formRuns l cur done).1 := by
  induction l generalizing q cur done with
  | nil =>
    refine ⟨?_, .refl _ q⟩
    cases cur <;> rfl
  | cons i t ih =>
    obtain ⟨okI, ok⟩ := List.forall_mem_cons.mp ok
    match cur with
    | none =>
      rw [formRuns_first clean okI, runsOf]
      exact ih clean ok _ _
    | some (c, m) =>
      rw [formRuns_next clean okI, runsOf]
      by_cases same : c = q.rDst i
      · rw [if_pos same, if_pos same]
        exact ih clean ok _ _
      · rw [if_neg same, if_neg same]
        split
        · have counted : FabricOnly (fun _ => False) q (q.count Reg.RTE_ERR_SPLIT 1) := .count _ q 1 (by decide)
          obtain ⟨runs, only⟩ := ih (counted.clean clean) (fun i hi => (counted.entryCheck clean i).trans (ok i hi)) (some (c, m)) done
          exact ⟨runs.trans (by rw [funext counted.rDst]), counted.trans only⟩
        · exact ih clean ok _ _

/-! ### The main pass (R213) -/

section
variable {q : Quad} (clean : q.ecc = [])
include clean

theorem mainPass_cons (d : Nat) (run : List Nat) (t : List (Nat × List Nat)) (p : Nat) : q.mainPass [] ((d, run) :: t) p =
    if 1024 + ceilDiv (p + (run.map q.rCost).sum) 2 + 4 > fclkPerTick q.fi then q.mainPass [] t (p + (run.map q.rCost).sum)
    else (q.runWrite d (q.runSums run)).mainPass [] t (p + (run.map q.rCost).sum) := by
  rw [Quad.mainPass, countSources_clean clean]
  rfl

/-- The main pass writes the destinations of its runs. -/
theorem fabricOnly_mainPass (runs : List (Nat × List Nat)) (p : Nat) :
    FabricOnly (fun s => ∃ r ∈ runs, r.1 = s) q (q.mainPass [] runs p).1 := by
  induction runs generalizing q p with
  | nil => exact .refl _ q
  | cons r t ih =>
    obtain ⟨d, run⟩ := r
    have later (s : Nat) (hs : ∃ r ∈ t, r.1 = s) : ∃ r ∈ (d, run) :: t, r.1 = s := by
      obtain ⟨r, hr, e⟩ := hs
      exact ⟨r, .tail _ hr, e⟩
    rw [mainPass_cons clean]
    split
    · exact (ih clean _).mono later
    · have written := fabricOnly_runWrite q d (q.runSums run)
      exact (written.mono fun s e => ⟨_, .head _, e.symm⟩).trans ((ih (written.clean clean) _).mono later)

theorem mainPass_products (runs : List (Nat × List Nat)) (p : Nat) : (q.mainPass [] runs p).2 = p + productsOf q.rCost runs := by
  induction runs generalizing q p with
  | nil => rfl
  | cons r t ih =>
    obtain ⟨d, run⟩ := r
    rw [mainPass_cons clean, productsOf_cons, ← Nat.add_assoc]
    split
    · exact ih clean _
    · have written := fabricOnly_runWrite q d (q.runSums run)
      rw [ih (written.clean clean), funext written.rCost]

theorem mainPass_append (a b : List (Nat × List Nat)) (p : Nat) :
    q.mainPass [] (a ++ b) p = (q.mainPass [] a p).1.mainPass [] b (q.mainPass [] a p).2 := by
  induction a generalizing q p with
  | nil => rfl
  | cons r t ih =>
    obtain ⟨d, run⟩ := r
    rw [List.cons_append, mainPass_cons clean, mainPass_cons clean]
    split
    · exact ih clean _
    · exact ih ((fabricOnly_runWrite q d _).clean clean) _

/-- A run that the tick has time for gives its destination the samples extracted from its sums. -/
theorem mainPass_holds (wf : q.mem.wf) {d : Nat} (usable : d < slotLimit q.fi) (run : List Nat) (before after : List (Nat × List Nat))
    (last : NoRunOf d after) (time : 2048 + (productsOf q.rCost before + (run.map q.rCost).sum) + 9 ≤ q.halfCycles) :
    SlotHolds (q.mainPass [] (before ++ (d, run) :: after) 0).1 d ((q.runSums run).map fun s => extracted s.toInt) := by
  have first := fabricOnly_mainPass clean before 0
  have cleanFirst := first.clean clean
  rw [mainPass_append clean, mainPass_products clean, Nat.zero_add]
  generalize (q.mainPass [] before 0).1 = r at first cleanFirst
  rw [mainPass_cons cleanFirst, funext first.rCost, first.runSums clean, first.fi]
  have inTime : ¬ 1024 + ceilDiv (productsOf q.rCost before + (run.map q.rCost).sum) 2 + 4 > fclkPerTick q.fi := by
    unfold Quad.halfCycles at time
    unfold ceilDiv
    omega
  rw [if_neg inTime]
  have written := fabricOnly_runWrite r d (q.runSums run)
  refine (runWrite_holds (first.fi.symm ▸ usable) (first.wf wf) _).kept (fabricOnly_mainPass (written.clean cleanFirst) after _) ?_
  rintro ⟨x, hx, e⟩
  exact last x hx e

end

/-! ### Slots without a run (R214) -/

/-- Four zeros written to some slots. -/
def zeroSlots (q : Quad) (slots : List Nat) : Quad := slots.foldl (fun q s => q.slotStore4 s [0, 0, 0, 0]) q

theorem zeroSlots_cons (q : Quad) (s : Nat) (t : List Nat) : zeroSlots q (s :: t) = zeroSlots (q.slotStore4 s [0, 0, 0, 0]) t := by
  rw [zeroSlots, List.foldl_cons, zeroSlots]

theorem fabricOnly_zeroSlots (q : Quad) (slots : List Nat) : FabricOnly (· ∈ slots) q (zeroSlots q slots) := by
  induction slots generalizing q with
  | nil => exact .refl _ q
  | cons s t ih =>
    rw [zeroSlots_cons]
    exact ((fabricOnly_slotStore4 q s [0, 0, 0, 0]).mono fun x e => List.mem_cons.mpr (.inl e)).trans
      ((ih _).mono fun x => List.mem_cons_of_mem s)

theorem zeroSlots_keeps {q : Quad} {d : Nat} (usable : d < slotLimit q.fi) (wf : q.mem.wf) (slots : List Nat)
    (h : d ∈ slots ∨ SlotHolds q d [0, 0, 0, 0]) : SlotHolds (zeroSlots q slots) d [0, 0, 0, 0] := by
  induction slots generalizing q with
  | nil => exact h.resolve_left List.not_mem_nil
  | cons s t ih =>
    rw [zeroSlots_cons]
    have stored := fabricOnly_slotStore4 q s [0, 0, 0, 0]
    refine ih (stored.fi.symm ▸ usable) (stored.wf wf) ?_
    by_cases same : d = s
    · exact .inr (same ▸ slotStore4_holds (same ▸ usable) wf _)
    · exact h.imp (fun listed => (List.mem_cons.mp listed).resolve_left same) fun holds => holds.kept stored same

end Sys2Proof.Machine.Proofs

/-! The registers of the slots' owners (R201, R206), and the slots that have an owner. -/

namespace Sys2Proof.Machine.Proofs
open Laws

/-- The row of the owners of the slots. -/
def ownerRow : RegRow := ⟨0x8000, 4, 4096, 0xFFF7, 0, 0, 0, 0, 0⟩

/-- The rows listed before that of the owners. -/
def rowsBeforeOwners : List RegRow := quadRows0 ++ quadRows1.take 7

theorem quadRows_eq_append : quadRows = rowsBeforeOwners ++ ownerRow ::
    (quadRows1.drop 8 ++ quadRows2 ++ quadRows3 ++ quadRows4 ++ quadRows5 ++ quadRows6 ++ quadRows7 ++ quadRows8) := rfl

/-- A row holds no offset outside its registers. -/
theorem has_eq_false {r : RegRow} {off : Nat} (h : off < r.base ∨ off ≠ r.base ∧ r.base + r.stride * r.count ≤ off) : r.has off = false := by
  unfold RegRow.has
  by_contra inside
  simp only [Bool.not_eq_false, Bool.and_eq_true, decide_eq_true_eq] at inside
  obtain ⟨above, inside⟩ := inside
  obtain ⟨away, beyond⟩ := h.resolve_left (Nat.not_lt.mpr above)
  split at inside
  · exact away (of_decide_eq_true inside)
  · next wide =>
    obtain ⟨-, low⟩ := of_decide_eq_true inside
    have := (Nat.div_lt_iff_lt_mul (Nat.pos_of_ne_zero wide)).mp low
    rw [Nat.mul_comm] at this
    omega

theorem rowOf_owner {s : Nat} (hs : s < 4096) : rowOf quadRows (Reg.XCH_OWN s) = some ownerRow := by
  have away : ∀ r ∈ rowsBeforeOwners, 0xC000 ≤ r.base ∨ r.base < 0x8000 ∧ r.base + r.stride * r.count ≤ 0x8000 := by decide
  refine List.find?_eq_some_iff_append.mpr ⟨?_, _, _, quadRows_eq_append, fun r hr => ?_⟩
  · simp [RegRow.has, ownerRow, Reg.XCH_OWN, hs]
  · rw [has_eq_false, Bool.not_false]
    have := away r hr
    unfold Reg.XCH_OWN
    omega

/-- No slot has an owner after a reset. -/
theorem quadReset_owner {s : Nat} (hs : s < 4096) : quadReset (Reg.XCH_OWN s) = 0 := by
  have special : resetSpecial (Reg.XCH_OWN s) = 0 := by
    unfold resetSpecial Reg.XCH_OWN Reg.CLK_REFCFG Reg.ASR_GRP Reg.BUS_QOS Reg.BUS_DDRSTAT
    rw [if_neg (by omega), if_neg (by omega), if_neg (by omega), if_neg (by omega), if_neg (by omega)]
  rw [quadReset, rowOf_owner hs]
  dsimp only
  rw [special]
  rfl

theorem mem_of_find {α : Type} {m : SMap α} {k : Nat} {v : α} (h : m.find k = some v) : (k, v) ∈ m := by
  induction m with
  | nil => cases h
  | cons e t ih =>
    obtain ⟨j, w⟩ := e
    unfold SMap.find at h
    split at h
    · next same =>
      obtain rfl : w = v := Option.some.inj h
      exact same ▸ .head _
    · exact .tail _ (ih h)

/-- A slot of a kind other than unused is listed. -/
theorem mem_ownedSlots {q : Quad} {s : Nat} (hs : s < 4096) (owned : q.kind s ≠ 0) : s ∈ q.ownedSlots := by
  have kind : q.kind s = (q.rd (Reg.XCH_OWN s)).toNat % 8 := by
    simp [Quad.kind, Quad.fld, Field.get, Reg.XCH_OWN_KIND, Reg.XCH_OWN]
  rw [kind, Quad.rd] at owned
  cases h : q.regs.find (Reg.XCH_OWN s) with
  | none =>
    rw [h, Option.getD_none, quadReset_owner hs] at owned
    exact absurd rfl owned
  | some v =>
    rw [h, Option.getD_some] at owned
    refine List.mem_filterMap.mpr ⟨_, mem_of_find h, ?_⟩
    have low : Reg.XCH_OWN 0 ≤ Reg.XCH_OWN s ∧ Reg.XCH_OWN s < Reg.XCH_OWN 4096 := by unfold Reg.XCH_OWN; omega
    have index : (Reg.XCH_OWN s - Reg.XCH_OWN 0) / 4 = s := by unfold Reg.XCH_OWN; omega
    rw [if_pos ⟨low.1, low.2, owned⟩, index]

end Sys2Proof.Machine.Proofs

/-! A pass in RUN (R207 to R214, R243). -/

namespace Sys2Proof.Machine.Proofs
open Laws

/-- A note of the load changes registers and nothing else. -/
theorem noteLoad_frame (q : Quad) : q.noteLoad = { q with regs := q.noteLoad.regs } := by
  unfold Quad.noteLoad
  dsimp only
  split <;> rfl

theorem routes_noteLoad (q : Quad) : q.noteLoad.routes = q.routes := by rw [noteLoad_frame]; rfl

/-- The pass begins: the quadrant with skipped entries counted, and the runs. -/
def formedRuns (q : Quad) : Quad × List (Nat × List Nat) := q.noteLoad.formRuns q.noteLoad.passEntries none []

/-- The main pass without upsets: the quadrant, and the products that it took. -/
def mainPassed (q : Quad) : Quad × Nat := (formedRuns q).1.mainPass [] (formedRuns q).2 0

/-- The fabric's slots without a run. -/
def bareSlots (q : Quad) (runs : List (Nat × List Nat)) : List Nat :=
  q.ownedSlots.filter fun s => q.kind s == 3 && !(runs.any fun r => r.1 == s) && decide (s < slotLimit q.fi)

/-- The pass with its zeros, before it is marked as made. -/
def passedSlots (q : Quad) : Quad :=
  if 2048 + (mainPassed q).2 ≤ (mainPassed q).1.halfCycles then zeroSlots (mainPassed q).1 (bareSlots (mainPassed q).1 (formedRuns q).2)
  else (mainPassed q).1

theorem pass_eq (q : Quad) : q.pass [] = (passedSlots q).mapFab fun f => { f with passed := true, mainEnd := 2048 + (mainPassed q).2 } := by
  unfold passedSlots zeroSlots bareSlots mainPassed formedRuns Quad.pass
  rfl

section
variable {q : Quad} (clean : q.ecc = [])
include clean

theorem passEntries_clean (low : ∀ i ∈ q.routes, q.fi = 2 → i < 16384) : q.noteLoad.passEntries = q.routes := by
  have only := fabricOnly_noteLoad (fun _ => False) q
  unfold Quad.passEntries
  rw [only.clean clean, only.fi, routes_noteLoad]
  refine List.filter_eq_self.mpr fun i hi => ?_
  by_cases fast : q.fi = 2
  · simp [low i hi fast]
  · simp [fast]

variable (ok : ∀ i ∈ q.routes, q.entryCheck i = .ok ∧ (q.fi = 2 → i < 16384))
include ok

/-- The runs of a table whose enabled entries all contribute. -/
theorem formedRuns_clean : (formedRuns q).2 = runsOf q.rDst q.routes none [] ∧ FabricOnly (fun _ => False) q (formedRuns q).1 := by
  have only := fabricOnly_noteLoad (fun _ => False) q
  obtain ⟨runs, counted⟩ := formRuns_clean (only.clean clean) q.routes
    (fun i hi => (only.entryCheck clean i).trans (ok i hi).1) none []
  rw [formedRuns, passEntries_clean clean fun i hi => (ok i hi).2]
  exact ⟨runs.trans (by rw [funext only.rDst]), only.trans counted⟩

theorem fabricOnly_passedSlots : FabricOnly (fun _ => True) q (passedSlots q) := by
  obtain ⟨-, formed⟩ := formedRuns_clean clean ok
  have main := (formed.mono fun _ _ => trivial).trans
    ((fabricOnly_mainPass (formed.clean clean) (formedRuns q).2 0).mono (Q := fun _ => True) fun _ _ => trivial)
  unfold passedSlots
  split
  · exact main.trans ((fabricOnly_zeroSlots _ _).mono fun _ _ => trivial)
  · exact main

variable {d : Nat} (usable : d < slotLimit q.fi)
include usable

/-- The pass keeps what stands in a slot after it. -/
theorem pass_holds {v : List W40} (h : SlotHolds (passedSlots q) d v) (j : Fin 4) :
    (q.pass []).fab.passed = true ∧ (q.pass []).fab.masks.get d 0 = 15 ∧ (q.pass []).tick = q.tick ∧
      (q.pass []).writeView d j.val = v.getD j.val 0 := by
  have only := fabricOnly_passedSlots clean ok
  rw [pass_eq]
  generalize passedSlots q = r at h only
  generalize (mainPassed q).2 = p
  have marked : FabricOnly (fun _ => False) r (r.mapFab fun f => { f with passed := true, mainEnd := 2048 + p }) := .mapFab _ r rfl rfl rfl
  have made := only.trans (marked.mono fun _ => False.elim)
  have kept := h.kept marked id
  exact ⟨rfl, kept.mask, made.tick, kept.writeView (made.clean clean) (lt_of_lt_of_eq usable (congrArg slotLimit made.fi.symm)) j⟩

end

end Sys2Proof.Machine.Proofs

/-! The sums that a pass in RUN gives (R207 to R214, R243). -/

namespace Sys2Proof.Machine.Proofs
open Laws

@[simp] theorem commit_writeView (q : Quad) (s j : Nat) : q.commit.writeView s j = q.writeView s j := by
  unfold Quad.writeView
  rw [show q.commit.mem.word40 (rawAddr s q.commit.fab.wbuf j) = q.mem.word40 (rawAddr s q.fab.wbuf j) from word40_normal ..]
  rfl

/-- A pass finds nothing of Kiln's left to do at its boundary (R211). -/
theorem fabricPass_eq {q : Quad} (mode : q.mode = .run) (running : q.running = true) (first : q.fab.passed = false)
    (served : q.kln.served = true) (fades : ∀ f ∈ q.kln.fades, f.i < f.len)
    (commits : ∀ p ∈ q.kln.prepared, p.committed = true → p.t ≠ q.tick) : q.fabricPass [] = q.pass [] := by
  have noEnd : (q.kln.fades.filter fun f => decide (f.i ≥ f.len)) = [] :=
    List.filter_eq_nil_iff.mpr fun f hf => by simpa using fades f hf
  have noEffect : (q.kln.prepared.filter fun p => p.committed && p.t == q.tick) = [] :=
    List.filter_eq_nil_iff.mpr fun p hp => by simpa using commits p hp
  have done : q.kilnDue = q := by simp [Quad.kilnDue, Quad.generatorRetry, noEnd, noEffect, served]
  rw [Quad.fabricPass, mode, running, first, done]
  rfl

theorem slotLimit_le (fi : Nat) : slotLimit fi ≤ 4096 := by
  unfold slotLimit
  split <;> decide

theorem halfCycles_ge (q : Quad) : 2048 ≤ q.halfCycles := by
  unfold Quad.halfCycles fclkPerTick cclkPerTick
  repeat' split
  all_goals decide

section
variable {q : Quad} (clean : q.ecc = []) (wf : q.mem.wf) {d : Nat} (usable : d < slotLimit q.fi)
include clean wf usable

/-- Without an enabled entry every slot of the fabric has zeros (R214). -/
theorem passedSlots_zero (bare : q.routes = []) (owned : q.kind d = 3) : SlotHolds (passedSlots q) d [0, 0, 0, 0] := by
  obtain ⟨runs, formed⟩ := formedRuns_clean clean (by simp [bare])
  rw [bare] at runs
  have usable : d < slotLimit (formedRuns q).1.fi := formed.fi.symm ▸ usable
  have kind : (formedRuns q).1.kind d = 3 := (formed.kind d).trans owned
  have main : mainPassed q = ((formedRuns q).1, 0) := by
    rw [mainPassed, runs]
    rfl
  have listed : d ∈ bareSlots (formedRuns q).1 (formedRuns q).2 := by
    rw [runs]
    refine List.mem_filter.mpr ⟨mem_ownedSlots (Nat.lt_of_lt_of_le usable (slotLimit_le _)) (by rw [kind]; decide), ?_⟩
    rw [kind]
    simpa [runsOf, finished] using usable
  unfold passedSlots
  rw [main, if_pos (show 2048 + 0 ≤ _ from halfCycles_ge _)]
  exact zeroSlots_keeps usable (formed.wf wf) _ (.inl listed)

/-- A run of any place in the table that the tick has time for gives its destination the samples of its sums (R213). -/
theorem passedSlots_run {l1 run l2 : List Nat} (routes : q.routes = l1 ++ run ++ l2) (some : run ≠ [])
    (ok : ∀ i ∈ q.routes, q.entryCheck i = .ok ∧ (q.fi = 2 → i < 16384)) (into : ∀ i ∈ run, q.rDst i = d)
    (others : ∀ i ∈ l1 ++ l2, q.rDst i ≠ d) (time : 2 * 1024 + ((l1 ++ run).map q.rCost).sum + 9 ≤ q.halfCycles) :
    SlotHolds (passedSlots q) d ((q.runSums run).map fun s => extracted s.toInt) := by
  obtain ⟨runs, formed⟩ := formedRuns_clean clean ok
  obtain ⟨before, after, split, last, cheap⟩ := runsOf_run q.rCost l1 run l2 into some
    (fun i hi => others i (List.mem_append_left _ hi)) (fun i hi => others i (List.mem_append_right _ hi)) none [] nofun
  rw [routes, split] at runs
  have inTime : 2048 + (productsOf (formedRuns q).1.rCost before + (run.map (formedRuns q).1.rCost).sum) + 9 ≤ (formedRuns q).1.halfCycles := by
    have none : productsOf q.rCost (finished none []) = 0 := rfl
    rw [List.map_append, List.sum_append] at time
    rw [formed.halfCycles, funext formed.rCost]
    omega
  have cleanFormed := formed.clean clean
  have held : SlotHolds (mainPassed q).1 d ((q.runSums run).map fun s => extracted s.toInt) := by
    rw [mainPassed, runs, ← formed.runSums clean]
    exact mainPass_holds cleanFormed (formed.wf wf) (formed.fi.symm ▸ usable) run before after last inTime
  unfold passedSlots
  split
  · refine held.kept (fabricOnly_zeroSlots _ _) fun bare => ?_
    have free := (List.mem_filter.mp bare).2
    simp [runs] at free
  · exact held

end

/-- A generator's weight for sample `j` (R243) as an integer. -/
def fadeWeight (q : Quad) (g j : Nat) : Int :=
  match q.kln.fades.find? fun f => f.gen.val == g with
  | some f => (65536 * (4 * f.i + j + 1) / (4 * f.len) : Nat)
  | none => 0

theorem cast_weight (q : Quad) (g j : Nat) : (q.weight g j : Int) = fadeWeight q g j := by
  unfold Quad.weight fadeWeight
  cases q.kln.fades.find? fun f => f.gen.val == g <;> rfl

/-- Settles O33: the runs of the table, the size of their sums, and the slots without a run. -/
theorem fabricSums : Obligations.FabricSums := by
  intro s iq j q memWf mode running first clean served fades commits
  have wf : q.mem.wf := memWf.1 iq
  have pass : (s.quad iq).fabricPass [] = q.pass [] := fabricPass_eq mode running first served fades commits
  refine ⟨fun bare d usable owned => ?_, fun l1 run l2 d routes nonempty short ok into others usable time => ?_⟩
  · obtain ⟨passed, mask, tick, zero⟩ :=
      pass_holds clean (by simp [bare]) usable (passedSlots_zero clean wf usable bare owned) j
    refine answers_onQ (f := fun q => q.fabricPass []) rfl ?_
    rw [pass]
    generalize q.pass [] = r at passed mask tick zero ⊢
    refine ⟨passed, ?_, mask, tick⟩
    have zeros : ∀ j : Fin 4, ([0, 0, 0, 0] : List W40).getD j.val 0 = 0 := by decide
    rw [commit_writeView, zero, zeros]
  · obtain ⟨passed, mask, -, sample⟩ := pass_holds clean ok usable (passedSlots_run clean wf usable routes nonempty ok into others time) j
    refine answers_onQ (f := fun q => q.fabricPass []) rfl ?_
    rw [pass]
    generalize q.pass [] = r at passed mask sample ⊢
    intro x near term sum
    have terms (i : Nat) : q.contrib i j.val = term i := by
      unfold Quad.contrib term
      rw [cast_weight]
      cases q.rFade i <;> rfl
    have total : (run.map fun i => q.contrib i j.val).sum = sum := by simp only [terms]; rfl
    refine ⟨passed, mask, ?_⟩
    rw [commit_writeView, sample, runSample q run j.isLt, runSums_getD q run j.isLt, toInt_runSum fades j.isLt short, total]
    rfl

end Sys2Proof.Machine.Proofs

/-! The votes of the retry queue (R218, R219). -/

namespace Sys2Proof.Machine.Proofs
open Laws

/-! ### What a vote leaves alone -/

@[simp] theorem slotStore_pace (q : Quad) (s j : Nat) (v : W40) :
    (q.slotStore s j v).tick = q.tick ∧ (q.slotStore s j v).cores = q.cores := by
  unfold Quad.slotStore
  split <;> simp

@[simp] theorem slotStore4_pace (q : Quad) (s : Nat) (v : List W40) :
    (q.slotStore4 s v).tick = q.tick ∧ (q.slotStore4 s v).cores = q.cores := by
  simp [slotStore4_eq]

@[simp] theorem runWrite_pace (q : Quad) (d : Nat) (sums : List W96) :
    (q.runWrite d sums).tick = q.tick ∧ (q.runWrite d sums).cores = q.cores := by
  unfold Quad.runWrite
  dsimp only
  split <;> simp

@[simp] theorem fabFault_pace (q : Quad) (d cause : Nat) : (q.fabFault d cause).tick = q.tick ∧ (q.fabFault d cause).cores = q.cores := by
  simp [Quad.fabFault]

@[simp] theorem readEntry_pace (q : Quad) (i : Nat) : (q.readEntry i).tick = q.tick ∧ (q.readEntry i).cores = q.cores := by
  unfold Quad.readEntry
  dsimp only
  split <;> split <;> simp

theorem readEntries_pace (q : Quad) (run : List Nat) :
    (run.foldl Quad.readEntry q).tick = q.tick ∧ (run.foldl Quad.readEntry q).cores = q.cores := by
  induction run generalizing q with
  | nil => exact ⟨rfl, rfl⟩
  | cons i run ih => simpa using ih (q.readEntry i)

@[simp] theorem countSources_pace (q : Quad) (run : List Nat) :
    (q.countSources run).tick = q.tick ∧ (q.countSources run).cores = q.cores := by
  unfold Quad.countSources
  dsimp only
  split <;> split <;> simp

theorem vote_pace (q : Quad) (x : Retry) : (q.vote x).tick = q.tick ∧ (q.vote x).cores = q.cores := by
  obtain ⟨tick, cores⟩ := readEntries_pace q x.run
  unfold Quad.vote
  dsimp only
  split
  · simp [tick, cores]
  · split <;> simp [tick, cores]

/-- The votes empty the queue, whatever becomes of each run. -/
theorem votes_end (q : Quad) (t : Nat) (l : List Retry) :
    (q.votes t l).fab.retry = [] ∧ (q.votes t l).tick = q.tick ∧ (q.votes t l).cores = q.cores := by
  induction l generalizing q t with
  | nil => exact ⟨rfl, rfl, rfl⟩
  | cons x l ih =>
    obtain ⟨empty, tick, cores⟩ := ih (q.vote x) (t + (x.run.map q.rCost).sum)
    obtain ⟨voteTick, voteCores⟩ := vote_pace q x
    unfold Quad.votes
    dsimp only
    split
    · exact ⟨rfl, rfl, rfl⟩
    · exact ⟨empty, tick.trans voteTick, cores.trans voteCores⟩

/-! ### One vote without memory errors -/

section
variable {q : Quad} (clean : q.ecc = [])
include clean

theorem readEntries_clean (run : List Nat) : run.foldl Quad.readEntry q = q := by
  induction run with
  | nil => rfl
  | cons i run ih => rw [List.foldl_cons, readEntry_clean clean, ih]

/-- Without memory errors a run is summed again from the entries that it had, and the sound datapath decides. -/
theorem vote_clean (x : Retry) (agreed : q.runSums x.run = x.sums) : q.vote x =
    if x.okB then (q.runWrite x.dst x.sums).count Reg.RTE_VOTE_ALOSS 1
    else if x.okA then (q.runWrite x.dst x.sums).count Reg.RTE_VOTE_BLOSS 1
    else ((q.count Reg.RTE_FAIL_NOVOTE 1).fabFault x.dst 0).mapFab fun f => { f with unwritten := x.dst :: f.unwritten } := by
  have whole : (x.run.filter fun i => q.entryCheck i != .drop) = x.run :=
    List.filter_eq_self.mpr fun i _ => bne_iff_ne.mpr (entryCheck_ne_drop clean i)
  unfold Quad.vote
  dsimp only
  rw [readEntries_clean clean, whole, countSources_clean clean, agreed]
  simp

end

theorem votes_one (q : Quad) (t : Nat) (x : Retry) (time : t + (x.run.map q.rCost).sum ≤ q.halfCycles) :
    q.votes t [x] = (q.vote x).mapFab fun f => { f with retry := [] } := by
  rw [Quad.votes]
  exact if_neg (Nat.not_lt.mpr time)

/-! ### The counts of a vote (R219, R472) -/

/-- Samples stored to a usable slot touch no register. -/
theorem regs_slotStore4 {q : Quad} {d : Nat} (usable : d < slotLimit q.fi) (v : List W40) : (q.slotStore4 d v).regs = q.regs := by
  have stored {q : Quad} {j : Nat} (usable : d < slotLimit q.fi) (v : W40) : (q.slotStore d j v).regs = q.regs ∧
      d < slotLimit (q.slotStore d j v).fi := by
    rw [slotStore_eq usable]
    exact ⟨rfl, usable⟩
  obtain ⟨regs0, usable0⟩ := stored (j := 0) usable (v.getD 0 0)
  obtain ⟨regs1, usable1⟩ := stored (j := 1) usable0 (v.getD 1 0)
  obtain ⟨regs2, usable2⟩ := stored (j := 2) usable1 (v.getD 2 0)
  rw [slotStore4_eq, (stored usable2 _).1, regs2, regs1, regs0]

/-- A run written counts in RTE_SAT alone. -/
theorem rd_runWrite {q : Quad} {d : Nat} (usable : d < slotLimit q.fi) (sums : List W96) {o : Nat} (other : o ≠ Reg.RTE_SAT) :
    (q.runWrite d sums).rd o = q.rd o := by
  have usable' (n : Nat) : d < slotLimit (((q.count Reg.RTE_SAT_COUNT n).setFld Reg.RTE_SAT_SLOT d).mapFab fun b =>
      { b with satW := d :: b.satW }).fi := (fabricOnly_countSaturated (fun _ => False) q n d).fi.symm ▸ usable
  unfold Quad.runWrite
  dsimp only
  split
  · rw [Quad.rd, regs_slotStore4 usable, Quad.rd]
  · rw [Quad.rd, regs_slotStore4 (usable' _)]
    exact (rd_setFld_ne _ Reg.RTE_SAT_SLOT _ other).trans (rd_setFld_ne _ Reg.RTE_SAT_COUNT _ other)

theorem rd_ringStep_ne (q : Quad) (len : Field) {wp rp ovwr : Field} {o : Nat} (hw : o ≠ wp.off) (hr : o ≠ rp.off) (ho : o ≠ ovwr.off) :
    (q.ringStep len wp rp ovwr).rd o = q.rd o := by
  unfold Quad.ringStep
  dsimp only
  split
  · rw [Quad.count, rd_setFld_ne _ _ _ ho, rd_setFld_ne _ _ _ hr, rd_setFld_ne _ _ _ hw]
  · exact rd_setFld_ne _ _ _ hw

/-- A fault record changes registers of the fault block alone. -/
theorem rd_fault_below (q : Quad) {cls : Nat} (cause phys pos : Nat) (detail : W32) {o : Nat} (below : o < 0x30000) :
    (q.fault cls cause phys pos detail).rd o = q.rd o := by
  have pushed (q : Quad) (words : List W32) : (q.ringPush Reg.FLT_RG_BASE_BASE Reg.FLT_RG_LEN_LOG2 Reg.FLT_RG_WP_WP Reg.FLT_RG_RP_RP
      Reg.FLT_RG_OVWR_OVWR words).rd o = q.rd o :=
    rd_ringStep_ne _ _ (Nat.ne_of_lt (Nat.lt_of_lt_of_le below (by decide))) (Nat.ne_of_lt (Nat.lt_of_lt_of_le below (by decide)))
      (Nat.ne_of_lt (Nat.lt_of_lt_of_le below (by decide)))
  have counted (q : Quad) : (q.count (Reg.FLT_CNT_COUNT cls) 1).rd o = q.rd o := rd_setFld_ne _ _ _ (by
    have : 0x30000 ≤ (Reg.FLT_CNT_COUNT cls).off := Nat.le_add_right_of_le (by decide)
    omega)
  unfold Quad.fault
  dsimp only
  split <;> exact (counted _).trans (pushed _ _)

theorem rd_fabFault (q : Quad) (d cause : Nat) {o : Nat} (below : o < 0x30000) (dst : o ≠ Reg.RTE_FLT_DST) (tick : o ≠ Reg.RTE_FLT_TICK) :
    (q.fabFault d cause).rd o = q.rd o := by
  rw [Quad.fabFault, rd_fault_below _ _ _ _ _ below]
  exact (rd_setFld_ne _ Reg.RTE_FLT_TICK_TICK _ tick).trans
    ((rd_setFld_ne _ Reg.RTE_FLT_DST_CAUSE _ dst).trans (rd_setFld_ne _ Reg.RTE_FLT_DST_SLOT _ dst))

/-! ### The command -/

section
variable {s : State} {iq : QId} (passed : (s.quad iq).fab.passed = true)
include passed

theorem fabricVote_ends (queued : (s.quad iq).fab.retry ≠ []) : Answers (.fabricVote iq) s iq fun r =>
    r.fab.retry = [] ∧ r.tick = (s.quad iq).tick ∧ r.cores = (s.quad iq).cores := by
  refine answers_onQ (f := fun q => q.fabricVote) rfl ?_
  rw [Quad.fabricVote, if_pos (by simp [passed, queued])]
  exact votes_end ..

theorem fabricVote_one {x : Retry} (queue : (s.quad iq).fab.retry = [x])
    (time : (s.quad iq).fab.mainEnd + (x.run.map (s.quad iq).rCost).sum ≤ (s.quad iq).halfCycles) {P : Quad → Prop}
    (h : P (((s.quad iq).vote x).mapFab fun f => { f with retry := [] }).commit) : Answers (.fabricVote iq) s iq P := by
  refine answers_onQ (f := fun q => q.fabricVote) rfl ?_
  rw [Quad.fabricVote, if_pos (by simp [passed, queue]), queue, votes_one _ _ _ time]
  exact h

end

section
variable {q : Quad} {x : Retry} (clean : q.ecc = []) (agreed : q.runSums x.run = x.sums)
include clean agreed

/-- A vote that a sound datapath wins: the sums are written, and the one that lost is counted. -/
theorem vote_won (wf : q.mem.wf) (usable : x.dst < slotLimit q.fi) (sound : x.okA = true ∨ x.okB = true) (j : Fin 4) :
    (q.vote x).fab.masks.get x.dst 0 = 15 ∧ (q.vote x).writeView x.dst j.val = extracted (x.sums.getD j.val 0).toInt ∧
      (q.vote x).fld (if x.okB then Reg.RTE_VOTE_ALOSS else Reg.RTE_VOTE_BLOSS) =
        min (q.fld (if x.okB then Reg.RTE_VOTE_ALOSS else Reg.RTE_VOTE_BLOSS) + 1)
          (if x.okB then Reg.RTE_VOTE_ALOSS else Reg.RTE_VOTE_BLOSS).max := by
  have sample : (x.sums.map fun s => extracted s.toInt).getD j.val 0 = extracted (x.sums.getD j.val 0).toInt := by
    rw [← agreed]
    exact runSample q x.run j.isLt
  have counts {f : Field} (own : FabricReg f.off) (apart : f.off ≠ Reg.RTE_SAT) (hf : f.lo ≤ f.hi) (hf' : f.hi < 32)
      (eq : q.vote x = (q.runWrite x.dst x.sums).count f 1) : (q.vote x).fab.masks.get x.dst 0 = 15 ∧
        (q.vote x).writeView x.dst j.val = extracted (x.sums.getD j.val 0).toInt ∧ (q.vote x).fld f = min (q.fld f + 1) f.max := by
    have fld : (q.runWrite x.dst x.sums).fld f = q.fld f := congrArg f.get (rd_runWrite usable _ apart)
    have written := fabricOnly_runWrite q x.dst x.sums
    have holds := runWrite_holds usable wf x.sums
    rw [eq, ← fld]
    generalize q.runWrite x.dst x.sums = r at written holds
    have counted : FabricOnly (fun _ => False) r (r.count f 1) := .count _ _ 1 own
    have whole := written.trans (counted.mono fun _ => False.elim)
    have kept := holds.kept counted id
    exact ⟨kept.mask, (kept.writeView (whole.clean clean) (lt_of_lt_of_eq usable (congrArg slotLimit whole.fi.symm)) j).trans sample,
      fld_count_one _ _ hf hf'⟩
  have vote := vote_clean clean x agreed
  cases okB : x.okB with
  | true => exact counts (by decide) (by decide) (by decide) (by decide) (vote.trans (if_pos okB))
  | false =>
    have okA : x.okA = true := sound.resolve_right (by simp [okB])
    exact counts (by decide) (by decide) (by decide) (by decide) (vote.trans ((if_neg (by simp [okB])).trans (if_pos okA)))

/-- A vote without a majority leaves the destination unwritten and is counted (R219). -/
theorem vote_lost (okA : x.okA = false) (okB : x.okB = false) : x.dst ∈ (q.vote x).fab.unwritten ∧
    (q.vote x).fld Reg.RTE_FAIL_NOVOTE = min (q.fld Reg.RTE_FAIL_NOVOTE + 1) Reg.RTE_FAIL_NOVOTE.max := by
  rw [vote_clean clean x agreed, okA, okB, if_neg Bool.false_ne_true, if_neg Bool.false_ne_true]
  have same : ((q.count Reg.RTE_FAIL_NOVOTE 1).fabFault x.dst 0).fld Reg.RTE_FAIL_NOVOTE = (q.count Reg.RTE_FAIL_NOVOTE 1).fld Reg.RTE_FAIL_NOVOTE :=
    congrArg Reg.RTE_FAIL_NOVOTE.get (rd_fabFault _ _ _ (by decide) (by decide) (by decide))
  rw [fld_count_one _ _ (by decide) (by decide)] at same
  generalize (q.count Reg.RTE_FAIL_NOVOTE 1).fabFault x.dst 0 = r at same ⊢
  exact ⟨List.mem_cons_self .., same⟩

end

end Sys2Proof.Machine.Proofs

/-! Registers of the exchange memory written (R13, R206, R227): owners, and the period of the meters. -/

namespace Sys2Proof.Machine.Proofs
open Laws

/-! ### Writes that a block may refuse (R13) -/

/-- A write that its block accepts leaves WERR as it was, unless it clears it. -/
theorem tryWrite_accepted {q : Quad} {werr : Field} {x : RegW} {f : Quad → Quad} (accepted : (f (q.setFld werr 0)).flag werr = false)
    (keeps : (x.off == werr.off && werr.get x.act != 0) = false) : (q.tryWrite werr x f).1 =
      if q.fld werr != 0 then (f (q.setFld werr 0)).raise werr else f (q.setFld werr 0) := by
  simp [Quad.tryWrite, accepted, keeps]

/-- XCH_CTL with WERR put back as it was. -/
theorem werr_restored (w : W32) : Reg.XCH_CTL_WERR.put (Reg.XCH_CTL_WERR.put w 0) (Reg.XCH_CTL_WERR.get w) = w := by
  refine BitVec.eq_of_toNat_eq ?_
  rw [put_toNat _ _ _ (by decide) (by decide), put_toNat _ _ _ (by decide) (by decide)]
  simp only [Field.get, Reg.XCH_CTL_WERR, Nat.shiftRight_eq_div_pow]
  omega

theorem werr_kept (w : W32) : Reg.XCH_CTL_WERR.put w (Reg.XCH_CTL_WERR.get w) = w := by
  refine BitVec.eq_of_toNat_eq ?_
  rw [put_toNat _ _ _ (by decide) (by decide)]
  simp only [Field.get, Reg.XCH_CTL_WERR, Nat.shiftRight_eq_div_pow]
  omega

theorem flag_werr_cleared (q : Quad) : (q.setFld Reg.XCH_CTL_WERR 0).flag Reg.XCH_CTL_WERR = false := by
  rw [Quad.flag, fld_setFld _ _ _ (by decide) (by decide)]
  rfl

/-- A write of the XCH_ or RTE_ registers that reaches none of XCH_CTL leaves XCH_CTL as it was. -/
theorem tryWrite_elsewhere {q w : Quad} {x : RegW} {f : Quad → Quad} (elsewhere : x.off ≠ Reg.XCH_CTL) (made : f (q.setFld Reg.XCH_CTL_WERR 0) = w)
    (same : w.rd Reg.XCH_CTL = (q.setFld Reg.XCH_CTL_WERR 0).rd Reg.XCH_CTL) :
    let r := (q.tryWrite Reg.XCH_CTL_WERR x f).1
    r = { w with regs := r.regs } ∧ r.rd Reg.XCH_CTL = q.rd Reg.XCH_CTL ∧ ∀ o, o ≠ Reg.XCH_CTL → r.rd o = w.rd o := by
  intro r
  have accepted : w.flag Reg.XCH_CTL_WERR = false := (congrArg (fun v => Reg.XCH_CTL_WERR.get v != 0) same).trans (flag_werr_cleared q)
  have keeps : (x.off == Reg.XCH_CTL_WERR.off && Reg.XCH_CTL_WERR.get x.act != 0) = false := by
    rw [beq_false_of_ne (show x.off ≠ Reg.XCH_CTL_WERR.off from elsewhere), Bool.false_and]
  have cleared : w.rd Reg.XCH_CTL = Reg.XCH_CTL_WERR.put (q.rd Reg.XCH_CTL) 0 := same.trans (rd_wr q ..)
  have written : r = if q.fld Reg.XCH_CTL_WERR != 0 then w.raise Reg.XCH_CTL_WERR else w := by
    subst made
    exact tryWrite_accepted accepted keeps
  rw [written]
  by_cases was : q.fld Reg.XCH_CTL_WERR = 0
  · have kept : Reg.XCH_CTL_WERR.put (q.rd Reg.XCH_CTL) 0 = q.rd Reg.XCH_CTL := was ▸ werr_kept (q.rd Reg.XCH_CTL)
    rw [was]
    exact ⟨rfl, cleared.trans kept, fun _ _ => rfl⟩
  · have bit : q.fld Reg.XCH_CTL_WERR < 2 := Nat.mod_lt _ (by decide)
    have one : q.fld Reg.XCH_CTL_WERR = 1 := by omega
    have restored : Reg.XCH_CTL_WERR.put (w.rd Reg.XCH_CTL) 1 = q.rd Reg.XCH_CTL := by
      rw [cleared]
      exact one ▸ werr_restored (q.rd Reg.XCH_CTL)
    rw [one]
    exact ⟨rfl, (rd_wr w ..).trans restored, fun o ho => rd_setFld_ne w _ _ ho⟩

/-! ### Owners (R206) -/

/-- A field that a mask covers reads the same under it. -/
theorem get_and {f : Field} {v m : W32} (covered : m.toNat >>> f.lo % 2 ^ (f.hi - f.lo + 1) = 2 ^ (f.hi - f.lo + 1) - 1) :
    f.get (v &&& m) = f.get v := by
  rw [Field.get, BitVec.toNat_and, Nat.shiftRight_and_distrib, Nat.and_mod_two_pow, covered, Nat.and_two_pow_sub_one_eq_mod, Nat.mod_mod,
    Field.get]

/-- The RW bits of a word after a write of all its bytes. -/
theorem merge_and (r : RegRow) (old v : W32) : r.merge old v 0xFFFFFFFF &&& r.rw = v &&& r.rw := by
  have bitwise (a b m : W32) : (a &&& ~~~m ||| b &&& m) &&& m = b &&& m := by
    ext i
    simp only [BitVec.getElem_and, BitVec.getElem_or, BitVec.getElem_not]
    cases a[i] <;> cases b[i] <;> cases m[i] <;> rfl
  have whole : r.rw &&& 0xFFFFFFFF = r.rw := BitVec.and_allOnes
  rw [RegRow.merge, BitVec.and_assoc v, whole, bitwise]

section
variable {q : Quad} {s : Nat} (hs : s < 4096) (v : W32)
include hs

/-- A write of an owner by the commands that write registers reaches the slot's entry. -/
theorem regPut_owner : q.regPut 0 (Reg.XCH_OWN s) v = (q.writeXch ⟨ownerRow, Reg.XCH_OWN s, 0xFFFFFFFF, v⟩).1 := by
  have low : 0x8000 ≤ Reg.XCH_OWN s ∧ Reg.XCH_OWN s < 0xC000 := by unfold Reg.XCH_OWN; omega
  have isOpen : q.regOpen 0 (Reg.XCH_OWN s) = true := by
    have own : ownOff (Reg.XCH_OWN s) = true := decide_eq_true low
    rw [Quad.regOpen, own]
    rfl
  have reset : ¬(Reg.XCH_OWN s = Reg.QCTL_CTL ∧ Reg.QCTL_CTL_SRST.get (v &&& 0xFFFFFFFF) ≠ 0) := fun h => absurd (h.1 ▸ low.1) (by decide)
  have dma : ¬(Reg.XCH_OWN s = Reg.DMA_CTL ∧ Reg.DMA_CTL_RST.get (v &&& 0xFFFFFFFF) ≠ 0) := fun h => absurd (h.1 ▸ low.2) (by decide)
  rw [Quad.regPut, if_pos isOpen, Quad.regWrite]
  rw [if_neg reset, if_neg dma, Quad.regWrite0, rowOf_owner hs]
  dsimp only
  rw [if_neg (by omega), if_neg (by omega), if_pos (.inr low)]

theorem inArr_owner : inArr (Reg.XCH_OWN 0) 4 4096 (Reg.XCH_OWN s) = some s := by
  unfold inArr Reg.XCH_OWN
  rw [if_pos (by omega)]
  exact congrArg some (by omega)

theorem writeXch_owner : q.writeXch ⟨ownerRow, Reg.XCH_OWN s, 0xFFFFFFFF, v⟩ =
    q.tryWrite Reg.XCH_CTL_WERR ⟨ownerRow, Reg.XCH_OWN s, 0xFFFFFFFF, v⟩ fun q =>
      q.ownWrite s (ownerRow.merge (q.fab.ownPend.get s (q.rd (Reg.XCH_OWN s))) v 0xFFFFFFFF) := by
  have ctl : Reg.XCH_OWN s ≠ Reg.XCH_CTL := by unfold Reg.XCH_OWN Reg.XCH_CTL; omega
  have lim : Reg.XCH_OWN s ≠ Reg.RTE_LIM := by unfold Reg.XCH_OWN Reg.RTE_LIM; omega
  unfold Quad.writeXch
  congr 1
  funext q
  dsimp only
  rw [if_neg ctl, if_neg lim, inArr_owner hs]

/-- In STANDBY and SERVICE the owner is written at once. -/
theorem regPut_owner_atOnce (mode : q.mode = .standby ∨ q.mode = .service) :
    let r := q.regPut 0 (Reg.XCH_OWN s) v
    r = { q with regs := r.regs } ∧ r.rd (Reg.XCH_OWN s) = v &&& 0xFFF7 ∧ SameRegsBut [Reg.XCH_OWN s] q r := by
  have apart : Reg.XCH_CTL ≠ Reg.XCH_OWN s := by unfold Reg.XCH_CTL Reg.XCH_OWN; omega
  have written (p : Quad) (old : W32) (hp : p.mode = q.mode) :
      p.ownWrite s (ownerRow.merge old v 0xFFFFFFFF) = p.wr (Reg.XCH_OWN s) (v &&& 0xFFF7) := by
    rw [Quad.ownWrite, show ownerRow.merge old v 0xFFFFFFFF &&& 0xFFF7 = v &&& 0xFFF7 from merge_and ownerRow old v, hp]
    obtain mode | mode := mode <;> rw [mode]
  rw [regPut_owner hs, writeXch_owner hs]
  obtain ⟨frame, ctl, others⟩ := tryWrite_elsewhere (q := q) (x := ⟨ownerRow, Reg.XCH_OWN s, 0xFFFFFFFF, v⟩)
    (f := fun q => q.ownWrite s (ownerRow.merge (q.fab.ownPend.get s (q.rd (Reg.XCH_OWN s))) v 0xFFFFFFFF)) apart.symm
    (written (q.setFld Reg.XCH_CTL_WERR 0) _ rfl) (rd_wr_ne _ _ apart)
  refine ⟨frame, (others _ apart.symm).trans (rd_wr ..), fun o ho => ?_⟩
  have other : o ≠ Reg.XCH_OWN s := by simpa using ho
  by_cases isCtl : o = Reg.XCH_CTL
  · rw [isCtl, ctl]
  · exact (others o isCtl).trans ((rd_wr_ne _ _ other).trans (rd_setFld_ne q Reg.XCH_CTL_WERR 0 isCtl))

/-- In RUN and HARDPAN it waits for the next boundary, and no register changes. -/
theorem regPut_owner_pending (mode : q.mode = .run ∨ q.mode = .hardpan) :
    let r := q.regPut 0 (Reg.XCH_OWN s) v
    r = { q with fab := { q.fab with ownPend := q.fab.ownPend.put s (v &&& 0xFFF7) }, regs := r.regs } ∧ SameRegsBut [] q r := by
  have apart : Reg.XCH_OWN s ≠ Reg.XCH_CTL := by unfold Reg.XCH_CTL Reg.XCH_OWN; omega
  have written (p : Quad) (old : W32) (hp : p.mode = q.mode) : p.ownWrite s (ownerRow.merge old v 0xFFFFFFFF) =
      p.mapFab fun f => { f with ownPend := f.ownPend.put s (v &&& 0xFFF7) } := by
    rw [Quad.ownWrite, show ownerRow.merge old v 0xFFFFFFFF &&& 0xFFF7 = v &&& 0xFFF7 from merge_and ownerRow old v, hp]
    obtain mode | mode := mode <;> rw [mode]
  rw [regPut_owner hs, writeXch_owner hs]
  obtain ⟨frame, ctl, others⟩ := tryWrite_elsewhere (q := q) (x := ⟨ownerRow, Reg.XCH_OWN s, 0xFFFFFFFF, v⟩)
    (f := fun q => q.ownWrite s (ownerRow.merge (q.fab.ownPend.get s (q.rd (Reg.XCH_OWN s))) v 0xFFFFFFFF)) apart
    (written (q.setFld Reg.XCH_CTL_WERR 0) _ rfl) rfl
  refine ⟨frame, fun o _ => ?_⟩
  by_cases isCtl : o = Reg.XCH_CTL
  · rw [isCtl, ctl]
  · exact (others o isCtl).trans (rd_setFld_ne q Reg.XCH_CTL_WERR 0 isCtl)

end

theorem xchOwnWrite_atOnce {s : State} {iq : QId} (slot : BitVec 12) (v : W32)
    (mode : (s.quad iq).mode = .standby ∨ (s.quad iq).mode = .service) : Answers (.xchOwnWrite iq slot v) s iq fun r =>
      r.kind slot.toNat = v.toNat % 8 ∧ r.ownIdx slot.toNat = v.toNat / 16 % 4096 ∧ RegsOnly [Reg.XCH_OWN slot.toNat] (s.quad iq) r := by
  refine answers_onQ (f := fun q => q.regPut 0 (Reg.XCH_OWN slot.toNat) v) rfl ?_
  obtain ⟨frame, word, others⟩ := regPut_owner_atOnce slot.isLt v mode
  generalize (s.quad iq).regPut 0 (Reg.XCH_OWN slot.toNat) v = r at frame word others
  have field {f : Field} (off : f.off = Reg.XCH_OWN slot.toNat)
      (covered : (0xFFF7 : W32).toNat >>> f.lo % 2 ^ (f.hi - f.lo + 1) = 2 ^ (f.hi - f.lo + 1) - 1) : r.commit.fld f = f.get v := by
    rw [commit_fld, Quad.fld, off, word, get_and covered]
  have kindBits : (0xFFF7 : W32).toNat >>> 0 % 2 ^ (2 - 0 + 1) = 2 ^ (2 - 0 + 1) - 1 := by decide
  have indexBits : (0xFFF7 : W32).toNat >>> 4 % 2 ^ (15 - 4 + 1) = 2 ^ (15 - 4 + 1) - 1 := by decide
  refine ⟨(field rfl kindBits).trans ?_, (field rfl indexBits).trans ?_, ?_, ?_, others⟩
  · simp [Field.get, Reg.XCH_OWN_KIND]
  · simp [Field.get, Reg.XCH_OWN_IDX, Nat.shiftRight_eq_div_pow]
  · rw [frame]; rfl
  · rw [frame]; exact commit_read _

theorem xchOwnWrite_pending {s : State} {iq : QId} (slot : BitVec 12) (v : W32)
    (mode : (s.quad iq).mode = .run ∨ (s.quad iq).mode = .hardpan) : Answers (.xchOwnWrite iq slot v) s iq fun r =>
      SameRegsBut [] (s.quad iq) r ∧ SameBytes (s.quad iq) r ∧ r.fab.ownPend.find slot.toNat = some (v &&& 0xFFF7) ∧
        r = { s.quad iq with fab := { (s.quad iq).fab with ownPend := r.fab.ownPend }, regs := r.regs, mem := r.mem } := by
  refine answers_onQ (f := fun q => q.regPut 0 (Reg.XCH_OWN slot.toNat) v) rfl ?_
  obtain ⟨frame, same⟩ := regPut_owner_pending slot.isLt v mode
  generalize (s.quad iq).regPut 0 (Reg.XCH_OWN slot.toNat) v = r at frame same
  refine ⟨same, ?_, ?_, ?_⟩
  · rw [frame]; exact commit_read _
  · rw [frame]; exact find_put_self ..
  · rw [frame]; rfl

/-! ### The period of the meters (R227) -/

/-- The row of XCH_CTL. -/
def ctlRow : RegRow := ⟨0x3000, 0, 1, 0xF, 0x10000, 0, 0, 0, 8⟩

theorem rowOf_ctl : rowOf quadRows Reg.XCH_CTL = some ctlRow := rfl

/-- The word that a write of MPER alone puts to XCH_CTL. -/
theorem mper_word (w : W32) (n : BitVec 4) : Reg.XCH_CTL_MPER.put (w &&& ctlRow.rw) n.toNat = n.setWidth 32 := by
  have low : (w &&& ctlRow.rw).toNat ≤ 15 := by
    rw [BitVec.toNat_and]
    exact Nat.and_le_right
  have small := n.isLt
  refine BitVec.eq_of_toNat_eq ?_
  rw [put_toNat _ _ _ (by decide) (by decide), BitVec.toNat_setWidth]
  simp only [Reg.XCH_CTL_MPER]
  omega

/-- A period of at most 12 is taken, and one other than before discards the period in progress. -/
theorem mperWrite_valid (q : Quad) {n : Nat} (valid : n ≤ 12) :
    let r := q.mperWrite n
    r = { q with fab := r.fab, regs := r.regs } ∧ r.fld Reg.XCH_CTL_MPER = n ∧ r.fld Reg.XCH_CTL_WERR = q.fld Reg.XCH_CTL_WERR ∧
      SameRegsBut [Reg.XCH_CTL] q r ∧ r.fab = if q.fld Reg.XCH_CTL_MPER = n then q.fab else { q.fab with mperPend := some 1 } := by
  have taken : q.mperWrite n = if n = q.fld Reg.XCH_CTL_MPER then q
      else (q.setFld Reg.XCH_CTL_MPER n).mapFab fun f => { f with mperPend := some 1 } := if_neg (Nat.not_lt.mpr valid)
  intro r
  by_cases same : n = q.fld Reg.XCH_CTL_MPER
  · have made : r = q := taken.trans (if_pos same)
    rw [made, ← same, if_pos rfl]
    exact ⟨rfl, rfl, rfl, fun _ _ => rfl, rfl⟩
  · have made : r = (q.setFld Reg.XCH_CTL_MPER n).mapFab fun f => { f with mperPend := some 1 } := taken.trans (if_neg same)
    rw [made, if_neg (Ne.symm same)]
    refine ⟨rfl, ?_, ?_, fun o ho => ?_, rfl⟩
    · exact (fld_setFld q Reg.XCH_CTL_MPER n (by decide) (by decide)).trans (Nat.mod_eq_of_lt (Nat.lt_of_le_of_lt valid (by decide)))
    · exact fld_setFld_other q Reg.XCH_CTL_MPER Reg.XCH_CTL_WERR n (by decide) (by decide) (by decide) (by decide)
    · have other : o ≠ Reg.XCH_CTL := by simpa using ho
      exact rd_setFld_ne q Reg.XCH_CTL_MPER n other

section
variable {q : Quad} (up : q.up) (n : BitVec 4)
include up

theorem fieldPut_ctl : q.fieldPut Reg.XCH_CTL_MPER n.toNat = (q.writeXch ⟨ctlRow, Reg.XCH_CTL, 0xFFFFFFFF, n.setWidth 32⟩).1 := by
  have row : rowOf quadRows Reg.XCH_CTL_MPER.off = some ctlRow := rowOf_ctl
  have put : q.fieldPut Reg.XCH_CTL_MPER n.toNat = q.regPut 0 Reg.XCH_CTL (n.setWidth 32) := by
    rw [Quad.fieldPut, row, ← mper_word (q.rd Reg.XCH_CTL) n]
    rfl
  have isOpen : q.regOpen 0 Reg.XCH_CTL = true := regOpen_of_up rfl up
  rw [put, Quad.regPut, if_pos isOpen, Quad.regWrite, if_neg (fun h => absurd h.1 (by decide)), if_neg (fun h => absurd h.1 (by decide)),
    Quad.regWrite0, rowOf_ctl]
  rfl

omit up in
theorem writeXch_ctl : q.writeXch ⟨ctlRow, Reg.XCH_CTL, 0xFFFFFFFF, n.setWidth 32⟩ =
    q.tryWrite Reg.XCH_CTL_WERR ⟨ctlRow, Reg.XCH_CTL, 0xFFFFFFFF, n.setWidth 32⟩ fun q => q.mperWrite n.toNat := by
  have keepsFlag : ∀ n : BitVec 4, n.setWidth 32 &&& 0xFFFFFFFF &&& ctlRow.w1c = 0 := by decide
  have period : ∀ n : BitVec 4, Reg.XCH_CTL_MPER.get (n.setWidth 32 &&& ctlRow.rw) = n.toNat := by decide
  have reaches : Reg.XCH_CTL_MPER.get 0xFFFFFFFF ≠ 0 := by decide
  have next (old : W32) : Reg.XCH_CTL_MPER.get (ctlRow.merge old (n.setWidth 32) 0xFFFFFFFF) = n.toNat := by
    rw [← get_and (m := ctlRow.rw) (by decide), merge_and, period]
  unfold Quad.writeXch
  congr 1
  funext q
  have uncleared : q.w1c ⟨ctlRow, Reg.XCH_CTL, 0xFFFFFFFF, n.setWidth 32⟩ = q := if_pos (keepsFlag n)
  dsimp only
  rw [if_pos rfl, uncleared, RegW.reaches, if_pos (bne_iff_ne.mpr reaches), RegW.next, next]

/-- MPER written by the quadrant's commands. -/
theorem fieldPut_mper (valid : n.toNat ≤ 12) :
    let r := q.fieldPut Reg.XCH_CTL_MPER n.toNat
    r = { q with fab := r.fab, regs := r.regs } ∧ r.fld Reg.XCH_CTL_MPER = n.toNat ∧ SameRegsBut [Reg.XCH_CTL] q r ∧
      r.fab = if q.fld Reg.XCH_CTL_MPER = n.toNat then q.fab else { q.fab with mperPend := some 1 } := by
  obtain ⟨frame, period, flag, others, fab⟩ := mperWrite_valid (q.setFld Reg.XCH_CTL_WERR 0) valid
  have before : (q.setFld Reg.XCH_CTL_WERR 0).fld Reg.XCH_CTL_MPER = q.fld Reg.XCH_CTL_MPER :=
    fld_setFld_other _ _ _ _ (by decide) (by decide) (by decide) (by decide)
  have accepted : ((q.setFld Reg.XCH_CTL_WERR 0).mperWrite n.toNat).flag Reg.XCH_CTL_WERR = false :=
    (congrArg (· != 0) flag).trans (flag_werr_cleared q)
  have keeps : ∀ n : BitVec 4, (Reg.XCH_CTL == Reg.XCH_CTL_WERR.off && Reg.XCH_CTL_WERR.get (n.setWidth 32 &&& 0xFFFFFFFF) != 0) = false := by
    decide
  intro r
  have written : r = if q.fld Reg.XCH_CTL_WERR != 0 then ((q.setFld Reg.XCH_CTL_WERR 0).mperWrite n.toNat).raise Reg.XCH_CTL_WERR
      else (q.setFld Reg.XCH_CTL_WERR 0).mperWrite n.toNat :=
    (fieldPut_ctl up n).trans ((congrArg Prod.fst (writeXch_ctl n)).trans (tryWrite_accepted accepted (keeps n)))
  rw [written]
  rw [before] at fab
  generalize (q.setFld Reg.XCH_CTL_WERR 0).mperWrite n.toNat = w at frame period others fab
  have elsewhere : SameRegsBut [Reg.XCH_CTL] q w := fun o ho =>
    (others o ho).trans (rd_setFld_ne q Reg.XCH_CTL_WERR 0 (show o ≠ Reg.XCH_CTL by simpa using ho))
  split
  · refine ⟨?_, ?_, fun o ho => ?_, fab⟩
    · rw [frame]; rfl
    · rw [Quad.raise, fld_setFld_other _ _ _ _ (by decide) (by decide) (by decide) (by decide), period]
    · exact (rd_setFld_ne w Reg.XCH_CTL_WERR 1 (show o ≠ Reg.XCH_CTL by simpa using ho)).trans (elsewhere o ho)
  · refine ⟨?_, period, elsewhere, fab⟩
    rw [frame]
    rfl

end

theorem meterPeriodWrite_answers {s : State} {iq : QId} (up : (s.quad iq).up) (mper : BitVec 4) (valid : mper.toNat ≤ 12) :
    Answers (.meterPeriodWrite iq mper) s iq fun r => r.fld Reg.XCH_CTL_MPER = mper.toNat ∧ SameRegsBut [Reg.XCH_CTL] (s.quad iq) r ∧
      SameBytes (s.quad iq) r ∧ r = { s.quad iq with fab := r.fab, regs := r.regs, mem := r.mem } ∧
      r.fab = (if (s.quad iq).fld Reg.XCH_CTL_MPER = mper.toNat then (s.quad iq).fab else { (s.quad iq).fab with mperPend := some 1 }) := by
  refine answers_onQ (f := fun q => q.fieldPut Reg.XCH_CTL_MPER mper.toNat) rfl ?_
  obtain ⟨frame, period, others, fab⟩ := fieldPut_mper up mper valid
  generalize (s.quad iq).fieldPut Reg.XCH_CTL_MPER mper.toNat = r at frame period others fab
  refine ⟨period, others, ?_, ?_, fab⟩
  · rw [frame]; exact commit_read _
  · rw [frame]; rfl

theorem meterPeriodEnd_answers {s : State} {iq : QId} (settled : (s.quad iq).fab.mperPend = none) (some : (s.quad iq).fab.accTicks ≠ 0)
    (due : (s.quad iq).tick.toNat % 2 ^ (s.quad iq).fld Reg.XCH_CTL_MPER = 0) : Answers (.meterPeriodEnd iq) s iq fun r =>
      SameBytes (s.quad iq) r ∧
        r = { s.quad iq with
          fab := { (s.quad iq).fab with last := (s.quad iq).fab.acc, acc := [], accTicks := 0, ended := true }
          hp := { (s.quad iq).hp with mgen := (s.quad iq).hp.mgen + 1 }
          mem := r.mem } := by
  refine answers_onQ (f := fun q => q.meterPeriodEnd) rfl ?_
  have ended : (s.quad iq).meterEnd =
      (s.quad iq).mapFab fun f => { f with last := f.acc, acc := [], accTicks := 0, ended := true } :=
    if_neg (by simp [settled, some, due])
  rw [Quad.meterPeriodEnd, ended]
  dsimp only
  rw [if_pos ⟨some, rfl⟩]
  exact ⟨commit_read _, rfl⟩

end Sys2Proof.Machine.Proofs

/-! Writes to the route table (R221 to R224, R232): the roles of its bytes, the beats that a write is cut into, and the beats that waited. -/

namespace Sys2Proof.Machine.Proofs
open Laws

/-! ### Roles (R232) -/

/-- The route table. -/
abbrev InTable (a : Nat) : Prop := 0x21000000 ≤ a ∧ a < 0x21080000

theorem touchesEntry_table {q : Quad} {a : Nat} (h : InTable a) : q.touchesEntry a = false := by
  have below : ¬(0x23000000 ≤ a ∧ a < 0x23010000 ∧ 4 ≤ a % 16) := by omega
  simp [Quad.touchesEntry, below]

section
variable {q r : Quad} (kln : r.kln = q.kln) (map : r.rd Reg.QCTL_CTL = q.rd Reg.QCTL_CTL)
  (outside : ∀ x, ¬InTable x → r.mem.read x = q.mem.read x) (poisoned : ∀ x, 0x22000000 ≤ x → r.poisoned x 4 = q.poisoned x 4)
include outside

theorem readLE_objAddr {k n : Nat} (t : Nat) : r.mem.readLE (objAddr t + k) n = q.mem.readLE (objAddr t + k) n :=
  readLE_congr fun x lower _ => outside x (by unfold objAddr at lower; omega)

include poisoned in
theorem objShape_congr (t : Nat) : r.objShape t = q.objShape t := by
  have word : r.mem.readLE (taskAddr t + 4 * 0) 4 = q.mem.readLE (taskAddr t + 4 * 0) 4 :=
    readLE_congr fun x lower _ => outside x (by unfold taskAddr at lower; omega)
  have mark : r.poisoned (taskAddr t + 4 * 0) 4 = q.poisoned (taskAddr t + 4 * 0) 4 := poisoned _ (by unfold taskAddr; omega)
  simp only [Quad.objShape, Quad.tHpn, Quad.tf, word, mark, readLE_objAddr outside]

include kln poisoned in
theorem liveObjs_congr : r.liveObjs = q.liveObjs := by
  simp only [Quad.liveObjs, kln, objShape_congr outside poisoned]

variable {a : Nat} (entry : ∀ x, x / 16 = a / 16 → r.mem.read x = q.mem.read x)

omit outside in
include entry in
theorem rt_congr {i : Nat} (same : routeAddr i / 16 = a / 16) (hi lo : Nat) : r.rt i hi lo = q.rt i hi lo := by
  have word : r.mem.readLE (routeAddr i) 16 = q.mem.readLE (routeAddr i) 16 :=
    readLE_congr fun x lower upper => entry x (by unfold routeAddr at *; omega)
  rw [Quad.rt, word, Quad.rt]

include kln poisoned entry in
theorem objsAt_congr : r.objsAt a = q.objsAt a := by
  unfold Quad.objsAt
  by_cases table : InTable a
  · have fade : r.rFade ((a - 0x21000000) / 16) = q.rFade ((a - 0x21000000) / 16) := by
      rw [Quad.rFade, rt_congr entry (by unfold routeAddr; omega), Quad.rFade]
    simp only [fade, liveObjs_congr kln outside poisoned]
  · have away {P : Prop} : ¬(0x21000000 ≤ a ∧ a < 0x21080000 ∧ P) := fun h => table ⟨h.1, h.2.1⟩
    rw [if_neg away, if_neg away, liveObjs_congr kln outside poisoned]

include map in
theorem inBank_congr (o : Obj) (bank : Bool) : r.inBank o bank a = q.inBank o bank a := by
  have remap : r.remap = q.remap := congrArg (fun w => Reg.QCTL_CTL_REMAP.get w != 0) map
  have phys (x : Nat) : r.phys x = q.phys x := by rw [Quad.phys, remap, Quad.phys]
  simp only [Quad.inBank, phys, readLE_objAddr outside]

/-- ACT and FADE of an object with a byte at an address are those of its task object or of the entry at the address. -/
theorem objState_congr {o : Obj} {bank : Bool} (holds : q.inBank o bank a = true) (entry : ∀ x, x / 16 = a / 16 → r.mem.read x = q.mem.read x) :
    r.objAct o = q.objAct o ∧ r.objFade o = q.objFade o := by
  have first : r.mem.readLE (objAddr o.index) 4 = q.mem.readLE (objAddr o.index) 4 := readLE_objAddr outside (k := 0) _
  cases kind : o.kind with
  | true => simp only [Quad.objAct, Quad.objFade, kind, first, if_true, and_self]
  | false =>
    have base : routeAddr o.index ≤ a ∧ a < routeAddr o.index + 16 := by
      simp only [Quad.inBank, kind, Bool.false_eq_true, if_false, Bool.and_eq_true, decide_eq_true_eq] at holds
      exact holds.1
    have same : routeAddr o.index / 16 = a / 16 := by unfold routeAddr at *; omega
    simp only [Quad.objAct, Quad.objFade, kind, Bool.false_eq_true, if_false, Quad.rAct, Quad.rFade, rt_congr entry same, and_self]

include kln map poisoned entry in
/-- The role of a byte is decided by Kiln, by memory outside the route table, and by the entry at the byte. -/
theorem role_congr : r.role a = q.role a := by
  have state (o : Obj) : (∀ bank, q.inBank o bank a = false) ∨ r.objAct o = q.objAct o ∧ r.objFade o = q.objFade o := by
    by_cases holds : ∃ bank, q.inBank o bank a = true
    · obtain ⟨bank, holds⟩ := holds
      exact .inr (objState_congr outside holds entry)
    · exact .inl fun bank => Bool.eq_false_iff.mpr fun h => holds ⟨bank, h⟩
  have sealed : (fun o => r.inBank o (!r.objAct o) a) = fun o => q.inBank o (!q.objAct o) a := by
    funext o
    rw [inBank_congr map outside]
    obtain none | ⟨act, -⟩ := state o
    · rw [none, none]
    · rw [act]
  have outgoing : (fun o => r.objFade o && r.inBank o (r.objAct o) a) = fun o => q.objFade o && q.inBank o (q.objAct o) a := by
    funext o
    rw [inBank_congr map outside]
    obtain none | ⟨act, fade⟩ := state o
    · rw [none, none, Bool.and_false, Bool.and_false]
    · rw [act, fade]
  unfold Quad.role
  rw [objsAt_congr kln outside poisoned entry, sealed, outgoing]

end

/-! ### Bytes put into entries (R207, R221) -/

/-- A quadrant is another but for bytes of the route table that were written, and for what its load is noted in. -/
structure TableWritten (l : List (Nat × Byte)) (q r : Quad) : Prop where
  cores : r.cores = q.cores
  fab : r.fab = q.fab
  kln : r.kln = q.kln
  mode : r.mode = q.mode
  regs : SameRegsBut [Reg.RTE_LOADPK, Reg.RTE_STAT] q r
  wf : q.mem.wf → r.mem.wf
  poisoned : ∀ a, 0x22000000 ≤ a → r.poisoned a 4 = q.poisoned a 4
  other : ∀ a, (∀ x ∈ l, x.1 ≠ a) → r.mem.read a = q.mem.read a
  listed : q.mem.wf → ∀ x ∈ l, x.1 % 16 < 14 → r.mem.read x.1 = x.2

/-- No two different bytes for one address. -/
def OneByteEach (l : List (Nat × Byte)) : Prop := ∀ x ∈ l, ∀ y ∈ l, x.1 = y.1 → x.2 = y.2

namespace TableWritten
variable {l l' k : List (Nat × Byte)} {q r t : Quad}

theorem refl (q : Quad) : TableWritten [] q q := ⟨rfl, rfl, rfl, rfl, fun _ _ => rfl, id, fun _ _ => rfl, fun _ _ => rfl, nofun⟩

/-- Writes one after the other that agree where they meet. -/
theorem append (h : TableWritten l q r) (h' : TableWritten l' r t) (whole : ∀ x, x ∈ k ↔ x ∈ l ∨ x ∈ l') (agree : OneByteEach k) :
    TableWritten k q t where
  cores := h'.cores.trans h.cores
  fab := h'.fab.trans h.fab
  kln := h'.kln.trans h.kln
  mode := h'.mode.trans h.mode
  regs o ho := (h'.regs o ho).trans (h.regs o ho)
  wf := h'.wf ∘ h.wf
  poisoned a ha := (h'.poisoned a ha).trans (h.poisoned a ha)
  other a ha := (h'.other a fun x hx => ha x ((whole x).mpr (.inr hx))).trans (h.other a fun x hx => ha x ((whole x).mpr (.inl hx)))
  listed wf x hx low := by
    by_cases later : ∃ y ∈ l', y.1 = x.1
    · obtain ⟨y, hy, same⟩ := later
      rw [← same, h'.listed (h.wf wf) y hy (same ▸ low)]
      exact agree y ((whole y).mpr (.inr hy)) x hx same
    · have first : x ∈ l := ((whole x).mp hx).resolve_right fun h => later ⟨x, h, rfl⟩
      rw [h'.other x.1 fun y hy same => later ⟨y, hy, same⟩, h.listed wf x first low]

end TableWritten

theorem tableWritten_noteLoad (q : Quad) : TableWritten [] q q.noteLoad := by
  have regs : SameRegsBut [Reg.RTE_LOADPK, Reg.RTE_STAT] q q.noteLoad := fun o ho => by
    simp only [List.mem_cons, List.not_mem_nil, or_false, not_or] at ho
    have noted : (q.setFld Reg.RTE_LOADPK_LOAD (max (q.fld Reg.RTE_LOADPK_LOAD) q.rteLoad)).rd o = q.rd o := rd_setFld_ne q _ _ ho.1
    unfold Quad.noteLoad
    dsimp only
    split
    · exact (rd_setFld_ne _ Reg.RTE_STAT_OVLDS 1 ho.2).trans noted
    · exact noted
  rw [noteLoad_frame] at regs ⊢
  exact ⟨rfl, rfl, rfl, rfl, regs, id, fun _ _ => rfl, fun _ _ => rfl, nofun⟩

/-- One byte put into an entry: the bits that a write may set, all of them below byte 14. -/
theorem routeBytes_cons (q : Quad) (keep : Bool) (b : Nat × Byte) (l : List (Nat × Byte)) :
    ∃ v : Byte, q.routeBytes keep (b :: l) = ({ q with mem := q.mem.write b.1 v } : Quad).routeBytes keep l ∧ (b.1 % 16 < 14 → v = b.2) := by
  refine ⟨_, rfl, fun low => ?_⟩
  have mask (keep : Bool) : routeMask (b.1 % 16) keep = 0xFF := by
    unfold routeMask
    rw [if_neg (by omega), if_neg (by omega)]
  rw [mask]
  have all (old new : Byte) : old &&& ~~~0xFF ||| new &&& 0xFF = new := by
    rw [show (~~~0xFF : Byte) = 0#8 by decide, BitVec.and_zero, BitVec.zero_or]
    exact BitVec.and_allOnes
  exact all _ _

/-- A byte written to memory of the table. -/
theorem tableWritten_byte (q : Quad) {b : Nat × Byte} {v : Byte} (same : b.1 % 16 < 14 → v = b.2) :
    TableWritten [b] q { q with mem := q.mem.write b.1 v } where
  cores := rfl
  fab := rfl
  kln := rfl
  mode := rfl
  regs _ _ := rfl
  wf h := wf_write _ h _ _
  poisoned _ _ := rfl
  other a ha := read_write_ne _ _ (Ne.symm (ha b (.head _)))
  listed wf x hx low := by
    obtain rfl := List.mem_singleton.mp hx
    exact (read_write_self _ wf _ _).trans (same low)

theorem tableWritten_routeBytes (q : Quad) (keep : Bool) (l : List (Nat × Byte)) (agree : OneByteEach l) :
    TableWritten l q (q.routeBytes keep l) := by
  induction l generalizing q with
  | nil => exact .refl q
  | cons b l ih =>
    obtain ⟨v, eq, same⟩ := routeBytes_cons q keep b l
    rw [eq]
    exact (tableWritten_byte q same).append (ih _ fun x hx y hy => agree x (.tail _ hx) y (.tail _ hy)) (by simp) agree

/-- A run of bytes ends with one of the bytes. -/
theorem gather_ends {l : List (Nat × Byte)} {run : Nat × List Byte} (h : run ∈ gather l) : ∃ x ∈ l, run.1 + run.2.length = x.1 + 1 := by
  induction l generalizing run with
  | nil => cases h
  | cons b t ih =>
    obtain ⟨a, v⟩ := b
    have later {run : Nat × List Byte} (h : run ∈ gather t) : ∃ x ∈ (a, v) :: t, run.1 + run.2.length = x.1 + 1 := by
      obtain ⟨x, hx, ends⟩ := ih h
      exact ⟨x, .tail _ hx, ends⟩
    unfold gather at h
    split at h
    · next a' bs rest eq =>
      split at h
      · next joined =>
        obtain rfl | h := List.mem_cons.mp h
        · obtain ⟨x, hx, ends⟩ := later (eq ▸ List.mem_cons_self : (a', bs) ∈ gather t)
          exact ⟨x, hx, by simp only [List.length_cons] at *; omega⟩
        · exact later (eq ▸ .tail _ h)
      · obtain rfl | h := List.mem_cons.mp h
        · exact ⟨_, .head _, rfl⟩
        · exact later (eq ▸ h)
    · obtain rfl := List.mem_singleton.mp h
      exact ⟨_, .head _, rfl⟩

/-- Marks removed below an address touch no word there. -/
theorem poisoned_eccClear (q : Quad) {a n x : Nat} (below : a + n ≤ x) :
    ({ q with ecc := eccClear q.ecc a n } : Quad).poisoned x 4 = q.poisoned x 4 := by
  unfold Quad.poisoned eccClear
  rw [List.any_filter]
  congr 1
  funext e
  by_cases touches : e.1 < x + 4 ∧ x < e.1 + eccLen e.1
  · have stays : ¬(a ≤ e.1 ∧ e.1 + eccLen e.1 ≤ a + n) := by omega
    simp [stays]
  · simp [touches]

theorem tableWritten_routeClean (q : Quad) {l : List (Nat × Byte)} (table : ∀ x ∈ l, InTable x.1) : TableWritten [] q (q.routeClean l) := by
  have runs (runs : List (Nat × List Byte)) (below : ∀ run ∈ runs, run.1 + run.2.length ≤ 0x22000000) (q : Quad) :
      TableWritten [] q (runs.foldl (fun q r => { q with ecc := eccClear q.ecc r.1 r.2.length }) q) := by
    induction runs generalizing q with
    | nil => exact .refl q
    | cons run runs ih =>
      obtain ⟨head, below⟩ := List.forall_mem_cons.mp below
      have cleared : TableWritten [] q { q with ecc := eccClear q.ecc run.1 run.2.length } :=
        { TableWritten.refl q with poisoned := fun a ha => poisoned_eccClear q (Nat.le_trans head ha) }
      exact cleared.append (ih below _) (by simp) nofun
  refine runs (gather l) (fun run hrun => ?_) q
  obtain ⟨x, hx, ends⟩ := gather_ends hrun
  have := (table x hx).2
  omega

end Sys2Proof.Machine.Proofs

/-! Beats to the route table (R221, R222, R224): those of a write in STANDBY or SERVICE, and those that waited. -/

namespace Sys2Proof.Machine.Proofs
open Laws

/-- The waiting list of the direct-write buffer is empty and the buffer is not in use, and Kiln has room (R221, R234). -/
structure TableOpen (q : Quad) : Prop where
  unbuffered : q.buffered = false
  idle : q.fab.dwWait = []
  room : q.kln.hold.length ≤ 4096

theorem TableWritten.isOpen {l : List (Nat × Byte)} {q r : Quad} (h : TableWritten l q r) (isOpen : TableOpen q) : TableOpen r where
  unbuffered := by rw [Quad.buffered, h.mode]; exact isOpen.unbuffered
  idle := h.fab ▸ isOpen.idle
  room := h.kln ▸ isOpen.room

/-- What is written to the table decides nothing about the role of a byte of another entry. -/
theorem TableWritten.role {l : List (Nat × Byte)} {q r : Quad} (h : TableWritten l q r) (table : ∀ x ∈ l, InTable x.1) {a : Nat}
    (apart : ∀ x ∈ l, x.1 / 16 ≠ a / 16) : r.role a = q.role a :=
  role_congr h.kln (h.regs _ (by decide)) (fun x hx => h.other x fun y hy same => hx (same ▸ table y hy)) h.poisoned
    fun x hx => h.other x fun y hy same => apart y hy (same ▸ hx)

/-- A beat in STANDBY or SERVICE that Kiln lets through is put into its entry at once. -/
theorem routePlace_written {q : Quad} (isOpen : TableOpen q) (b : Beat) (table : ∀ x ∈ b.bytes, InTable x.1) (agree : OneByteEach b.bytes)
    (plain : ∀ x ∈ b.bytes, q.role x.1 = .plain) : TableWritten b.bytes q (q.routePlace b).1 := by
  obtain ⟨bytes, by_⟩ := b
  obtain ⟨unbuffered, idle, room⟩ := isOpen
  dsimp only at *
  have passes : q.kilnWrite bytes = (q, some bytes) := kilnWrite_unguarded (fun x hx => ⟨touchesEntry_table (table x hx), plain x hx⟩) room
  have noted := (tableWritten_noteLoad q).append (tableWritten_routeBytes q.noteLoad false bytes agree) (k := bytes) (by simp) agree
  have cleaned := noted.append (tableWritten_routeClean (q.noteLoad.routeBytes false bytes) table) (k := bytes) (by simp) agree
  have accepts : q.beatRoom = true := by rw [Quad.beatRoom, unbuffered]; rfl
  unfold Quad.routePlace
  dsimp only
  cases bytes with
  | nil => exact .refl q
  | cons x l =>
    rw [if_neg (by simp), idle, accepts, if_pos (by rfl), Quad.beatTake, passes]
    dsimp only
    rw [if_neg (by simp), unbuffered, if_neg Bool.false_ne_true]
    exact cleaned

/-- The beats of a write, by the entries that they belong to. -/
def putBeats (by_ : BeatBy) (all : List (Nat × Byte)) (entries : List Nat) (r : Quad × Nat) : Quad × Nat :=
  entries.foldl (fun r e =>
    let t := r.1.routePlace ⟨all.filter fun b => b.1 / 16 == e, by_⟩
    (t.1, worse r.2 t.2)) r

theorem putBeats_written (by_ : BeatBy) {all : List (Nat × Byte)} (table : ∀ x ∈ all, InTable x.1) (agree : OneByteEach all)
    (entries : List Nat) (distinct : entries.Nodup) (r : Quad × Nat) (isOpen : TableOpen r.1)
    (plain : ∀ x ∈ all, x.1 / 16 ∈ entries → r.1.role x.1 = .plain) :
    TableWritten (all.filter fun x => x.1 / 16 ∈ entries) r.1 (putBeats by_ all entries r).1 := by
  induction entries generalizing r with
  | nil => simpa [putBeats] using TableWritten.refl r.1
  | cons e entries ih =>
    obtain ⟨new, distinct⟩ := List.nodup_cons.mp distinct
    have mem {x : Nat × Byte} : x ∈ all.filter (fun b => b.1 / 16 == e) ↔ x ∈ all ∧ x.1 / 16 = e := by simp
    have beat := routePlace_written isOpen ⟨all.filter fun b => b.1 / 16 == e, by_⟩ (fun x hx => table x (mem.mp hx).1)
      (fun x hx y hy => agree x (mem.mp hx).1 y (mem.mp hy).1)
      fun x hx => plain x (mem.mp hx).1 ((mem.mp hx).2 ▸ List.mem_cons_self)
    have rest := ih distinct (_, worse r.2 (r.1.routePlace ⟨all.filter fun b => b.1 / 16 == e, by_⟩).2) (beat.isOpen isOpen)
      fun x hx listed => (beat.role (fun y hy => table y (mem.mp hy).1)
        fun y hy same => new ((mem.mp hy).2 ▸ same ▸ listed)).trans (plain x hx (.tail _ listed))
    refine beat.append rest (fun x => ?_) fun x hx y hy => agree x (List.mem_filter.mp hx).1 y (List.mem_filter.mp hy).1
    simp only [List.mem_filter, decide_eq_true_eq, beq_iff_eq, List.mem_cons]
    tauto

theorem nodup_eraseDups (l : List Nat) : l.eraseDups.Nodup := by
  induction h : l.length using Nat.strong_induction_on generalizing l with
  | _ n ih =>
    cases l with
    | nil => simp
    | cons a t =>
      have shorter : (t.filter fun b => !b == a).length < n := by
        have := List.length_filter_le (fun b => !b == a) t
        simp only [List.length_cons] at h
        omega
      rw [List.eraseDups_cons, List.nodup_cons]
      exact ⟨by simp, ih _ shorter _ rfl⟩

/-- A write to the table in STANDBY or SERVICE that Kiln lets through. -/
theorem routeWriteL_written {q : Quad} (isOpen : TableOpen q) (by_ : BeatBy) {all : List (Nat × Byte)} (table : ∀ x ∈ all, InTable x.1)
    (agree : OneByteEach all) (plain : ∀ x ∈ all, q.role x.1 = .plain) : TableWritten all q (q.routeWriteL by_ all).1 := by
  have written := putBeats_written by_ table agree (all.map fun b => b.1 / 16).eraseDups (nodup_eraseDups _) (q, St.done) isOpen
    fun x hx _ => plain x hx
  have whole : (all.filter fun x => x.1 / 16 ∈ (all.map fun b => b.1 / 16).eraseDups) = all :=
    List.filter_eq_self.mpr fun x hx => decide_eq_true (List.mem_eraseDups.mpr (List.mem_map_of_mem hx))
  rw [whole] at written
  exact written

theorem addressed_agree (a : Nat) (bytes : List Byte) : OneByteEach (addressed a bytes) := by
  intro x hx y hy same
  obtain ⟨j, hj, rfl⟩ := mem_addressed hx
  obtain ⟨k, hk, rfl⟩ := mem_addressed hy
  obtain rfl : j = k := Nat.add_left_cancel same
  rfl

theorem addressed_mem (a : Nat) {bytes : List Byte} {k : Nat} (hk : k < bytes.length) : (a + k, bytes.getD k 0) ∈ addressed a bytes :=
  List.mem_map.mpr ⟨k, List.mem_range.mpr hk, rfl⟩

theorem unbuffered_of_mode {q : Quad} (mode : q.mode = .standby ∨ q.mode = .service) : q.buffered = false := by
  rw [Quad.buffered]
  obtain mode | mode := mode <;> rw [mode] <;> rfl

/-- In STANDBY and SERVICE a write to the table goes to its entries, whoever makes it. -/
theorem tableBytes_atOnce {q : Quad} (mode : q.mode = .standby ∨ q.mode = .service) (w : Writer) (offset : Nat) (data : List Byte) :
    ∃ by_, q.tableBytes w offset data = (q.routeWriteL by_ (addressed (0x21000000 + offset) (data.take (0x80000 - offset)))).1 := by
  have up : (q.mode == .scour || q.mode == .halt) = false := by
    obtain mode | mode := mode <;> rw [mode] <;> rfl
  unfold Quad.tableBytes
  dsimp only
  rw [up, if_neg Bool.false_ne_true, unbuffered_of_mode mode, Bool.and_false, Bool.false_and, Bool.false_and, if_neg Bool.false_ne_true]
  exact ⟨_, rfl⟩

theorem routeTableWrite_answers {s : State} {iq : QId} (w : Writer) (offset : BitVec 19) (data : List Byte)
    (mode : (s.quad iq).mode = .standby ∨ (s.quad iq).mode = .service) (idle : (s.quad iq).fab.dwWait = [])
    (room : (s.quad iq).kln.hold.length ≤ 4096) (memWf : s.memWf)
    (plain : ∀ k, k < data.length → (s.quad iq).role (0x21000000 + offset.toNat + k) = .plain) :
    Answers (.routeTableWrite iq w offset data) s iq fun r =>
      (∀ k, k < data.length → offset.toNat + k < 0x80000 → (offset.toNat + k) % 16 < 14 →
        r.mem.read (0x21000000 + offset.toNat + k) = data.getD k 0) ∧
      SameBytesBut (0x21000000 + offset.toNat) data.length (s.quad iq) r ∧
      SameRegsBut [Reg.RTE_LOADPK, Reg.RTE_STAT] (s.quad iq) r ∧ r.cores = (s.quad iq).cores ∧ r.fab = (s.quad iq).fab := by
  have isOpen : TableOpen (s.quad iq) := ⟨unbuffered_of_mode mode, idle, room⟩
  have inside : ∀ x ∈ addressed (0x21000000 + offset.toNat) (data.take (0x80000 - offset.toNat)),
      InTable x.1 ∧ ∃ k, k < data.length ∧ x.1 = 0x21000000 + offset.toNat + k := by
    intro x hx
    obtain ⟨j, hj, rfl⟩ := mem_addressed hx
    have := offset.isLt
    rw [List.length_take] at hj
    exact ⟨by constructor <;> dsimp only <;> omega, j, by omega, rfl⟩
  refine answers_onQ (f := fun q => q.tableBytes w offset.toNat data) rfl ?_
  obtain ⟨by_, eq⟩ := tableBytes_atOnce mode w offset.toNat data
  rw [eq]
  obtain ⟨cores, fab, -, -, regs, -, -, other, listed⟩ := routeWriteL_written isOpen by_ (fun x hx => (inside x hx).1)
    (addressed_agree (0x21000000 + offset.toNat) (data.take (0x80000 - offset.toNat))) fun x hx => by
      obtain ⟨-, k, hk, at_⟩ := inside x hx
      rw [at_, plain k hk]
  refine ⟨fun k hk low mod => ?_, fun x hx => ?_, regs, cores, fab⟩
  · have short : k < (data.take (0x80000 - offset.toNat)).length := by rw [List.length_take]; omega
    have byte : (data.take (0x80000 - offset.toNat)).getD k 0 = data.getD k 0 := by
      simp only [List.getD_eq_getElem?_getD]
      rw [List.getElem?_take_of_lt (by omega)]
    rw [commit_read, ← byte]
    exact listed (memWf.1 iq) _ (addressed_mem _ short) (by dsimp only; omega)
  · rw [commit_read]
    refine other x fun y hy same => ?_
    obtain ⟨-, k, hk, at_⟩ := inside y hy
    omega

/-! ### Beats that waited (R224) -/

/-- The beats that wait take places of the direct-write buffer. -/
def withResumed (q : Quad) : Quad := { q with fab := { q.fab with dwq := q.fab.dwq ++ q.fab.dwWait, dwWait := [] } }

/-- A beat that Kiln lets through takes a place of the buffer. -/
theorem beatTake_buffered {q : Quad} {b : Beat} (buffered : q.buffered = true) (room : q.kln.hold.length ≤ 4096) (nonempty : b.bytes ≠ [])
    (bytes : ∀ x ∈ b.bytes, InTable x.1 ∧ q.role x.1 = .plain) :
    q.beatTake b = (q.mapFab fun f => { f with dwq := f.dwq ++ [b] }, St.done) := by
  have passes : q.kilnWrite b.bytes = (q, some b.bytes) :=
    kilnWrite_unguarded (fun x hx => ⟨touchesEntry_table (bytes x hx).1, (bytes x hx).2⟩) room
  unfold Quad.beatTake
  rw [passes]
  dsimp only
  rw [if_neg (by simpa using nonempty), if_pos buffered]

/-- Roles do not depend on the fabric's records. -/
theorem role_mapFab (q : Quad) (f : Fabric → Fabric) (a : Nat) : (q.mapFab f).role a = q.role a :=
  role_congr rfl rfl (fun _ _ => rfl) (fun _ _ => rfl) fun _ _ => rfl

/-- Beats that Kiln lets through, and that the buffer has places for, take them in their order. -/
theorem resumeDirect_all {q : Quad} {l : List Beat} (buffered : q.buffered = true) (waiting : q.fab.dwWait = l)
    (places : l.length ≤ 1024 - q.fab.dwq.length) (room : q.kln.hold.length ≤ 4096)
    (beats : ∀ b ∈ l, b.bytes ≠ [] ∧ ∀ x ∈ b.bytes, InTable x.1 ∧ q.role x.1 = .plain) :
    q.resumeDirect l.length = (withResumed q, []) := by
  induction l generalizing q with
  | nil =>
    have same : withResumed q = q := by
      have fab : { q.fab with dwq := q.fab.dwq ++ q.fab.dwWait, dwWait := [] } = q.fab := by rw [waiting, List.append_nil, ← waiting]
      rw [withResumed, fab]
    rw [same]
    rfl
  | cons b l ih =>
    obtain ⟨⟨nonempty, bytes⟩, beats⟩ := List.forall_mem_cons.mp beats
    rw [List.length_cons] at places
    have accepts : q.beatRoom = true := by
      have place : q.fab.dwq.length < 1024 := by omega
      simp [Quad.beatRoom, place]
    have taken : (q.mapFab fun f => { f with dwWait := l }).beatTake b =
        ((q.mapFab fun f => { f with dwWait := l }).mapFab fun f => { f with dwq := f.dwq ++ [b] }, St.done) :=
      beatTake_buffered buffered room nonempty fun x hx => ⟨(bytes x hx).1, (role_mapFab ..).trans (bytes x hx).2⟩
    have rest := ih (q := (q.mapFab fun f => { f with dwWait := l }).mapFab fun f => { f with dwq := f.dwq ++ [b] }) buffered rfl
      (by simp only [Quad.mapFab, List.length_append, List.length_singleton]; omega) room
      fun b hb => ⟨(beats b hb).1, fun x hx => ⟨((beats b hb).2 x hx).1,
        (role_mapFab ..).trans ((role_mapFab ..).trans ((beats b hb).2 x hx).2)⟩⟩
    rw [List.length_cons, Quad.resumeDirect, waiting, accepts]
    dsimp only
    rw [if_neg (by simp), taken, rest, if_pos rfl]
    simp [withResumed, Quad.mapFab, waiting]

/-- Items without beats that wait are left alone. -/
theorem dmaTails_idle {q : Quad} (idle : ∀ i ∈ q.dma.items, i.tail = none) (bad : List Beat) : q.dmaTails bad = q := by
  unfold Quad.dmaTails
  generalize q.dma.items = items at idle
  induction items with
  | nil => rfl
  | cons i items ih =>
    obtain ⟨first, idle⟩ := List.forall_mem_cons.mp idle
    rw [List.foldl_cons, first]
    exact ih idle

theorem directWriteResume_answers {s : State} {iq : QId} (buffered : (s.quad iq).buffered = true)
    (places : (s.quad iq).fab.dwWait.length ≤ 1024 - (s.quad iq).fab.dwq.length) (room : (s.quad iq).kln.hold.length ≤ 4096)
    (beats : ∀ b ∈ (s.quad iq).fab.dwWait, b.bytes ≠ [] ∧
      ∀ x ∈ b.bytes, 0x21000000 ≤ x.1 ∧ x.1 < 0x21080000 ∧ (s.quad iq).role x.1 = .plain)
    (tails : ∀ i ∈ (s.quad iq).dma.items, i.tail = none) (write : (s.quad iq).hp.writeWait = none) (load : (s.quad iq).hp.load = none) :
    Answers (.directWriteResume iq) s iq fun r => SameBytes (s.quad iq) r ∧
      r = { s.quad iq with
        fab := { (s.quad iq).fab with dwq := (s.quad iq).fab.dwq ++ (s.quad iq).fab.dwWait, dwWait := [] }
        mem := r.mem } := by
  have resumed := resumeDirect_all buffered rfl places room fun b hb => ⟨(beats b hb).1, fun x hx => by
    obtain ⟨lower, upper, plain⟩ := (beats b hb).2 x hx
    exact ⟨⟨lower, upper⟩, plain⟩⟩
  have ended : (s.quad iq).directResume = withResumed (s.quad iq) := by
    have noTails : (withResumed (s.quad iq)).dmaTails [] = withResumed (s.quad iq) :=
      dmaTails_idle (q := withResumed (s.quad iq)) tails []
    have noHost : (withResumed (s.quad iq)).hostTail [] = withResumed (s.quad iq) := rfl
    have noLoad (n : Nat) : (withResumed (s.quad iq)).loadGo n = withResumed (s.quad iq) := by
      have load : (withResumed (s.quad iq)).hp.load = none := load
      cases n with
      | zero => rfl
      | succ n => rw [Quad.loadGo, load]
    have write : (withResumed (s.quad iq)).hp.writeWait = none := write
    have waits : (withResumed (s.quad iq)).waits .host = false := rfl
    unfold Quad.directResume
    rw [resumed]
    dsimp only
    rw [noTails, noHost, waits, if_neg Bool.false_ne_true, write]
    exact noLoad _
  refine answers_onQ (f := fun q => q.directResume) rfl ?_
  rw [ended]
  exact ⟨commit_read _, rfl⟩

end Sys2Proof.Machine.Proofs

/-! The other commands of the exchange memory and of the fabric. -/

namespace Sys2Proof.Machine.Proofs
open Laws

section
variable {s : State} {iq : QId} {x : Retry} (passed : (s.quad iq).fab.passed = true) (queue : (s.quad iq).fab.retry = [x])
  (clean : (s.quad iq).ecc = []) (time : (s.quad iq).fab.mainEnd + (x.run.map (s.quad iq).rCost).sum ≤ (s.quad iq).halfCycles)
  (agreed : (s.quad iq).runSums x.run = x.sums)
include passed queue clean time agreed

/-- The one vote of a tick, won by a sound datapath. -/
theorem fabricVote_won (usable : x.dst < slotLimit (s.quad iq).fi) (memWf : s.memWf) (sound : x.okA = true ∨ x.okB = true) (j : Fin 4) :
    Answers (.fabricVote iq) s iq fun r => r.fab.retry = [] ∧ r.fab.masks.get x.dst 0 = 15 ∧
      r.writeView x.dst j.val = extracted (x.sums.getD j.val 0).toInt ∧
      r.fld (if x.okB then Reg.RTE_VOTE_ALOSS else Reg.RTE_VOTE_BLOSS) =
        min ((s.quad iq).fld (if x.okB then Reg.RTE_VOTE_ALOSS else Reg.RTE_VOTE_BLOSS) + 1)
          (if x.okB then Reg.RTE_VOTE_ALOSS else Reg.RTE_VOTE_BLOSS).max := by
  refine fabricVote_one passed queue time ?_
  obtain ⟨mask, sample, counted⟩ := vote_won clean agreed (memWf.1 iq) usable sound j
  generalize (s.quad iq).vote x = r at mask sample counted
  exact ⟨rfl, mask, (commit_writeView ..).trans sample, counted⟩

/-- The one vote of a tick, without a majority. -/
theorem fabricVote_lost (okA : x.okA = false) (okB : x.okB = false) : Answers (.fabricVote iq) s iq fun r =>
    r.fab.retry = [] ∧ x.dst ∈ r.fab.unwritten ∧
      r.fld Reg.RTE_FAIL_NOVOTE = min ((s.quad iq).fld Reg.RTE_FAIL_NOVOTE + 1) Reg.RTE_FAIL_NOVOTE.max := by
  refine fabricVote_one passed queue time ?_
  obtain ⟨unwritten, counted⟩ := vote_lost clean agreed okA okB
  generalize (s.quad iq).vote x = r at unwritten counted
  exact ⟨rfl, unwritten, counted⟩

end

/-- Settles O34, command by command: a vote without memory errors sums its run again and agrees with the sound datapath, a beat that Kiln
lets through is put into its entry or takes its place in the buffer, and a block that accepts a write leaves the rest of its register. -/
theorem fabricCommands : Obligations.FabricCommands := by
  unfold Obligations.FabricCommands
  intro s iq slot v w offset data mper j q sn
  refine ⟨fabricVote_ends, fun x passed queue clean usable memWf time agreed => ⟨fun sound => ?_, fun okA okB => ?_⟩,
    xchOwnWrite_atOnce slot v, xchOwnWrite_pending slot v, routeTableWrite_answers w offset data, directWriteResume_answers,
    meterPeriodEnd_answers, fun up => meterPeriodWrite_answers up mper⟩
  · exact fabricVote_won passed queue clean time agreed usable memWf sound j
  · exact fabricVote_lost passed queue clean time agreed okA okB

end Sys2Proof.Machine.Proofs

/-! A PREPARE that comes too late reads a scene descriptor with an uncorrectable error mark while the fault ring stands over the task-object
table: the record of the error (R416, R472), which is written before Kiln's own, becomes the entry of a sealed object, whose outgoing bank
then lies at the Kiln ring, so Kiln's record goes to the hold store (R234). -/

namespace Sys2Proof.Machine.Proofs

/-- A prepared commit that names task object 0 (R236). -/
def sealingCommit : Prepared where
  id := 9
  scene := 3
  acc := 4314000
  t := 4315000
  len := 10
  objs := [⟨true, 0⟩]
  gen := some 0
  dom := false
  committed := false
  staged := false
  load := 0
  order := 0

/-- A quadrant in RUN with FLT_RG_BASE at the task-object table. Task object 0 is enabled, its blocks of one line each lie at 0x1000_0000
and 0x1000_0040, and a prepared commit names it; the descriptor of scene 1 has an uncorrectable mark. As BANK0, the number of the tick
spells the address of the Kiln ring, 0x1075_0000. -/
def sceneMarked : Quad :=
  { Quad.reset with
    regs := [(Reg.FLT_RG_BASE, 0x2300000)]
    mem := [(0x23000000, 1), (0x23000006, 0x40), (0x23000008, 1), (0x2300000A, 0x40), (0x2300000C, 1)]
    ecc := [(0x23010010, .uncorr)]
    mode := .run, rst := .past, running := true, tick := 0x41D400
    kln := { prepared := [sealingCommit], order := 1 } }

/-- The state whose quadrant 0 is `sceneMarked`. -/
def prepareAtRisk : State := { State.reset with dev := { State.reset.dev with q0 := sceneMarked } }

/-- Before the PREPARE nothing keeps Kiln's next record from its ring: both blocks of the object lie elsewhere. -/
theorem quietTo_klnRing_sceneMarked :
    sceneMarked.quietTo (sceneMarked.ringPlace Reg.KLN_RG_BASE_BASE Reg.KLN_RG_LEN_LOG2 Reg.KLN_RG_WP_WP) 16 := by
  unfold Quad.quietTo
  decide +kernel

/-- The fault record gives object 0 FADE by its class, 4, BANK0 by the tick and LINES by the address of the mark, so Kiln's record is held. -/
theorem prepare_holds_record {t : State} (h : exec (.prepare .q0 0 7 1 0) prepareAtRisk = .next t) : (t.quad .q0).kln.hold.length = 1 := by
  have e : onQ .q0 (fun q => Cmd.prepare q 0 7 1 0) prepareAtRisk = .next t := h
  rw [(Laws.onQ_next e).1]
  decide +kernel

/-- Refutes O35: a PREPARE answered NOT_READY does not always leave Kiln as it was, though its ring was free to write as the command came. -/
theorem not_timedCommits : ¬ Obligations.TimedCommits := by
  intro h
  obtain ⟨commands, -⟩ := h
  obtain ⟨-, notReady, -⟩ := commands prepareAtRisk .q0 0 7 1 0 (by decide +kernel) (by decide +kernel) (by decide)
  obtain ⟨t, ht, -, unchanged, -⟩ := notReady (by decide +kernel)
  have kept : (t.quad .q0).kln = sceneMarked.kln := unchanged quietTo_klnRing_sceneMarked
  have held := prepare_holds_record ht
  rw [kept] at held
  exact absurd held (by decide)

end Sys2Proof.Machine.Proofs

/-! HPN_VERIFY of a schedule whose first enabled entry names a task that is not valid (R260): beside code 0x01 and the entry, HPN_VERR gives the
task's ENTRY as ADDR, where the statement has zero. -/

namespace Sys2Proof.Machine.Proofs
open Laws

/-- The failure of an entry whose descriptor lacks VALID has ENTRY as its address, whatever program memory holds. -/
theorem verifyEntry_of_invalid {q : Quad} {n : Nat} (code : Nat → W64) (written : Nat) (invalid : q.tValid (q.fld (Reg.HPN_SCH_TASK n)) = false) :
    q.verifyEntry code written n = (some (verrWord 1 n (q.tEntry (q.fld (Reg.HPN_SCH_TASK n)))), {}) :=
  if_pos (by simp [invalid])

/-- The verifier records that failure where it is the first enabled entry's. -/
theorem verr_hpnVerify_of_invalid {q : Quad} {c : Fin 17} {n : Nat} {rest : List Nat} (holder : q.coreAt 0 = some c)
    (state : q.hpn.state = .verify) (pending : q.hpn.verified = none) (due : q.hpn.since + 1 ≤ q.tick) (entries : q.hpnEntries = n :: rest)
    (invalid : q.tValid (q.fld (Reg.HPN_SCH_TASK n)) = false) :
    q.hpnVerify.hpn.verr = verrWord 1 n (q.tEntry (q.fld (Reg.HPN_SCH_TASK n))) := by
  have started : ¬q.tick < q.hpn.since + 1 := BitVec.not_lt.mpr due
  simp only [Quad.hpnVerify, state, pending, holder, entries, Quad.verifyEntries, verifyEntry_of_invalid _ _ invalid]
  rw [if_neg started]

/-- A quadrant in STANDBY with Hardpan in VERIFY since the tick before. Entry 0 of the schedule is enabled and names task 6, whose descriptor,
at 0x2200_00C0, has ENTRY 5 and lacks VALID. -/
def invalidScheduled : Quad :=
  { Quad.reset with
    regs := [(Reg.QCTL_RST_CAUSE, 1), (Reg.HPN_SCH 0, 0x1006)]
    mem := [(0x220000C0, 5)]
    mode := .standby, rst := .past, running := true, tick := 1000
    hpn := { state := .verify, since := 999 } }

/-- The state whose quadrant 0 is `invalidScheduled`. -/
def verifyAtRisk : State := { State.reset with dev := { State.reset.dev with q0 := invalidScheduled } }

theorem holder_invalidScheduled : invalidScheduled.coreAt 0 = some 0 := by decide +kernel

theorem entries_invalidScheduled : invalidScheduled.hpnEntries = [0] := by decide +kernel

theorem task_invalidScheduled : invalidScheduled.tValid (invalidScheduled.fld (Reg.HPN_SCH_TASK 0)) = false ∧
    invalidScheduled.tEntry (invalidScheduled.fld (Reg.HPN_SCH_TASK 0)) = 5 := by decide +kernel

/-- CODE is 0x01, ENTRYN 0 and ADDR 5. -/
theorem verr_of_verifyAtRisk {t : State} (h : exec (.hpnVerify .q0) verifyAtRisk = .next t) : (t.quad .q0).hpn.verr = w32 (1 + 8192 * 5) := by
  obtain ⟨invalid, entry⟩ := task_invalidScheduled
  have verr := verr_hpnVerify_of_invalid holder_invalidScheduled rfl rfl (by decide) entries_invalidScheduled invalid
  rw [entry] at verr
  rw [(onQ_next h).1]
  exact verr

/-- Refutes O36: HPN_VERR of an entry whose task is not valid holds more than CODE and ENTRYN; its ADDR is the task's ENTRY. -/
theorem not_hardpanLife : ¬ Obligations.HardpanLife := by
  intro h
  obtain ⟨-, verification⟩ := h
  obtain ⟨invalid, -⟩ := task_invalidScheduled
  obtain ⟨-, scheduled⟩ := verification verifyAtRisk .q0 0 0 [] 0 0 holder_invalidScheduled rfl rfl (by decide)
  obtain ⟨fails, -⟩ := scheduled entries_invalidScheduled
  obtain ⟨t, ht, -, recorded, -⟩ := fails (.inl invalid)
  have verr : (t.quad .q0).hpn.verr = w32 (1 + 256 * 0) := congrArg Hpn.verr recorded
  rw [verr_of_verifyAtRisk ht] at verr
  exact absurd verr (by decide)

end Sys2Proof.Machine.Proofs
